-- ==== Sys2Proof/Word.lean ====
section
/-! DEFINITION. Word types of the model and the plainest operations on them. -/
namespace Sys2Proof

/-- One byte (spec/00_scope.md R5). -/
abbrev Byte := BitVec 8
/-- A 16-bit field. -/
abbrev W16 := BitVec 16
/-- A 32-bit register. -/
abbrev W32 := BitVec 32
/-- A 64-bit register pair or address. -/
abbrev W64 := BitVec 64

/-- Ring index 0 to 63 (R284). -/
abbrev RingIx := Fin 64
/-- Tile number 0 to 9 (Table 1-1). -/
abbrev TileIx := Fin 10
/-- Xelin core 0 to 3 (R18). -/
abbrev CoreIx := Fin 4
/-- Fronthaul port 0 to 5 (Table 1-5). -/
abbrev PortIx := Fin 6
/-- Fronthaul stream 0 to 63 (R245). -/
abbrev StreamIx := Fin 64
/-- Swap group 0 to 15 (Table 10-2). -/
abbrev GroupIx := Fin 16

/-- Entry `i` of a bank replaced by `f` of itself. -/
def upd {α : Type} {n : Nat} (v : Vector α n) (i : Fin n) (f : α → α) : Vector α n :=
  v.set i.val (f v[i.val]) i.isLt

/-- Entry `i` of a bank written. -/
def put {α : Type} {n : Nat} (v : Vector α n) (i : Fin n) (x : α) : Vector α n :=
  v.set i.val x i.isLt

end Sys2Proof
end

