-- ==== Sys2Proof/Syntax.lean ====
section
/-! DEFINITION. The commands of the block: one constructor of `Instr` per row of spec/opcode_table.json, with the
operands the row's rule gives it. The block has no instruction words: a command is this term. -/
namespace Sys2Proof

/-- What a host unmask write names (R567): one MSI-X entry, or the function. -/
inductive UnmaskTarget where
  | entry (vector : Fin 128)
  | function
deriving DecidableEq, Repr

/-- Where a poisoned write was aimed (R547): a doorbell of a ring, or the memory window. -/
inductive PoisonTarget where
  | sqDoorbell (ring : RingIx)
  | cqDoorbell (ring : RingIx)
  | window
deriving DecidableEq, Repr

/-- The three resets of R543. -/
inductive ResetKind where
  | flr | hotReset | d3hot
deriving DecidableEq, Repr

/-- Configuration accesses of the host that the spec gives an effect (R395, R542, R567, Table 21-1). -/
inductive ConfigAccess where
  | read (offset : BitVec 12)
  | assignBars
  | msixControl (enable : Bool) (functionMask : Bool)
  | relaxedOrdering (enable : Bool)
  | powerD0
deriving DecidableEq, Repr

/-- A PTP message as the port delivers it (R224): the domain it names and, for the messages that feed the servo, the
filtered offset [ns] that the servo forms with it. -/
inductive PtpMessage where
  | announce (domain : Byte) (identity : W64) (rank : Nat)
  | sync (domain : Byte) (filteredOffset : Int)
  | followUp (domain : Byte) (filteredOffset : Int)
  | delayResp (domain : Byte) (filteredOffset : Int)
  | other
deriving DecidableEq, Repr

/-- Moments of one ADC pair over the symbols of a collector window in which no pass ran (R92): counts, sums, squares and the two
product sums. The pairs' moments over the symbols of passes come from the samples themselves. -/
structure PairMoments where
  pair : Fin 256
  n0 : Nat
  n1 : Nat
  s0 : Int
  s1 : Int
  q0 : Nat
  q1 : Nat
  pf : Int
  pp : Int
deriving DecidableEq, Repr

/-- What makes a heater control fault (R120). -/
inductive HeaterFault where
  | networkLost | underrun | tileFaulted
deriving DecidableEq, Repr

/-- The four conversions of one monitor channel in a round: the first two settle, the last two are averaged (R93). -/
structure Conversions where
  settle1 : BitVec 12
  settle2 : BitVec 12
  third   : BitVec 12
  fourth  : BitVec 12
deriving DecidableEq, Repr

/-- What the converters give beside the samples of passes in a collector window: the moments of the pairs, and the sums and sums of
squares of the corrected samples of streams (R92). -/
structure WindowRest where
  pairs   : List PairMoments
  streams : List (Fin 256 × Int × Nat)
deriving DecidableEq, Repr

/-- The conversions of a monitor round by channel, and those that the I and the Q half of a receiver give to channels 50 and 51
(R93, R98). -/
structure RoundConvs where
  chans : List (Fin 64 × Conversions)
  tia   : List (Fin 128 × Conversions × Conversions)
deriving DecidableEq, Repr

/-- The offset of a tile's lit stripe from its ring [pm] (R35). -/
structure LockOffset where
  tile : TileIx
  pm   : Int
deriving DecidableEq, Repr

/-- The latch of a phase shifter, of the active or the shadow set (R60). -/
structure LatchAt where
  active  : Bool
  shifter : Nat
deriving DecidableEq, Repr

/-- One code of a path test (R101): the sums of the 2,048 samples of each ADC half, and the code of channel 49. -/
structure PathPoint where
  sum0  : Int
  sum1  : Int
  chan49 : BitVec 12
deriving DecidableEq, Repr

/-- What the unit of a characterisation step has measured (Table 5-3, R143). -/
inductive CharData where
  /-- SEG_COL, SEG_D, SEG_PORT: per shifter its zero-drive phase and the weights of segments 0 to 12 in quarter-steps; the trim
  zones that were driven from code 0 to 4,095 without any phase movement in their group (Table 4-6) -/
  | weights (shifters : List (Nat × Nat × List Nat)) (still : List (Fin 128))
  /-- PORT_ALIGN: the codes of port shifters, input ports 0 to 127, then LO ports -/
  | ports (codes : List (Fin 256 × BitVec 10))
  /-- DAC_TABLE: drive levels by DAC and code magnitude, and whether a modulator or its DAC has failed (Table 3-10) -/
  | levels (dacs : List (Fin 256 × Fin 32 × BitVec 10)) (failed : Bool)
  /-- STREAM_CAL: per stream, with 10 fractional bits of an ADC LSB, the mean of the samples after step 3 under the all-zero
  vector, and their rise for one code step through an identity path -/
  | streams (ss : List (Fin 256 × Int × Nat))
  /-- GAIN_TRACE: the tap-to-port power scales -/
  | gains (gs : List (Fin 16 × W32))
  /-- LOSS_REF: the reference ratios in 1/256 dB -/
  | taps (rs : List (Fin 49 × W16))
  /-- PATH_TEST: the codes of this unit, in the order of R101 -/
  | path (points : List PathPoint)
  /-- COL_CHECK: the phase errors of the column's shifters at the identity code, in quarter-steps -/
  | identity (errors : List Int)
deriving DecidableEq, Repr

/-- A check of Table 15-4 that failed. -/
inductive SelfCheckFail where
  | madder
  | stack (k : Fin 6)
  | tile (t : TileIx)
  | kermes (die : Fin 2)
  | sepiaLane (l : Fin 16)
  | ioDie (k : Fin 3)
deriving DecidableEq, Repr

/-- One channel reading of a housekeeping round (R436, R438): its raw code and whether the converter reports open or short. -/
structure HkReading where
  chan : Fin 64
  raw  : W16
  open_ : Bool
deriving DecidableEq, Repr

/-- The head of a received Seliviuk frame (Table 18-3), and whether its CHECK equals the CRC-32C of the bytes before it. -/
structure RxHead where
  type    : Byte
  seq     : W32
  ackSeq  : W32
  checkOk : Bool
deriving DecidableEq, Repr

/-- A mirrored journal entry (Table 18-7): a command with the entries it staged, or a swap at its boundary. -/
inductive MirrorItem where
  | command (desc : List Byte) (entries : List Byte)
  | swap (group : GroupIx) (at_ : W64)
deriving DecidableEq, Repr

/-- An item of a resynchronisation (R467). -/
inductive ResyncItem where
  | entry (group : GroupIx) (shadow : Bool) (kind : Byte) (index : Nat) (bytes : List Byte)
  | state (group : GroupIx) (epoch : W32) (shadowState : BitVec 3) (members : BitVec 10)
  | journal (seq : W32)
deriving DecidableEq, Repr

/-- Source of a Xelin move (Table 20-1): a 19-bit immediate (IMM 1), or the 19 SRC bits of a port source (IMM 0). -/
inductive MoveSrc where
  | imm (value : BitVec 19)
  | port (bits : BitVec 19)
deriving DecidableEq, Repr

/-- The commands of the block. -/
inductive Instr where
  /-- SQ_DB (R296). -/
  | sqDb (ring : RingIx) (value : W32)
  /-- CQ_DB (R296). -/
  | cqDb (ring : RingIx) (value : W32)
  /-- DESCRIPTOR_FETCH (R297). -/
  | descriptorFetch (ring : RingIx)
  /-- FETCH_FAILURE (R309). -/
  | fetchFailure (ring : RingIx)
  /-- COMPLETION_WRITE_FAILURE (R309). -/
  | completionWriteFailure (ring : RingIx)
  /-- DESCRIPTOR_WATCHDOG (R301). -/
  | descriptorWatchdog (ring : RingIx) (id : Nat)
  /-- OCCUPANCY_SAMPLE (R300). -/
  | occupancySample
  /-- COALESCE_TIMEOUT (R303). -/
  | coalesceTimeout (ring : RingIx)
  /-- RING_CTRL_ENABLE (R555). -/
  | ringCtrlEnable
  /-- RING_CTRL_RESET (R555). -/
  | ringCtrlReset
  /-- COUNTER_CLEAR (R553). -/
  | counterClear (bits : W32)
  /-- SYMBOL_COUNT_LO_READ (R556). -/
  | symbolCountLoRead
  /-- HK_ROUND_WRITE (R436). -/
  | hkRoundWrite (value : W32)
  /-- TWIN_HB_TIMEOUT_WRITE (R562). -/
  | twinHbTimeoutWrite (value : W32)
  /-- TWIN_RELAY_DELAY_WRITE (R562). -/
  | twinRelayDelayWrite (value : W32)
  /-- MSIX_UNMASK (R567). -/
  | msixUnmask (target : UnmaskTarget)
  /-- REGISTER_WRITE (R548). -/
  | registerWrite (offset : BitVec 22) (size : Nat) (value : W64)
  /-- BAR4_READ (R546). -/
  | bar4Read (offset : W64) (length : Nat)
  /-- BAR4_WRITE (R546). -/
  | bar4Write (offset : W64) (data : List Byte)
  /-- POISONED_WRITE (R547). -/
  | poisonedWrite (target : PoisonTarget)
  /-- FUNCTION_LEVEL_RESET (R543). -/
  | functionLevelReset (kind : ResetKind)
  /-- PERST_ASSERT (R585). -/
  | perstAssert
  /-- CONFIGURATION_REQUEST (R395). -/
  | configurationRequest (access : ConfigAccess)
  /-- HOST_LINK_LOSS (R569). -/
  | hostLinkLoss
  /-- IDENTIFY (R317). -/
  | identify (ring : RingIx)
  /-- RING_CONFIG (R287). -/
  | ringConfig (ring : RingIx)
  /-- RING_RESET (R306). -/
  | ringReset (ring : RingIx)
  /-- RING_RESET_DONE (R306). -/
  | ringResetDone (ring : RingIx)
  /-- SET_OPEN (R268). -/
  | setOpen (ring : RingIx)
  /-- SET_STAGE (R319). -/
  | setStage (ring : RingIx)
  /-- SET_COMMIT (R268). -/
  | setCommit (ring : RingIx)
  /-- SET_DISCARD (R272). -/
  | setDiscard (ring : RingIx)
  /-- SET_SWAP (R273). -/
  | setSwap (ring : RingIx)
  /-- SET_READ (R318). -/
  | setRead (ring : RingIx)
  /-- SET_MEMBER (R265). -/
  | setMember (ring : RingIx)
  /-- DECOMPOSE (R320). -/
  | decompose (ring : RingIx)
  /-- IMAGE_READ (R321). -/
  | imageRead (ring : RingIx)
  /-- MODEL_CHECK (R321). -/
  | modelCheck (ring : RingIx)
  /-- MATMUL (R322). -/
  | matmul (ring : RingIx)
  /-- RESIDENT (R324). -/
  | resident (ring : RingIx)
  /-- REDUCE (R325). -/
  | reduce (ring : RingIx)
  /-- TREE (R326). -/
  | tree (ring : RingIx)
  /-- JOB_ABORT (R326). -/
  | jobAbort (ring : RingIx)
  /-- SLOT (R328). -/
  | slot (ring : RingIx)
  /-- EVENT_SET (R329). -/
  | eventSet (ring : RingIx)
  /-- EVENT_CANCEL (R330). -/
  | eventCancel (ring : RingIx)
  /-- GAP_DECLARE (R330). -/
  | gapDeclare (ring : RingIx)
  /-- TIME_CONFIG (R596). -/
  | timeConfig (ring : RingIx)
  /-- COEF_READ (R331). -/
  | coefRead (ring : RingIx)
  /-- RECORD_READ (R331). -/
  | recordRead (ring : RingIx)
  /-- CAL_TUNE (R331). -/
  | calTune (ring : RingIx)
  /-- CHAR_REQUEST (R331). -/
  | charRequest (ring : RingIx)
  /-- TILE_CONTROL (R332). -/
  | tileControl (ring : RingIx)
  /-- TILE_TRANSITION_DONE (R73). -/
  | tileTransitionDone (tile : TileIx)
  /-- POWER_STATE (R333). -/
  | powerState (ring : RingIx)
  /-- DEEP_ENTRY (R398). -/
  | deepEntry
  /-- POWER_CAP (R333). -/
  | powerCap (ring : RingIx)
  /-- TWIN_ROLE (R454). -/
  | twinRole (ring : RingIx)
  /-- HANDOVER (R474). -/
  | handover (ring : RingIx)
  /-- RELAY_CYCLE (R333). -/
  | relayCycle (ring : RingIx)
  /-- SENTINEL_RULE (R402). -/
  | sentinelRule (ring : RingIx)
  /-- FW_UPDATE (R429). -/
  | fwUpdate (ring : RingIx)
  /-- FW_ACTIVATE (R430). -/
  | fwActivate (ring : RingIx)
  /-- ARCHIVE_READ (R334). -/
  | archiveRead (ring : RingIx)
  /-- EXT_ENROLL (R336). -/
  | extEnroll (ring : RingIx)
  /-- EXT_LOAD (R510). -/
  | extLoad (ring : RingIx)
  /-- EXT_UNLOAD (R515). -/
  | extUnload (ring : RingIx)
  /-- EXTENSION_FORWARDED_COMMAND (R336). -/
  | extensionForwardedCommand (ring : RingIx)
  /-- DEBUG_CHALLENGE (R337). -/
  | debugChallenge (ring : RingIx)
  /-- DEBUG_UNLOCK (R337). -/
  | debugUnlock (ring : RingIx)
  /-- DEBUG_LOCK (R337). -/
  | debugLock (ring : RingIx)
  /-- ACC_READ (R192). -/
  | accRead (ring : RingIx)
  /-- ACC_WRITE (R192). -/
  | accWrite (ring : RingIx)
  /-- VEC_RAW (R337). -/
  | vecRaw (ring : RingIx)
  /-- COEF_WRITE (R337). -/
  | coefWrite (ring : RingIx)
  /-- ROOT_PLL_LOCK (R219). -/
  | rootPllLock
  /-- ROOT_PLL_UNLOCK (R219). -/
  | rootPllUnlock
  /-- CLOCK_FAULT (R223). -/
  | clockFault
  /-- WOAD_TRIM_COUNT (R222). -/
  | woadTrimCount (count : BitVec 17)
  /-- PTP_MESSAGE_RX (R224). -/
  | ptpMessageRx (port : PortIx) (msg : PtpMessage)
  /-- ANNOUNCE_RECEIPT_TIMEOUT (R228). -/
  | announceReceiptTimeout
  /-- SERVO_LOCKED (R228). -/
  | servoLocked
  /-- HOLDOVER_LIMIT_CROSSED (R231). -/
  | holdoverLimitCrossed
  /-- SYNCE_LOSS (R226). -/
  | synceLoss
  /-- TUNING_RANGE_LIMIT (R239). -/
  | tuningRangeLimit
  /-- PHASE_SLEW_END (R232). -/
  | phaseSlewEnd
  /-- EVENT_RADIO_SWAP (R273). -/
  | eventRadioSwap (cmp : Fin 64)
  /-- EVENT_TILE_SWAP (R274). -/
  | eventTileSwap (cmp : Fin 64)
  /-- EVENT_GAP_START (R330). -/
  | eventGapStart (cmp : Fin 64)
  /-- EVENT_GAP_END (R330). -/
  | eventGapEnd (cmp : Fin 64)
  /-- EVENT_NOTIFY (R236). -/
  | eventNotify (cmp : Fin 64)
  /-- UPLANE_MESSAGE_RX (R242). -/
  | uplaneMessageRx (port : PortIx) (frame : List Byte)
  /-- DELAY_MEASUREMENT_RX (R241). -/
  | delayMeasurementRx (port : PortIx) (frame : List Byte)
  /-- ESMC_MESSAGE_RX (R226). -/
  | esmcMessageRx (port : PortIx)
  /-- PORT_SIGNAL_LOSS (R262). -/
  | portSignalLoss (port : PortIx)
  /-- QSFP_MODULE_INSERT (R587). -/
  | qsfpModuleInsert (port : PortIx) (supported : Bool)
  /-- RX_CLOSE (R258). -/
  | rxClose (group : GroupIx) (slotNo : W64) (set : Nat)
  /-- DL_SET_START (R259). -/
  | dlSetStart (group : GroupIx) (slotNo : W64) (set : Nat)
  /-- TX_WINDOW_OPEN (R259). -/
  | txWindowOpen (group : GroupIx) (slotNo : W64) (sym : Fin 14)
  /-- CPLANE_TX (R256). -/
  | cplaneTx (group : GroupIx) (slotNo : W64)
  /-- LAYER_FETCH_DONE (R257). -/
  | layerFetchDone (group : GroupIx) (slotNo : W64)
  /-- RX_MISSING_HIGH (R262). -/
  | rxMissingHigh (group : GroupIx)
  /-- SEGMENT_DISPATCH (R347). -/
  | segmentDispatch (tile : TileIx) (job : Nat) (row : Nat) (col : Nat) (first : Nat) (count : Nat)
  /-- SEGMENT_END (R343). -/
  | segmentEnd (tile : TileIx)
  /-- SHADOW_LOAD_DONE (R64). -/
  | shadowLoadDone (tile : TileIx)
  /-- LATCH_PARITY_ERROR (R76). -/
  | latchParityError (tile : TileIx) (latch : LatchAt)
  /-- SEGMAP_RELOAD_TIMER (R76). -/
  | segmapReloadTimer (tile : TileIx)
  /-- SAMPLE_FOLD (R170). -/
  | sampleFold (tile : TileIx) (job : Nat) (row : Nat) (col : Nat) (pass : Nat) (raw : List (List Byte)) (odd : Bool)
  /-- JOB_OUTPUT_DONE (R187). -/
  | jobOutputDone (job : Nat)
  /-- CHAIN_RECEIVE (R180). -/
  | chainReceive (job : Nat)
  /-- ATOMIC_ADD (R181). -/
  | atomicAdd (addr : W64) (value : W32)
  /-- ATOMIC_ACK_TIMEOUT (R194). -/
  | atomicAckTimeout (stack : Fin 6)
  /-- SCRATCHPAD_ECC_ERROR (R194). -/
  | scratchpadEccError (die : Fin 2) (bank : Fin 64) (double : Bool) (job : Option Nat)
  /-- INTER_KERMES_LINK_ERROR (R194). -/
  | interKermesLinkError (job : Nat)
  /-- MEMORY_ECC_ERROR (R31). -/
  | memoryEccError (stack : Fin 6) (unit : Nat) (double : Bool) (offline : Bool) (job : Option Nat)
  /-- TREE_RECORD_ARRIVAL (R203). -/
  | treeRecordArrival (job : Nat)
  /-- SEPIA_WAVE_END (R203). -/
  | sepiaWaveEnd (job : Nat)
  /-- SEPIA_LANE_PARITY (R216): an error in a lane's buffers, or with no lane in the front-stage tables. -/
  | sepiaLaneParity (lane : Option (Fin 16)) (job : Option Nat)
  /-- SEPIA_KAT_TIMER (R216). -/
  | sepiaKatTimer (failing : BitVec 16)
  /-- LIGHT_LOSS_TRIP (R77). -/
  | lightLossTrip (tile : TileIx)
  /-- STRIPE_LOCK_ACQUIRED (R36). -/
  | stripeLockAcquired (lock : LockOffset)
  /-- STRIPE_LOCK_LOST (R35). -/
  | stripeLockLost (lock : LockOffset)
  /-- STRIPE_LOCK_TIMEOUT (R78). -/
  | stripeLockTimeout (tile : TileIx)
  /-- MAINT_RESTORE_DONE (R75). -/
  | maintRestoreDone (tile : TileIx)
  /-- COLLECTOR_WINDOW_CLOSE (R132). -/
  | collectorWindowClose (tile : TileIx) (rest : WindowRest)
  /-- MONITOR_ROUND_END (R94). -/
  | monitorRoundEnd (tile : TileIx) (convs : RoundConvs) (errors : List (Fin 16 × Int)) (meanSq : Nat)
  /-- HEATER_FRAME (R121). -/
  | heaterFrame (tile : TileIx) (activity : List (Fin 128 × Nat)) (writes : List (Fin 136 × BitVec 12))
  /-- HEATER_CONTROL_FAULT (R120). -/
  | heaterControlFault (tile : TileIx) (cause : HeaterFault)
  /-- HEATER_OVERCURRENT (R120). -/
  | heaterOvercurrent (tile : TileIx)
  /-- DRIFT_WINDOW_CLOSE (R139). -/
  | driftWindowClose (tile : TileIx)
  /-- ROUTINE_PASS_START (R142). -/
  | routinePassStart (tile : TileIx)
  /-- IDLE_GAP_OPEN (R144). -/
  | idleGapOpen (tile : TileIx)
  /-- CHAR_UNIT_END (R146). -/
  | charUnitEnd (tile : TileIx) (data : CharData) (lateNs : Nat)
  /-- CHAR_STARVED (R148). -/
  | charStarved (tile : TileIx)
  /-- RUNNING_SEAL_TIMER (R161). -/
  | runningSealTimer (tile : TileIx)
  /-- POWER_BUDGET_UPDATE (R356). -/
  | powerBudgetUpdate (busy : List (TileIx × BitVec 3 × Nat)) (sepiaBusy : Bool) (measured : Nat)
  /-- ARBITER_HOLD_TIMEOUT (R359). -/
  | arbiterHoldTimeout (tile : Option TileIx) (job : Option Nat)
  /-- DISPATCH_DEADLINE_MISS (R359). -/
  | dispatchDeadlineMiss (slotNo : W64)
  /-- FEED_LOW (R362). -/
  | feedLow (magA : W16) (magB : W16)
  /-- FEED_LOW_RESTORE (R362). -/
  | feedLowRestore (magA : W16) (magB : W16)
  /-- FEED_LOST (R362). -/
  | feedLost (feed : Fin 2) (mag : W16)
  /-- FEED_HIGH (R362). -/
  | feedHigh (feed : Fin 2) (mag : W16)
  /-- FEED_HIGH_RECONNECT (R362). -/
  | feedHighReconnect (feed : Fin 2) (mag : W16)
  /-- FEED_REVERSED (R362). -/
  | feedReversed (feed : Fin 2)
  /-- STAGE_S0_WARN (R371). -/
  | stageS0Warn (magA : W16) (magB : W16)
  /-- STAGE_S1_SHED (R371). -/
  | stageS1Shed
  /-- STAGE_S2_PARK (R373). -/
  | stageS2Park (magA : W16) (magB : W16) (bank : W16)
  /-- STAGE_S3_COMMIT (R375). -/
  | stageS3Commit
  /-- STAGE_S4_OFF (R376). -/
  | stageS4Off (magA : W16) (magB : W16) (bank : W16)
  /-- RETURN_TO_SERVICE (R372). -/
  | returnToService (feed : Fin 2) (mag : W16)
  /-- FORCED_S4 (R380). -/
  | forcedS4 (magA : W16) (magB : W16) (bank : W16)
  /-- RESTART_QUALIFY (R377). -/
  | restartQualify (feed : Fin 2) (mag : W16)
  /-- BANK_MEASURE (R369). -/
  | bankMeasure (microfarad : W16)
  /-- CHARGER_FAIL (R384). -/
  | chargerFail (bank : W16)
  /-- RAIL_FAULT (R384). -/
  | railFault
  /-- FEED_RELAY_RECLOSE (R23). -/
  | feedRelayReclose
  /-- RELAY_CMD_PULSE (R23). -/
  | relayCmdPulse
  /-- COLD_START (R387). -/
  | coldStart
  /-- WARM_RESTART (R389). -/
  | warmRestart
  /-- PHASE_ROM_END (R385). -/
  | phaseRomEnd
  /-- PHASE_VERIFY (R394). -/
  | phaseVerify
  /-- PHASE_FIRMWARE_END (R385). -/
  | phaseFirmwareEnd
  /-- PHASE_RESTORE (R423). -/
  | phaseRestore
  /-- PHASE_LOCK_END (R385). -/
  | phaseLockEnd
  /-- PHASE_SELFCHECK (R392). -/
  | phaseSelfcheck (failures : List SelfCheckFail)
  /-- PHASE_SETTLE (R391). -/
  | phaseSettle
  /-- PHASE_DONE (R396). -/
  | phaseDone
  /-- START_FAILED (R393). -/
  | startFailed
  /-- MEMORY_TRAINING_DONE (R386). -/
  | memoryTrainingDone
  /-- TILE_LOCK_TIMEOUT (R388). -/
  | tileLockTimeout (tile : TileIx)
  /-- SETTLE_TIMEOUT (R391). -/
  | settleTimeout (tile : TileIx)
  /-- HELD_STREAMS_OPEN (R390). -/
  | heldStreamsOpen
  /-- HELD_STREAMS_TIMEOUT (R390). -/
  | heldStreamsTimeout
  /-- START_PHASE_LATE (R408). -/
  | startPhaseLate
  /-- WOAD_POWER_UP (R405). -/
  | woadPowerUp
  /-- WOAD_RULE_SET (R403). -/
  | woadRuleSet (rule : Fin 16)
  /-- WOAD_RULE_CLEAR (R403). -/
  | woadRuleClear (rule : Fin 16)
  /-- MADDER_LIVENESS_TIMEOUT (R401). -/
  | madderLivenessTimeout
  /-- THERMAL_TRIP (R443). -/
  | thermalTrip
  /-- SERVICE_BUTTON_PRESS (R576). -/
  | serviceButtonPress
  /-- LOC_LAMP_TIMEOUT (R576). -/
  | locLampTimeout
  /-- HOUSEKEEPING_ROUND_END (R437). -/
  | housekeepingRoundEnd (readings : List HkReading) (contactOk : Bool)
  /-- SKIP_ESCALATION (R440). -/
  | skipEscalation (tile : TileIx)
  /-- FAN_FAILURE (R447). -/
  | fanFailure (fan : Fin 5)
  /-- FLASH_ERASE_DONE (R421). -/
  | flashEraseDone (code : Bool)
  /-- FLASH_PROGRAM_DONE (R417). -/
  | flashProgramDone (code : Bool) (same : Bool)
  /-- FLASH_MARGIN_READ_DONE (R421). -/
  | flashMarginReadDone (code : Bool) (pass : Bool)
  /-- TEMPERATURE_RETRY (R419). -/
  | temperatureRetry
  /-- EVENT_ARCHIVE_FLUSH (R415). -/
  | eventArchiveFlush
  /-- OSC_TABLE_STORE (R414). -/
  | oscTableStore
  /-- ARCHIVE_NO_RESPONSE (R434). -/
  | archiveNoResponse
  /-- HEARTBEAT_SEND (R460). -/
  | heartbeatSend
  /-- HEARTBEAT_RX (R461). -/
  | heartbeatRx (payload : List Byte)
  /-- HEARTBEAT_TIMEOUT (R461). -/
  | heartbeatTimeout
  /-- HOLD_TIMER_EXPIRY (R464). -/
  | holdTimerExpiry
  /-- CUSTODY_TRANSFER (R463). -/
  | custodyTransfer (twinReq : Bool)
  /-- GRANT_CHANGE (R464). -/
  | grantChange (high : Bool)
  /-- ACK_FRAME_RX (R458). -/
  | ackFrameRx (head : RxHead) (nak : Bool)
  /-- REPLAY_TIMEOUT (R458). -/
  | replayTimeout
  /-- MIRROR_FRAME_RX (R466). -/
  | mirrorFrameRx (head : RxHead) (item : MirrorItem)
  /-- MEMCOPY_FRAME_RX (R467). -/
  | memcopyFrameRx (head : RxHead) (saddr : W64) (data : List Byte)
  /-- HANDOVER_FRAME_RX (R474). -/
  | handoverFrameRx (head : RxHead) (at_ : W64)
  /-- CHAIN_FRAME_RX (R180). -/
  | chainFrameRx (head : RxHead) (sums : List (Nat × Nat × BitVec 48))
  /-- RESYNC_FRAME_RX (R467). -/
  | resyncFrameRx (head : RxHead) (item : ResyncItem)
  /-- LINK_TRAINING_END (R459). -/
  | linkTrainingEnd (lanes : Fin 3)
  /-- LINK_TRAINING_RETRY (R459). -/
  | linkTrainingRetry
  /-- MIRROR_ACK_TIMEOUT (R280). -/
  | mirrorAckTimeout
  /-- PAIR_NONE_TIMEOUT (R453). -/
  | pairNoneTimeout
  /-- TRANSFER_POINT (R474). -/
  | transferPoint
  /-- TAKEOVER_REPEAT (R475). -/
  | takeoverRepeat
  /-- RELAY_DELAY_EXPIRY (R476). -/
  | relayDelayExpiry
  /-- ALONE_CUSTODY_REQUEST (R465). -/
  | aloneCustodyRequest
  /-- CUSTODY_LOGIC_FAULT (R480). -/
  | custodyLogicFault
  /-- MOVE_OPERAND (R484). -/
  | moveOperand (core : CoreIx) (guard : BitVec 4) (dst : Byte) (src : MoveSrc)
  /-- LIMM_T_INT (R522). -/
  | limmTInt (core : CoreIx) (guard : BitVec 4) (src : MoveSrc)
  /-- LIMM_T_PTR (R522). -/
  | limmTPtr (core : CoreIx) (guard : BitVec 4) (src : MoveSrc)
  /-- LIMM_T_CODE (R522). -/
  | limmTCode (core : CoreIx) (guard : BitVec 4) (src : MoveSrc)
  /-- LIMM_T_BITS (R522). -/
  | limmTBits (core : CoreIx) (guard : BitVec 4) (src : MoveSrc)
  /-- ALU_ADD (R527). -/
  | aluAdd (core : CoreIx) (guard : BitVec 4) (src : MoveSrc)
  /-- ALU_SUB (R527). -/
  | aluSub (core : CoreIx) (guard : BitVec 4) (src : MoveSrc)
  /-- ALU_NEG (R527). -/
  | aluNeg (core : CoreIx) (guard : BitVec 4) (src : MoveSrc)
  /-- ALU_AND (R527). -/
  | aluAnd (core : CoreIx) (guard : BitVec 4) (src : MoveSrc)
  /-- ALU_OR (R527). -/
  | aluOr (core : CoreIx) (guard : BitVec 4) (src : MoveSrc)
  /-- ALU_XOR (R527). -/
  | aluXor (core : CoreIx) (guard : BitVec 4) (src : MoveSrc)
  /-- ALU_NOT (R527). -/
  | aluNot (core : CoreIx) (guard : BitVec 4) (src : MoveSrc)
  /-- ALU_SHL (R527). -/
  | aluShl (core : CoreIx) (guard : BitVec 4) (src : MoveSrc)
  /-- ALU_SHR (R527). -/
  | aluShr (core : CoreIx) (guard : BitVec 4) (src : MoveSrc)
  /-- ALU_SAR (R527). -/
  | aluSar (core : CoreIx) (guard : BitVec 4) (src : MoveSrc)
  /-- MUL_MUL (R527). -/
  | mulMul (core : CoreIx) (guard : BitVec 4) (src : MoveSrc)
  /-- MUL_MULH (R527). -/
  | mulMulh (core : CoreIx) (guard : BitVec 4) (src : MoveSrc)
  /-- MUL_DIV (R527). -/
  | mulDiv (core : CoreIx) (guard : BitVec 4) (src : MoveSrc)
  /-- MUL_MOD (R527). -/
  | mulMod (core : CoreIx) (guard : BitVec 4) (src : MoveSrc)
  /-- CMP_EQ (R528). -/
  | cmpEq (core : CoreIx) (guard : BitVec 4) (src : MoveSrc)
  /-- CMP_NE (R528). -/
  | cmpNe (core : CoreIx) (guard : BitVec 4) (src : MoveSrc)
  /-- CMP_LT (R528). -/
  | cmpLt (core : CoreIx) (guard : BitVec 4) (src : MoveSrc)
  /-- CMP_LE (R528). -/
  | cmpLe (core : CoreIx) (guard : BitVec 4) (src : MoveSrc)
  /-- CMP_LTU (R528). -/
  | cmpLtu (core : CoreIx) (guard : BitVec 4) (src : MoveSrc)
  /-- CMP_LEU (R528). -/
  | cmpLeu (core : CoreIx) (guard : BitVec 4) (src : MoveSrc)
  /-- CMP_CARRY (R528). -/
  | cmpCarry (core : CoreIx) (guard : BitVec 4) (src : MoveSrc)
  /-- CMP_OVF (R528). -/
  | cmpOvf (core : CoreIx) (guard : BitVec 4) (src : MoveSrc)
  /-- CMP_BIT (R528). -/
  | cmpBit (core : CoreIx) (guard : BitVec 4) (src : MoveSrc)
  /-- LSU_LDW (R529). -/
  | lsuLdw (core : CoreIx) (guard : BitVec 4) (src : MoveSrc)
  /-- LSU_LDB (R529). -/
  | lsuLdb (core : CoreIx) (guard : BitVec 4) (src : MoveSrc)
  /-- LSU_LDBU (R529). -/
  | lsuLdbu (core : CoreIx) (guard : BitVec 4) (src : MoveSrc)
  /-- LSU_LDH (R529). -/
  | lsuLdh (core : CoreIx) (guard : BitVec 4) (src : MoveSrc)
  /-- LSU_LDHU (R529). -/
  | lsuLdhu (core : CoreIx) (guard : BitVec 4) (src : MoveSrc)
  /-- LSU_STW (R529). -/
  | lsuStw (core : CoreIx) (guard : BitVec 4) (src : MoveSrc)
  /-- LSU_STB (R529). -/
  | lsuStb (core : CoreIx) (guard : BitVec 4) (src : MoveSrc)
  /-- LSU_STH (R529). -/
  | lsuSth (core : CoreIx) (guard : BitVec 4) (src : MoveSrc)
  /-- LSU_LEA (R529). -/
  | lsuLea (core : CoreIx) (guard : BitVec 4) (src : MoveSrc)
  /-- BR_JUMP (R489). -/
  | brJump (core : CoreIx) (guard : BitVec 4) (src : MoveSrc)
  /-- BR_CALL (R489). -/
  | brCall (core : CoreIx) (guard : BitVec 4) (src : MoveSrc)
  /-- BR_RETURN (R489). -/
  | brReturn (core : CoreIx) (guard : BitVec 4) (src : MoveSrc)
  /-- DSTK_PUSH (R493). -/
  | dstkPush (core : CoreIx) (guard : BitVec 4) (src : MoveSrc)
  /-- RSTK_PUSH (R494). -/
  | rstkPush (core : CoreIx) (guard : BitVec 4) (src : MoveSrc)
  /-- TAG_GETTAG (R532). -/
  | tagGettag (core : CoreIx) (guard : BitVec 4) (src : MoveSrc)
  /-- TAG_TOINT (R532). -/
  | tagToint (core : CoreIx) (guard : BitVec 4) (src : MoveSrc)
  /-- TAG_TOBITS (R532). -/
  | tagTobits (core : CoreIx) (guard : BitVec 4) (src : MoveSrc)
  /-- TAG_WRAP_INT (R532). -/
  | tagWrapInt (core : CoreIx) (guard : BitVec 4) (src : MoveSrc)
  /-- TAG_TOPTR (R532). -/
  | tagToptr (core : CoreIx) (guard : BitVec 4) (src : MoveSrc)
  /-- TAG_TOCODE (R532). -/
  | tagTocode (core : CoreIx) (guard : BitVec 4) (src : MoveSrc)
  /-- MBX_RECV (R512). -/
  | mbxRecv (core : CoreIx) (guard : BitVec 4) (src : MoveSrc)
  /-- MBX_RECV_DELIVERY (R533). -/
  | mbxRecvDelivery (core : CoreIx)
  /-- MBX_ARG16 (R533). -/
  | mbxArg16 (core : CoreIx) (guard : BitVec 4) (src : MoveSrc)
  /-- MBX_COMPLETE (R533). -/
  | mbxComplete (core : CoreIx) (guard : BitVec 4) (src : MoveSrc)
  /-- MBX_SUBMIT (R513). -/
  | mbxSubmit (core : CoreIx) (guard : BitVec 4) (src : MoveSrc)
  /-- MBX_WAIT (R533). -/
  | mbxWait (core : CoreIx) (guard : BitVec 4) (src : MoveSrc)
  /-- MBX_WAIT_DONE (R534). -/
  | mbxWaitDone (core : CoreIx)
  /-- MBX_EVENT (R533). -/
  | mbxEvent (core : CoreIx) (guard : BitVec 4) (src : MoveSrc)
  /-- MBX_FETCH (R533). -/
  | mbxFetch (core : CoreIx) (guard : BitVec 4) (src : MoveSrc)
  /-- XFR_READ (R536). -/
  | xfrRead (core : CoreIx) (guard : BitVec 4) (src : MoveSrc)
  /-- XFR_WRITE (R536). -/
  | xfrWrite (core : CoreIx) (guard : BitVec 4) (src : MoveSrc)
  /-- XFR_DONE (R536). -/
  | xfrDone (core : CoreIx) (failed : Bool)
  /-- FLS_READ (R537). -/
  | flsRead (core : CoreIx) (guard : BitVec 4) (src : MoveSrc)
  /-- FLS_PROGRAM (R537). -/
  | flsProgram (core : CoreIx) (guard : BitVec 4) (src : MoveSrc)
  /-- FLS_ERASE (R537). -/
  | flsErase (core : CoreIx) (guard : BitVec 4) (src : MoveSrc)
  /-- FLS_MARGIN (R537). -/
  | flsMargin (core : CoreIx) (guard : BitVec 4) (src : MoveSrc)
  /-- FLS_POLL (R537). -/
  | flsPoll (core : CoreIx) (guard : BitVec 4) (src : MoveSrc)
  /-- TMR_SAMPLE_SC (R538). -/
  | tmrSampleSc (core : CoreIx) (guard : BitVec 4) (src : MoveSrc)
  /-- TMR_SAMPLE_KC (R538). -/
  | tmrSampleKc (core : CoreIx) (guard : BitVec 4) (src : MoveSrc)
  /-- TMR_DELAY (R538). -/
  | tmrDelay (core : CoreIx) (guard : BitVec 4) (src : MoveSrc)
  /-- TMR_DELAY_DONE (R538). -/
  | tmrDelayDone (core : CoreIx)
  /-- CSR_READ (R539). -/
  | csrRead (core : CoreIx) (guard : BitVec 4) (src : MoveSrc)
  /-- CSR_WRITE (R539). -/
  | csrWrite (core : CoreIx) (guard : BitVec 4) (src : MoveSrc)
  /-- CORE_WATCHDOG (R509). -/
  | coreWatchdog (core : CoreIx)
  /-- CORE_RESTART_DONE (R507). -/
  | coreRestartDone (core : CoreIx)
  /-- WOAD_POWER_LOSS (R445). -/
  | woadPowerLoss
  /-- DEEP_SUPPLY_LOSS (R397). -/
  | deepSupplyLoss
  /-- KERMES_DIE_FAILURE (R31). -/
  | kermesDieFailure (die : Fin 2)
  /-- SYNCE_VALID (R226). -/
  | synceValid
  /-- FEED_NORMAL (R362). -/
  | feedNormal (feed : Fin 2) (mag : W16)
  /-- FEED_TRANSIENT (R362). -/
  | feedTransient (feed : Fin 2) (mag : W16)
  /-- TWIN_HOLD_CHANGE (R476). -/
  | twinHoldChange (high : Bool)
  /-- SLOT_DESCRIPTOR_DEADLINE (R480). -/
  | slotDescriptorDeadline (group : GroupIx) (slotNo : W64)
  /-- FETCH_PROGRESS_WATCHDOG (R309). -/
  | fetchProgressWatchdog
  /-- BANK_FULL (R368). -/
  | bankFull
  /-- DEBUG_CHALLENGE_EXPIRY (R337). -/
  | debugChallengeExpiry
  /-- PCS_ALIGNED (R591). -/
  | pcsAligned (port : PortIx)
  /-- MODULE_FAULT (R592). -/
  | moduleFault (port : PortIx)
  /-- HOST_LINK_UP (R569). -/
  | hostLinkUp
  /-- WOAD_RULE_PARITY (R408). -/
  | woadRuleParity
deriving DecidableEq, Repr

end Sys2Proof
end

