-- ==== Sys2Proof/Decode.lean ====
section
/-! DEFINITION. The command that a word of table bits spells. No row of spec/opcode_table.json gives bits: the block takes
commands, not instruction words, so no word spells one. -/
namespace Sys2Proof

/-- The command that an instruction word spells by the table's bits: none of the rows gives any. -/
def decodeTableWord (_nbits _w : Nat) : Option Instr := none

end Sys2Proof
end

