-- ==== Sys2Proof/Config.lean ====
section
/-! DEFINITION. What the spec leaves to an implementation, to manufacture or open: constants with no body, so that no proof
knows their values (assumptions 3 and 7). -/
namespace Sys2Proof.Config

/-- Free values, numbered by the counter `State.free` (assumption 3). -/
opaque freeWord : Nat → W64

/-- Codes of the tile events that Table 22-3 does not list (assumption 63). -/
opaque tileEvent : Nat → W16

/-- Serial numbers written at manufacture, 16 bytes of ASCII each (R317). -/
opaque pkgSerial : Vector Byte 16
opaque traySerial : Vector Byte 16

/-- Coefficient bytes of a tile as its factory record holds them: tile, block, offset (R154, R156). -/
opaque factoryCoef : TileIx → Nat → Nat → Byte

/-- Bytes of the identity block of the archive flash (Table 16-2), written at manufacture. -/
opaque identityBlock : Nat → Byte

/-- The factory oscillator table in the identity block (R414). -/
opaque factoryOsc : Nat → Int

/-- A bin of the oscillator table after one more round of learning, from its value, the steered word and the round in 0.5 ms
units (R221 gives the time constant of 1 h and not what a bin holds). -/
opaque oscLearn : Int → BitVec 24 → Nat → Int

/-- MAC address of a fronthaul port, written at manufacture. -/
opaque portMac : PortIx → Vector Byte 6

/-- ECDSA P-384 over SHA-384 of R427, R334, R336, R337: key, message, signature. -/
opaque signatureOk : List Byte → List Byte → List Byte → Bool

/-- The Porsestad keys of R427 and R337. -/
opaque firmwareKey : List Byte
opaque debugKey : List Byte

/-- The phase codes of a factorisation M/s = U D V (R54) of a nonzero 128 x 128 matrix given as binary64 rows, `none` where the
iteration does not converge in its slice budget (R320, R339). The factorisation is not unique, so its codes are free. -/
opaque decompose : List (List (W64 × W64)) → Option (List (Nat × BitVec 10))

/-- The zone offsets of a drift fit (R138), in 1/256 quarter-step, θ then φ, and whether it converges (R164): from the programmed
image and the covariances of a window. R138 gives the model and the method, not the arithmetic. -/
opaque driftFit : List (Nat × BitVec 10) → List (Int × Int) → List Int → List (Int × Int) → Bool × List (Int × Int)

/-- DRIFT of a zone, before its range is applied, from the three trim reference thermistors in monitor codes (R123); the bias
[1/16 mA] that holds T0 at its setpoint, from the setpoint, the reading and the bias now (R33); and the ratio T4/T3 of a port
group that the programmed D predicts from the observed input statistics, in 1/256 dB (R67): image, input covariance, group, recorded ratio. -/
opaque trimDrift : TileIx → Nat → Nat → Nat → Nat → Int
opaque laserBias : TileIx → Nat → Nat → Nat → Nat
opaque predictedTap : List (Nat × BitVec 10) → List (Int × Int) → Nat → Int → Int

/-- The finite values of the activations and links whose accuracy alone the spec bounds (Tables 6-6, 7-6): the same bits for
the same input on every die. GELU, sigmoid, tanh and e^x of a binary32, and one softmax output of a list of scores. -/
opaque gelu : W32 → W32
opaque sigmoid : W32 → W32
opaque tanh : W32 → W32
opaque expo : W32 → W32
opaque softmax : List W32 → Nat → W32

/-- Pages that the Porsestad image makes TAGGED (R499, R503): of a code flash main array by address / 4096, and of shared RAM. -/
opaque flashPageTagged : Nat → Bool
opaque sharedPageTagged : Nat → Bool

/-- The 32 bytes of a challenge nonce (R337). -/
opaque nonce : Nat → Vector Byte 32

end Sys2Proof.Config
end

