-- ==== Sys2Proof/Machine/Bits.lean ====
section
/-! DEFINITION. Byte order, sign extension, saturating counters and the check word (00 R5, R7; 21 R550). -/
namespace Sys2Proof.Machine

/-- The unsigned value of little-endian bytes (R5). -/
def leNat : List Byte → Nat
  | [] => 0
  | b :: bs => b.toNat + 256 * leNat bs

/-- The unsigned value of big-endian (network order) bytes (R5). -/
def beNat (bs : List Byte) : Nat := bs.foldl (fun a b => 256 * a + b.toNat) 0

/-- `n` as `k` little-endian bytes, higher bits dropped. -/
def leBytes : Nat → Nat → List Byte
  | 0, _ => []
  | k + 1, n => BitVec.ofNat 8 n :: leBytes k (n / 256)

/-- `n` as `k` big-endian bytes. -/
def beBytes (k n : Nat) : List Byte := (leBytes k n).reverse

/-- `n` as the signed value of its low `w` bits. -/
def signedOf (w n : Nat) : Int := (BitVec.ofNat w n).toInt

/-- Bits `hi` down to `lo` of `n`. -/
def bitsOf (n hi lo : Nat) : Nat := (n / 2 ^ lo) % 2 ^ (hi - lo + 1)

/-- One more on a 32-bit counter that saturates at 0xFFFFFFFF (R550). -/
def satInc (c : W32) : W32 := if c = 0xFFFFFFFF#32 then c else c + 1#32

/-- `k` more on a saturating 32-bit counter. -/
def satAdd (c : W32) (k : Nat) : W32 := BitVec.ofNat 32 (min 0xFFFFFFFF (c.toNat + k))

/-- One more on a saturating 16-bit counter (R117). -/
def satInc16 (c : W16) : W16 := if c = 0xFFFF#16 then c else c + 1#16

/-- Bit `i` of a mask as a Bool. -/
def maskBit (m i : Nat) : Bool := m.testBit i

/-- How many of the first `n` bits of `m` are set. -/
def popCount (n m : Nat) : Nat := ((List.range n).filter (fun i => m.testBit i)).length

/-- One bit of the reflected CRC-32C division (R7: polynomial 0x1EDC6F41, input and output reflected). -/
def crcBit (c : W32) : W32 :=
  if c.getLsbD 0 then (c >>> 1) ^^^ 0x82F63B78#32 else c >>> 1

/-- One byte of the CRC-32C. -/
def crcByte (c : W32) (b : Byte) : W32 :=
  let x := c ^^^ b.setWidth 32
  crcBit (crcBit (crcBit (crcBit (crcBit (crcBit (crcBit (crcBit x)))))))

/-- The check word CRC-32C over `bs` (R7). -/
def crc32c (bs : List Byte) : W32 := (bs.foldl crcByte 0xFFFFFFFF#32) ^^^ 0xFFFFFFFF#32

/-- The least of some naturals, `none` for an empty list. -/
def least : List Nat → Option Nat
  | [] => none
  | x :: xs => match least xs with
    | none => some x
    | some y => some (min x y)

/-- Integer division rounding to nearest, ties to even, `d > 0`. -/
def roundDivEven (n : Int) (d : Nat) : Int :=
  let q := n / (d : Int)
  let r := (n % (d : Int)).toNat
  if 2 * r < d then q
  else if 2 * r > d then q + 1
  else if q % 2 = 0 then q else q + 1

/-- `x` held inside `lo` to `hi`. -/
def clampInt (lo hi x : Int) : Int := if x < lo then lo else if x > hi then hi else x

end Sys2Proof.Machine
end

