-- ==== Sys2Proof/Machine/TypesHost.lean ====
section
/-! DEFINITION. State of the rings, the host endpoint and the addressed memories (chapters 01, 11, 12, 21). -/
namespace Sys2Proof.Machine

/-- Ring states (Table 11-2). -/
inductive RingState where
  | disabled | enabled | resetting | halted
deriving DecidableEq, Repr

/-- A descriptor of 64 bytes (Table 11-3 header and 56 argument bytes). -/
structure Descriptor where
  bytes : List Byte
deriving DecidableEq, Repr

/-- A fetched descriptor: `id` numbers admissions of the whole block in order, `resv` is the completions it still owes (R297). -/
structure Fetched where
  id   : Nat
  desc : Descriptor
  resv : Nat
deriving DecidableEq, Repr

/-- A completion or event entry before it takes its CQ index (Table 11-4). -/
structure Entry where
  tag    : W32
  status : W16
  result : W32
  detail : W16
  epoch  : W16
  stale  : Bool
  more   : Bool
  event  : Bool
  noIrq  : Bool
deriving DecidableEq, Repr

/-- One ring pair (R284-R309, Table 21-5). -/
structure Ring where
  sqBase     : W64
  cqBase     : W64
  log2Depth  : BitVec 4
  policy     : BitVec 2
  level      : BitVec 3
  reserve    : W16
  coalCount  : Byte
  coalTime   : BitVec 10
  state      : RingState
  overload   : Bool
  dbError    : Bool
  eventLost  : Bool
  cfgError   : Bool
  sqIrqEn    : Bool
  cqIrqEn    : Bool
  sqTail     : BitVec 12
  sqHead     : BitVec 12
  cqHead     : BitVec 13
  cqTail     : BitVec 13
  phase      : Bool
  queue      : List Fetched
  dispatched : List Fetched
  waiting    : List Entry
  lastCost   : W64
  rate       : W32
  rateNow    : W32
  /-- reservation bucket in units of 1/65,536 tile-symbol (R348) -/
  bucket     : Int
  dropped    : W32
  overloaded : W32
  coalesced  : Nat
  coalArmed  : Bool
  highSamples : Nat
  fetchRetried : Bool
  haltedReset : Bool
  resetBy    : Option Fetched
  /-- the engine has stopped for want of credit (R297, R302) -/
  fetchStalled : Bool
deriving DecidableEq, Repr

/-- Reset values of a ring block (Table 21-5); `level` is 3 for ring 0. -/
def Ring.init (level : BitVec 3) : Ring :=
  { sqBase := 0, cqBase := 0, log2Depth := 0, policy := 0, level := level, reserve := 0, coalCount := 1, coalTime := 0,
    state := .disabled, overload := false, dbError := false, eventLost := false, cfgError := false, sqIrqEn := false,
    cqIrqEn := false, sqTail := 0, sqHead := 0, cqHead := 0, cqTail := 0, phase := true, queue := [], dispatched := [],
    waiting := [], lastCost := 0, rate := 0, rateNow := 0, bucket := 0, dropped := 0, overloaded := 0, coalesced := 0,
    coalArmed := false, highSamples := 0, fetchRetried := false, haltedReset := false, resetBy := none,
    fetchStalled := false }

/-- One MSI-X table entry (R567). -/
structure MsixEntry where
  addr : W64
  data : W32
  mask : Bool
deriving DecidableEq, Repr

/-- The PCI Express endpoint (R542-R548, R567, R569). -/
structure HostIf where
  msixEnable  : Bool
  msixFmask   : Bool
  msixTable   : Vector MsixEntry 128
  pba         : BitVec 128
  linkUp      : Bool
  cfgValid    : Bool
  barsAssigned : Bool
  /-- relaxed ordering enabled by host software (Table 21-1) -/
  relaxed     : Bool
  d3hot       : Bool
  pciePoisoned : W32
  pcieUr      : W32
  bar4Ecc     : W32
deriving DecidableEq, Repr

/-- The addressed memories the commands reach. -/
structure MemSys where
  /-- bytes of the memory stacks by window offset (R545) -/
  stackMem   : List Host.Cell
  /-- bytes of host memory by bus address (R311) -/
  hostMem    : List Host.Cell
  /-- numbers of the 32-byte units that hold an uncorrectable error (R547), rising -/
  eccUnits   : List Nat
  /-- bit k: stack k is online -/
  stackOnline : BitVec 6
  selfRefresh : Bool
  stackRail  : Bool
deriving DecidableEq, Repr

/-- One reply of the endpoint to a host read. -/
inductive HostReply where
  /-- data of a read -/
  | data (bytes : List Byte)
  /-- a read of a unit with an uncorrectable error: data poisoned (R547) -/
  | poisoned
  /-- Unsupported Request (R545, R547) -/
  | unsupported
  /-- Configuration Request Retry Status (R395) -/
  | retry
deriving DecidableEq, Repr

/-- The endpoint's outputs, newest first (the model's trace of what the host sees). -/
structure HostOut where
  msix    : List (W64 × W32)
  replies : List HostReply
deriving DecidableEq, Repr

end Sys2Proof.Machine
end

