-- ==== Sys2Proof/Machine/TypesSets.lean ====
section
/-! DEFINITION. Configuration sets and their swap groups (chapter 10, Tables 9-4, 9-5, 10-3, 12-6). -/
namespace Sys2Proof.Machine

/-- Shadow states (Table 10-4). -/
inductive ShadowState where
  | empty | opened | staged | pending
deriving DecidableEq, Repr

/-- Stream entry (Table 9-4, layout KIND 0 of Table 12-6). -/
structure StreamEntry where
  en      : Bool
  port    : Byte
  ulGroup : Byte
  dlGroup : Byte
  ant     : Byte
  compUl  : BitVec 2
  compDl  : BitVec 2
  vlan    : W16
  eaxcUl  : W16
  eaxcDl  : W16
  peerMac : BitVec 48
deriving DecidableEq, Repr

/-- Radio group entry (Table 9-5, layout KIND 1 of Table 12-6). -/
structure GroupEntry where
  en        : Bool
  kind      : BitVec 2
  format    : Byte
  nprb      : W16
  prbg      : Byte
  nant      : Byte
  nlayer    : Byte
  batchSyms : Byte
  tile      : Byte
  altTile   : Byte
  ring      : Byte
  outType   : Byte
  userScale : W32
  seed      : W64
  rxOpen    : W16
  rxClose   : W16
  txAdvance : W16
  txSpan    : W16
  dlLead    : W16
  cpAdvance : W16
deriving DecidableEq, Repr

/-- Fusion entry (Table 10-3, layout KIND 2 of Table 12-6). -/
structure FusionEntry where
  act       : Byte
  scaleMode : Byte
  biasType  : Byte
  conv      : Byte
  clip      : W32
  tableAddr : W64
  scale     : W64
  biasAddr  : W64
deriving DecidableEq, Repr

/-- A model slot that holds a validated model: descriptor address and the CRC-32C of its tree stream (R202). -/
structure ModelSlot where
  desc : W64
  crc  : W32
deriving DecidableEq, Repr

/-- Tile-image entry (layout KIND 4 of Table 12-6). -/
structure ImageEntry where
  image : W64
  scale : W32
deriving DecidableEq, Repr

/-- One radio mapping. -/
structure RadioSet where
  streams : Vector StreamEntry 64
  groups  : Vector GroupEntry 16
deriving DecidableEq, Repr

/-- Status of one swap group (R558). IN_USE follows from the work that runs. -/
structure SwapGroup where
  shadow : ShadowState
  epoch  : W32
  /-- tiles of a tile group, bit t (R264) -/
  members : BitVec 10
  /-- the SET_COMMIT that waits for shadow loads or for the mirror: ring and descriptor (R269, R280) -/
  committing : Option (RingIx × Nat)
  /-- swaps that wait for a boundary common to the members, first one first: ring and descriptor to complete, and the RESULT
  (R274, Table 10-6) -/
  swapWaits : List (RingIx × Nat × Nat)
  /-- a SET_MEMBER that waits for joining tiles to drain: ring, descriptor, new members (R265) -/
  joining : Option (RingIx × Nat × BitVec 10)
deriving DecidableEq, Repr

/-- Active and shadow sets of every kind (R263). -/
structure ConfSets where
  groups       : Vector SwapGroup 16
  radioActive  : RadioSet
  radioShadow  : RadioSet
  fusionActive : Vector (Option FusionEntry) 64
  fusionShadow : Vector (Option FusionEntry) 64
  modelActive  : Vector (Option ModelSlot) 16
  modelShadow  : Vector (Option ModelSlot) 16
  imageActive  : Vector (Option ImageEntry) 10
  imageShadow  : Vector (Option ImageEntry) 10
deriving DecidableEq, Repr

def StreamEntry.closed : StreamEntry :=
  { en := false, port := 0, ulGroup := 0, dlGroup := 0, ant := 0, compUl := 0, compDl := 0, vlan := 0, eaxcUl := 0,
    eaxcDl := 0, peerMac := 0 }

def GroupEntry.closed : GroupEntry :=
  { en := false, kind := 0, format := 0, nprb := 0, prbg := 0, nant := 0, nlayer := 0, batchSyms := 0, tile := 0,
    altTile := 0, ring := 0, outType := 0, userScale := 0, seed := 0, rxOpen := 0, rxClose := 0, txAdvance := 0,
    txSpan := 0, dlLead := 0, cpAdvance := 0 }

def RadioSet.closed : RadioSet :=
  { streams := Vector.replicate 64 StreamEntry.closed, groups := Vector.replicate 16 GroupEntry.closed }

def SwapGroup.init : SwapGroup :=
  { shadow := .empty, epoch := 0, members := 0, committing := none, swapWaits := [], joining := none }

/-- Every set EMPTY, no tile group with members (R279). -/
def ConfSets.init : ConfSets :=
  { groups := Vector.replicate 16 SwapGroup.init,
    radioActive := RadioSet.closed, radioShadow := RadioSet.closed, fusionActive := Vector.replicate 64 none,
    fusionShadow := Vector.replicate 64 none, modelActive := Vector.replicate 16 none,
    modelShadow := Vector.replicate 16 none, imageActive := Vector.replicate 10 none,
    imageShadow := Vector.replicate 10 none }

end Sys2Proof.Machine
end

