-- ==== Sys2Proof/Machine/TypesJobs.lean ====
section
/-! DEFINITION. State of jobs, of the two Kermes dies, of Sepia and of scheduling (chapters 06, 07, 12 R322-R326, 13). -/
namespace Sys2Proof.Machine

/-- What a job runs (R322-R326, R250, R337). -/
inductive JobKind where
  | matmul
  | resident (tile : TileIx)
  | reduce
  | tree
  | radio (group : GroupIx) (slotNo : W64) (set : Nat)
  | vecRaw (tile : TileIx)
deriving DecidableEq, Repr

/-- Accumulators of one output component of one result vector on one engine (R168): PS24 and WB48 in units of 2^-8, the
group accumulator of TREE in units of 2^-24 with its terms so far, the next column block to fold, the folds since the last
spill, and the s of the image that computes the vector. -/
structure Acc where
  engine : Fin 2
  j      : Nat
  c      : Nat
  ps     : Int
  wb     : Int
  grp    : Int
  grpN   : Nat
  nextT  : Nat
  folds  : Nat
  scale  : W32
deriving DecidableEq, Repr

/-- Samples of one pass that wait in the reorder buffer (R166), with the block exponent of its input slice. -/
structure HeldPass where
  engine  : Fin 2
  row     : Nat
  col     : Nat
  pass    : Nat
  e       : Int
  scale   : W32
  samples : List (BitVec 12)
deriving DecidableEq, Repr

/-- An input vector in the staging region of a scratchpad (R16, Table 6-1): its exponent, and the 256 DAC codes of the lane word,
I then Q of each modulator (R79, R84). -/
structure Staged where
  row   : Nat
  col   : Nat
  pass  : Nat
  e     : Int
  codes : List (BitVec 6)
deriving DecidableEq, Repr

/-- A segment of whole passes on one tile (R343): whether its image was loaded for it, whether it is the first of its batch on the
tile (R125), and whether the tile presents its vectors (R62). -/
structure Segment where
  tile  : TileIx
  row   : Nat
  col   : Nat
  first : Nat
  count : Nat
  loads : Bool
  fresh : Bool
  begun : Bool
deriving DecidableEq, Repr

/-- Progress of the batch of block (row, col): passes dispatched to a tile, passes whose samples have arrived, the tiles that run
it, and whether the peak residual of one of them has failed (R125). -/
structure BlockRun where
  row  : Nat
  col  : Nat
  sent : Nat
  got  : Nat
  tiles : BitVec 10
  bad  : Bool
deriving DecidableEq, Repr

/-- Parameters fixed at acceptance (Table 12-8, Table 12-9, R171, R188). -/
structure JobParams where
  format    : BitVec 3
  paired    : Bool
  order     : BitVec 2
  combine   : BitVec 2
  spill     : Nat
  accExp    : Int
  inType    : Byte
  seed      : W64
  inBase    : W64
  nvec      : Nat
  inStride  : Nat
  outBase   : W64
  outStride : Nat
  nrows     : Nat
  ncols     : Nat
  tileMask  : BitVec 10
  statsAddr : W64
  /-- s of each block, row blocks first (R170) -/
  scales    : List W32
  /-- stack address of each block's image -/
  images    : List W64
  /-- a paired-real pass carries one vector alone, since the partial-sum region takes no two (R167) -/
  single    : Bool
deriving DecidableEq, Repr

/-- Result vectors of one pass of a matrix job (R29, R58). -/
def JobParams.perPass (p : JobParams) : Nat := if p.paired && !p.single then 2 else 1

/-- A prepared sample of a tree job: its status (Table 7-8) and its slots as (slot, binary32) (R204). -/
structure Prepared where
  status : Byte
  slots  : List (Nat × W32)
deriving DecidableEq, Repr

/-- Progress of a tree job (R196, R203, R209): the wave in work, its samples, and the records that
have arrived. -/
structure TreeRun where
  wave      : Nat
  waveSize  : Nat
  planned   : Bool
  nextTree  : Nat
  nextOff   : Nat
  prepared  : List Prepared
  /-- leaf sums per sample and class, in units of 2^-8 (R209) -/
  leaves    : List (List Int)
  /-- status of every sample of finished waves, in sample order -/
  statuses  : List Byte
  /-- the CRC-32C of the tree stream as far as the wave has read it, before its final complement (R203) -/
  crcRun    : W32
  /-- the wave has been run again for a parity error in the front-stage tables (Table 7-10) -/
  tableRerun : Bool
deriving DecidableEq, Repr

/-- One admitted and dispatched job. -/
structure Job where
  id        : Nat
  ring      : RingIx
  desc      : Descriptor
  kind      : JobKind
  level     : Nat
  params    : JobParams
  fusion    : Option FusionEntry
  fusionEpoch : W32
  fusionBound : Bool
  model     : Option ModelSlot
  modelEpoch : W32
  modelBound : Bool
  tree      : TreeRun
  accs      : List Acc
  held      : List HeldPass
  /-- vectors staged for passes whose samples have not arrived (R16) -/
  staged    : List Staged
  segments  : List Segment
  blocks    : List BlockRun
  /-- (row block, first column block of engine B), once known (R180) -/
  splits    : List (Nat × Nat)
  /-- partial-sum bytes reserved on each die that the job may use, and those dies (R167) -/
  psum      : Nat
  psumDies  : BitVec 2
  /-- result vectors that earlier sub-batches have written (R167) -/
  vecDone   : Nat
  passesDone : Nat
  /-- engine B has received the CHAIN values of engine A (R180) -/
  chained   : Bool
  tilesUsed : BitVec 10
  work      : Nat
  cost      : Nat
  startSC   : W64
  started   : Bool
  sat       : Bool
  stale     : Bool
  /-- CAL_EPOCH of the tile that ran the last segment, or of the stale outputs (R150) -/
  epoch     : W32
  precision : Bool
  degraded  : Bool
  subBatch  : Bool
  convSat   : W32
  convNan   : W32
  nanSkipped : W32
  firstNewJ : Option Nat
  peak      : Byte
deriving DecidableEq, Repr

/-- One Kermes reduction die (R165-R194). -/
structure Kermes where
  lost      : Bool
  /-- banks of the fronthaul region (R165) -/
  frontBanks : Nat
  retired   : List (Fin 64)
  /-- symbol count of the last double-bit event of a bank (Table 6-9) -/
  bankEvents : List (Fin 64 × W64)
  singleErrs : W32
  parityErrs : W32
deriving DecidableEq, Repr

/-- Sepia (R195-R216). -/
structure Sepia where
  retired   : BitVec 16
  /-- symbol count of the last parity error of a lane (Table 7-10) -/
  laneEvents : List (Fin 16 × W64)
  lost      : Bool
  parityErrs : W32
  katRuns   : Nat
deriving DecidableEq, Repr

/-- Scheduling state (chapter 13). -/
structure Sched where
  /-- package power by the model of R356 [0.1 W] -/
  powerModel : Nat
  /-- tile-time budget lowered by measured excess [0.1 W] (R356) -/
  capExcess : Nat
  overMs    : Nat
  /-- tile time withdrawn [1/65,536 of a tile]: excess classes, P4, P3 (R355) -/
  excessCut : Bool
  p4Cut     : Nat
  p3Cut     : Nat
  /-- deficit round-robin between the rings of a class [tile-symbols]: what each ring has left, and the ring that has the turn
  (R347) -/
  deficits  : Vector Int 64
  turn      : RingIx
  holdEvents : Nat
  holdErrs  : W32
  interKermesBad : Bool
  atomicBad : BitVec 6
  stackEvents : W32
  transferErrs : W32
  cmdErrs   : W32
  /-- CAL_TUNE commands that wait for their fields to take effect: ring, descriptor, tiles (R331) -/
  tunes     : List (RingIx × Nat × BitVec 10)
deriving DecidableEq, Repr

def TreeRun.init : TreeRun :=
  { wave := 0, waveSize := 0, planned := false, nextTree := 0, nextOff := 0, prepared := [], leaves := [], statuses := [],
    crcRun := 0xFFFFFFFF#32, tableRerun := false }

def Kermes.init : Kermes :=
  { lost := false, frontBanks := 32, retired := [], bankEvents := [], singleErrs := 0, parityErrs := 0 }

def Sepia.init : Sepia := { retired := 0, laneEvents := [], lost := false, parityErrs := 0, katRuns := 0 }

def Sched.init : Sched :=
  { powerModel := 0, capExcess := 0, overMs := 0, excessCut := false, p4Cut := 0, p3Cut := 0,
    deficits := Vector.replicate 64 0, turn := 0, holdEvents := 0, holdErrs := 0, interKermesBad := false,
    atomicBad := 0, stackEvents := 0, transferErrs := 0,
    cmdErrs := 0, tunes := [] }

end Sys2Proof.Machine
end

