-- ==== Sys2Proof/Machine/TypesPower.lean ====
section
/-! DEFINITION. State of power entry, start-up, tray power states, alarms and the Woad sentinel (chapters 14, 15, 22). -/
namespace Sys2Proof.Machine

/-- Feed conditions (Tables 14-2, 21-8). -/
inductive FeedCond where
  | normal | low | lost | high | reversed | transient
deriving DecidableEq, Repr

/-- One feed: magnitude [10 mV], condition, and whether its input stage is connected (R360, R362). -/
structure Feed where
  mag  : W16
  cond : FeedCond
  connected : Bool
deriving DecidableEq, Repr

/-- Shutdown stages (Table 14-5). -/
inductive Stage where
  | none | s0 | s1 | s2 | s3 | s4
deriving DecidableEq, Repr

/-- Shutdown reasons (Table 14-6). -/
inductive Reason where
  | feedLoss | trip | bank
deriving DecidableEq, Repr

/-- Arguments of the last TIME_CONFIG (R374). -/
structure TimeArgs where
  numerology  : BitVec 3
  domain      : Byte
  ptpPorts    : Byte
  syncePort   : Option PortIx
  frameOffset : Int
  holdLimit   : W16
  slewMax     : W16
  asym        : Vector Int 6
  localPriority : Vector Byte 6
deriving DecidableEq, Repr

/-- The park journal in Woad retention memory (R374). -/
structure ParkJournal where
  valid     : Bool
  radio     : RadioSet
  fusion    : Vector (Option FusionEntry) 64
  models    : Vector (Option ModelSlot) 16
  images    : Vector (Option ImageEntry) 10
  members   : Vector (BitVec 10) 16
  epochs    : Vector W32 16
  role      : BitVec 2
  cap       : W16
  time      : TimeArgs
  /-- none where a warm restart without a shutdown wrote it: Table 14-6 names no reason for that -/
  reason    : Option Reason
  symbolCount : W64
  todSec    : BitVec 48
deriving DecidableEq, Repr

/-- What the tray waits for in S4 or OFF before it may restart. -/
inductive OffWait where
  | none
  /-- a feed good for 50 ms, then warm if `warm` still holds (R377) -/
  | feed (warm : Bool)
  /-- a power cycle only (R379, R393) -/
  | powerCycle
deriving DecidableEq, Repr

/-- Power entry and shutdown (chapter 14, Table 21-8). -/
structure Power where
  feeds     : Vector Feed 2
  bank      : W16
  charging  : Bool
  bankWeak  : Bool
  bankFail  : Bool
  bankCap   : W16
  pkgPower  : W16
  trayPower : W16
  capHost   : W16
  capInForce : W16
  /-- FEED_LOW holds the reduced cap (R362) -/
  feedLow   : Bool
  /-- a SHED rule is set (Table 15-10) -/
  shed      : Bool
  transients : W32
  stage     : Stage
  stageSC   : Vector W64 5
  reason    : Reason
  /-- magnitudes of feed A and B at S0 entry and at S2 entry [10 mV] -/
  feedAt    : Vector W16 4
  bankAt    : Vector W16 2
  s2done    : Bool
  s3done    : Bool
  journal   : Option ParkJournal
  shutdownSeq : W32
  offWait   : OffWait
  /-- Woad has kept its power since S2 (R377) -/
  woadKept  : Bool
  railsOn   : Bool
  railFaults : Nat
  /-- this slot's feed relay is open (R23) -/
  relayOpen : Bool
  /-- the other slot's relay, opened by this tray -/
  twinRelayOpen : Bool
deriving DecidableEq, Repr

/-- Start phases (Table 15-1). -/
inductive Phase where
  | rom | verify | firmware | restore | lock | selfcheck | settle | done | failed
deriving DecidableEq, Repr

/-- Tray power states (Table 15-5). -/
inductive PowerState where
  | off | deep | idle | standby | run
deriving DecidableEq, Repr

/-- Assembly variants (Table 0-1). -/
inductive Variant where
  | b | m | n
deriving DecidableEq, Repr

/-- A cause of an open alarm contact: contact (true MAJOR), event or table code, source (R575). -/
structure Alarm where
  major  : Bool
  code   : W16
  source : W16
deriving DecidableEq, Repr

/-- An event entry written on CQ 0 and not yet released: its CQ index and its code (R574). -/
structure PostedEvent where
  index : Nat
  code  : W16
  source : W16
deriving DecidableEq, Repr

/-- Start-up, tray state, alarms and debug (chapters 15, 22, R317, R337, R553, R566). -/
structure Tray where
  variant   : Variant
  phase     : Phase
  memReady  : Bool
  fallbackBank : Bool
  unclean   : Bool
  warm      : Bool
  startLate : Bool
  powerState : PowerState
  /-- state to enter at DONE -/
  goal      : PowerState
  restarts  : W32
  /-- a warm restart is due (R223, R309, R334, R389, R508) -/
  restartDue : Bool
  /-- a POWER_STATE that waits for its state -/
  powerCmd  : Option Fetched
  /-- DEEP requested: by a rule or by a command -/
  deepReq   : Bool
  alarms    : List Alarm
  posted    : List PostedEvent
  pendingEvents : List Entry
  locLamp   : Bool
  debugOn   : Bool
  challenge : Option (List Byte)
  failedUnlocks : Byte
  shelfSlot : Option Bool
  selfChecked : Bool
  /-- tiles that have left the start timeline (R388) -/
  lateTiles : BitVec 10
  /-- tiles that are READY in SETTLE -/
  settled   : BitVec 10
  tripHistory : Option W16
  /-- events posted since the last housekeeping round: code, source, data (R577) -/
  roundEvents : List (W16 × W16 × W16)
  takeoverCauses : List W16
deriving DecidableEq, Repr

/-- Woad rule record (Table 15-9). -/
structure Rule where
  channel  : Byte
  flags    : Byte
  action   : Byte
  states   : Byte
  setAt    : W16
  clearAt  : W16
  setDwell : W16
  clearDwell : W16
deriving DecidableEq, Repr

/-- One rule and its evaluation state (R403). -/
structure RuleState where
  rule   : Rule
  isSet  : Bool
  setCount : Nat
  clearCount : Nat
deriving DecidableEq, Repr

/-- One Woad channel: last raw values newest first, filter value with 8 fraction bits, freshness (R399, R400). -/
structure WoadChan where
  raw   : W16
  last1 : W16
  last2 : W16
  y     : Int
  shift : BitVec 3
  fresh : Bool
deriving DecidableEq, Repr

/-- The Woad sentinel (chapter 15, Table 21-12). -/
structure Woad where
  powered   : Bool
  rules     : Vector RuleState 16
  chans     : Vector WoadChan 12
  samples   : W32
  /-- a heartbeat has arrived in the sample period (Table 15-7) -/
  hbSeen    : Bool
  hclkCount : BitVec 17
  trimmed   : Bool
  badCounts : Nat
  hclkSampling : Bool
  ruleParity : Bool
  clockFault : Bool
  tripLatch : Bool
  tripRounds : Nat
  /-- FORCE_HANDOVER holds the custody-hold line low until firmware clears it (Table 15-10) -/
  forceHold : Bool
  liveness  : Bool
  roundLen  : BitVec 6
  /-- consecutive raw samples with both feeds below 38.0 V, and with a feed at or above 40.0 V (R371, R372) -/
  lowSamples : Nat
  goodSamples : Nat
deriving DecidableEq, Repr

def Feed.init : Feed := { mag := 5350, cond := .normal, connected := true }

def Power.init : Power :=
  { feeds := Vector.replicate 2 Feed.init, bank := 7500, charging := false, bankWeak := false, bankFail := false,
    bankCap := 0, pkgPower := 0, trayPower := 0, capHost := 450, capInForce := 450, feedLow := false, shed := false,
    transients := 0, stage := .none, stageSC := Vector.replicate 5 0, reason := .feedLoss,
    feedAt := Vector.replicate 4 0, bankAt := Vector.replicate 2 0, s2done := false, s3done := false, journal := none,
    shutdownSeq := 0, offWait := .none, woadKept := true, railsOn := true, railFaults := 0, relayOpen := false,
    twinRelayOpen := false }

def Tray.init : Tray :=
  { variant := .b, phase := .rom, memReady := false, fallbackBank := false, unclean := false, warm := false,
    startLate := false, powerState := .idle, goal := .run, restarts := 0, restartDue := false, powerCmd := none, deepReq := false,
    alarms := [], posted := [], pendingEvents := [], locLamp := false, debugOn := false, challenge := none,
    failedUnlocks := 0, shelfSlot := some false, selfChecked := false, lateTiles := 0, settled := 0, tripHistory := none, roundEvents := [],
    takeoverCauses := [] }

def Rule.disabled : Rule :=
  { channel := 0, flags := 0, action := 0, states := 0, setAt := 0, clearAt := 0, setDwell := 1, clearDwell := 1 }

def RuleState.of (r : Rule) : RuleState := { rule := r, isSet := false, setCount := 0, clearCount := 0 }

/-- The factory rule set (Table 15-11); temperatures in 1/16 degree, STATES bit order RUN, IDLE, STANDBY, DEEP. -/
def factoryRules : Vector RuleState 16 :=
  let r0 : Rule := { channel := 8, flags := 1, action := 1, states := 8, setAt := 0, clearAt := 1, setDwell := 24000,
                     clearDwell := 8 }
  let r1 : Rule := { channel := 6, flags := 3, action := 1, states := 8, setAt := 1, clearAt := 0, setDwell := 80,
                     clearDwell := 80 }
  let r2 : Rule := { channel := 5, flags := 1, action := 4, states := 15, setAt := 880, clearAt := 832,
                     setDwell := 64000, clearDwell := 64000 }
  let r3 : Rule := { channel := 5, flags := 3, action := 4, states := 15, setAt := BitVec.ofInt 16 (-80),
                     clearAt := BitVec.ofInt 16 (-32), setDwell := 64000, clearDwell := 64000 }
  let r4 : Rule := { channel := 5, flags := 1, action := 2, states := 1, setAt := 928, clearAt := 880,
                     setDwell := 64000, clearDwell := 65535 }
  let d := Vector.replicate 16 (RuleState.of Rule.disabled)
  put (put (put (put (put d 0 (RuleState.of r0)) 1 (RuleState.of r1)) 2 (RuleState.of r2)) 3 (RuleState.of r3)) 4
    (RuleState.of r4)

/-- Default SHIFT of each channel (Table 15-7). -/
def defaultShift (c : Nat) : BitVec 3 := if c = 3 ∨ c = 4 then 3 else if c = 5 then 5 else 0

def WoadChan.init (c : Nat) : WoadChan :=
  { raw := 0, last1 := 0, last2 := 0, y := 0, shift := defaultShift c, fresh := false }

def Woad.init : Woad :=
  { powered := true, rules := factoryRules, chans := Vector.ofFn (fun c => WoadChan.init c.val), samples := 0, hbSeen := false,
    hclkCount := 0, trimmed := false, badCounts := 0, hclkSampling := false, ruleParity := false, clockFault := false,
    tripLatch := false, tripRounds := 0, forceHold := false, liveness := false, roundLen := 2, lowSamples := 0,
    goodSamples := 0 }

end Sys2Proof.Machine
end

