-- ==== Sys2Proof/Machine/TypesRadio.lean ====
section
/-! DEFINITION. Fronthaul and radio state (chapter 09, R559). -/
namespace Sys2Proof.Machine

/-- Counters of one stream in the order of Table 9-3 (R559). -/
structure StreamCnt where
  rxOk : W32
  rxEarly : W32
  rxLate : W32
  rxMissing : W32
  rxFormat : W32
  rxSeqgap : W32
  txOk : W32
  txDrop : W32
deriving DecidableEq, Repr

/-- One fronthaul port (R559). -/
structure Port where
  signal  : Bool
  linkUp  : Bool
  dropFrame : W32
  dropEcpri : W32
  unmatched : W32
  ptpDrop : W32
  esmc    : W32
  /-- a module that is powered (R587, R592) -/
  powered : Bool
  /-- streams of the port are stopped (R262) -/
  stopped : Bool
deriving DecidableEq, Repr

/-- Counters of one radio group (R559). -/
structure GroupCnt where
  precisionMiss : W32
  slotDropped : W32
  lateDesc : W32
deriving DecidableEq, Repr

/-- C-plane section of a slot (Table 12-14). -/
structure CSection where
  stream : Fin 64
  sectionType : Byte
  startSym : Nat
  numSym : Nat
  sectionId : Nat
  startPrb : Nat
  numPrb : Nat
  reMask : BitVec 12
  freqOffset : Int
deriving DecidableEq, Repr

/-- Decompressed samples of one PRB of one antenna and OFDM symbol: 24 values, I and Q of 12 resource elements (R243). -/
structure PrbData where
  ant  : Nat
  sym  : Nat
  prb  : Nat
  vals : List Int
deriving DecidableEq, Repr

/-- One batch set of a slot (R254, R258, R259): whether it has started and has an outcome, its zero-filled PRBs, its job, the
code, the stale bit and the epoch of its outcome, and whether it started without custody (R470). -/
structure BatchSet where
  index   : Nat
  started : Bool
  done    : Bool
  missing : Nat
  job     : Option Nat
  code    : W16
  stale   : Bool
  epoch   : W32
  noCustody : Bool
deriving DecidableEq, Repr

/-- A radio slot in work for one group (R252). -/
structure RadioSlot where
  group   : GroupIx
  ring    : RingIx
  id      : Nat
  desc    : Descriptor
  /-- slots since the GPS epoch (R250) -/
  slotNo  : W64
  /-- SWAP_EPOCH of group 0 under which the slot is parsed (R273) -/
  mapEpoch : W32
  entry   : GroupEntry
  cplane  : List CSection
  weights : List (W64 × W32)
  /-- layer data in input staging, once fetched (R257) -/
  layers  : List Byte
  fetched : Bool
  /-- decompressed uplink samples, or precoded downlink samples, in the fronthaul region -/
  prbs    : List PrbData
  sets    : List BatchSet
  /-- sets whose completion has been posted: those below this index -/
  posted  : Nat
  txSkipped : List Nat
  txSent  : List Nat
  cplaneSent : Bool
  /-- symbol count at which its C-plane messages were withheld for lack of custody (R469, R472) -/
  cplaneHeld : Option W64
deriving DecidableEq, Repr

/-- Kept weights of a group: NPRB, PRBG and the table (R252, R261). -/
structure KeptWeights where
  nprb : W16
  prbg : Byte
  table : List (W64 × W32)
deriving DecidableEq, Repr

/-- A frame the tray has transmitted on a fronthaul port (output trace). -/
structure TxFrame where
  port : PortIx
  bytes : List Byte
deriving DecidableEq, Repr

/-- Radio runtime (chapter 09, R390). -/
structure Radio where
  streams  : Vector StreamCnt 64
  rxSeq    : Vector (Option Byte) 64
  /-- eCPRI sequence per stream and direction of what is transmitted: downlink, uplink (Table 9-1) -/
  txSeqDl  : Vector Byte 64
  txSeqUl  : Vector Byte 64
  ports    : Vector Port 6
  groups   : Vector GroupCnt 16
  slots    : List RadioSlot
  kept     : Vector (Option KeptWeights) 16
  missRun  : Vector Nat 16
  lateRun  : Vector Nat 16
  /-- the first slot of the mapping that the last radio swap made active (R273) -/
  swapSlot : Option W64
  /-- streams restored but held until time is locked (R390) -/
  held     : W64
  txFrames : List TxFrame
deriving DecidableEq, Repr

def StreamCnt.init : StreamCnt :=
  { rxOk := 0, rxEarly := 0, rxLate := 0, rxMissing := 0, rxFormat := 0, rxSeqgap := 0, txOk := 0, txDrop := 0 }

def Port.init : Port :=
  { signal := false, linkUp := false, dropFrame := 0, dropEcpri := 0, unmatched := 0, ptpDrop := 0, esmc := 0,
    powered := false, stopped := false }

def Radio.init : Radio :=
  { streams := Vector.replicate 64 StreamCnt.init, rxSeq := Vector.replicate 64 none, txSeqDl := Vector.replicate 64 0,
    txSeqUl := Vector.replicate 64 0, ports := Vector.replicate 6 Port.init,
    groups := Vector.replicate 16 ⟨0, 0, 0⟩, slots := [], kept := Vector.replicate 16 none,
    missRun := Vector.replicate 16 0, lateRun := Vector.replicate 16 0, swapSlot := none, held := 0, txFrames := [] }

end Sys2Proof.Machine
end

