-- ==== Sys2Proof/Machine/TypesStore.lean ====
section
/-! DEFINITION. State of the flash arrays and of thermal management (chapters 16, 17; R561, R564). -/
namespace Sys2Proof.Machine

/-- The three flash arrays a journal record names (Table 16-4 ARRAY). -/
inductive FlashArray where
  | archive | code0 | code1
deriving DecidableEq, Repr

/-- Erase units (Table 16-4 UNIT). -/
inductive EraseUnit where
  | sector4k | block64k | codeSector | codeJournal
deriving DecidableEq, Repr

/-- Origins of a flash write: one queue entry each (R419). -/
inductive WriteOrigin where
  | charRecord (tile : TileIx)
  | runRecord (tile : TileIx)
  | oscTable
  | woadRules
  | eventArchive
  | hostCommand (ring : RingIx) (id : Nat)
  | shutdownRecord
  | oneTime
  | reErase
  | journalMove
  /-- an operation of the flash unit of a Xelin core (R537) -/
  | core (k : CoreIx)
deriving DecidableEq, Repr

/-- A step of a flash work list. An address of a code array from 0x40_0000 up lies in its information area. -/
inductive FlashStep where
  /-- erase one unit by R421: array, unit kind, address, tries so far, SEQ of its INTENT (0: INTENT not yet written) -/
  | erase (arr : FlashArray) (unit : EraseUnit) (addr : Nat) (tries : Nat) (intent : W32)
  /-- program one page: array, address, bytes (R417) -/
  | page (arr : FlashArray) (addr : Nat) (bytes : List Byte)
  /-- erase, or margin-read, one unit with no journal (R537) -/
  | rawErase (arr : FlashArray) (unit : EraseUnit) (addr : Nat)
  | rawMargin (arr : FlashArray) (unit : EraseUnit) (addr : Nat)
deriving DecidableEq, Repr

/-- One flash write in work or queued: its origin, its remaining steps, whether it has been retried (R164). -/
structure FlashWork where
  origin : WriteOrigin
  steps  : List FlashStep
  all    : List FlashStep
  retried : Bool
deriving DecidableEq, Repr

/-- What the controller of an array is doing; `intent` programs the INTENT of an erase. -/
inductive FlashPhase where
  | idle | intent | erasing | marginReading | programming
deriving DecidableEq, Repr

/-- An FW_UPDATE in progress: bank and length (R429). -/
structure FwUpdate where
  bank : Bool
  length : Nat
  ring : RingIx
  id   : Nat
deriving DecidableEq, Repr

/-- What a bank's main array holds: an image that VERIFY accepts but for its anti-rollback check, and its ROLLBACK
(R394, R428). -/
structure BankImage where
  good : Bool
  rollback : Nat
deriving DecidableEq, Repr

/-- Erases of one unit so far (R432). -/
structure UnitCount where
  arr  : FlashArray
  addr : Nat
  count : Nat
deriving DecidableEq, Repr

/-- Code flash and archive flash (chapter 16, Table 21-13). -/
structure Flash where
  archive  : List Host.Cell
  main0    : List Host.Cell
  main1    : List Host.Cell
  info0    : List Host.Cell
  info1    : List Host.Cell
  /-- works of the archive controller and of the code controller, oldest first; the heads are in work -/
  archWork : List FlashWork
  codeWork : List FlashWork
  archPhase : FlashPhase
  codePhase : FlashPhase
  images   : Vector BankImage 2
  /-- units marked half-erased: array and first address (R423) -/
  halfErased : List (FlashArray × Nat)
  /-- units whose erase has failed twice: writes to them wait for the next start (R434) -/
  failedUnits : List (FlashArray × Nat)
  /-- writes refused for temperature, one per origin (R419) -/
  tempQueue : List FlashWork
  /-- SEQ of the newest journal record of the archive and of the code flash, active halves, and records used in them -/
  archSeq  : W32
  codeSeq  : W32
  archHalf : Bool
  codeHalf : Vector Bool 2
  archUsed : Nat
  codeUsed : Vector Nat 2
  runningBank : Bool
  selectedBank : Bool
  eraseCounts : List UnitCount
  eventSeq : W32
  eventPtr : Nat
  eventBuf : List (List Byte)
  shutPtr  : Nat
  oscSeq   : W32
  ruleSeq  : W32
  archDead : Bool
  fwUpdate : Option FwUpdate
  /-- board temperature at the archive flash and Madder junction maximum [1/16 degree] (R418) -/
  boardTemp : Int
  madderTemp : Int
  oneTimeBad : Bool
  /-- the archive journal could not be read at the last start: no calibration record is valid (R434) -/
  archUnread : Bool
deriving DecidableEq, Repr

/-- Threshold state of one zone for one threshold (R439). -/
structure Threshold where
  on : Bool
  above : Nat
  below : Nat
deriving DecidableEq, Repr

/-- One housekeeping channel (R437, R438): value, stamp, last raw code, repeats. -/
structure HkChan where
  value : W16
  stamp : W16
  raw   : W16
  repeats : Nat
  broken : Bool
deriving DecidableEq, Repr

/-- Thermal management (chapter 17, Table 21-9). -/
structure Thermal where
  chans    : Vector HkChan 64
  zoneMax  : Vector (W16 × W16) 23
  boardMax : W16 × W16
  inletMax : W16 × W16
  pkgMax   : W16 × W16
  warn     : Vector Threshold 23
  skip     : Vector Threshold 23
  divide   : Vector Threshold 23
  handover : Vector Threshold 23
  /-- CCLK runs at half its rate: it follows the threshold at a heater frame boundary (R441) -/
  divideOn : Bool
  hkRound  : BitVec 6
  nextRound : BitVec 6
  roundCount : W32
  fanSpeed : BitVec 7
  fanFailed : BitVec 5
  /-- rounds a tap ratio of a tile has been 0.5 dB below its reference (R68): (tile, row, group, rounds) -/
  tapLow   : List (TileIx × Nat × Nat × Nat)
  /-- the read-back of a contact disagrees (R578) -/
  contactFault : Bool
  /-- SCLK each tile has spent under SKIP in the current 24 h, when those began, and when the last round ended (Table 17-5) -/
  skipTime : Vector Nat 10
  skipSince : W64
  lastRound : W64
deriving DecidableEq, Repr

def Flash.init : Flash :=
  { archive := [], main0 := [], main1 := [], info0 := [], info1 := [], archWork := [], codeWork := [], archPhase := .idle,
    codePhase := .idle, images := Vector.ofFn (fun b => { good := decide (b.val = 0), rollback := 0 }),
    halfErased := [], failedUnits := [], tempQueue := [], archSeq := 0, codeSeq := 0,
    archHalf := false, codeHalf := Vector.replicate 2 false, archUsed := 0, codeUsed := Vector.replicate 2 0,
    runningBank := false, selectedBank := false, eraseCounts := [], eventSeq := 0,
    eventPtr := 0, eventBuf := [], shutPtr := 0, oscSeq := 0, ruleSeq := 0, archDead := false, fwUpdate := none,
    boardTemp := 400, madderTemp := 400, oneTimeBad := false, archUnread := false }

def Threshold.init : Threshold := { on := false, above := 0, below := 0 }
def HkChan.init : HkChan := { value := 0, stamp := 0, raw := 0, repeats := 0, broken := false }

def Thermal.init : Thermal :=
  { chans := Vector.replicate 64 HkChan.init, zoneMax := Vector.replicate 23 (0, 0), boardMax := (0, 0),
    inletMax := (0, 0), pkgMax := (0, 0), warn := Vector.replicate 23 Threshold.init,
    skip := Vector.replicate 23 Threshold.init, divide := Vector.replicate 23 Threshold.init,
    handover := Vector.replicate 23 Threshold.init, divideOn := false, hkRound := 2, nextRound := 2, roundCount := 0,
    fanSpeed := 30, fanFailed := 0, tapLow := [], contactFault := false,
    skipTime := Vector.replicate 10 0, skipSince := 0, lastRound := 0 }

end Sys2Proof.Machine
end

