-- ==== Sys2Proof/Machine/TypesTile.lean ====
section
/-! DEFINITION. State of one optical tile: laser, mesh latches, converters, heaters and calibration (chapters 02 to 05). -/
namespace Sys2Proof.Machine

/-- Tile states (Table 2-5). -/
inductive TileState where
  | off | dark | warm | ready | serving | maint | faulted
deriving DecidableEq, Repr

/-- Laser stripe states (block 0x0104, Table 5-7). -/
inductive StripeState where
  | spare | lit | worn | failed
deriving DecidableEq, Repr

/-- One laser stripe: state and bias setpoint [1/16 mA]. -/
structure Stripe where
  state : StripeState
  bias  : W16
deriving DecidableEq, Repr

/-- The Saffron chiplet of a tile (R32-R36). -/
structure Laser where
  stripes  : Vector Stripe 4
  lit      : Fin 4
  locked   : Bool
  t0Set    : W16
  t6Set    : W16
  /-- offset of the lit stripe from the ring resonance nearest 1310.0 nm [pm] (R35) -/
  offsetPm : Int
  /-- a stripe change planned for a gap (R33) -/
  changeDue : Bool
  /-- a spare or changed stripe is locking, or its gain is being traced, inside a REPAIR gap (R78) -/
  changing : Bool
  /-- the lit stripe has not regained lock within 1.5 s while the tile served its batch (R74, R78) -/
  timedOut : Bool
deriving DecidableEq, Repr

/-- Phase codes as (index, code), index rising, no entry equal to the zero matrix's code at that index (R52, R55). -/
abbrev Image := List (Nat × BitVec 10)

/-- One latch set (R60): the mirror's codes, the segment selection and the parity bit of every physical shifter (none while
the latches hold nothing), and the segment-map revision that translated them (R76). -/
structure Latch where
  image    : Image
  sel      : List (BitVec 13)
  parity   : List Bool
  mapRev   : Nat
  complete : Bool
deriving DecidableEq, Repr

/-- What a shadow load is for: a tile group's staged set (R269), a batch of a job (R61), or the same image under new segment
maps (R76). -/
inductive LoadUse where
  | commit
  | batch (job : Nat)
  | reload
deriving DecidableEq, Repr

/-- A shadow load: its codes, what it is for, its level, and whether it was started before its swap's boundary (R64). -/
structure ShadowLoad where
  image    : Image
  use      : LoadUse
  level    : Nat
  hidden   : Bool
deriving DecidableEq, Repr

/-- Mesh latches and segment-map bookkeeping of a tile (R49-R64, R75, R76). -/
structure Mesh where
  active   : Latch
  shadow   : Latch
  load     : Option ShadowLoad
  /-- loads that wait for the shadow latches, or that a higher level displaced, the next first (Table 2-7) -/
  loadQueue : List ShadowLoad
  mapRev   : Nat
  /-- the drift (θ, φ) of each zone in Umber's segment maps (R139) -/
  mapDz    : Vector (Int × Int) 128
  /-- selections of the single latches of the input and LO port shifters (R40) -/
  ports    : List (BitVec 13)
  /-- a segment-map update waits for the load in progress (R76) -/
  mapWaits : Bool
  /-- a swap that fell while the tile was in MAINT, applied at the restore (R75) -/
  swapAtRestore : Bool
  /-- a swap requested inside a Q5 to Q7 pass: it takes effect at the next pass boundary (R63) -/
  swapWaits : Bool
  /-- vectors are held for a swap since this symbol count (R64, R274) -/
  heldFrom : Option (BitVec 64)
  /-- latch parity errors (Table 2-8) -/
  parityErrs : Nat
  /-- parity errors of the shadow image since its last load (R283) -/
  parityRetries : Nat
deriving DecidableEq, Repr

/-- Interleave coefficients of one ADC pair (Table 3-1 steps 1 to 3). -/
structure Interleave where
  ofs0  : BitVec 10
  ofs1  : BitVec 10
  gain0 : W16
  gain1 : W16
  skew  : Byte
deriving DecidableEq, Repr

/-- Offset and gain of one stream (Table 3-1 step 4). -/
structure StreamCal where
  ofs  : BitVec 10
  gain : W16
deriving DecidableEq, Repr

/-- Moments of the raw samples of one ADC pair (R92): per half the count, the sum and the sum of squares; the sums of products
of half-0 samples with the following and with the preceding half-1 sample. -/
structure PairSums where
  n0 : Nat
  n1 : Nat
  s0 : Int
  s1 : Int
  q0 : Nat
  q1 : Nat
  pf : Int
  pp : Int
deriving DecidableEq, Repr

/-- One buffer of the statistics collectors (R92): the moments of every pair, and per stream the sum and the sum of squares of
the corrected samples, in units of 2^-10 and 2^-20. -/
structure Collector where
  pairs   : Vector PairSums 256
  streams : Vector (Int × Nat) 256
deriving DecidableEq, Repr

/-- Converters, monitor scan and test DAC of a tile (R85-R102, Table 21-7). -/
structure Convert where
  pairs     : Vector Interleave 256
  pairsNext : Vector Interleave 256
  /-- per-stream offset and gain, active and shadow (R86, R87) -/
  streams   : Vector StreamCal 256
  streamsNext : Vector StreamCal 256
  updateReq : Bool
  /-- the window that is open, and the last one that closed (R92) -/
  open_     : Collector
  closed    : Collector
  /-- the last value of the output port, and the CAL_EPOCH in force when it was computed (R150) -/
  outLast   : List (BitVec 12)
  outEpoch  : W32
  clip      : W32
  codeClamp : W32
  /-- clipped passes in the open collector window (R133) -/
  windowClips : Nat
  /-- a MAINT symbol fell in the open collector window (R133) -/
  windowMaint : Bool
  /-- a usable window has been applied since the tile's power-up (R391) -/
  windowUsed : Bool
  scanMask  : W64
  nextMask  : Option W64
  /-- the running mask, kept while a step runs under its own (Table 5-8) -/
  savedMask : Option W64
  scanIdle  : Bool
  round     : W16
  mon       : Vector (BitVec 12 × W16) 64
  monBad    : Nat
  /-- receiver, component (true Q) and code of a connected test DAC (R99, R100) -/
  testDac   : Option (Fin 128 × Bool × BitVec 10)
  testDacBad : Bool
deriving DecidableEq, Repr

/-- One heater PWM channel (R112-R120). -/
structure Heater where
  attr     : Byte
  queue    : List (BitVec 12)
  code     : BitVec 12
  powerUp  : BitVec 12
  underrun : W16
  overflow : W16
  /-- consecutive underrun frames (R120) -/
  starved  : Nat
  /-- HOLD in force: later writes are discarded (R120) -/
  held     : Bool
  /-- consecutive frames saturated at 0 or at 4095 (R121, R130) -/
  satLow   : Nat
  satHigh  : Nat
deriving DecidableEq, Repr

/-- One trim zone (Table 4-3, R139). -/
structure TrimZone where
  setpt : BitVec 12
  aRef  : BitVec 10
  kff   : BitVec 12
  af    : Int
  drift : Int
  dzTheta : Int
  dzPhi : Int
  /-- an open heater limits the tile to Q4 and Q5 (Table 4-6) -/
  openHeater : Bool
  /-- frames in which the zone's code was clamped (R121) -/
  satCount : W32
deriving DecidableEq, Repr

/-- Heater drive and trim loop of a tile (R112-R130). -/
structure HeaterDrive where
  chans    : Vector Heater 136
  zones    : Vector TrimZone 128
  c        : Vector Int 16
  kfb      : Vector Byte 16
  ffShift  : BitVec 3
  slew     : Bool
  /-- requested mode, with the CAL_TUNE that waits for it (R127) -/
  slewWant : Option Bool
  slewStep : BitVec 5
  residValid : Bool
  meanSq   : Nat
  resid    : Byte
  peak     : Byte
  residMax : Byte
  sourceConflict : Bool
  controlFault : Bool
  overcurrent : Bool
  /-- symbol count of the last overcurrent (Table 4-6) -/
  overAt : Option W64
  /-- the frame counter, on CCLK (R112) -/
  counter  : BitVec 12
  /-- a control fault acts at the next frame boundary (R120) -/
  faultDue : Bool
  /-- every channel is forced to code 0 by a thermal TRIP (R120) -/
  tripped  : Bool
  /-- the activity index that the ramp of SLEW mode limits, and whether it holds vectors or presents ballast (R126) -/
  activity : Int
  passGate : Bool
  ballast  : Bool
  /-- DRIFT frozen by a bad trim thermistor (Table 4-6) -/
  driftFrozen : Bool
deriving DecidableEq, Repr

/-- Characterisation steps (Table 5-3). -/
inductive StepKind where
  | segCol (u : Bool) (col : Nat)
  | segD
  | segPort (lo : Bool)
  | portAlign
  | dacTable (g : Fin 8)
  | streamCal (g : Fin 8)
  | gainTrace
  | lossRef
  | pathTest (receiver : Fin 128) (q : Bool)
  | colCheck (u : Bool) (col : Nat)
deriving DecidableEq, Repr

/-- Gap kinds (Table 5-4). -/
inductive GapKind where
  | idle | declared | repair
deriving DecidableEq, Repr

/-- A gap open on a tile: its kind, whether it has ended, its counted steps and overruns (R144, R330), and whether a declared gap
goes on beneath a repair. -/
structure Gap where
  kind   : GapKind
  ended  : Bool
  steps  : Nat
  overruns : Nat
  beneath : Bool
deriving DecidableEq, Repr

/-- What the Kermes die gathers of a tile's sampled passes in a drift window (R136), in units of 2^-8: x·x^H row by row, y_k·y_k*,
and y_k·y*_(k+1); and what makes the window unusable (R137). Empty lists stand for zeros. -/
structure DriftWindow where
  passes  : Nat
  sampled : Nat
  xx      : List (Int × Int)
  yy      : List Int
  yy1     : List (Int × Int)
  /-- the image of the first sampled pass -/
  image   : Option Image
  mixed   : Bool
  maint   : Bool
  residBad : Bool
deriving DecidableEq, Repr

/-- Calibration state of a tile (chapter 05). -/
structure Calib where
  epoch      : W32
  degraded   : Bool
  /-- the factory record was invalid when a start needed it (R159) -/
  factoryBad : Bool
  windowN    : Nat
  driftStride : Nat
  driftWindow : Nat
  charPeriod : W16
  starved    : Bool
  /-- steps still to run of the routine pass (empty with `passOpen` false: none) -/
  steps      : List StepKind
  passOpen   : Bool
  /-- on-demand steps -/
  demand     : List StepKind
  gap        : Option Gap
  /-- step in progress and its units still to run -/
  step       : Option (StepKind × Nat)
  /-- results of the units of the step in progress -/
  stepResults : List (Nat × Nat × Byte)
  /-- points that the path test in progress has measured (R101) -/
  stepPoints : List PathPoint
  /-- results of completed steps wait for the restore (R152): (block, offset, byte) -/
  results    : List (Nat × Nat × Byte)
  overrunCount : W32
  overrunMax : W32
  charSeq    : W32
  runSeq     : W32
  baseSeq    : W32
  changed    : Bool
  sealedChar : Bool
  sealedRun  : Bool
  /-- a repair ends with a characterisation seal (R153) -/
  sealAfter : Bool
  driftBad   : Nat
  drift      : DriftWindow
  /-- zones at the 256 limit, with those of their columns that have not been characterised since (R140): true U -/
  zonesHeld  : List (Fin 128 × List (Bool × Nat))
  /-- port groups whose receivers are being tested after an alarm of the last row of Table 2-4 -/
  rxAlarm    : List (Fin 8)
  retiredV   : List (Fin 66)
  retiredU   : List (Fin 66)
  /-- coefficient bytes that differ from the factory's, keyed block * 2^24 + offset, keys rising (R154) -/
  coefs      : List Host.Cell
deriving DecidableEq, Repr

/-- One tile (R72, Table 21-7). -/
structure Tile where
  state    : TileState
  /-- a timed transition in progress: its goal (R73) -/
  moving   : Option TileState
  laser    : Laser
  mesh     : Mesh
  conv     : Convert
  heat     : HeaterDrive
  cal      : Calib
  lateSwap : W32
  /-- SKIP 0 none, 1 one in 4, 2 one in 2 (R440) -/
  skip     : BitVec 2
  /-- swap group, none while pooled (R265) -/
  group    : Option GroupIx
  /-- no new batches: a REST waits for the running ones (R332) -/
  resting  : Bool
  /-- MAINT is due at the next pass boundary, for coefficients written by COEF_WRITE (R337) -/
  maintDue : Bool
  /-- a command that waits for the tile to reach a state: ring, descriptor, state (R331, R332) -/
  control  : Option (RingIx × Nat × TileState)
  /-- the segment the tile runs: job id -/
  job      : Option Nat
  /-- the segment that core 1 has placed behind it: job id; its image loads meanwhile (R17, R61) -/
  next     : Option Nat
  batchFormat : BitVec 3
  /-- frozen latches of S2 (R373) -/
  frozen   : Bool
  partSkip : W32
deriving DecidableEq, Repr

end Sys2Proof.Machine
end

