-- ==== Sys2Proof/Machine/TypesTime.lean ====
section
/-! DEFINITION. State of the time unit, the PTP servo and the event comparators (chapter 08). -/
namespace Sys2Proof.Machine

/-- Sync states (Table 8-3). -/
inductive SyncState where
  | freerun | acquiring | locked | holdIn | holdOut
deriving DecidableEq, Repr

/-- Time of an event: an absolute symbol count or a tuple (R236). -/
inductive EventTime where
  | absolute (sc : W64)
  | tuple (sfn : BitVec 10) (subframe : BitVec 4) (slot : Bool) (sym : BitVec 4) (offset : W32)
deriving DecidableEq, Repr

/-- Event actions (Table 8-5). A swap or notify carries the descriptor (`ring`, `id`) that armed it; a gap end the result of its gap. -/
inductive EventAction where
  | radioSwap (bySetSwap : Bool)
  | tileSwap (group : GroupIx)
  | gapEnd (tiles : BitVec 10)
  | gapStart (tiles : BitVec 10) (duration : W32) (endCmp : Fin 64)
  | notify
  /-- the second comparator of an armed GAP_DECLARE, taken and not yet timed (R330) -/
  | reserved
deriving DecidableEq, Repr

/-- One event comparator in use (R236). -/
structure ArmedEvent where
  time   : EventTime
  action : EventAction
  ring   : RingIx
  id     : Nat
  tag    : W32
deriving DecidableEq, Repr

/-- A PTP master that an Announce has shown on a port (R224, R227). -/
structure Master where
  port      : PortIx
  identity  : W64
  /-- clockClass, clockAccuracy, offsetScaledLogVariance, priority2 and the master's identity in the profile's comparison order -/
  rank      : Nat
  announces : Nat
deriving DecidableEq, Repr

/-- Holdover bound parameters (R231): e0 in ns, the symbol count at which t starts, and whether SyncE holds frequency. -/
structure Holdover where
  e0        : Nat
  startSC   : W64
  withSyncE : Bool
deriving DecidableEq, Repr

/-- The time unit and its servo (R217-R239, Table 21-6). -/
structure TimeUnit where
  symbolCount : W64
  rootLock    : Bool
  lockFails   : Nat
  rootFaults24 : Nat
  todSec      : BitVec 48
  todTick     : W32
  latchHi     : W32
  latchSec    : BitVec 48
  latchTick   : W32
  latchMark   : BitVec 19
  numerology  : BitVec 3
  domain      : Byte
  ptpPorts    : Byte
  syncePort   : Option PortIx
  frameOffset : Int
  holdLimit   : W16
  slewMax     : W16
  asym        : Vector Int 6
  localPriority : Vector Byte 6
  syncState   : SyncState
  slewing     : Bool
  /-- phase offset still being slewed out [ns] (R231) -/
  slewLeft    : Int
  synceValid  : Bool
  ptpPort     : Option PortIx
  master      : Option Master
  masters     : List Master
  lastAnnounceSC : W64
  clockFault  : Bool
  holdover    : Option Holdover
  ptpOffset   : Int
  oscTuning   : BitVec 24
  /-- last steered word, kept for FREERUN and holdover (R221) -/
  oscSteered  : BitVec 24
  oscTable    : Vector Int 141
  oscHeld     : Bool
  rejects     : Nat
  steppedOnce : Bool
  comparators : Vector (Option ArmedEvent) 64
  /-- Delay_Resp correction awaited, per port (R224) -/
  delayReqs   : Nat
deriving DecidableEq, Repr

/-- GPS epoch in PTP seconds (R231). -/
def gpsEpoch : BitVec 48 := 315964819

/-- The time unit at the first SCLK of a start, before root lock (R219, R230, R231; Table 21-6 reset values). -/
def TimeUnit.init : TimeUnit :=
  { symbolCount := 0, rootLock := false, lockFails := 0, rootFaults24 := 0, todSec := gpsEpoch, todTick := 0, latchHi := 0,
    latchSec := 0, latchTick := 0, latchMark := 0, numerology := 1, domain := 24, ptpPorts := 0, syncePort := none,
    frameOffset := 0, holdLimit := 1100, slewMax := 10, asym := Vector.replicate 6 0,
    localPriority := Vector.replicate 6 128, syncState := .freerun, slewing := false, slewLeft := 0, synceValid := false,
    ptpPort := none, master := none, masters := [], lastAnnounceSC := 0, clockFault := false, holdover := none,
    ptpOffset := 0, oscTuning := 0x800000, oscSteered := 0x800000, oscTable := Vector.replicate 141 0, oscHeld := false,
    rejects := 0, steppedOnce := false, comparators := Vector.replicate 64 none, delayReqs := 0 }

end Sys2Proof.Machine
end

