-- ==== Sys2Proof/Machine/TypesTwin.lean ====
section
/-! DEFINITION. State of twin operation: roles, custody, the Seliviuk link and the mirror (chapter 18, Table 21-11). -/
namespace Sys2Proof.Machine

/-- Twin roles (Table 1-7). -/
inductive Role where
  | alone | active | standby | share
deriving DecidableEq, Repr

/-- Pair states (Table 18-1). -/
inductive PairState where
  | none | linked | resync | synced | mirrorLost | linkDown
deriving DecidableEq, Repr

/-- Link states (Table 18-4). -/
inductive LinkState where
  | up | up1 | training | down
deriving DecidableEq, Repr

/-- A Seliviuk frame (Table 18-3). LENGTH is the payload's length, and the reserved bytes are 0. -/
structure Frame where
  type    : Byte
  flags   : Byte
  seq     : W32
  ackSeq  : W32
  payload : List Byte
  /-- CHECK -/
  check   : W32
deriving DecidableEq, Repr

/-- A planned handover in progress: the transfer point and whether this tray releases (R474). -/
structure HandoverRun where
  /-- in SCLK of radio time -/
  at_     : W64
  releasing : Bool
  /-- the transfer point has passed -/
  passed    : Bool
  /-- the HANDOVER command that waits, none for a takeover request -/
  cmd     : Option Fetched
deriving DecidableEq, Repr

/-- Twin state. -/
structure Twin where
  role      : Role
  pairState : PairState
  linkState : LinkState
  replaying : Bool
  grant     : Bool
  hold      : Bool
  req       : Bool
  /-- the other slot's request and the shelf's holder: none, this slot (false) or the other (true) -/
  twinReq   : Bool
  holder    : Option Bool
  takeoverReq : Bool
  takeoverRefused : Bool
  /-- this tray refuses the twin's request (R475) -/
  refusing  : Bool
  twinHold  : Bool
  hbTimeout : BitVec 11
  relayDelay : BitVec 10
  hbRx      : W32
  replays   : W32
  journalLag : W32
  relayCycles : BitVec 2
  hbLast    : List Byte
  hbCount   : W32
  /-- the heartbeat status block has been refreshed in time (R460) -/
  hbFresh   : Bool
  hbRunning : Bool
  timerOn   : Bool
  extended  : Bool
  txSeq     : W32
  rxSeq     : W32
  unacked   : List Frame
  replayTries : Nat
  trainFails : Nat
  badFrames : W32
  handover  : Option HandoverRun
  roleCmd   : Option (Fetched × Role)
  journalSeq : W32
  journalAck : W32
  /-- SADDR ranges referenced by sets committed since the last acknowledged entry (R467) -/
  dirty     : List (Nat × Nat)
  /-- SET_COMMITs that wait for the twin's acknowledgement: ring, descriptor id, group, their journal entry (R280) -/
  commitWaits : List (RingIx × Nat × GroupIx × W32)
  /-- custody has been seized, or PAIR_STATE NONE was reached after losing a twin (R476) -/
  seized    : Bool
  /-- relay-cycle delay running (R476) -/
  delayRunning : Bool
  /-- symbol count of a custody-logic fault, from which HOLD and REQ stay low for 1 ms (Table 18-9) -/
  custodyFault : Option W64
  chainSums : List (Nat × Nat × Int)
  sent      : List Frame
deriving DecidableEq, Repr

def Twin.init : Twin :=
  { role := .alone, pairState := .none, linkState := .training, replaying := false, grant := false, hold := false,
    req := false, twinReq := false, holder := none, takeoverReq := false, takeoverRefused := false, refusing := false, twinHold := false,
    hbTimeout := 200, relayDelay := 10, hbRx := 0, replays := 0, journalLag := 0, relayCycles := 0,
    hbLast := List.replicate 32 0, hbCount := 0, hbFresh := false, hbRunning := false, timerOn := false,
    extended := false, txSeq := 1, rxSeq := 0, unacked := [], replayTries := 0, trainFails := 0, badFrames := 0,
    handover := none, roleCmd := none, journalSeq := 0, journalAck := 0, dirty := [], commitWaits := [],
    seized := false, delayRunning := false, custodyFault := none, chainSums := [], sent := [] }

end Sys2Proof.Machine
end

