-- ==== Sys2Proof/Machine/TypesXelin.lean ====
section
/-! DEFINITION. State of the Xelin control cores and of the extension slot (chapters 19, 20; R565). -/
namespace Sys2Proof.Machine

/-- Core states (R565 CORE_STATE). -/
inductive CoreState where
  | running | faultMode | halted | restarting
deriving DecidableEq, Repr

/-- Operand ports of one core (Table 20-4). -/
structure Operands where
  limmHi  : W32
  aluA    : W32
  mulA    : W32
  cmpA    : W32
  cmpG    : W32
  lsuBase : W32
  lsuData : W32
  mbxH    : W32
  mbxResult : W32
  mbxReshi : W32
  mbxDetail : W32
  mbxFlags : W32
  xfrLocal : W32
  xfrFar0 : W32
  xfrFar1 : W32
  xfrFar2 : W32
  xfrFar3 : W32
  xfrLen  : W32
  flsArray : W32
  flsAddrLo : W32
  flsAddrHi : W32
  flsLocal : W32
  flsLen  : W32
  csrData : W32
deriving DecidableEq, Repr

/-- Result ports of one core (Table 20-5). -/
structure Results where
  limm : W32
  alu  : W32
  mul  : W32
  cmp  : W32
  lsu  : W32
  tag  : W32
  mbx  : W32
  xfr  : W32
  fls  : W32
  tmrLo : W32
  tmrMid : W32
  tmrHi : W32
  csr  : W32
deriving DecidableEq, Repr

/-- The last trap's record (R505, Table 20-12 registers 0x10 to 0x17). -/
structure TrapRecord where
  cause : BitVec 29
  pc    : BitVec 29
  slot  : BitVec 29
  port  : BitVec 29
  tag   : BitVec 29
  addr  : BitVec 29
  ddepth : BitVec 29
  rdepth : BitVec 29
  sc    : W64
deriving DecidableEq, Repr

/-- What the mailbox unit of a core is doing (Table 20-11). -/
inductive MbxState where
  | idle
  | receiving
  | waiting (handle : BitVec 29)
deriving DecidableEq, Repr

/-- A valid command handle: its payload, its ring and its descriptor (R512). -/
structure CmdHandle where
  ref   : BitVec 29
  ring  : RingIx
  cmd   : Fetched
deriving DecidableEq, Repr

/-- A submission of a forwarded command: handle, the command it belongs to, and its completion once there is one (R513, R533). -/
structure Submission where
  ref    : BitVec 29
  parent : BitVec 29
  ring   : RingIx
  id     : Nat
  done   : Option Entry
deriving DecidableEq, Repr

/-- A transfer in progress (R536). -/
structure Transfer where
  write : Bool
  localAddr : Nat
  far   : W64
  len   : Nat
  /-- its result is discarded: the core has trapped since (R505) -/
  discard : Bool
deriving DecidableEq, Repr

/-- One Xelin core. -/
structure Core where
  state    : CoreState
  pc       : W32
  /-- a branch in flight: its target and the delay slots still to issue (R488) -/
  branch   : Option (W32 × Nat)
  /-- G7 to G0; bit 0 is always 1 (R487) -/
  guards   : Byte
  ops      : Operands
  res      : Results
  dstack   : List W32
  rstack   : List W32
  faultVector : Option W32
  trap     : TrapRecord
  restarts : W32
  /-- symbol counts of the restarts of the last 60 s (R508) -/
  restartsAt : List W64
  /-- the event that its restart posts (R507) -/
  postDue  : Option W16
  /-- TAGGED and executable flags of the 64 code RAM pages (R499) -/
  codeTagged : Vector Bool 64
  codeExec : Vector Bool 64
  dataTagged : Vector Bool 32
  codeRam  : List Host.Cell
  dataRam  : List Host.Cell
  mbx      : MbxState
  xfr      : Option Transfer
  /-- a flash operation of this core runs (R537) -/
  fls      : Bool
  /-- status of the last flash operation -/
  flsStatus : W32
  /-- its result is discarded; FLS.OUT holds the answer of a POLL (R505, R537) -/
  flsDiscard : Bool
  flsPolled : Bool
  tmr      : Bool
  /-- KCLK count at which its delay ends (R538) -/
  tmrEnd   : W64
  /-- the port that the last move stalled on, 256 more for a source port (R485) -/
  stalled  : Option Nat
  handles  : List CmdHandle
  routed   : List (RingIx × Fetched)
  subs     : List Submission
  nextRef  : Nat
  kclk     : W64
  /-- KCLK count of the last restart of the watchdog, moved on by the KCLK that do not count (R509) -/
  wdogAt   : W64
deriving DecidableEq, Repr

/-- The extension slot (R336, R510). -/
structure Ext where
  loaded   : Bool
  version  : W32
deriving DecidableEq, Repr

/-- Memories shared by the cores (Table 19-6). -/
structure XShared where
  shared   : List Host.Cell
  exchange : List Host.Cell
deriving DecidableEq, Repr

/-- POISON as a word (R486). -/
def poison : W32 := 0xE0000000#32

/-- Operand ports after a core restart (R523). -/
def Operands.init : Operands :=
  { limmHi := 0, aluA := poison, mulA := poison, cmpA := poison, cmpG := 1, lsuBase := poison, lsuData := poison,
    mbxH := poison, mbxResult := poison, mbxReshi := poison, mbxDetail := poison, mbxFlags := poison,
    xfrLocal := poison, xfrFar0 := poison, xfrFar1 := poison, xfrFar2 := poison, xfrFar3 := poison, xfrLen := poison,
    flsArray := poison, flsAddrLo := poison, flsAddrHi := poison, flsLocal := poison, flsLen := poison,
    csrData := poison }

/-- Result ports after a core restart (R523). -/
def Results.init : Results :=
  { limm := poison, alu := poison, mul := poison, cmp := poison, lsu := poison, tag := poison, mbx := poison,
    xfr := poison, fls := poison, tmrLo := poison, tmrMid := poison, tmrHi := poison, csr := poison }

def TrapRecord.init : TrapRecord :=
  { cause := 0, pc := 0, slot := 0, port := 0, tag := 0, addr := 0, ddepth := 0, rdepth := 0, sc := 0 }

/-- A core at a start (R523, R565 reset values), in state `st`. -/
def Core.init (st : CoreState) : Core :=
  { state := st, pc := 0, branch := none, guards := 1, ops := Operands.init, res := Results.init, dstack := [],
    rstack := [], faultVector := none, trap := TrapRecord.init, restarts := 0, restartsAt := [], postDue := none,
    codeTagged := Vector.replicate 64 true, codeExec := Vector.replicate 64 true,
    dataTagged := Vector.replicate 32 true, codeRam := [], dataRam := [], mbx := .idle, xfr := none, fls := false, flsStatus := 0,
    flsDiscard := false, flsPolled := false,
    tmr := false, tmrEnd := 0, stalled := none, handles := [], routed := [], subs := [], nextRef := 1, kclk := 0, wdogAt := 0 }

def Ext.init : Ext :=
  { loaded := false, version := 0 }

end Sys2Proof.Machine
end

