-- ==== Sys2Proof/Machine/State.lean ====
section
/-! DEFINITION. The machine state: every piece of state the spec gives the package, the tray and this tray's side of the
pair, as plain data, and the queue of waiting commands; the reasons a step may stop; the state after reset. -/
namespace Sys2Proof.Machine

/-- The state of the block. -/
structure State where
  time    : TimeUnit
  rings   : Vector Ring 64
  host    : HostIf
  mem     : MemSys
  out     : HostOut
  kermes  : Vector Kermes 2
  tiles   : Vector Tile 10
  sets    : ConfSets
  jobs    : List Job
  sepia   : Sepia
  radio   : Radio
  sched   : Sched
  power   : Power
  tray    : Tray
  woad    : Woad
  flash   : Flash
  thermal : Thermal
  twin    : Twin
  cores   : Vector Core 4
  ext     : Ext
  xshared : XShared
  /-- the model's own: the number of admissions so far -/
  nextId  : Nat
  /-- the model's own: index of the next free value (assumption 3) -/
  free    : Nat
  /-- commands that wait, the oldest first -/
  pending : List Instr
deriving DecidableEq, Repr

/-- Reasons a step stops with a fault. No command of this model stops so: the spec reports every failure as a completion,
an event, an alarm or a flag, all of them state. -/
inductive Fault where
  /-- raised by nothing; it keeps the type inhabited -/
  | unused
deriving DecidableEq, Repr

/-- Reasons a step is refused. -/
inductive Refusal where
  /-- a command that has no meaning in this model yet, by its mnemonic; raised by `exec`'s refused arms alone (safe) -/
  | notModelled (mnemonic : String)
deriving DecidableEq, Repr

/-- The answer of a meaning. -/
abbrev Result := Host.Outcome State Fault Refusal

def Stripe.init : Stripe := { state := .spare, bias := 0 }

def Laser.init : Laser :=
  { stripes := Vector.replicate 4 Stripe.init, lit := 0, locked := false, t0Set := 0, t6Set := 0, offsetPm := 0, changeDue := false,
    changing := false, timedOut := false }

/-- The latches of an unpowered Umber hold nothing; the mirror's codes are those of the zero matrix (R55, R60). -/
def Latch.zero : Latch := { image := [], sel := [], parity := [], mapRev := 0, complete := true }

def Mesh.init : Mesh :=
  { active := Latch.zero, shadow := Latch.zero, load := none, loadQueue := [], mapRev := 0,
    mapDz := Vector.replicate 128 (0, 0), ports := [], mapWaits := false, swapAtRestore := false, swapWaits := false, heldFrom := none,
    parityErrs := 0, parityRetries := 0 }

def Interleave.init : Interleave := { ofs0 := 0, ofs1 := 0, gain0 := 0x8000, gain1 := 0x8000, skew := 0 }

def StreamCal.init : StreamCal := { ofs := 0, gain := 0x8000 }

def PairSums.zero : PairSums := { n0 := 0, n1 := 0, s0 := 0, s1 := 0, q0 := 0, q1 := 0, pf := 0, pp := 0 }

/-- A window that has just opened (R92). -/
def Collector.zero : Collector := { pairs := Vector.replicate 256 PairSums.zero, streams := Vector.replicate 256 (0, 0) }

def Convert.init : Convert :=
  { pairs := Vector.replicate 256 Interleave.init, pairsNext := Vector.replicate 256 Interleave.init,
    streams := Vector.replicate 256 StreamCal.init, streamsNext := Vector.replicate 256 StreamCal.init, updateReq := false,
    open_ := Collector.zero, closed := Collector.zero, outLast := [], outEpoch := 0,
    clip := 0, codeClamp := 0, windowClips := 0, windowMaint := false, windowUsed := false,
    scanMask := 0x1FFFFFFFFFFFFFFF, nextMask := none, savedMask := none,
    scanIdle := false, round := 0, mon := Vector.replicate 64 (0, 0), monBad := 0, testDac := none, testDacBad := false }

/-- Default attribute of channel `c` with EN 1 (Table 4-1, Table 4-2, R116, R118): trim channels ZERO, ZERO, LOOP; 128 to
135 NVM, HOLD, FW. -/
def defaultAttr (c : Nat) : Byte := if c < 128 then 0x08 else 0x0F

def Heater.init (c : Nat) : Heater :=
  { attr := defaultAttr c, queue := [], code := 0, powerUp := 0, underrun := 0, overflow := 0, starved := 0, held := false,
    satLow := 0, satHigh := 0 }

def TrimZone.init : TrimZone :=
  { setpt := 0, aRef := 0, kff := 0, af := 0, drift := 0, dzTheta := 0, dzPhi := 0, openHeater := false, satCount := 0 }

def HeaterDrive.init : HeaterDrive :=
  { chans := Vector.ofFn (fun c => Heater.init c.val), zones := Vector.replicate 128 TrimZone.init,
    c := Vector.replicate 16 0, kfb := Vector.replicate 16 0, ffShift := 5, slew := false, slewWant := none, slewStep := 4,
    residValid := false, meanSq := 0, resid := 0, peak := 0, residMax := 38, sourceConflict := false,
    controlFault := false, overcurrent := false, overAt := none, counter := 0, faultDue := false,
    tripped := false, activity := 0, passGate := false, ballast := false, driftFrozen := false }

/-- A drift window that has just opened (R136). -/
def DriftWindow.zero : DriftWindow :=
  { passes := 0, sampled := 0, xx := [], yy := [], yy1 := [], image := none, mixed := false, maint := false, residBad := false }

def Calib.init : Calib :=
  { epoch := 0, degraded := false, factoryBad := false, windowN := 20, driftStride := 8, driftWindow := 16,
    charPeriod := 24, starved := false,
    steps := [], passOpen := false, demand := [], gap := none, step := none, stepResults := [], stepPoints := [],
    results := [], overrunCount := 0,
    overrunMax := 0, charSeq := 0, runSeq := 0, baseSeq := 0, changed := false, sealedChar := false, sealedRun := false,
    sealAfter := false, driftBad := 0, drift := DriftWindow.zero, zonesHeld := [], rxAlarm := [],
    retiredV := [], retiredU := [], coefs := [] }

/-- A tile at reset: OFF (R72, Table 21-7). -/
def Tile.init : Tile :=
  { state := .off, moving := none, laser := Laser.init, mesh := Mesh.init, conv := Convert.init, heat := HeaterDrive.init,
    cal := Calib.init, lateSwap := 0, skip := 0, group := none, resting := false, maintDue := false,
    control := none, job := none, next := none, batchFormat := 0,
    frozen := false, partSkip := 0 }

/-- The ring blocks at reset: every ring DISABLED, ring 0 at level P3 (R307, Table 21-5). -/
def ringsInit : Vector Ring 64 := Vector.ofFn (fun n => Ring.init (if n.val = 0 then 3 else 0))

def MsixEntry.init : MsixEntry := { addr := 0, data := 0, mask := true }

/-- The endpoint at reset (R567, Table 21-4). -/
def HostIf.init : HostIf :=
  { msixEnable := false, msixFmask := false, msixTable := Vector.replicate 128 MsixEntry.init, pba := 0, linkUp := true,
    cfgValid := false, barsAssigned := false, relaxed := false, d3hot := false, pciePoisoned := 0, pcieUr := 0,
    bar4Ecc := 0 }

/-- Memories with nothing listed; the four stacks of -B online (Table 1-5). -/
def MemSys.init : MemSys :=
  { stackMem := [], hostMem := [], eccUnits := [], stackOnline := 0b001111, selfRefresh := false, stackRail := true }

/-- Cores at reset: 0, 1 and 3 run; core 2 is halted until EXT_LOAD (R507). -/
def coresInit : Vector Core 4 := Vector.ofFn (fun k => Core.init (if k.val = 2 then .halted else .running))

/-- The machine right after reset: the first SCLK of a cold start, in phase ROM. -/
def State.reset : State :=
  { time := TimeUnit.init, rings := ringsInit, host := HostIf.init, mem := MemSys.init, out := { msix := [], replies := [] },
    kermes := Vector.replicate 2 Kermes.init, tiles := Vector.replicate 10 Tile.init, sets := ConfSets.init, jobs := [],
    sepia := Sepia.init, radio := Radio.init, sched := Sched.init, power := Power.init, tray := Tray.init,
    woad := Woad.init, flash := Flash.init, thermal := Thermal.init, twin := Twin.init, cores := coresInit,
    ext := Ext.init, xshared := { shared := [], exchange := [] }, nextId := 0, free := 0, pending := [] }

end Sys2Proof.Machine
end

