-- ==== Sys2Proof/Machine/Flags.lean ====
section
/-! DEFINITION. Completion codes (Table 22-2), event codes (Table 22-3), their order (R313, R572), alarm contacts (R575)
and lamps (R576). -/
namespace Sys2Proof.Machine

abbrev codeOk : W16 := 0x0000
abbrev codeArgRange : W16 := 0x0101
abbrev codeFeatureNan : W16 := 0x0102
abbrev codeStateIllegal : W16 := 0x0201
abbrev codeDebugLocked : W16 := 0x0202
abbrev codeOverload : W16 := 0x0301
abbrev codeDropped : W16 := 0x0302
abbrev codeTimeout : W16 := 0x0303
abbrev codeNvmSameBank : W16 := 0x0401
abbrev codeNvmTemp : W16 := 0x0402
abbrev codeNvmHalfErased : W16 := 0x0403
abbrev codeNvmProgramFail : W16 := 0x0404
abbrev codeNvmEraseFail : W16 := 0x0405
abbrev codeNvmNoResponse : W16 := 0x0406
abbrev codeThermalThrottled : W16 := 0x0501
abbrev codePowerLoss : W16 := 0x0503
abbrev codeTwinNoCustody : W16 := 0x0601
abbrev codeStaleOutput : W16 := 0x0701
abbrev codeCalDegraded : W16 := 0x0702
abbrev codePrecisionUnmet : W16 := 0x0703
abbrev codeFwFault : W16 := 0x0802
abbrev codeIntMemoryEcc : W16 := 0x0F01
abbrev codeIntLink : W16 := 0x0F02
abbrev codeIntParity : W16 := 0x0F03
abbrev codeIntAtomic : W16 := 0x0F04
abbrev codeIntNoTile : W16 := 0x0F05
abbrev codeIntSepia : W16 := 0x0F06
abbrev codeIntTransfer : W16 := 0x0F07
abbrev codeIntUnitCut : W16 := 0x0F08
abbrev codeIntDecompose : W16 := 0x0F09
abbrev codeIntRingHalted : W16 := 0x0F0A
abbrev codeIntHalfLost : W16 := 0x0F0B

abbrev evDbError : W16 := 0x1001
abbrev evOverloadSet : W16 := 0x1002
abbrev evOverloadClear : W16 := 0x1003
abbrev evRingHalted : W16 := 0x1004
abbrev evTagFault : W16 := 0x1101
abbrev evFwFault : W16 := 0x1102
abbrev evTileState : W16 := 0x1201
abbrev evLossLocated : W16 := 0x1202
abbrev evColumnRetired : W16 := 0x1203
abbrev evStripeChanged : W16 := 0x1204
abbrev evStripeWorn : W16 := 0x1205
abbrev evSegmentDead : W16 := 0x1206
abbrev evDzLimit : W16 := 0x1207
abbrev evCharStarved : W16 := 0x1208
abbrev evSettleLong : W16 := 0x1209
abbrev evHeaterFault : W16 := 0x120A
abbrev evSyncState : W16 := 0x1301
abbrev evTimeStep : W16 := 0x1302
abbrev evPowerStage : W16 := 0x1401
abbrev evFeedCond : W16 := 0x1402
abbrev evBankWeak : W16 := 0x1403
abbrev evBankFail : W16 := 0x1404
abbrev evUncleanShutdown : W16 := 0x1405
abbrev evTripHistory : W16 := 0x1406
abbrev evThermal : W16 := 0x1501
abbrev evFanFailed : W16 := 0x1502
abbrev evSensorBroken : W16 := 0x1503
abbrev evTwinMismatch : W16 := 0x1601
abbrev evSeized : W16 := 0x1602
abbrev evMirrorLost : W16 := 0x1603
abbrev evTakeoverRefused : W16 := 0x1604
abbrev evTwinLink : W16 := 0x1605
abbrev evShadowLapse : W16 := 0x1606
abbrev evSwapLag : W16 := 0x1607
abbrev evStoreDone : W16 := 0x1701
abbrev evNvmFault : W16 := 0x1702
abbrev evFallbackBank : W16 := 0x1703
abbrev evStartLate : W16 := 0x1704
abbrev evMemEcc : W16 := 0x1801
abbrev evPortDown : W16 := 0x1802
abbrev evRxMissingHigh : W16 := 0x1803
abbrev evLateDesc : W16 := 0x1804
abbrev evRetired : W16 := 0x1805

/-- Alarm causes without an event of their own: the table that raises them, as a code below 0x1000. -/
abbrev alHostLink : W16 := 0x0001
abbrev alKermesLost : W16 := 0x0002
abbrev alSepia : W16 := 0x0003
abbrev alHoldover : W16 := 0x0004
abbrev alTuning : W16 := 0x0005
abbrev alClockFault : W16 := 0x0006
abbrev alWoadOsc : W16 := 0x0007
abbrev alTileFault : W16 := 0x0008
abbrev alStage : W16 := 0x0009
abbrev alStartFailed : W16 := 0x000A
abbrev alHeldStreams : W16 := 0x000B
abbrev alLiveness : W16 := 0x000C
abbrev alTrip : W16 := 0x000D
abbrev alRule : W16 := 0x000E
abbrev alCoreRestarts : W16 := 0x000F
abbrev alFetchHang : W16 := 0x0010
abbrev alHold : W16 := 0x0011
abbrev alOverCap : W16 := 0x0012
abbrev alRelayCycles : W16 := 0x0013
abbrev alCustody : W16 := 0x0014
abbrev alOneTime : W16 := 0x0015
abbrev alRuleParity : W16 := 0x0016
abbrev alAtomic : W16 := 0x0017
abbrev alLink : W16 := 0x0018
abbrev alContact : W16 := 0x0019
abbrev alPort : W16 := 0x001A
abbrev alHeater : W16 := 0x001B
abbrev alRadioTile : W16 := 0x001C
abbrev alForcedHandover : W16 := 0x001D
abbrev alWear : W16 := 0x001E
abbrev alLaser : W16 := 0x001F
abbrev alAdc : W16 := 0x0020
abbrev alCalStore : W16 := 0x0021
abbrev alWoadStop : W16 := 0x0022
abbrev alIoDie : W16 := 0x0023
abbrev alSkipTime : W16 := 0x0024

/-- Place of a code in the order of R313 as R572 completes it; a lower place wins. Codes of classes 2 to 5 that R313 does
not list end a command before any output and so precede every partial success. -/
def codeRank (c : W16) : Nat :=
  if c = codeArgRange then 0
  else if c = codeStateIllegal then 1
  else if c = codeDropped then 3
  else if c = codeTwinNoCustody then 4
  else if c = codeTimeout then 5
  else if c.toNat / 256 = 0x0F then 6
  else if c = codeStaleOutput then 7
  else if c = codeCalDegraded then 8
  else if c = codePrecisionUnmet then 9
  else if c = codeFeatureNan then 10
  else if c = codeOk then 11
  else 2

/-- Of two codes that apply, the one that the completion carries (R313, R572). -/
def firstCode (a b : W16) : W16 := if codeRank a ≤ codeRank b then a else b

/-- The one code that the completion carries when the codes `cs` apply. -/
def pickCode (cs : List W16) : W16 := cs.foldl firstCode codeOk

/-- An alarm cause set on a contact (R575); a cause already set stays once. -/
def raiseAlarm (major : Bool) (code source : W16) (s : State) : State :=
  let a : Alarm := { major := major, code := code, source := source }
  if a ∈ s.tray.alarms then s else { s with tray := { s.tray with alarms := a :: s.tray.alarms } }

/-- An alarm cause gone; the contact stays open while another cause holds (Table 22-5). -/
def clearAlarm (code source : W16) (s : State) : State :=
  { s with tray := { s.tray with
      alarms := s.tray.alarms.filter (fun a => !(decide (a.code = code) && decide (a.source = source))) } }

/-- MAJOR contact open (R575): any cause, the tray OFF, or a Woad rule set with ALARM_MAJOR (Table 15-10). -/
def majorOpen (s : State) : Bool :=
  s.tray.alarms.any (fun a => a.major) || decide (s.tray.powerState = .off) ||
  s.woad.rules.toList.any (fun r => r.isSet && decide (r.rule.action = 5))

/-- MINOR contact open (R575). -/
def minorOpen (s : State) : Bool :=
  s.tray.alarms.any (fun a => !a.major) || decide (s.tray.powerState = .off) ||
  s.woad.rules.toList.any (fun r => r.isSet && decide (r.rule.action = 4))

/-- What a lamp shows (R576, Table 22-4). -/
inductive LampState where
  | off | steady | flashing
deriving DecidableEq, Repr

/-- Both feeds normal; none present. -/
def feedsNormal (s : State) : Bool := s.power.feeds.toList.all (fun f => decide (f.cond = .normal) && f.connected)
def feedsAbsent (s : State) : Bool := s.power.feeds.toList.all (fun f => decide (f.mag.toNat < 3800))

/-- PWR lamp. -/
def lampPwr (s : State) : LampState :=
  if feedsAbsent s then .off
  else if feedsNormal s && decide (s.power.stage = .none) then .steady else .flashing

/-- RUN lamp. -/
def lampRun (s : State) : LampState :=
  if s.tray.powerState = .off ∨ s.tray.powerState = .deep ∨ s.tray.phase = .failed then .off
  else if s.tray.phase ≠ .done ∨ s.tray.powerState = .idle then .flashing else .steady

/-- MAJ and MIN lamps. -/
def lampMaj (s : State) : LampState := if majorOpen s then .steady else .off
def lampMin (s : State) : LampState := if minorOpen s then .steady else .off

/-- CUST lamp; in DEEP only PWR, MAJ and MIN are driven. -/
def lampCust (s : State) : LampState :=
  if s.tray.powerState = .deep then .off
  else if s.twin.grant then .steady
  else if s.twin.role = .standby ∧ s.twin.pairState = .synced then .flashing else .off

/-- LOC lamp. -/
def lampLoc (s : State) : LampState := if s.tray.locLamp ∧ s.tray.powerState ≠ .deep then .flashing else .off

end Sys2Proof.Machine
end

