-- ==== Sys2Proof/Machine/Memory.lean ====
section
/-! DEFINITION. Addressed memories as lists of cells in one canonical form: addresses strictly rising, no entry equal to
what an unlisted address reads as. `d` gives what an unlisted address reads as. -/
namespace Sys2Proof.Machine

/-- The byte listed at an address. -/
def cellAt : List Host.Cell → Nat → Option Byte
  | [], _ => none
  | (x, y) :: m, a => if x = a then some y else cellAt m a

/-- The byte an address reads as. -/
def memRead (d : Nat → Byte) (m : List Host.Cell) (a : Nat) : Byte :=
  match cellAt m a with
  | some b => b
  | none => d a

/-- One byte written, canonical form kept. -/
def memPut (d : Nat → Byte) : List Host.Cell → Nat → Byte → List Host.Cell
  | [], a, b => if b = d a then [] else [(a, b)]
  | (x, y) :: m, a, b =>
    if a < x then (if b = d a then (x, y) :: m else (a, b) :: (x, y) :: m)
    else if a = x then (if b = d a then m else (a, b) :: m)
    else (x, y) :: memPut d m a b

/-- `n` bytes from `a` up. -/
def memReadN (d : Nat → Byte) (m : List Host.Cell) (a : Nat) : Nat → List Byte
  | 0 => []
  | n + 1 => memRead d m a :: memReadN d m (a + 1) n

/-- Bytes written from `a` up. -/
def memWriteN (d : Nat → Byte) : List Host.Cell → Nat → List Byte → List Host.Cell
  | m, _, [] => m
  | m, a, b :: bs => memWriteN d (memPut d m a b) (a + 1) bs

/-- Every listed address is above `lo` and rising, and no entry is redundant. -/
def memWfFrom (d : Nat → Byte) : Nat → List Host.Cell → Bool
  | _, [] => true
  | lo, (x, y) :: m => decide (lo ≤ x) && decide (y ≠ d x) && memWfFrom d (x + 1) m

/-- The canonical form of a memory. -/
def Memory.wf (d : Nat → Byte) (m : List Host.Cell) : Bool := memWfFrom d 0 m

/-- What an unlisted byte of a memory stack, of host memory, of shared or exchange RAM reads as: DESIGN CHOICE 0
(assumption 4). -/
def zeroByte : Nat → Byte := fun _ => 0

/-- What an erased flash byte reads as (R420, R421). -/
def erasedByte : Nat → Byte := fun _ => 0xFF

end Sys2Proof.Machine
end

