-- ==== Sys2Proof/Machine/Operands.lean ====
section
/-! DEFINITION. The fields of a descriptor, the table of Vrelmahan commands (chapter 12) and the order in which their
arguments are checked (R289, R290, R310 to R316). -/
namespace Sys2Proof.Machine

/-- Byte `o` of a structure; 0 beyond its end. -/
def byteAt (bs : List Byte) (o : Nat) : Nat := (bs.getD o 0).toNat

/-- The little-endian field of `n` bytes at `o`. -/
def field (bs : List Byte) (o n : Nat) : Nat := leNat ((bs.drop o).take n)

def Descriptor.u8 (d : Descriptor) (o : Nat) : Nat := byteAt d.bytes o
def Descriptor.u16 (d : Descriptor) (o : Nat) : Nat := field d.bytes o 2
def Descriptor.u32 (d : Descriptor) (o : Nat) : Nat := field d.bytes o 4
def Descriptor.u64 (d : Descriptor) (o : Nat) : Nat := field d.bytes o 8

/-- Header fields (Table 11-3). -/
def Descriptor.opcode (d : Descriptor) : Nat := d.u16 0
def Descriptor.fence (d : Descriptor) : Bool := (d.u8 2).testBit 0
def Descriptor.noIrq (d : Descriptor) : Bool := (d.u8 2).testBit 1
def Descriptor.wdog (d : Descriptor) : Nat := d.u8 3
def Descriptor.tag (d : Descriptor) : W32 := BitVec.ofNat 32 (d.u32 4)

/-- Legality codes (Table 12-2). -/
inductive Legality where
  | a | h | s | d
deriving DecidableEq, Repr

/-- One row of the command tables: legality, asynchronous on ring 0 (R316), default watchdog [ms], argument fields
(offset, bytes). -/
structure CmdInfo where
  legal  : Legality
  async  : Bool
  wdog   : Nat
  fields : List (Nat × Nat)
deriving DecidableEq, Repr

/-- Opcodes (Tables 12-3 to 12-19). -/
abbrev opIdentify : Nat := 0x0101
abbrev opRingConfig : Nat := 0x0201
abbrev opRingReset : Nat := 0x0202
abbrev opSetOpen : Nat := 0x0301
abbrev opSetStage : Nat := 0x0302
abbrev opSetCommit : Nat := 0x0303
abbrev opSetDiscard : Nat := 0x0304
abbrev opSetSwap : Nat := 0x0305
abbrev opSetRead : Nat := 0x0306
abbrev opSetMember : Nat := 0x0307
abbrev opDecompose : Nat := 0x0401
abbrev opImageRead : Nat := 0x0402
abbrev opModelCheck : Nat := 0x0403
abbrev opMatmul : Nat := 0x0501
abbrev opResident : Nat := 0x0502
abbrev opReduce : Nat := 0x0503
abbrev opTree : Nat := 0x0504
abbrev opJobAbort : Nat := 0x0505
abbrev opSlot : Nat := 0x0601
abbrev opEventSet : Nat := 0x0701
abbrev opEventCancel : Nat := 0x0702
abbrev opGapDeclare : Nat := 0x0703
abbrev opTimeConfig : Nat := 0x0704
abbrev opCoefRead : Nat := 0x0801
abbrev opRecordRead : Nat := 0x0802
abbrev opCalTune : Nat := 0x0803
abbrev opCharRequest : Nat := 0x0804
abbrev opTileControl : Nat := 0x0805
abbrev opPowerState : Nat := 0x0901
abbrev opPowerCap : Nat := 0x0902
abbrev opTwinRole : Nat := 0x0903
abbrev opHandover : Nat := 0x0904
abbrev opRelayCycle : Nat := 0x0905
abbrev opSentinelRule : Nat := 0x0906
abbrev opFwUpdate : Nat := 0x0A01
abbrev opFwActivate : Nat := 0x0A02
abbrev opArchiveRead : Nat := 0x0A03
abbrev opExtEnroll : Nat := 0x0B01
abbrev opExtLoad : Nat := 0x0B02
abbrev opExtUnload : Nat := 0x0B03
abbrev opDebugChallenge : Nat := 0x0C01
abbrev opDebugUnlock : Nat := 0x0C02
abbrev opDebugLock : Nat := 0x0C03
abbrev opAccRead : Nat := 0x0C04
abbrev opAccWrite : Nat := 0x0C05
abbrev opVecRaw : Nat := 0x0C06
abbrev opCoefWrite : Nat := 0x0C07

/-- Fields of a MATMUL or RESIDENT descriptor (Table 12-8): bytes 0x08 to 0x3B. -/
def matmulFields : List (Nat × Nat) := [(0x08, 0x34)]

/-- Identity, ring and set commands (Tables 12-3, 12-5). -/
def infoSets (op : Nat) : Option CmdInfo :=
  if op = opIdentify then some ⟨.a, false, 1, [(0x10, 8)]⟩
  else if op = opRingConfig then
    some ⟨.a, false, 1, [(0x08, 8), (0x10, 8), (0x18, 1), (0x19, 1), (0x1A, 1), (0x1B, 1), (0x1C, 2), (0x1E, 1), (0x20, 2), (0x22, 1)]⟩
  else if op = opRingReset then some ⟨.a, true, 255, [(0x08, 1)]⟩
  else if op = opSetOpen then some ⟨.h, false, 1, [(0x08, 1), (0x09, 1)]⟩
  else if op = opSetStage then some ⟨.h, false, 5, [(0x08, 1), (0x09, 1), (0x0A, 2), (0x0C, 2), (0x10, 8)]⟩
  else if op = opSetCommit then some ⟨.h, false, 60000, [(0x08, 1)]⟩
  else if op = opSetDiscard then some ⟨.h, false, 1, [(0x08, 1)]⟩
  else if op = opSetSwap then some ⟨.h, false, 5, [(0x08, 1)]⟩
  else if op = opSetRead then some ⟨.a, false, 5, [(0x08, 1), (0x09, 1), (0x10, 8)]⟩
  else if op = opSetMember then some ⟨.h, false, 255, [(0x08, 1), (0x0A, 2)]⟩
  else none

/-- Matrix, model, job and radio commands (Tables 12-7, 12-8, 12-11, 12-13, R328). -/
def infoJobs (op : Nat) : Option CmdInfo :=
  if op = opDecompose then
    some ⟨.h, true, 100, [(0x08, 1), (0x0A, 1), (0x0B, 1), (0x0C, 4), (0x10, 8), (0x18, 8)]⟩
  else if op = opImageRead then some ⟨.a, false, 1, [(0x08, 1), (0x09, 1), (0x10, 8)]⟩
  else if op = opModelCheck then some ⟨.a, true, 60000, [(0x10, 8)]⟩
  else if op = opMatmul then some ⟨.s, true, 1000, matmulFields⟩
  else if op = opResident then some ⟨.s, true, 1000, matmulFields⟩
  else if op = opReduce then
    some ⟨.s, true, 1000, [(0x08, 1), (0x09, 1), (0x0A, 1), (0x0C, 4), (0x10, 8), (0x18, 4), (0x1C, 4), (0x20, 8), (0x28, 4), (0x30, 8)]⟩
  else if op = opTree then
    some ⟨.s, true, 2000, [(0x08, 1), (0x09, 1), (0x0C, 4), (0x10, 8), (0x18, 4), (0x1C, 4), (0x20, 8), (0x28, 8), (0x30, 8)]⟩
  else if op = opJobAbort then some ⟨.s, false, 1, [(0x08, 1), (0x0C, 4)]⟩
  else if op = opSlot then some ⟨.a, false, 2, [(0x08, 2), (0x0A, 1), (0x0C, 2), (0x10, 8), (0x18, 8), (0x20, 8)]⟩
  else none

/-- Time, calibration and tile commands (Tables 12-15, 12-16). -/
def infoTime (op : Nat) : Option CmdInfo :=
  if op = opEventSet then
    some ⟨.h, true, 11000, [(0x08, 1), (0x09, 1), (0x0A, 1), (0x10, 8), (0x18, 2), (0x1A, 1), (0x1B, 1), (0x1C, 1), (0x20, 4)]⟩
  else if op = opEventCancel then some ⟨.h, false, 1, [(0x08, 1), (0x0C, 4)]⟩
  else if op = opGapDeclare then
    some ⟨.h, true, 11000, [(0x08, 2), (0x0A, 1), (0x10, 8), (0x18, 2), (0x1A, 1), (0x1B, 1), (0x1C, 1), (0x20, 4), (0x24, 4)]⟩
  else if op = opTimeConfig then
    some ⟨.h, false, 1, [(0x08, 1), (0x09, 1), (0x0A, 1), (0x0B, 1), (0x0C, 4), (0x10, 2), (0x12, 2), (0x14, 24), (0x2C, 6)]⟩
  else if op = opCoefRead then some ⟨.a, false, 10, [(0x08, 1), (0x0A, 2), (0x10, 8)]⟩
  else if op = opRecordRead then some ⟨.a, true, 200, [(0x08, 1), (0x09, 1), (0x0A, 1), (0x10, 8), (0x18, 4)]⟩
  else if op = opCalTune then
    some ⟨.h, false, 255, [(0x08, 1), (0x09, 1), (0x0A, 1), (0x0B, 1), (0x0C, 1), (0x0D, 1), (0x0E, 2), (0x10, 1), (0x11, 1), (0x18, 8)]⟩
  else if op = opCharRequest then some ⟨.h, false, 1, [(0x08, 1)]⟩
  else if op = opTileControl then some ⟨.h, true, 15000, [(0x08, 1), (0x09, 1)]⟩
  else none

/-- Power, twin, storage, extension and debug commands (Tables 12-17 to 12-19). -/
def infoRest (op : Nat) : Option CmdInfo :=
  if op = opPowerState then some ⟨.h, true, 30000, [(0x08, 1)]⟩
  else if op = opPowerCap then some ⟨.h, false, 1, [(0x08, 2)]⟩
  else if op = opTwinRole then some ⟨.a, true, 5000, [(0x08, 1)]⟩
  else if op = opHandover then some ⟨.s, true, 5, []⟩
  else if op = opRelayCycle then some ⟨.a, false, 1, [(0x08, 2)]⟩
  else if op = opSentinelRule then some ⟨.h, false, 1, [(0x08, 1), (0x10, 8)]⟩
  else if op = opFwUpdate then some ⟨.h, true, 120000, [(0x08, 1), (0x10, 8), (0x18, 4)]⟩
  else if op = opFwActivate then some ⟨.h, false, 1, [(0x08, 1), (0x09, 1)]⟩
  else if op = opArchiveRead then some ⟨.a, true, 2000, [(0x08, 4), (0x0C, 4), (0x10, 8)]⟩
  else if op = opExtEnroll then some ⟨.h, false, 500, [(0x10, 8)]⟩
  else if op = opExtLoad then some ⟨.h, true, 100, [(0x10, 8), (0x18, 4)]⟩
  else if op = opExtUnload then some ⟨.h, false, 2, []⟩
  else if op / 256 = 0x20 then some ⟨.h, true, 10, [(0x08, 56)]⟩
  else if op = opDebugChallenge then some ⟨.h, false, 1, [(0x10, 8)]⟩
  else if op = opDebugUnlock then some ⟨.h, false, 50, [(0x10, 8)]⟩
  else if op = opDebugLock then some ⟨.d, false, 1, []⟩
  else if op = opAccRead ∨ op = opAccWrite then
    some ⟨.d, false, 5, [(0x08, 1), (0x09, 1), (0x0A, 1), (0x0C, 4), (0x10, 4), (0x14, 4), (0x18, 8)]⟩
  else if op = opVecRaw then some ⟨.d, false, 100, [(0x08, 1), (0x0C, 4), (0x10, 8), (0x18, 8)]⟩
  else if op = opCoefWrite then some ⟨.d, false, 10, [(0x08, 1), (0x0A, 2), (0x10, 8)]⟩
  else none

/-- The row of a command; `none` for an opcode that names no command (R290, R310). -/
def cmdInfo (op : Nat) : Option CmdInfo :=
  match infoSets op with
  | some i => some i
  | none => match infoJobs op with
    | some i => some i
    | none => match infoTime op with
      | some i => some i
      | none => infoRest op

/-- Whether byte `o` of a descriptor belongs to an argument field. -/
def inFields (fs : List (Nat × Nat)) (o : Nat) : Bool := fs.any (fun f => decide (f.1 ≤ o) && decide (o < f.1 + f.2))

/-- Reserved argument bytes of a descriptor that are not 0 (R10): offsets and a failure flag each. -/
def reservedChecks (i : CmdInfo) (d : Descriptor) : List (Nat × Bool) :=
  (List.range 64).map (fun o => (o, decide (8 ≤ o) && !inFields i.fields o && decide (d.u8 o ≠ 0)))

/-- The lowest offset whose check fails (R314: the first failing field). -/
def firstFailing (cs : List (Nat × Bool)) : Option Nat := least ((cs.filter (fun c => c.2)).map (fun c => c.1))

/-- Size of the memory window of a variant (R545, Table 1-5): 16 GiB a stack. -/
def windowSize : Variant → Nat
  | .b => 0x1000000000
  | .m => 0x1800000000
  | .n => 0x800000000

/-- The variant's code (Table 12-4). -/
def Variant.code : Variant → Nat
  | .b => 0
  | .m => 1
  | .n => 2

/-- Memory stacks that a variant fits (Table 1-5). -/
def stacksFitted : Variant → Nat
  | .b => 4
  | .m => 6
  | .n => 2

/-- Fronthaul ports that a variant fits (Table 1-5). -/
def portsFitted : Variant → Nat
  | .b => 4
  | .m => 2
  | .n => 6

/-- The half that serves a stack: false A, true B (Table 1-5). -/
def stackHalf (v : Variant) (k : Nat) : Bool :=
  match v with
  | .b => decide (2 ≤ k)
  | .m => decide (3 ≤ k)
  | .n => decide (1 ≤ k)

/-- An SADDR that is not inside the window, or breaks its alignment (R311). -/
def badSaddr (v : Variant) (a al : Nat) : Bool := decide (windowSize v ≤ a) || decide (a % al ≠ 0)

/-- A DADDR that is an SADDR outside the window, or breaks its alignment (R311). -/
def badDaddr (v : Variant) (a al : Nat) : Bool :=
  decide (a % al ≠ 0) || (a.testBit 63 && decide (windowSize v ≤ a % 2 ^ 63))

/-- Whether the tray's state and role allow a legality code, debug mode aside (Table 12-2). -/
def legalIn (l : Legality) (p : PowerState) (standby : Bool) : Bool :=
  match l with
  | .a => decide (p = .run) || decide (p = .idle) || decide (p = .standby)
  | .h => (decide (p = .run) || decide (p = .idle)) && !standby
  | .s => decide (p = .run) && !standby
  | .d => (decide (p = .run) || decide (p = .idle)) && !standby

/-- The code that legality gives: DEBUG_LOCKED with debug mode off for code D, else STATE_ILLEGAL outside its states (R312, R337). -/
def legalityCode (l : Legality) (p : PowerState) (standby debugOn : Bool) : Option W16 :=
  if l = .d ∧ !debugOn then some 0x0202#16
  else if legalIn l p standby then none else some 0x0201#16

end Sys2Proof.Machine
end

