-- ==== Sys2Proof/Machine/Ops.lean ====
section
/-! DEFINITION. The shared operations: banks of state, free values, addressed memory, vectors, completions, events, takeover
requests and the serving of one Vrelmahan command. -/
namespace Sys2Proof.Machine

/-- Entry updates of the banks. -/
def setRing (n : RingIx) (f : Ring → Ring) (s : State) : State := { s with rings := upd s.rings n f }
def setTile (t : TileIx) (f : Tile → Tile) (s : State) : State := { s with tiles := upd s.tiles t f }
def setCore (k : CoreIx) (f : Core → Core) (s : State) : State := { s with cores := upd s.cores k f }
def setPort (p : PortIx) (f : Port → Port) (s : State) : State :=
  { s with radio := { s.radio with ports := upd s.radio.ports p f } }
def setGroup (g : GroupIx) (f : SwapGroup → SwapGroup) (s : State) : State :=
  { s with sets := { s.sets with groups := upd s.sets.groups g f } }

/-- One free value, and the counter advanced (assumption 3). -/
def draw (s : State) : W64 × State := (Config.freeWord s.free, { s with free := s.free + 1 })

/-- `n` free bytes, and the counter advanced by `n`. -/
def drawBytes (n : Nat) (s : State) : List Byte × State :=
  ((List.range n).map (fun i => (Config.freeWord (s.free + i)).setWidth 8), { s with free := s.free + n })

/-! ### Memory through the window and through host addresses (R311, R545, R547) -/

/-- Whether a DADDR is an SADDR, and its offset. -/
def daddrIsStack (a : Nat) : Bool := a.testBit 63
def daddrOff (a : Nat) : Nat := a % 2 ^ 63

/-- The stack of a window offset. -/
def stackOf (o : Nat) : Nat := o / 0x400000000

/-- Whether a window range lies in the window and in stacks that answer: online, and before S2 (R547, R373). -/
def windowAnswers (s : State) (o n : Nat) : Bool :=
  decide (o + n ≤ windowSize s.tray.variant) && s.mem.stackRail && !s.power.s2done && !s.mem.selfRefresh &&
  (List.range (stackOf (o + (n - 1)) - stackOf o + 1)).all (fun i => s.mem.stackOnline.getLsbD (stackOf o + i))

/-- Whether a range of `n` bytes at `o` touches a unit with an uncorrectable error (R547). -/
def touchesEcc (s : State) (o n : Nat) : Bool :=
  s.mem.eccUnits.any (fun u => decide (u * 32 < o + n) && decide (o < u * 32 + 32))

/-- Units with an error that the range covers only in part (R547). -/
def partlyEcc (s : State) (o n : Nat) : Bool :=
  s.mem.eccUnits.any (fun u => decide (u * 32 < o + n) && decide (o < u * 32 + 32) &&
    !(decide (o ≤ u * 32) && decide (u * 32 + 32 ≤ o + n)))

/-- The bytes of the memory stacks from a window offset. -/
def stackRead (s : State) (o n : Nat) : List Byte := memReadN zeroByte s.mem.stackMem o n

/-- The bytes of host memory from a bus address. -/
def hostRead (s : State) (a n : Nat) : List Byte := memReadN zeroByte s.mem.hostMem a n

/-- The bytes at a DADDR. -/
def daddrRead (s : State) (a n : Nat) : List Byte :=
  if daddrIsStack a then stackRead s (daddrOff a) n else hostRead s a n

/-- Host memory written. -/
def hostWrite (a : Nat) (bs : List Byte) (s : State) : State :=
  { s with mem := { s.mem with hostMem := memWriteN zeroByte s.mem.hostMem a bs } }

/-- A stack range written: whole units that held an error are fresh (R547). -/
def stackWrite (o : Nat) (bs : List Byte) (s : State) : State :=
  { s with mem := { s.mem with
      stackMem := memWriteN zeroByte s.mem.stackMem o bs,
      eccUnits := s.mem.eccUnits.filter (fun u => !(decide (o ≤ u * 32) && decide (u * 32 + 32 ≤ o + bs.length))) } }

/-- Whether the package can read a range: host memory while the link is up, the stacks while they answer and hold no error. -/
def readFails (s : State) (a n : Nat) : Option W16 :=
  if n = 0 then none
  else if daddrIsStack a then
    (if !windowAnswers s (daddrOff a) n then some codeIntTransfer
     else if touchesEcc s (daddrOff a) n then some codeIntMemoryEcc else none)
  else if s.host.linkUp then none else some codeIntTransfer

/-- Whether the package's write of a range fails, and with which code (R339, R547). -/
def writeFails (s : State) (a n : Nat) : Option W16 :=
  if n = 0 then none
  else if daddrIsStack a then
    (if !windowAnswers s (daddrOff a) n then some codeIntTransfer
     else if partlyEcc s (daddrOff a) n then some codeIntMemoryEcc else none)
  else if s.host.linkUp then none else some codeIntTransfer

/-- A package write to a DADDR; one that fails changes nothing but the counter of R547. -/
def daddrWrite (a : Nat) (bs : List Byte) (s : State) : State :=
  match writeFails s a bs.length with
  | some c =>
    if c = codeIntMemoryEcc then { s with host := { s.host with bar4Ecc := satInc s.host.bar4Ecc } }
    else { s with sched := { s.sched with transferErrs := satInc s.sched.transferErrs } }
  | none => if daddrIsStack a then stackWrite (daddrOff a) bs s else hostWrite a bs s

/-! ### Rings (R284 to R309) -/

/-- Depth D of a ring. -/
def Ring.depth (r : Ring) : Nat := 2 ^ r.log2Depth.toNat

/-- Completions written and not released, U of R297. -/
def Ring.unreleased (r : Ring) : Nat :=
  (r.cqTail.toNat + 2 * r.depth - r.cqHead.toNat) % (2 * r.depth)

/-- Descriptors posted and not fetched. -/
def Ring.posted (r : Ring) : Nat := (r.sqTail.toNat + r.depth - r.sqHead.toNat) % r.depth

/-- Completions that fetched descriptors still owe, and entries that wait for credit: O + R of R297. -/
def Ring.owed (r : Ring) : Nat :=
  ((r.queue ++ r.dispatched).map (fun f => f.resv)).foldl (· + ·) 0 + r.waiting.length

/-- Whether one more completion can be written without passing an unreleased one. -/
def Ring.hasRoom (r : Ring) : Bool := decide (r.unreleased + 1 ≤ 2 * r.depth - 1)

/-- Whether a ring may write completions (Table 11-2, R306). -/
def Ring.posts (r : Ring) : Bool :=
  decide (r.state = .enabled) || (decide (r.state = .resetting) && !r.haltedReset)

/-- The 16 bytes of a completion entry (Table 11-4). -/
def entryBytes (r : Ring) (e : Entry) : List Byte :=
  leBytes 4 e.tag.toNat ++ leBytes 2 e.status.toNat ++
  leBytes 2 (r.sqHead.toNat + (if e.stale then 0x1000 else 0) + (if e.event then 0x2000 else 0) +
    (if e.more then 0x4000 else 0) + (if r.phase then 0x8000 else 0)) ++
  leBytes 4 e.result.toNat ++ leBytes 2 e.epoch.toNat ++ leBytes 2 e.detail.toNat

/-- MSI-X vector `v` sent, held pending or lost, by R302 and R567; the IRQ_EN bit has been looked at. -/
def signalVector (v : Fin 128) (s : State) : State :=
  if !s.host.msixEnable then s
  else if s.host.msixFmask || s.host.msixTable[v].mask then
    { s with host := { s.host with pba := s.host.pba ||| (1#128 <<< v.val) } }
  else { s with out := { s.out with msix := (s.host.msixTable[v].addr, s.host.msixTable[v].data) :: s.out.msix } }

/-- Vector n of CQ n raised (R302). -/
def raiseCq (n : RingIx) (s : State) : State :=
  if s.rings[n].cqIrqEn then signalVector ⟨n.val, by omega⟩ s else s

/-- Vector 64 + n of SQ n raised (R302). -/
def raiseSq (n : RingIx) (s : State) : State :=
  if s.rings[n].sqIrqEn then signalVector ⟨n.val + 64, by omega⟩ s else s

/-- Interrupt moderation after one entry (R303). -/
def moderate (n : RingIx) (noIrq : Bool) (s : State) : State :=
  if noIrq then s
  else if s.rings[n].coalCount.toNat ≤ s.rings[n].coalesced + 1 then
    raiseCq n (setRing n (fun r => { r with coalesced := 0, coalArmed := false }) s)
  else setRing n (fun r => { r with coalesced := r.coalesced + 1, coalArmed := decide (r.coalTime ≠ 0) }) s

/-- The CQ index after one entry; PHASE inverts at the wrap (R292). -/
def Ring.advanceCq (r : Ring) : Ring :=
  if r.cqTail.toNat + 1 = 2 * r.depth then { r with cqTail := 0, phase := !r.phase } else { r with cqTail := r.cqTail + 1 }

/-- One entry written at the CQ tail of ring n, and signalled (R293). -/
def writeEntry (n : RingIx) (e : Entry) (s : State) : State :=
  let r := s.rings[n]
  moderate n e.noIrq
    (setRing n Ring.advanceCq (hostWrite (r.cqBase.toNat + 16 * r.cqTail.toNat) (entryBytes r e) s))

/-- Entries that wait for credit written in order while there is room (R297, Table 11-7); `fuel` bounds them. -/
def drainCq (n : RingIx) : Nat → State → State
  | 0, s => s
  | fuel + 1, s =>
    match s.rings[n].waiting with
    | [] => s
    | e :: es =>
      if s.rings[n].hasRoom && s.host.linkUp then
        drainCq n fuel (writeEntry n e (setRing n (fun r => { r with waiting := es }) s))
      else s

/-- An entry posted on ring n: written at once or kept until there is credit; discarded where the ring posts none. -/
def postEntry (n : RingIx) (e : Entry) (s : State) : State :=
  if s.rings[n].posts then
    drainCq n (s.rings[n].waiting.length + 1) (setRing n (fun r => { r with waiting := r.waiting ++ [e] }) s)
  else s

/-! ### Events on CQ 0 (R305, R573, R577) -/

/-- The 4 + 4 + 6 bytes of an archive entry's content (R415, R573): code, source, RESULT and DETAIL. -/
def archiveEntry (code source result : Nat) : List Byte :=
  leBytes 2 code ++ leBytes 2 source ++ leBytes 4 result ++ leBytes 2 source

/-- Whether CQ 0 has credit for an event. -/
def eventCredit (s : State) : Bool :=
  decide (s.rings[0].state = .enabled) && s.host.linkUp &&
  decide (s.rings[0].unreleased + s.rings[0].owed + 1 ≤ 2 * s.rings[0].depth - 1)

/-- An event entry written on CQ 0, and remembered until it is released (R574). -/
def writeEvent (e : Entry) (s : State) : State :=
  let p : PostedEvent :=
    { index := s.rings[0].cqTail.toNat, code := e.result.setWidth 16, source := e.detail }
  postEntry 0 e { s with tray := { s.tray with posted := s.tray.posted ++ [p] } }

/-- Events kept for want of credit written, oldest first, while there is credit. -/
def flushEvents : Nat → State → State
  | 0, s => s
  | fuel + 1, s =>
    match s.tray.pendingEvents with
    | [] => s
    | e :: es =>
      if eventCredit s then flushEvents fuel (writeEvent e { s with tray := { s.tray with pendingEvents := es } }) else s

/-- The newest 16 entries of a list, oldest first (R305). -/
def newest16 (es : List Entry) : List Entry := es.drop (es.length - 16)

/-- An event kept pending; an older one is discarded beyond 16, and EVENT_LOST says so (R305). -/
def keepEvent (e : Entry) (s : State) : State :=
  let es := s.tray.pendingEvents ++ [e]
  let s1 := { s with tray := { s.tray with pendingEvents := newest16 es } }
  if es.length ≤ 16 then s1 else setRing 0 (fun r => { r with eventLost := true }) s1

/-- The entry of an event (R573). -/
def eventEntry (code source data : W16) : Entry :=
  { tag := 0, status := 0, result := BitVec.ofNat 32 (data.toNat * 65536 + code.toNat), detail := source, epoch := 0,
    stale := false, more := false, event := true, noIrq := false }

/-- An event posted on CQ 0 or kept pending, and entered in the event archive; the same condition twice within one
housekeeping round posts one event (R577). -/
def event (code source data : W16) (s : State) : State :=
  if (code, source, data) ∈ s.tray.roundEvents then s
  else
    let e := eventEntry code source data
    let s1 := { s with
      tray := { s.tray with roundEvents := (code, source, data) :: s.tray.roundEvents },
      flash := if s.flash.archDead then s.flash else { s.flash with
        eventBuf := s.flash.eventBuf ++ [archiveEntry code.toNat source.toNat e.result.toNat] } }
    if s1.tray.pendingEvents = [] ∧ eventCredit s1 then writeEvent e s1 else keepEvent e s1

/-! ### Completions of descriptors -/

/-- What a completion reports. -/
structure Reply where
  code   : W16
  result : W32
  detail : W16
  epoch  : W16
  stale  : Bool
  more   : Bool
deriving DecidableEq, Repr

/-- A completion with a code alone. -/
def Reply.of (c : W16) : Reply := { code := c, result := 0, detail := 0, epoch := 0, stale := false, more := false }

/-- OK with a RESULT. -/
def Reply.ok (r : Nat) : Reply := { Reply.of codeOk with result := BitVec.ofNat 32 r }

/-- OK with a RESULT and a DETAIL. -/
def Reply.okDetail (r d : Nat) : Reply := { Reply.ok r with detail := BitVec.ofNat 16 d }

/-- ARG_RANGE at a field of the descriptor (R314). -/
def Reply.arg (o : Nat) : Reply := { Reply.of codeArgRange with detail := BitVec.ofNat 16 o }

/-- ARG_RANGE inside a structure: its number, the index of the record in it and the byte offset (R314). -/
def Reply.argIn (struct index o : Nat) : Reply :=
  { Reply.of codeArgRange with result := BitVec.ofNat 32 (struct * 2 ^ 28 + index), detail := BitVec.ofNat 16 o }

/-- The CQ entry of a descriptor's completion. -/
def Reply.entry (r : Reply) (d : Descriptor) : Entry :=
  { tag := d.tag, status := r.code, result := r.result, detail := r.detail, epoch := r.epoch, stale := r.stale,
    more := r.more, event := false, noIrq := d.noIrq }

/-- Ring counters of R553, R550 after one completion. -/
def Ring.count (c : W16) (last : Bool) (r : Ring) : Ring :=
  { r with dropped := if c = codeDropped then satInc r.dropped else r.dropped,
           overloaded := if c = codeOverload then satInc r.overloaded else r.overloaded,
           rateNow := if last then r.rateNow + 1 else r.rateNow }

/-- One completion less owed by descriptor `id`. -/
def payOne (id : Nat) (l : List Fetched) : List Fetched :=
  l.map (fun f => if f.id = id then { f with resv := f.resv - 1 } else f)

/-- Descriptor `id` gone from a list. -/
def dropId (id : Nat) (l : List Fetched) : List Fetched := l.filter (fun f => decide (f.id ≠ id))

/-- The core whose submission descriptor `id` of ring `n` is (R513). -/
def submitter (n : RingIx) (id : Nat) (s : State) : Option CoreIx :=
  (List.finRange 4).find? (fun k => s.cores[k].subs.any (fun x => decide (x.ring = n) && decide (x.id = id)))

/-- The completion of descriptor `f` of ring `n` written. Its last completion retires the descriptor. The completion of a
submission of the extension goes to its handle and to no CQ (R513, R533). -/
def finish (n : RingIx) (f : Fetched) (r : Reply) (s : State) : State :=
  match submitter n f.id s with
  | some k =>
    setCore k (fun c => { c with subs := c.subs.map (fun x =>
        if x.ring = n ∧ x.id = f.id then { x with done := some (r.entry f.desc) } else x) })
      (setRing n (fun q => { q with queue := dropId f.id q.queue, dispatched := dropId f.id q.dispatched }) s)
  | none =>
    let s1 := setRing n (fun q =>
      if r.more then { q with queue := payOne f.id q.queue, dispatched := payOne f.id q.dispatched }
      else { q with queue := dropId f.id q.queue, dispatched := dropId f.id q.dispatched }) s
    if s1.rings[n].posts then postEntry n (r.entry f.desc) (setRing n (Ring.count r.code (!r.more)) s1) else s1

/-- A descriptor that ring `n` still holds. -/
def Ring.holds (r : Ring) (id : Nat) : Bool := (r.queue ++ r.dispatched).any (fun g => decide (g.id = id))

/-- A completion of descriptor `f` of ring `n`, discarded where a reset has lost the descriptor (R307, R555). -/
def complete (n : RingIx) (f : Fetched) (r : Reply) (s : State) : State :=
  if s.rings[n].holds f.id then finish n f r s else s

/-- A completion of a descriptor on whichever ring still holds it. -/
def completeAny (f : Fetched) (r : Reply) (s : State) : State :=
  match (List.finRange 64).find? (fun n => s.rings[n].holds f.id) with
  | some n => complete n f r s
  | none => s

/-- A list of descriptors completed in order with one code. -/
def completeAll (n : RingIx) (fs : List Fetched) (c : W16) (s : State) : State :=
  fs.foldl (fun s f => complete n f (Reply.of c) s) s

/-! ### Serving one Vrelmahan command -/

/-- A command in progress that holds ring 0 (R304 rule 4, R316). -/
def syncBusy (s : State) : Bool :=
  s.rings[0].dispatched.any (fun f => match cmdInfo f.desc.opcode with
    | some i => !i.async
    | none => true)

/-- Whether a queued descriptor may be dispatched now: FENCE waits for every earlier descriptor of its ring (R304). -/
def fenceOpen (r : Ring) (f : Fetched) : Bool :=
  !f.desc.fence || !(r.queue ++ r.dispatched).any (fun g => decide (g.id < f.id))

/-- The descriptor that firmware serves next for an opcode: on ring 0 the head of the queue alone, and only while no
synchronous command runs; elsewhere the oldest queued one of that opcode. -/
def nextFor (op : Nat → Bool) (n : RingIx) (s : State) : Option Fetched :=
  let r := s.rings[n]
  if n = 0 then
    match r.queue with
    | [] => none
    | f :: _ => if op f.desc.opcode && fenceOpen r f && !syncBusy s then some f else none
  else r.queue.find? (fun f => op f.desc.opcode && fenceOpen r f)

/-- Firmware runs: every state but DEEP and OFF, once the FIRMWARE phase has ended (R312, R549). -/
def firmwareRuns (s : State) : Bool :=
  !(decide (s.tray.powerState = .off) || decide (s.tray.powerState = .deep)) &&
  !(decide (s.tray.phase = .rom) || decide (s.tray.phase = .verify) || decide (s.tray.phase = .firmware) ||
    decide (s.tray.phase = .failed))

/-- DIVIDE is asserted in some zone (R439). -/
def divideAsserted (s : State) : Bool := s.thermal.divide.toList.any (fun x => x.on)

/-- A core runs. -/
def coreRuns (s : State) (k : CoreIx) : Bool := decide (s.cores[k].state = .running)

/-- Firmware serves commands: core 0 interprets them, and what is queued waits for its restart (R18, Table 19-8). -/
def firmwareServes (s : State) : Bool := firmwareRuns s && coreRuns s 0

/-- A descriptor leaves the queue and is in progress (R298). -/
def dispatch (n : RingIx) (f : Fetched) (s : State) : State :=
  setRing n (fun r => { r with queue := dropId f.id r.queue, dispatched := r.dispatched ++ [f] }) s

/-- What the body of a command answers: a state in which it still runs, or a state and its completion. -/
inductive Body where
  | running (s : State)
  | done (s : State) (r : Reply)

/-- Firmware serves the next descriptor of an opcode (R298, R312, R313): arguments first, the lowest failing byte deciding
(R314), then legality, then the command's own effect. -/
def serve (op : Nat → Bool) (n : RingIx) (args : Fetched → State → List (Nat × Bool))
    (body : Fetched → State → Body) (s : State) : Result :=
  if !firmwareServes s then .next s
  else match nextFor op n s with
  | none => .next s
  | some f =>
    match cmdInfo f.desc.opcode with
    | none => .next (complete n f (Reply.arg 0) s)
    | some i =>
      let s1 := dispatch n f s
      match firstFailing (reservedChecks i f.desc ++ args f s1) with
      | some o => .next (complete n f (Reply.arg o) s1)
      | none =>
        match legalityCode i.legal s1.tray.powerState (decide (s1.twin.role = .standby)) s1.tray.debugOn with
        | some c => .next (complete n f (Reply.of c) s1)
        | none =>
          match body f s1 with
          | .running s2 => .next s2
          | .done s2 r => .next (complete n f r s2)

/-- The opcodes of one command. -/
def isOp (op : Nat) : Nat → Bool := fun o => decide (o = op)

/-- A check of a field: its offset, and whether it fails. -/
def chk (o : Nat) (bad : Bool) : Nat × Bool := (o, bad)

/-- Write `bs` for a command, then complete: a failing write gives its code (R339). -/
def writeThen (a : Nat) (bs : List Byte) (r : Reply) (s : State) : Body :=
  match writeFails s a bs.length with
  | some c => .done (daddrWrite a bs s) (Reply.of c)
  | none => .done (daddrWrite a bs s) r

/-! ### Takeover and the tray (R442, R475) -/

/-- A tile is usable by the identity block: not FAULTED (R317). -/
def usableTiles (s : State) : Nat :=
  ((List.finRange 10).map (fun t => if s.tiles[t].state ≠ .faulted then 2 ^ t.val else 0)).foldl (· + ·) 0

/-- Whether a stream is open in the active radio mapping (R337, R192). -/
def streamOpen (s : State) : Bool := s.sets.radioActive.streams.toList.any (fun e => e.en)

/-- A takeover request to the twin: TAKEOVER_REQ set in heartbeats until it is granted or refused (R475). -/
def requestTakeover (cause : W16) (s : State) : State :=
  if s.twin.role = .alone then s
  else { s with
    twin := { s.twin with takeoverReq := true, takeoverRefused := false },
    tray := { s.tray with takeoverCauses := if cause ∈ s.tray.takeoverCauses then s.tray.takeoverCauses
                                           else cause :: s.tray.takeoverCauses } }

/-- SCLK since the GPS epoch less FRAME_OFFSET (R233). -/
def radioTicks (t : TimeUnit) : Int :=
  ((t.todSec.toNat : Int) - 315964819) * 3932160000 + t.todTick.toNat - t.frameOffset

/-- eCPRI may be sent: GRANT and HOLD are high (R25, R464), and no transfer point is reached or less than 2 us away (R474):
2 us is 7,864.32 SCLK. -/
def mayTransmit (s : State) : Bool :=
  s.twin.grant && s.twin.hold && !s.twin.handover.any (fun h => h.releasing &&
    (h.passed || decide ((h.at_.toNat : Int) * 100 ≤ radioTicks s.time * 100 + 786432)))

/-- FORCE_HANDOVER in hardware: custody is released in the shelf's logic and HOLD is held low (Table 15-10). -/
def forceRelease (s : State) : State :=
  { s with
    woad := { s.woad with forceHold := true },
    twin := { s.twin with hold := false, grant := false,
                          holder := if s.twin.holder = some false then none else s.twin.holder } }

/-- A cause of a takeover request is gone: with none left the request is withdrawn (R238, R475). -/
def withdrawTakeover (cause : W16) (s : State) : State :=
  let cs := s.tray.takeoverCauses.filter (fun c => decide (c ≠ cause))
  if cause ∈ s.tray.takeoverCauses then
    { s with tray := { s.tray with takeoverCauses := cs },
             twin := { s.twin with takeoverReq := if cs = [] then false else s.twin.takeoverReq } }
  else s

end Sys2Proof.Machine
end

