-- ==== Sys2Proof/Machine/CoefOps.lean ====
section
/-! DEFINITION. The coefficient blocks of a tile (Tables 5-5 and 5-7): the values in force, and values written into them. -/
namespace Sys2Proof.Machine

/-- Blocks of a characterisation record, of a running record, and of a factory record, in ID order (R156, Table 5-7). -/
def charBlocks : List Nat := [0x0002, 0x0003, 0x0004, 0x0005, 0x0006, 0x0007, 0x0008, 0x0009, 0x000A, 0x000B]
def runBlocks : List Nat := [0x0101, 0x0102, 0x0103, 0x0104]
def allBlocks : List Nat := charBlocks ++ runBlocks

/-- Bytes of a block; 0 for an ID that Table 5-7 does not list. -/
def blockLen (id : Nat) : Nat :=
  if id = 0x0002 then 4 else if id = 0x0003 then 945952 else if id = 0x0004 then 7168 else if id = 0x0005 then 512
  else if id = 0x0006 then 16384 else if id = 0x0007 then 1024 else if id = 0x0008 then 98 else if id = 0x0009 then 788
  else if id = 0x000A then 136 else if id = 0x000B then 64 else if id = 0x0101 then 2560 else if id = 0x0102 then 512
  else if id = 0x0103 then 288 else if id = 0x0104 then 36 else 0

/-- Blocks whose values in force are registers of the tile; the others are kept as the bytes that differ from the factory's. -/
def blockIsLive (id : Nat) : Bool :=
  decide (id = 0x0002 ∨ id = 0x0007 ∨ id = 0x0009 ∨ id = 0x000A) || decide (id ∈ runBlocks)

/-! ### Factory values (R156, Table 4-3, R118) -/

/-- A factory byte of TRIM_STATIC: A_REF 0, FF_SHIFT 5 and TRIM_RESID_MAX 38 by Table 4-3, the rest from manufacture. -/
def factoryTrim (t : TileIx) (o : Nat) : Byte :=
  if o < 768 then (if o % 6 = 2 ∨ o % 6 = 3 then 0 else Config.factoryCoef t 0x0009 o)
  else if o < 784 then Config.factoryCoef t 0x0009 o
  else if o = 784 then 5 else if o = 785 then 38 else 0

/-- A factory byte of STREAM_CAL: an offset in the range of Table 3-1, and a gain in its valid range. -/
def factoryStream (t : TileIx) (o : Nat) : Byte :=
  let b := Config.factoryCoef t 0x0007 o
  if o % 4 = 1 then (if b.getLsbD 0 then 0xFF else 0x00) else if o % 4 = 3 then b ||| 0x40 else b

/-- A factory byte of INTERLEAVE: no offset, unit gain, no skew. -/
def factoryPair (o : Nat) : Byte := if o % 10 = 5 ∨ o % 10 = 7 then 0x80 else 0

/-- A byte of a tile's factory record: the values that Tables 4-1 to 4-3 and 21-7 give a fresh tile, and otherwise what
manufacture wrote (assumption 7). -/
def factoryByte (t : TileIx) (block o : Nat) : Byte :=
  if block = 0x0002 then 0xFF
  else if block = 0x0007 then factoryStream t o
  else if block = 0x0009 then factoryTrim t o
  else if block = 0x000A then defaultAttr o
  else if block = 0x0101 then factoryPair o
  else if block = 0x0102 ∨ block = 0x0103 then 0
  else if block = 0x0104 ∧ o < 8 then 0
  else Config.factoryCoef t block o

/-- A factory block. -/
def factoryBlock (t : TileIx) (block : Nat) : List Byte := (List.range (blockLen block)).map (factoryByte t block)

/-! ### Live blocks -/

/-- A signed value in two bytes. -/
def le16s (i : Int) : List Byte := leBytes 2 (BitVec.ofInt 16 i).toNat

/-- Retired columns of a section, first and second, 0xFF for none (Table 5-7). -/
def columnBytes (cs : List (Fin 66)) : List Byte :=
  [0, 1].map (fun i => match cs[i]? with
    | some c => BitVec.ofNat 8 c.val
    | none => 0xFF#8)

def interleaveBytes (p : Interleave) : List Byte :=
  le16s p.ofs0.toInt ++ le16s p.ofs1.toInt ++ leBytes 2 p.gain0.toNat ++ leBytes 2 p.gain1.toNat ++ [p.skew, 0]

def streamCalBytes (c : StreamCal) : List Byte := le16s c.ofs.toInt ++ leBytes 2 c.gain.toNat

def StripeState.code : StripeState → Nat
  | .spare => 0
  | .lit => 1
  | .worn => 2
  | .failed => 3

/-- TRIM_STATIC (0x0009). -/
def trimStaticBytes (h : HeaterDrive) : List Byte :=
  h.zones.toList.flatMap (fun z => leBytes 2 z.setpt.toNat ++ leBytes 2 z.aRef.toNat ++ leBytes 2 z.kff.toNat) ++
  h.kfb.toList ++ [h.ffShift.setWidth 8, h.residMax, 0, 0]

/-- LASER (0x0104): the stored codes are those of the power-up registers of channels 128 to 135 (R119). -/
def laserBytes (x : Tile) : List Byte :=
  x.laser.stripes.toList.map (fun p => BitVec.ofNat 8 p.state.code) ++ [BitVec.ofNat 8 x.laser.lit.val, 0, 0, 0] ++
  x.laser.stripes.toList.flatMap (fun p => leBytes 2 p.bias.toNat) ++ leBytes 2 x.laser.t0Set.toNat ++
  leBytes 2 x.laser.t6Set.toNat ++ ((List.finRange 136).drop 128).flatMap (fun c => leBytes 2 x.heat.chans[c].powerUp.toNat)

/-- The bytes of a live block. -/
def liveBytes (x : Tile) (id : Nat) : List Byte :=
  if id = 0x0002 then columnBytes x.cal.retiredV ++ columnBytes x.cal.retiredU
  else if id = 0x0007 then x.conv.streams.toList.flatMap streamCalBytes
  else if id = 0x0009 then trimStaticBytes x.heat
  else if id = 0x000A then x.heat.chans.toList.map (fun c => c.attr)
  else if id = 0x0101 then x.conv.pairs.toList.flatMap interleaveBytes
  else if id = 0x0102 then x.heat.zones.toList.flatMap (fun z => le16s z.dzTheta ++ le16s z.dzPhi)
  else if id = 0x0103 then x.heat.zones.toList.flatMap (fun z => le16s z.drift) ++ x.heat.c.toList.flatMap le16s
  else laserBytes x

/-- What a coefficient byte outside the live blocks reads as where it does not differ from the factory's. -/
def coefDefault (t : TileIx) : Nat → Byte := fun a => factoryByte t (a / 2 ^ 24) (a % 2 ^ 24)

/-- The bytes in force of one block (R155). -/
def blockBytes (t : TileIx) (x : Tile) (id : Nat) : List Byte :=
  if blockIsLive id then liveBytes x id else memReadN (coefDefault t) x.cal.coefs (id * 2 ^ 24) (blockLen id)

/-! ### Values written -/

/-- A signed 16-bit field. -/
def s16At (b : List Byte) (o : Nat) : Int := signedOf 16 (field b o 2)

def parseColumns (b : List Byte) (o : Nat) : List (Fin 66) :=
  [o, o + 1].filterMap (fun i => if h : byteAt b i < 66 then some ⟨byteAt b i, h⟩ else none)

def parsePair (b : List Byte) : Interleave :=
  { ofs0 := BitVec.ofNat 10 (field b 0 2), ofs1 := BitVec.ofNat 10 (field b 2 2), gain0 := BitVec.ofNat 16 (field b 4 2),
    gain1 := BitVec.ofNat 16 (field b 6 2), skew := BitVec.ofNat 8 (byteAt b 8) }

def parseStreamCal (b : List Byte) : StreamCal :=
  { ofs := BitVec.ofNat 10 (field b 0 2), gain := BitVec.ofNat 16 (field b 2 2) }

def parseStripe (n : Nat) : StripeState :=
  if n = 0 then .spare else if n = 1 then .lit else if n = 2 then .worn else .failed

def setTrimStatic (b : List Byte) (h : HeaterDrive) : HeaterDrive :=
  let zs : Vector TrimZone 128 := Vector.ofFn (fun z => { h.zones[z] with
    setpt := BitVec.ofNat 12 (field b (6 * z.val) 2), aRef := BitVec.ofNat 10 (field b (6 * z.val + 2) 2),
    kff := BitVec.ofNat 12 (field b (6 * z.val + 4) 2) })
  { h with zones := zs, kfb := Vector.ofFn (fun k => BitVec.ofNat 8 (byteAt b (768 + k.val))),
           ffShift := BitVec.ofNat 3 (byteAt b 784), residMax := BitVec.ofNat 8 (byteAt b 785) }

/-- The stored codes of channels 128 to 135 of a LASER block put in the power-up registers (R119). -/
def setPowerUp (b : List Byte) (x : Tile) : Tile :=
  let cs : Vector Heater 136 := Vector.ofFn (fun c => { x.heat.chans[c] with
    powerUp := if 128 ≤ c.val then BitVec.ofNat 12 (field b (20 + 2 * (c.val - 128)) 2) else x.heat.chans[c].powerUp })
  { x with heat := { x.heat with chans := cs } }

def setLaser (b : List Byte) (x : Tile) : Tile :=
  let ss : Vector Stripe 4 := Vector.ofFn (fun k =>
    { state := parseStripe (byteAt b k.val), bias := BitVec.ofNat 16 (field b (8 + 2 * k.val) 2) })
  setPowerUp b { x with
    laser := { x.laser with stripes := ss, lit := ⟨byteAt b 4 % 4, by omega⟩, t0Set := BitVec.ofNat 16 (field b 16 2),
                            t6Set := BitVec.ofNat 16 (field b 18 2) } }

def setDrifts (b : List Byte) (h : HeaterDrive) : HeaterDrive :=
  { h with zones := Vector.ofFn (fun z => { h.zones[z] with drift := clampInt (-2048) 2047 (s16At b (2 * z.val)) }),
           c := Vector.ofFn (fun k => s16At b (256 + 2 * k.val)) }

/-- The bytes `b` of a whole live block put in force. -/
def setLive (id : Nat) (b : List Byte) (x : Tile) : Tile :=
  if id = 0x0002 then { x with cal := { x.cal with retiredV := parseColumns b 0, retiredU := parseColumns b 2 } }
  else if id = 0x0007 then
    let ss : Vector StreamCal 256 := Vector.ofFn (fun k => parseStreamCal (b.drop (4 * k.val)))
    { x with conv := { x.conv with streams := ss, streamsNext := ss } }
  else if id = 0x0009 then { x with heat := setTrimStatic b x.heat }
  else if id = 0x000A then
    { x with heat := { x.heat with chans := Vector.ofFn (fun c =>
        { x.heat.chans[c] with attr := BitVec.ofNat 8 (byteAt b c.val) }) } }
  else if id = 0x0101 then
    let ps : Vector Interleave 256 := Vector.ofFn (fun k => parsePair (b.drop (10 * k.val)))
    { x with conv := { x.conv with pairs := ps, pairsNext := ps } }
  else if id = 0x0102 then
    { x with heat := { x.heat with zones := Vector.ofFn (fun z =>
        { x.heat.zones[z] with dzTheta := s16At b (4 * z.val), dzPhi := s16At b (4 * z.val + 2) }) } }
  else if id = 0x0103 then { x with heat := setDrifts b x.heat }
  else setLaser b x

/-- A whole block put in force. -/
def setBlock (t : TileIx) (id : Nat) (b : List Byte) (x : Tile) : Tile :=
  if blockIsLive id then setLive id b x
  else { x with cal := { x.cal with coefs := memWriteN (coefDefault t) x.cal.coefs (id * 2 ^ 24) (b.take (blockLen id)) } }

/-- One byte of a block put in force. -/
def setCoefByte (t : TileIx) (id o : Nat) (v : Byte) (x : Tile) : Tile :=
  if blockLen id ≤ o then x
  else if blockIsLive id then setLive id ((liveBytes x id).set o v) x
  else { x with cal := { x.cal with coefs := memPut (coefDefault t) x.cal.coefs (id * 2 ^ 24 + o) v } }

/-- The results of completed steps take effect (R152). -/
def applyResults (t : TileIx) (x : Tile) : Tile :=
  let y := x.cal.results.foldl (fun x r => setCoefByte t r.1 r.2.1 r.2.2 x) x
  { y with cal := { y.cal with results := [], changed := y.cal.changed || decide (x.cal.results ≠ []) } }

end Sys2Proof.Machine
end

