-- ==== Sys2Proof/Machine/FlashOps.lean ====
section
/-! DEFINITION. The flash arrays (chapter 16): their bytes, the journals, the erase and program sequences, the write queues,
and calibration records (R156 to R159). -/
namespace Sys2Proof.Machine

/-! ### Bytes of the arrays -/

/-- Where the information area of a code bank begins in the model's addresses of a code array. -/
abbrev infoBase : Nat := 0x400000

/-- Bytes of a record of KIND (R156). -/
def recordLen' (kind : Nat) : Nat := if kind = 1 then 972288 else if kind = 2 then 3480 else 975732

/-- Block IDs of a record of KIND. -/
def recordBlocks (kind : Nat) : List Nat := if kind = 1 then charBlocks else if kind = 2 then runBlocks else allBlocks

/-- Offsets of the blocks of a record: after the header and the directory, ascending, each on a 4-byte boundary (R157). -/
def blockOffsets : Nat → List Nat → List (Nat × Nat)
  | _, [] => []
  | o, b :: bs => (b, o) :: blockOffsets ((o + blockLen b + 3) / 4 * 4) bs

/-- The header (Table 5-6) and the directory of a record. -/
def recordHead (kind tile seq epoch base time : Nat) : List Byte :=
  let ids := recordBlocks kind
  let magic := if kind = 1 then 0x4B435A51 else if kind = 2 then 0x4E525A51 else 0x43465A51
  leBytes 4 magic ++ leBytes 2 1 ++ [BitVec.ofNat 8 kind, BitVec.ofNat 8 tile] ++ leBytes 4 seq ++ leBytes 4 epoch ++
  leBytes 4 (recordLen' kind) ++ leBytes 4 base ++ leBytes 4 time ++ leBytes 2 0x0201 ++ leBytes 2 ids.length ++
  (blockOffsets (32 + 12 * ids.length) ids).flatMap (fun p => leBytes 2 p.1 ++ leBytes 2 0 ++ leBytes 4 p.2 ++
    leBytes 4 (blockLen p.1))

/-- A record without its check word, from the bytes of its blocks: every block starts where the directory says. -/
def recordBody (kind tile seq epoch base time : Nat) (block : Nat → List Byte) : List Byte :=
  let body := (recordBlocks kind).foldl (fun bs id =>
    bs ++ block id ++ List.replicate ((4 - (bs.length + blockLen id) % 4) % 4) 0)
    (recordHead kind tile seq epoch base time)
  body.take (recordLen' kind - 4) ++ List.replicate (recordLen' kind - 4 - body.length) 0

/-- A record with its check word (R157). -/
def recordBytes (kind tile seq epoch base time : Nat) (block : Nat → List Byte) : List Byte :=
  let b := recordBody kind tile seq epoch base time block
  b ++ leBytes 4 (crc32c b).toNat

/-- A byte of the body of tile t's factory record. -/
def factoryRecord (t : TileIx) : List Byte := recordBytes 3 t.val 0 0 0 0 (factoryBlock t)

/-- What an archive byte that nothing has programmed reads as: the protected regions as manufactured, else erased (R412). -/
def archDefault : Nat → Byte := fun a =>
  if a < 0x10000 then Config.identityBlock a
  else if 0x100000 ≤ a ∧ a < 0xB00000 then
    (factoryRecord ⟨(a - 0x100000) / 0x100000 % 10, by omega⟩).getD ((a - 0x100000) % 0x100000) 0xFF
  else 0xFF

/-- `n` bytes of a flash array. -/
def flashRead (s : State) (arr : FlashArray) (a n : Nat) : List Byte :=
  match arr with
  | .archive => memReadN archDefault s.flash.archive a n
  | .code0 => if a < infoBase then memReadN erasedByte s.flash.main0 a n else memReadN erasedByte s.flash.info0 (a - infoBase) n
  | .code1 => if a < infoBase then memReadN erasedByte s.flash.main1 a n else memReadN erasedByte s.flash.info1 (a - infoBase) n

/-- Bytes put into a flash array as they are. -/
def flashPut (arr : FlashArray) (a : Nat) (bs : List Byte) (s : State) : State :=
  match arr with
  | .archive => { s with flash := { s.flash with archive := memWriteN archDefault s.flash.archive a bs } }
  | .code0 =>
    if a < infoBase then { s with flash := { s.flash with main0 := memWriteN erasedByte s.flash.main0 a bs } }
    else { s with flash := { s.flash with info0 := memWriteN erasedByte s.flash.info0 (a - infoBase) bs } }
  | .code1 =>
    if a < infoBase then { s with flash := { s.flash with main1 := memWriteN erasedByte s.flash.main1 a bs } }
    else { s with flash := { s.flash with info1 := memWriteN erasedByte s.flash.info1 (a - infoBase) bs } }

/-- A main array that a program or an erase reaches holds no known image until it is verified again. -/
def touchMain (arr : FlashArray) (a : Nat) (s : State) : State :=
  if infoBase ≤ a then s
  else match arr with
  | .archive => s
  | .code0 => { s with flash := { s.flash with images := put s.flash.images 0 { good := false, rollback := 0 } } }
  | .code1 => { s with flash := { s.flash with images := put s.flash.images 1 { good := false, rollback := 0 } } }

/-- Bytes programmed: a cell can only go from 1 to 0 (Table 16-3). -/
def flashProgram (arr : FlashArray) (a : Nat) (bs : List Byte) (s : State) : State :=
  touchMain arr a (flashPut arr a (List.zipWith (· &&& ·) (flashRead s arr a bs.length) bs) s)

/-- Bytes of an erase unit (Table 16-4). -/
def unitSize : EraseUnit → Nat
  | .sector4k => 4096
  | .block64k => 65536
  | .codeSector => 32768
  | .codeJournal => 8192

/-- A unit erased. -/
def flashErase (arr : FlashArray) (unit : EraseUnit) (a : Nat) (s : State) : State :=
  touchMain arr a (flashPut arr a (List.replicate (unitSize unit) 0xFF) s)

/-! ### The one-time region (R426) -/

/-- The value of a counter of 256 bits: the lowest bit that still reads 1. -/
def counterValue (bs : List Byte) : Nat :=
  match (List.range 256).find? (fun i => (bs.getD (i / 8) 0).getLsbD (i % 8)) with
  | some i => i
  | none => 256

/-- FW_COUNTER and EXT_COUNTER; a region that cannot be read counts as 256 (R434). -/
def fwCounter (s : State) : Nat := if s.flash.oneTimeBad then 256 else counterValue (flashRead s .code0 (infoBase + 0x4000) 32)
def extCounter (s : State) : Nat := if s.flash.oneTimeBad then 256 else counterValue (flashRead s .code0 (infoBase + 0x4020) 32)

/-- The enrolled key, and whether one is enrolled. -/
def extKey (s : State) : List Byte := flashRead s .code0 (infoBase + 0x4040) 97
def keyEnrolled (s : State) : Bool :=
  decide (leNat (flashRead s .code0 (infoBase + 0x40A4) 4) = (crc32c (extKey s)).toNat)

/-- A counter advanced to a value: its bits below it programmed, in ascending order (R426, R428). -/
def advanceCounter (addr target : Nat) (s : State) : State :=
  flashProgram .code0 addr (leBytes 32 (2 ^ 256 - 2 ^ min target 256)) s

/-! ### Journals (R420 to R423) -/

def FlashArray.code : FlashArray → Nat
  | .archive => 0
  | .code0 => 1
  | .code1 => 2

def EraseUnit.code : EraseUnit → Nat
  | .sector4k => 0
  | .block64k => 1
  | .codeSector => 2
  | .codeJournal => 3

/-- Where a half of the journal that concerns an array lies: a code bank's in the other bank (R409, Table 16-2). -/
def journalAt (arr : FlashArray) (half : Bool) : FlashArray × Nat :=
  match arr with
  | .archive => (.archive, if half then 0x20000 else 0x10000)
  | .code0 => (.code1, infoBase + (if half then 0x2000 else 0))
  | .code1 => (.code0, infoBase + (if half then 0x2000 else 0))

/-- Records of a half, and the unit that it is. -/
def journalCap (arr : FlashArray) : Nat := if arr = .archive then 2048 else 256
def journalUnit (arr : FlashArray) : EraseUnit := if arr = .archive then .block64k else .codeJournal

/-- The bank index of a code array's journal. -/
def journalBank (arr : FlashArray) : Fin 2 := if arr = .code0 then 1 else 0

def journalHalf (s : State) (arr : FlashArray) : Bool :=
  if arr = .archive then s.flash.archHalf else s.flash.codeHalf[journalBank arr]

def journalUsed (s : State) (arr : FlashArray) : Nat :=
  if arr = .archive then s.flash.archUsed else s.flash.codeUsed[journalBank arr]

/-- A journal's active half and its used records set. -/
def setJournal (arr : FlashArray) (half : Bool) (used : Nat) (s : State) : State :=
  if arr = .archive then { s with flash := { s.flash with archHalf := half, archUsed := used } }
  else { s with flash := { s.flash with codeHalf := put s.flash.codeHalf (journalBank arr) half,
                                        codeUsed := put s.flash.codeUsed (journalBank arr) used } }

/-- SEQ of the newest record of a journal. -/
def journalSeq (s : State) (arr : FlashArray) : W32 := if arr = .archive then s.flash.archSeq else s.flash.codeSeq

def setJournalSeq (arr : FlashArray) (q : W32) (s : State) : State :=
  if arr = .archive then { s with flash := { s.flash with archSeq := q } } else { s with flash := { s.flash with codeSeq := q } }

/-- The 32 bytes of a journal record (Table 16-4). -/
def journalBytes (s : State) (type : Nat) (arr : FlashArray) (unit addr ref : Nat) : List Byte :=
  let b := [BitVec.ofNat 8 type, BitVec.ofNat 8 arr.code, BitVec.ofNat 8 unit, 0] ++
    leBytes 4 ((journalSeq s arr).toNat + 1) ++ leBytes 4 addr ++ leBytes 4 ref ++ leBytes 4 s.time.todSec.toNat ++
    List.replicate 8 0
  b ++ leBytes 4 (crc32c b).toNat

/-- One record written in the active half of the journal of `arr`. -/
def journal (type : Nat) (arr : FlashArray) (unit addr ref : Nat) (s : State) : State :=
  let p := journalAt arr (journalHalf s arr)
  let k := journalUsed s arr
  setJournalSeq arr (journalSeq s arr + 1) (setJournal arr (journalHalf s arr) (k + 1)
    (flashProgram p.1 (p.2 + 32 * k) (journalBytes s type arr unit addr ref) s))

/-- A journal record read back. -/
structure JRecord where
  type : Nat
  arr  : Nat
  unit : Nat
  seq  : Nat
  addr : Nat
  ref  : Nat
deriving DecidableEq, Repr

/-- A record whose TYPE is in use and whose CHECK matches (R420, R423). -/
def parseRecord (b : List Byte) : Option JRecord :=
  if byteAt b 0 = 0 ∨ 5 < byteAt b 0 then none
  else if field b 0x1C 4 = (crc32c (b.take 0x1C)).toNat then
    some { type := byteAt b 0, arr := byteAt b 1, unit := byteAt b 2, seq := field b 4 4, addr := field b 8 4, ref := field b 12 4 }
  else none

/-- The valid records of one half. -/
def halfRecords (s : State) (arr : FlashArray) (half : Bool) : List JRecord :=
  let p := journalAt arr half
  (List.range (journalCap arr)).filterMap (fun i => parseRecord (flashRead s p.1 (p.2 + 32 * i) 32))

/-- The INTENTs, and CARRYs of an INTENT, without a COMPLETE or FAIL of the same REF: (SEQ of the INTENT, record). -/
def openIntents (rs : List JRecord) : List (Nat × JRecord) :=
  let closed := fun q => rs.any (fun r => (decide (r.type = 2) || decide (r.type = 5)) && decide (r.ref = q))
  rs.filterMap (fun r =>
    let q := if r.type = 1 then some r.seq else if r.type = 4 then some r.ref else none
    q.bind (fun q => if closed q then none else some (q, r)))

def arrayOf (n : Nat) : FlashArray := if n = 1 then .code0 else if n = 2 then .code1 else .archive
def unitOf (n : Nat) : EraseUnit :=
  if n = 1 then .block64k else if n = 2 then .codeSector else if n = 3 then .codeJournal else .sector4k

/-- A unit marked half-erased, once; and unmarked (R423, R424). -/
def markUnit (arr : FlashArray) (a : Nat) (s : State) : State :=
  if (arr, a) ∈ s.flash.halfErased then s
  else { s with flash := { s.flash with halfErased := s.flash.halfErased ++ [(arr, a)] } }

def clearUnit (arr : FlashArray) (a : Nat) (s : State) : State :=
  { s with flash := { s.flash with halfErased := s.flash.halfErased.filter (fun p => decide (p ≠ (arr, a))) } }

/-- The unit of an address in an array (Tables 16-1, 16-2). -/
def unitAt (arr : FlashArray) (a : Nat) : EraseUnit :=
  if arr = .archive then (if 0x10000 ≤ a ∧ a < 0x30000 ∨ 0xB00000 ≤ a ∧ a < 0x1F00000 then .block64k else .sector4k)
  else if a < infoBase then .codeSector else .codeJournal

/-- A range touches a unit marked half-erased. -/
def halfErasedIn (s : State) (arr : FlashArray) (a n : Nat) : Bool :=
  s.flash.halfErased.any (fun p => decide (p.1 = arr) && decide (p.2 < a + n) && decide (a < p.2 + unitSize (unitAt arr p.2)))

/-! ### Erase counts (R432, Table 21-13) -/

/-- The region of `ERASE_MAX_r` that a unit belongs to. -/
def eraseRegion (arr : FlashArray) (a : Nat) : Nat :=
  if arr = .archive then
    (if a < 0x30000 then 2 else if a < 0x40000 then 5 else if a < 0x50000 then 3 else if a < 0x100000 then 0
     else if a < 0x1F00000 then 1 else 4)
  else if a < infoBase then 6 else 7

/-- Endurance of a unit [cycles] (Table 16-9). -/
def endurance (arr : FlashArray) : Nat := if arr = .archive then 100000 else 10000

/-- Erases of a unit so far. -/
def eraseCount (s : State) (arr : FlashArray) (a : Nat) : Nat :=
  match s.flash.eraseCounts.find? (fun c => decide (c.arr = arr) && decide (c.addr = a)) with
  | some c => c.count
  | none => 0

/-- The highest erase count of a region. -/
def eraseMax (s : State) (r : Nat) : Nat :=
  (s.flash.eraseCounts.map (fun c => if eraseRegion c.arr c.addr = r then c.count else 0)).foldl max 0

/-- One more erase of a unit; above its endurance, MINOR (R434). -/
def countErase (arr : FlashArray) (a : Nat) (s : State) : State :=
  let k := eraseCount s arr a + 1
  let rest := s.flash.eraseCounts.filter (fun c => !(decide (c.arr = arr) && decide (c.addr = a)))
  let c : UnitCount := { arr := arr, addr := a, count := k }
  let s1 := { s with flash := { s.flash with eraseCounts := c :: rest } }
  if endurance arr < k then raiseAlarm false alWear (BitVec.ofNat 16 (eraseRegion arr a)) s1 else s1

/-! ### Records and slots (R156 to R159, R414) -/

/-- The address of a slot of a tile (R413): KIND 1 characterisation, 2 running; SLOT 0 A, 1 B; KIND 3 the factory record. -/
def slotAddr (kind t slot : Nat) : Nat :=
  if kind = 1 then 0xB00000 + 0x200000 * t + 0x100000 * slot
  else if kind = 2 then 0x50000 + 0x2000 * t + 0x1000 * slot else 0x100000 + 0x100000 * t

/-- The magic of a record kind. -/
def recordMagic (kind : Nat) : Nat := if kind = 1 then 0x4B435A51 else if kind = 2 then 0x4E525A51 else 0x43465A51

/-- A slot holds a valid record (R159, R424): header first, then the directory and the check word. A journal that cannot be read
leaves the slots in doubt, and not the protected factory records (R434). -/
def recordValid (s : State) (kind t slot : Nat) : Bool :=
  let a := slotAddr kind t slot
  let n := recordLen' kind
  let h := flashRead s .archive a 32
  if field h 0 4 ≠ recordMagic kind then false
  else if (kind ≠ 3 ∧ s.flash.archUnread) ∨ halfErasedIn s .archive a n then false
  else
    let b := flashRead s .archive a n
    decide (field h 4 2 = 1) && decide (byteAt h 6 = kind) && decide (byteAt h 7 = t) && decide (field h 16 4 = n) &&
    decide (field h 0x1E 2 = (recordBlocks kind).length) &&
    decide ((b.take (32 + 12 * (recordBlocks kind).length)).drop 32 =
      (recordHead kind t 0 0 0 0).drop 32) &&
    decide (field b (n - 4) 4 = (crc32c (b.take (n - 4))).toNat)

/-- SEQ, EPOCH and BASE_SEQ of a slot. -/
def slotSeq (s : State) (kind t slot : Nat) : Nat := leNat (flashRead s .archive (slotAddr kind t slot + 8) 4)
def slotEpoch (s : State) (kind t slot : Nat) : Nat := leNat (flashRead s .archive (slotAddr kind t slot + 12) 4)
def slotBase (s : State) (kind t slot : Nat) : Nat := leNat (flashRead s .archive (slotAddr kind t slot + 0x14) 4)

/-- The best valid slot of a kind; equal SEQ keeps slot A (R159). -/
def bestSlot (s : State) (kind t : Nat) : Option Nat :=
  if recordValid s kind t 0 then
    (if recordValid s kind t 1 && decide (slotSeq s kind t 0 < slotSeq s kind t 1) then some 1 else some 0)
  else if recordValid s kind t 1 then some 1 else none

/-- The slot that a seal writes: the invalid one, else the one with the lower SEQ (R158). -/
def sealSlot (s : State) (kind t : Nat) : Nat :=
  match bestSlot s kind t with
  | none => 0
  | some k => 1 - k

/-- A small record: header, contents, check word (R414). -/
def smallRecord (magic seq : Nat) (contents : List Byte) : List Byte :=
  let b := leBytes 4 magic ++ leBytes 2 1 ++ leBytes 2 0 ++ leBytes 4 seq ++ leBytes 4 (20 + contents.length) ++ contents
  b ++ leBytes 4 (crc32c b).toNat

/-- A small record slot is valid, and its SEQ. -/
def smallValid (s : State) (magic a n : Nat) : Bool :=
  let b := flashRead s .archive a (20 + n)
  if field b 0 4 ≠ magic then false
  else if halfErasedIn s .archive a 4096 ∨ s.flash.archUnread then false
  else decide (field b 4 2 = 1) && decide (field b 12 4 = 20 + n) && decide (field b (16 + n) 4 = (crc32c (b.take (16 + n))).toNat)

/-- The newest valid slot of a small record. -/
def bestSmall (s : State) (magic a n : Nat) : Option Nat :=
  let q := fun k => leNat (flashRead s .archive (a + 0x1000 * k + 8) 4)
  if smallValid s magic a n then
    (if smallValid s magic (a + 0x1000) n && decide (q 0 < q 1) then some 1 else some 0)
  else if smallValid s magic (a + 0x1000) n then some 1 else none

/-- Pages of 256 bytes. -/
def pagesFrom (arr : FlashArray) (a : Nat) (bs : List Byte) : List FlashStep :=
  (List.range ((bs.length + 255) / 256)).map (fun i => .page arr (a + 256 * i) ((bs.drop (256 * i)).take 256))

/-- Erases of the units from `a` that hold `n` bytes. -/
def erasesFrom (arr : FlashArray) (a n : Nat) : List FlashStep :=
  let u := unitAt arr a
  (List.range ((n + unitSize u - 1) / unitSize u)).map (fun i => .erase arr u (a + unitSize u * i) 0 0)

/-! ### A record's place (R158, R414) -/

/-- The bytes that a work programs. -/
def FlashWork.bytes (w : FlashWork) : List Byte :=
  w.all.flatMap (fun st => match st with
    | .page _ _ bs => bs
    | _ => [])

/-- A record with another SEQ, and its check word. -/
def withSeq (seq : Nat) (b : List Byte) : List Byte :=
  let body := (b.take (b.length - 4)).take 8 ++ leBytes 4 seq ++ (b.take (b.length - 4)).drop 12
  body ++ leBytes 4 (crc32c body).toNat

/-- SEQ of the record that a work writes. -/
def FlashWork.seq (w : FlashWork) : Nat := leNat ((w.bytes.drop 8).take 4)

/-- A work that writes bytes at an archive address, its sectors erased first. -/
def writeAt (a : Nat) (bs : List Byte) (w : FlashWork) : FlashWork :=
  let st := erasesFrom .archive a bs.length ++ pagesFrom .archive a bs
  { w with steps := st, all := st }

/-- A small record goes to the slot that is invalid or older. -/
def placeSmall (s : State) (magic base : Nat) (w : FlashWork) : FlashWork :=
  let k := match bestSmall s magic base (w.bytes.length - 20) with
    | none => 0
    | some k => 1 - k
  writeAt (base + 0x1000 * k) w.bytes w

/-- Where a work that has not begun writes, fixed as it begins: a calibration record takes the SEQ after the highest of its kind
and the slot that is invalid or has the lower SEQ, so that the newest valid record is never erased (R158). -/
def placeWork (s : State) (w : FlashWork) : FlashWork :=
  if w.steps ≠ w.all then w
  else match w.origin with
  | .charRecord t => writeAt (slotAddr 1 t.val (sealSlot s 1 t.val)) (withSeq (s.tiles[t].cal.charSeq.toNat + 1) w.bytes) w
  | .runRecord t => writeAt (slotAddr 2 t.val (sealSlot s 2 t.val)) (withSeq (s.tiles[t].cal.runSeq.toNat + 1) w.bytes) w
  | .woadRules => placeSmall s 0x52575A51 0x42000 w
  | .oscTable => placeSmall s 0x544F5A51 0x40000 w
  | _ => w

/-! ### Controllers, works and the temperature queue (R411, R417 to R419, R421, R422) -/

/-- The array that a step concerns. -/
def FlashStep.array : FlashStep → FlashArray
  | .erase arr _ _ _ _ => arr
  | .page arr _ _ => arr
  | .rawErase arr _ _ => arr
  | .rawMargin arr _ _ => arr

/-- A controller: false the archive's, true the code flash's. -/
def worksOf (s : State) (code : Bool) : List FlashWork := if code then s.flash.codeWork else s.flash.archWork
def phaseOf (s : State) (code : Bool) : FlashPhase := if code then s.flash.codePhase else s.flash.archPhase

def setWorks (code : Bool) (ws : List FlashWork) (s : State) : State :=
  if code then { s with flash := { s.flash with codeWork := ws } } else { s with flash := { s.flash with archWork := ws } }

def setPhase (code : Bool) (p : FlashPhase) (s : State) : State :=
  if code then { s with flash := { s.flash with codePhase := p } } else { s with flash := { s.flash with archPhase := p } }

/-- The write temperature is inside the range of R418 by `slack` sixteenths of a degree. -/
def writeTempOk (s : State) (code : Bool) (slack : Int) : Bool :=
  if code then decide (slack ≤ s.flash.madderTemp) && decide (s.flash.madderTemp ≤ 1600 - slack)
  else decide (slack ≤ s.flash.boardTemp) && decide (s.flash.boardTemp ≤ 1360 - slack)

/-- The DETAIL of STORE_DONE names the origin in a code that the spec does not give: a free value (assumption 3). -/
def storeDone (code : W16) (s : State) : State := event evStoreDone ((draw s).1.setWidth 16) code (draw s).2

/-- NVM_FAULT of a region, with its alarm. -/
def nvmFault (region : Nat) (code : W16) (s : State) : State :=
  raiseAlarm false evNvmFault (BitVec.ofNat 16 region) (event evNvmFault (BitVec.ofNat 16 region) code s)

/-- A command of a ring that still waits for a flash write. -/
def waitsFor (s : State) (n : RingIx) (id : Nat) : Bool := s.rings[n].holds id

/-- A host command's write ends with a code: its completion, or a storage event where it has completed already (R335, R419). -/
def reportHost (n : RingIx) (id : Nat) (code : W16) (s : State) : State :=
  match s.rings[n].dispatched.find? (fun f => decide (f.id = id)) with
  | some f => complete n f (Reply.of code) s
  | none => storeDone code s

/-- An operation of a core's flash unit ends with a status (R537). -/
def Core.flashDone (st : W32) (c : Core) : Core :=
  { c with fls := false, flsStatus := st, flsDiscard := false, flsPolled := false,
           res := { c.res with fls := if c.flsDiscard || c.flsPolled then c.res.fls else st } }

/-- A write of an origin is refused for temperature: queued once per origin, a later one replacing it (R162, R419). The
shutdown record is never queued. -/
def refuseTemp (w : FlashWork) (s : State) : State :=
  let q := { w with steps := w.all }
  let queued := { s with flash := { s.flash with
    tempQueue := s.flash.tempQueue.filter (fun x => decide (x.origin ≠ w.origin)) ++ [q] } }
  match w.origin with
  | .shutdownRecord => s
  | .core k => setCore k (Core.flashDone 0x0402#32) s
  | .hostCommand n id => if waitsFor s n id then reportHost n id codeNvmTemp queued else queued
  | _ => queued

/-- The image header of the bytes of an image (Table 16-8): every field of a firmware or extension image inside its values. -/
def headerOk (magic : Nat) (b : List Byte) : Bool :=
  decide (field b 0 4 = magic) && decide (field b 4 2 = 1) && decide (field b 8 2 ≤ 256) && decide (field b 10 2 = 0x0102) &&
  (b.drop 0x14).take 44 = List.replicate 44 0

/-- A signed image: its header, its LENGTH, and its signature under a key (R427). -/
def imageOk (magic : Nat) (key b : List Byte) : Bool :=
  headerOk magic b && decide (field b 12 4 = b.length) && decide (160 ≤ b.length) &&
  Config.signatureOk key (b.take (b.length - 96)) (b.drop (b.length - 96))

def mainArray (bank : Bool) : FlashArray := if bank then .code1 else .code0
def bankIx (bank : Bool) : Fin 2 := if bank then 1 else 0

/-- FW_UPDATE's second verification, of what the flash holds (R429). -/
def verifyBank (u : FwUpdate) (s : State) : State :=
  let b := flashRead s (mainArray u.bank) 0 u.length
  let s1 := { s with flash := { s.flash with fwUpdate := none } }
  if imageOk 0x57465A51 Config.firmwareKey b then
    reportHost u.ring u.id codeOk { s1 with flash := { s1.flash with
      images := put s1.flash.images (bankIx u.bank) { good := true, rollback := field b 8 2 } } }
  else reportHost u.ring u.id codeNvmProgramFail s1

/-- A work ends with every step done. -/
def endWork (w : FlashWork) (s : State) : State :=
  match w.origin with
  | .hostCommand n id =>
    (match s.flash.fwUpdate with
     | some u => if u.ring = n ∧ u.id = id then verifyBank u s else reportHost n id codeOk s
     | none => reportHost n id codeOk s)
  | .core k => setCore k (Core.flashDone 0) s
  | .charRecord t => setTile t (fun x => { x with cal := { x.cal with charSeq := BitVec.ofNat 32 w.seq } }) s
  | .runRecord t => setTile t (fun x => { x with cal := { x.cal with runSeq := BitVec.ofNat 32 w.seq } }) s
  | _ => s

/-- A work fails with a class 0x04 code: a record is re-erased and written once more after a page mismatch, a command
completes, anything else is dropped with its event (R164, R434). -/
def failWork (code : Bool) (region : Nat) (w : FlashWork) (c : W16) (s : State) : State :=
  match w.origin with
  | .hostCommand n id => nvmFault region c (reportHost n id c { s with flash := { s.flash with fwUpdate := none } })
  | .core k => setCore k (Core.flashDone (c.setWidth 32)) s
  | _ =>
    let s1 := nvmFault region c s
    if w.retried ∨ c ≠ codeNvmProgramFail then s1
    else setWorks code ({ w with steps := w.all, retried := true } :: worksOf s1 code) s1

/-- The first marked unit that a range touches. -/
def markedIn (s : State) (arr : FlashArray) (a n : Nat) : Option Nat :=
  (s.flash.halfErased.find? (fun p => decide (p.1 = arr) && decide (p.2 < a + n) &&
    decide (a < p.2 + unitSize (unitAt arr p.2)))).map (fun p => p.2)

/-- A step whose record or sequence begins with it is checked for temperature (R418). -/
def needsTemp (w : FlashWork) : Bool :=
  match w.steps with
  | .erase _ _ _ _ i :: _ => decide (i = 0)
  | .page _ _ _ :: _ => (match w.all.reverse.drop (w.steps.length) with
    | .page _ _ _ :: _ => false
    | _ => true)
  | _ => false

/-- The first step of a work reaches a unit whose erase has failed twice (R434). -/
def blocked (s : State) (w : FlashWork) : Bool :=
  let hits := fun arr a n => s.flash.failedUnits.any (fun p => decide (p.1 = arr) && decide (p.2 < a + n) &&
    decide (a < p.2 + unitSize (unitAt arr p.2)))
  match w.steps with
  | .erase arr u a _ _ :: _ => hits arr a (unitSize u)
  | .page arr a bs :: _ => hits arr a bs.length
  | _ => false

/-- A work of a core's flash unit: no journalling, and no rule of firmware's holds it back (R537). -/
def FlashWork.raw (w : FlashWork) : Bool :=
  match w.origin with
  | .core _ => true
  | _ => false

/-- One erase sequence as a work of its own. -/
def eraseWork (o : WriteOrigin) (arr : FlashArray) (a : Nat) : FlashWork :=
  let st := FlashStep.erase arr (unitAt arr a) a 0 0
  { origin := o, steps := [st], all := [st], retried := false }

/-- The controller begins the next step of the work at the front, or ends works that are done; `fuel` bounds them. No erase
starts from S0 to S4 and no page from S2 on (R425), a full journal moves first (R422), a program into a marked unit waits for
its re-erase (R424), and a write to a failed unit waits (R434). -/
def pump (code : Bool) : Nat → State → State
  | 0, s => s
  | fuel + 1, s =>
    if phaseOf s code ≠ .idle then s
    else match worksOf s code with
    | [] => s
    | w0 :: ws =>
      let w := placeWork s w0
      if blocked s w && !w.raw then pump code fuel (setWorks code (ws ++ [w]) s)
      else match w.steps with
      | [] => pump code fuel (endWork w (setWorks code ws s))
      | .erase arr _ _ _ intent :: _ =>
        if s.power.stage ≠ .none then s
        else if !writeTempOk s code 0 && needsTemp w then pump code fuel (refuseTemp w (setWorks code ws s))
        else if journalCap arr < journalUsed s arr + 16 ∧ w.origin ≠ .journalMove then
          pump code fuel (setWorks code
            (eraseWork .journalMove (journalAt arr (!journalHalf s arr)).1 (journalAt arr (!journalHalf s arr)).2 :: w :: ws) s)
        else setPhase code (if intent = 0 then .intent else .erasing) (setWorks code (w :: ws) s)
      | .page arr a bs :: _ =>
        if s.power.stage = .s2 ∨ s.power.stage = .s3 ∨ s.power.stage = .s4 then s
        else if w.raw then setPhase code .programming (setWorks code (w :: ws) s)
        else if !writeTempOk s code 0 && needsTemp w then pump code fuel (refuseTemp w (setWorks code ws s))
        else match markedIn s arr a bs.length with
        | some u => pump code fuel (setWorks code (eraseWork .reErase arr u :: w :: ws) s)
        | none => setPhase code .programming (setWorks code (w :: ws) s)
      | .rawErase _ _ _ :: _ => if s.power.stage ≠ .none then s else setPhase code .erasing s
      | .rawMargin _ _ _ :: _ => setPhase code .marginReading s

/-- Steps enough for every work of a controller. -/
def pumpFuel (s : State) (code : Bool) : Nat := 2 * (worksOf s code).length + 8

/-- Running records go before characterisation records that have not begun; otherwise arrival order (R163, R433). -/
def insertWork (w : FlashWork) : List FlashWork → List FlashWork
  | [] => [w]
  | x :: xs =>
    match w.origin, x.origin with
    | .runRecord _, .charRecord _ => if x.steps = x.all then w :: x :: xs else x :: insertWork w xs
    | _, _ => x :: insertWork w xs

/-- A write enters its controller's queue; with the archive dead it is dropped (R434). -/
def enqueue (code : Bool) (origin : WriteOrigin) (steps : List FlashStep) (s : State) : State :=
  if !code && s.flash.archDead then s
  else
    let w : FlashWork := { origin := origin, steps := steps, all := steps, retried := false }
    let s1 := setWorks code (insertWork w (worksOf s code)) s
    pump code (pumpFuel s1 code) s1

/-- The controller goes on with what waits. -/
def goOn (code : Bool) (s : State) : State := pump code (pumpFuel s code) (setPhase code .idle s)

/-! ### Seals (R149, R158, R161) -/

/-- Writes of an origin that wait or are in work. -/
def pendingOf (s : State) (o : WriteOrigin) : Nat :=
  ((s.flash.archWork ++ s.flash.tempQueue).filter (fun w => decide (w.origin = o))).length

/-- The bytes of a block as a record stores them: EN is 1 in every attribute word (R118). -/
def sealedBlock (t : TileIx) (x : Tile) (id : Nat) : List Byte :=
  if id = 0x000A then (blockBytes t x id).map (· ||| 0x08) else blockBytes t x id

/-- A record of a tile sealed (R149, R158): CAL_EPOCH on, the record built from the values in force and handed to the archive
flash, which a queued one of its kind leaves (R162). KIND 1 is the characterisation record, 2 the running one. -/
def sealRecord (kind : Nat) (t : TileIx) (s : State) : State :=
  let x := s.tiles[t]
  let o : WriteOrigin := if kind = 1 then .charRecord t else .runRecord t
  let seq := (if kind = 1 then x.cal.charSeq.toNat else x.cal.runSeq.toNat) + 1 + pendingOf s o
  let base := if kind = 2 then x.cal.baseSeq.toNat else 0
  let b := recordBytes kind t.val seq (x.cal.epoch.toNat + 1) base (s.time.todSec.toNat % 2 ^ 32) (sealedBlock t x)
  let a := slotAddr kind t.val (sealSlot s kind t.val)
  let s1 := setTile t (fun x => { x with cal := { x.cal with
    epoch := x.cal.epoch + 1, sealedChar := x.cal.sealedChar || decide (kind = 1),
    sealedRun := x.cal.sealedRun || decide (kind = 2), changed := if kind = 2 then false else x.cal.changed,
    baseSeq := if kind = 1 then BitVec.ofNat 32 seq else x.cal.baseSeq } }) s
  let s2 := { s1 with flash := { s1.flash with tempQueue := s1.flash.tempQueue.filter (fun w => decide (w.origin ≠ o)) } }
  enqueue false o (erasesFrom .archive a (recordLen' kind) ++ pagesFrom .archive a b) s2

/-- One block of the record that a tile's start takes: from a slot of KIND, or from the factory record (R159). -/
def storedBlock (s : State) (t : TileIx) (kind id : Nat) (slot : Option Nat) : List Byte :=
  let k := match slot with
    | some _ => kind
    | none => 3
  let o := ((blockOffsets (32 + 12 * (recordBlocks k).length) (recordBlocks k)).find? (fun p => decide (p.1 = id))).map (fun p => p.2)
  flashRead s .archive (slotAddr k t.val (slot.getD 0) + o.getD 0) (blockLen id)

/-- Before a tile is powered: its attribute words from the characterisation record, and the power-up codes of channels 128 to 135
from the running record, or the factory's where the tile starts CAL_DEGRADED (R118, R119). -/
def loadHeaters (t : TileIx) (s : State) : State :=
  let attrs := storedBlock s t 1 0x000A (bestSlot s 1 t.val)
  let codes := storedBlock s t 2 0x0104 (if s.tiles[t].cal.degraded then none else bestSlot s 2 t.val)
  setTile t (fun x => setPowerUp codes (setLive 0x000A attrs x)) s

/-- A small record stored; it takes its slot as its write begins. -/
def storeSmall (o : WriteOrigin) (magic seq base : Nat) (contents : List Byte) (s : State) : State :=
  enqueue false o (erasesFrom .archive base 4096 ++ pagesFrom .archive base (smallRecord magic seq contents)) s

/-- The 16 bytes of a Woad rule record (Table 15-9). -/
def ruleBytes (r : Rule) : List Byte :=
  let b := [r.channel, r.flags, r.action, r.states] ++ leBytes 2 r.setAt.toNat ++ leBytes 2 r.clearAt.toNat ++
    leBytes 2 r.setDwell.toNat ++ leBytes 2 r.clearDwell.toNat
  b ++ leBytes 4 (crc32c b).toNat

def parseRule (b : List Byte) : Rule :=
  { channel := BitVec.ofNat 8 (byteAt b 0), flags := BitVec.ofNat 8 (byteAt b 1), action := BitVec.ofNat 8 (byteAt b 2),
    states := BitVec.ofNat 8 (byteAt b 3), setAt := BitVec.ofNat 16 (field b 4 2), clearAt := BitVec.ofNat 16 (field b 6 2),
    setDwell := BitVec.ofNat 16 (field b 8 2), clearDwell := BitVec.ofNat 16 (field b 10 2) }

/-- The Woad rule set stored at P7 (R405). -/
def storeRules (s : State) : State :=
  let s1 := { s with flash := { s.flash with ruleSeq := s.flash.ruleSeq + 1 } }
  storeSmall .woadRules 0x52575A51 s1.flash.ruleSeq.toNat 0x42000
    (s1.woad.rules.toList.flatMap (fun r => ruleBytes r.rule)) s1

/-- The oscillator table stored (R414); an entry takes 4 bytes, signed (assumption 9). -/
def storeOscTable (s : State) : State :=
  let s1 := { s with flash := { s.flash with oscSeq := s.flash.oscSeq + 1 } }
  storeSmall .oscTable 0x544F5A51 s1.flash.oscSeq.toNat 0x40000
    (s1.time.oscTable.toList.flatMap (fun v => leBytes 4 (BitVec.ofInt 32 v).toNat)) s1

end Sys2Proof.Machine
end

