-- ==== Sys2Proof/Machine/SchedOps.lean ====
section
/-! DEFINITION. Tile time: pass lengths, batch and set times, radio reservations and the tile-time account (R254, R349,
R350, R352). -/
namespace Sys2Proof.Machine

/-- Symbols of a pass (Table 3-7). -/
def passLen (format : Nat) : Nat := 4 ^ format

/-- OFDM symbols of a batch set (Table 9-5). -/
def batchSymbols (code : Nat) : Nat :=
  if code = 0 then 1 else if code = 1 then 2 else if code = 2 then 7 else 14

/-- Batch sets of a slot. -/
def setsPerSlot (code : Nat) : Nat := 14 / batchSymbols code

/-- Copies P of the per-subcarrier matrix on a tile (R248). -/
def copiesOf (nant nlayer : Nat) : Nat :=
  if 8 * nant ≤ 128 ∧ 8 * nlayer ≤ 128 then 8
  else if 4 * nant ≤ 128 ∧ 4 * nlayer ≤ 128 then 4
  else if 2 * nant ≤ 128 ∧ 2 * nlayer ≤ 128 then 2 else 1

/-- Round a quotient up. -/
def ceilDiv (a b : Nat) : Nat := (a + (b - 1)) / b

/-- Weight groups of a carrier (R249). -/
def weightGroups (e : GroupEntry) : Nat := ceilDiv e.nprb.toNat e.prbg.toNat

/-- PRBs of weight group `b` (R249). -/
def groupPrbs (e : GroupEntry) (b : Nat) : Nat := min ((b + 1) * e.prbg.toNat) e.nprb.toNat - b * e.prbg.toNat

/-- Passes of the batch of weight group `b` (R249). -/
def batchPasses (e : GroupEntry) (b : Nat) : Nat :=
  ceilDiv (groupPrbs e b * 12 * batchSymbols e.batchSyms.toNat) (copiesOf e.nant.toNat e.nlayer.toNat)

/-- Tile time of one batch set in SCLK, when a load hides behind `load` symbols. -/
def setTimeOver (load : Nat) (e : GroupEntry) : Nat :=
  let n := weightGroups e
  ((List.range n).map (fun b =>
    let tb := batchPasses e b * passLen e.format.toNat
    if b + 1 = n then tb else max tb load)).foldl (· + ·) 0

/-- T_set: tile time of one batch set in SCLK (R254). -/
def setTime (e : GroupEntry) : Nat := setTimeOver 512 e

/-- T_set stretched by a skip level, 4/3 or 2, and by the loads of DIVIDE, 1,024 symbols each (R259, R238). -/
def setTimeNow (divide : Bool) (skip : BitVec 2) (e : GroupEntry) : Nat :=
  let t := setTimeOver (if divide then 1024 else 512) e
  if skip = 0 then t else if skip = 1 then ceilDiv (4 * t) 3 else 2 * t

/-- Reservation of an enabled radio group [1/65,536 of its tile] (R349). -/
def radioReserve (num : BitVec 3) (e : GroupEntry) : Nat :=
  if e.en ∧ e.kind ≠ 2 then
    ceilDiv (65536 * setsPerSlot e.batchSyms.toNat * (setTime e * 10000 + 167510016))
      (39321600 * (if num = 0 then 1000 else 500))
  else 0

/-- Reservations of a radio mapping on one tile. -/
def tileRadio (num : BitVec 3) (m : RadioSet) (t : TileIx) : Nat :=
  ((m.groups.toList.filter (fun e => decide (e.tile.toNat = t.val))).map (radioReserve num)).foldl (· + ·) 0

/-- A tile is in the account: pooled, and not FAULTED, DARK or OFF (R349). -/
def accounted (x : Tile) : Bool :=
  x.group.isNone && !(decide (x.state = .faulted) || decide (x.state = .dark) || decide (x.state = .off))

/-- Units of the account before ring reservations: each tile's 65,536 less what radio takes of it. -/
def accountUnits (s : State) : Nat :=
  ((List.finRange 10).map (fun t =>
    if accounted s.tiles[t] then 65536 - tileRadio s.time.numerology s.sets.radioActive t else 0)).foldl (· + ·) 0

/-- RESERVE of every enabled ring. -/
def ringReserves (s : State) : Nat :=
  (s.rings.toList.map (fun r => if r.state = .enabled then r.reserve.toNat else 0)).foldl (· + ·) 0

/-- What radio holds of a tile: the active mapping's reservations, or those of a committed mapping where they are larger, since
tile time is reserved at commit (R354). -/
def heldRadio (s : State) (t : TileIx) : Nat :=
  let sh := s.sets.groups[(0 : GroupIx)].shadow
  max (tileRadio s.time.numerology s.sets.radioActive t)
    (if sh = .staged ∨ sh = .pending then tileRadio s.time.numerology s.sets.radioShadow t else 0)

/-- A RESERVE that the account cannot give (R350). -/
def overReserve (s : State) (reserve : Nat) : Bool :=
  decide (((List.finRange 10).map (fun t => if accounted s.tiles[t] then 65536 - heldRadio s t else 0)).foldl (· + ·) 0 <
    ringReserves s + reserve)

/-- Units that a mapping takes of the account. -/
def radioNeed (s : State) (m : RadioSet) : Nat :=
  ((List.finRange 10).map (fun t => if accounted s.tiles[t] then tileRadio s.time.numerology m t else 0)).foldl (· + ·) 0

/-- A mapping that takes more units than the active one and leaves fewer than the enabled rings hold (R350, Table 13-5). -/
def overAccount (s : State) (m : RadioSet) : Bool :=
  decide (radioNeed s s.sets.radioActive < radioNeed s m) &&
  decide (((List.finRange 10).filter (fun t => accounted s.tiles[t])).length * 65536 < radioNeed s m + ringReserves s)

/-- Tile power above idle by format [W] (R356). -/
def formatPower (format : Nat) : Nat :=
  if format = 0 then 26 else if format = 1 then 19 else if format = 2 then 16 else 15

/-- The least cap that R357 accepts, in units of 1/65,536 W. -/
def capFloor (s : State) : Nat :=
  (190 + 12 + 10) * 65536 +
  (s.sets.radioActive.groups.toList.map (fun e =>
    radioReserve s.time.numerology e * formatPower e.format.toNat)).foldl (· + ·) 0

/-- RESERVE of the enabled rings of level P4, or of the others. -/
def levelReserves (s : State) (p4 : Bool) : Nat :=
  (s.rings.toList.map (fun r => if r.state = .enabled ∧ decide (r.level = 4) = p4 then r.reserve.toNat else 0)).foldl (· + ·) 0

/-- The reservation of a ring less what R355 withdraws of its level, in proportion to RESERVE. -/
def reserveOf (s : State) (r : Ring) : Nat :=
  let p4 := decide (r.level = 4)
  let cut := if p4 then s.sched.p4Cut else s.sched.p3Cut
  if r.state ≠ .enabled then 0
  else if cut = 0 then r.reserve.toNat
  else r.reserve.toNat * (levelReserves s p4 - cut) / levelReserves s p4

/-- A bucket one SCLK on: it gains the reservation / 65,536 tile-symbols and holds at most the gain of 1 ms (R348, R355). -/
def gainBucket (s : State) (r : Ring) : Ring :=
  if reserveOf s r = 0 then r
  else { r with bucket := min ((reserveOf s r : Int) * 3932160) (r.bucket + reserveOf s r) }

/-- A segment of a ring is within reservation: it has a bucket, at or above zero (R348). -/
def withinReserve (s : State) (r : Ring) : Bool := decide (reserveOf s r ≠ 0) && decide (0 ≤ r.bucket)

/-- A segment's cost charged: the bucket may go to at most minus that segment (R348). -/
def chargeBucket (cost : Nat) (r : Ring) : Ring :=
  let c := (cost : Int) * 65536
  if r.reserve ≠ 0 then { r with bucket := min r.bucket (max (r.bucket - c) (-c)) } else r

end Sys2Proof.Machine
end

