-- ==== Sys2Proof/Machine/Mesh.lean ====
section
/-! DEFINITION. The mesh of a tile: physical columns and their logical mapping (R41 to R43, R70), the physical index of its
shifters (R154), segment maps (R48, R49, R51), the code translator (R50), drift zones (R138, R139) and the latches that a phase
image gives (R60, R61). -/
namespace Sys2Proof.Machine

/-! ### Codes (R52, R55) -/

/-- The code of index `n` in the zero matrix (R55, Table 2-2): 512 in V and U, 0 in D. -/
def zeroCode (n : Nat) : BitVec 10 := if 16256 ≤ n ∧ n < 16512 then 0 else 512

/-- The code of an image at an index. -/
def codeAt (im : Image) (n : Nat) : BitVec 10 :=
  match im.find? (fun p => decide (p.1 = n)) with
  | some p => p.2
  | none => zeroCode n

/-! ### Columns (R41 to R43): `u` is false for V and true for U -/

/-- Spare columns stand next to D: V 64 and 65, U 0 and 1 (R42). -/
def spareColumn (u : Bool) (c : Fin 66) : Bool := if u then decide (c.val < 2) else decide (64 ≤ c.val)

/-- Physical columns that hold the 64 logical ones, in logical order: the ones not retired, packed toward the end of the
section away from D, which is the input end of V and the output end of U (R43). -/
def mappedColumns (u : Bool) (retired : List (Fin 66)) : List (Fin 66) :=
  let cs := (List.finRange 66).filter (fun c => !(decide (c ∈ retired)))
  if u then cs.drop (cs.length - 64) else cs.take 64

/-- The physical column of a logical one (R43). -/
def physicalColumn (u : Bool) (retired : List (Fin 66)) (k : Nat) : Option (Fin 66) := (mappedColumns u retired)[k]?

/-- The logical column that a physical one holds; none for a column held at identity (R43). -/
def logicalColumn (u : Bool) (retired : List (Fin 66)) (c : Fin 66) : Option Nat := (mappedColumns u retired).idxOf? c

/-- Physical columns whose logical column a retirement moves (R153). -/
def movedColumns (u : Bool) (before after : List (Fin 66)) : List (Fin 66) :=
  (List.finRange 66).filter (fun c => (logicalColumn u after c).isSome &&
    decide (logicalColumn u after c ≠ logicalColumn u before c))

/-! ### Layers and shifters (R41, Table 2-2, R154) -/

/-- Interferometers of a layer: 64 in the even one, 63 in the odd one (R41). -/
def layerSize (odd : Bool) : Nat := if odd then 63 else 64

/-- The lower-numbered port of interferometer `p`; it couples this port and the next (R41). -/
def lowerPort (odd : Bool) (p : Nat) : Nat := if odd then 2 * p + 1 else 2 * p

/-- Place of a shifter within its column (Table 2-2): θ, or φ with `phi`. -/
def shifterPlace (odd phi : Bool) (p : Nat) : Nat := (if odd then 128 else 0) + 2 * p + (if phi then 1 else 0)

/-- The port of the lower arm of the interferometer that place `o` of a column belongs to. -/
def portOfPlace (o : Nat) : Nat := if o < 128 then lowerPort false (o / 2) else lowerPort true ((o - 128) / 2)

/-- Mesh shifters of a tile, spare columns included (Table 5-5). -/
def shifterCount : Nat := 33784

/-- Where a physical shifter stands (R154): a column of V or U and the place in it, or a port of D. -/
inductive ShifterSite where
  | column (u : Bool) (c : Fin 66) (place : Nat)
  | diagonal (port : Nat) (phi : Bool)
deriving DecidableEq, Repr

/-- The site of physical shifter `i` (R154). -/
def siteOf (i : Nat) : ShifterSite :=
  if i < 16764 then .column false ⟨i / 254 % 66, by omega⟩ (i % 254)
  else if i < 17020 then .diagonal ((i - 16764) / 2) (decide ((i - 16764) % 2 = 1))
  else .column true ⟨(i - 17020) / 254 % 66, by omega⟩ ((i - 17020) % 254)

/-- A shifter of a θ element, not of a φ element (Table 2-2). -/
def isPhi (i : Nat) : Bool := decide (i % 2 = 1)

/-- The shifters of one physical column (R154). -/
def columnShifters (u : Bool) (c : Nat) : List Nat :=
  (List.range 254).map (fun o => (if u then 17020 else 0) + 254 * c + o)

/-- The code of the identity (R44, R55). -/
def identityCode : BitVec 10 := 512

/-- The code that a phase image gives a physical shifter: that of the logical column it holds, and the identity where the
mapping does not use its column (R43, R46, R70). -/
def physicalCode (retiredV retiredU : List (Fin 66)) (im : Image) (i : Nat) : BitVec 10 :=
  match siteOf i with
  | .column u c o =>
    (match logicalColumn u (if u then retiredU else retiredV) c with
    | some k => codeAt im ((if u then 16512 else 0) + 254 * k + o)
    | none => identityCode)
  | .diagonal m phi => codeAt im (16256 + 2 * m + (if phi then 1 else 0))

/-- The trim zone of a mesh shifter (R138, Table 4-1): the zone of its column band and of the port group of its interferometer's
lower-numbered port; D belongs to band 8. -/
def zoneOfShifter (i : Nat) : Fin 128 :=
  match siteOf i with
  | .column u c o =>
    let b := if u then (if c.val < 10 then 8 else (c.val + 62) / 8) else min (c.val / 8) 7
    ⟨(8 * b + portOfPlace o / 16) % 128, by omega⟩
  | .diagonal m _ => ⟨(64 + m / 16) % 128, by omega⟩

/-! ### Segment maps (R48, R49, R51, Table 2-1) -/

/-- Nominal weight of a segment in quarter-steps (R48): 2^k steps for segments 0 to 9, then 64, 128 and 256 steps. -/
def nominalWeight (seg : Nat) : Nat := if seg < 10 then 4 * 2 ^ seg else 256 * 2 ^ (seg - 10)

/-- A segment map: the zero-drive phase of the shifter, and the used entries in their order (R49). -/
structure SegMap where
  offset  : Nat
  entries : List (Nat × Nat)
deriving DecidableEq, Repr

/-- SEG and WEIGHT of an entry word (Table 2-1). -/
def segOf (w : Nat) : Nat := w / 4096
def weightOf (w : Nat) : Nat := w % 4096

/-- The 14 words of a map. -/
def mapWords (b : List Byte) : List Nat := (List.range 14).map (fun i => field b (2 * i) 2)

/-- A map as its used entries (R49). -/
def parseMap (b : List Byte) : SegMap :=
  { offset := weightOf (field b 0 2),
    entries := ((mapWords b).drop 1).filterMap (fun w => if segOf w = 15 then none else some (segOf w, weightOf w)) }

/-- Used entries stand in descending weight, equal weights in ascending segment number (R49). -/
def mapOrdered : List (Nat × Nat) → Bool
  | a :: b :: l => (decide (b.2 < a.2) || (decide (b.2 = a.2) && decide (a.1 < b.1))) && mapOrdered (b :: l)
  | _ => true

/-- A map breaks the form of R49: a reserved bit, a reserved SEG, a weight in an unused entry, the order, a segment twice. -/
def badMap (b : List Byte) : Bool :=
  let es := (parseMap b).entries
  decide (segOf (field b 0 2) ≠ 0) ||
  ((mapWords b).drop 1).any (fun w => decide (segOf w = 13 ∨ segOf w = 14) || (decide (segOf w = 15) && decide (weightOf w ≠ 0))) ||
  !mapOrdered es || !decide ((es.map (fun e => e.1)).Nodup)

/-- The bytes of a map: its entries in the order of R49, then unused ones. -/
def mapBytes (m : SegMap) : List Byte :=
  leBytes 2 (m.offset % 4096) ++ m.entries.flatMap (fun e => leBytes 2 (e.1 * 4096 + e.2)) ++
  (List.replicate (13 - m.entries.length) (leBytes 2 0xF000)).flatten

/-- Sum of the weights of the entries (S_i of R51). -/
def weightSum (es : List (Nat × Nat)) : Nat := (es.map (fun e => e.2)).sum

/-- The second condition of R51, entry by entry. -/
def weightsCovered : List (Nat × Nat) → Bool
  | [] => true
  | e :: es => decide (e.2 ≤ weightSum es + 4) && weightsCovered es

/-- A sound shifter (R51). -/
def soundMap (m : SegMap) : Bool := decide (4094 ≤ weightSum m.entries) && weightsCovered m.entries

/-! ### The translator (R50) -/

/-- The greedy selection: segments driven, and the residual in quarter-steps. -/
def selectGo : List (Nat × Nat) → Int → BitVec 13 → BitVec 13 × Int
  | [], r, sel => (sel, r)
  | e :: es, r, sel =>
    if (e.2 : Int) ≤ r + 2 then selectGo es (r - e.2) (sel ||| BitVec.ofNat 13 (2 ^ e.1)) else selectGo es r sel

/-- The target in quarter-steps (R50). -/
def targetOf (offset : Nat) (code : BitVec 10) : Nat := (4 * code.toNat + 4096 - offset % 4096) % 4096

/-- The segments that a code drives under a map, and the residual (R50). -/
def translate (m : SegMap) (code : BitVec 10) : BitVec 13 × Int := selectGo m.entries (targetOf m.offset code) 0

/-- The phase of a shifter in quarter-steps (R48): the weights of its driven segments and its zero-drive phase, modulo 2π. -/
def selectionPhase (m : SegMap) (sel : BitVec 13) : Nat :=
  ((m.entries.map (fun e => if sel.getLsbD e.1 then e.2 else 0)).sum + m.offset) % 4096

/-- The parity bit of a latch (R60). -/
def selParity (sel : BitVec 13) : Bool := (List.range 13).foldl (fun p k => xor p (sel.getLsbD k)) false

/-! ### Maps in force -/

/-- The characterised map of a mesh shifter (block 0x0003) and the map of a port shifter (block 0x0004). -/
def charMap (t : TileIx) (x : Tile) (i : Nat) : SegMap :=
  parseMap (memReadN (coefDefault t) x.cal.coefs (0x0003 * 2 ^ 24 + 28 * i) 28)
def portMap (t : TileIx) (x : Tile) (i : Nat) : SegMap :=
  parseMap (memReadN (coefDefault t) x.cal.coefs (0x0004 * 2 ^ 24 + 28 * i) 28)

/-- A map with its zone's drift in its OFFSET: characterised OFFSET plus DZ, modulo 4096 (R139). -/
def driftedMap (dz : Vector (Int × Int) 128) (i : Nat) (m : SegMap) : SegMap :=
  let d := dz[zoneOfShifter i]
  { m with offset := (((m.offset : Int) + (if isPhi i then d.2 else d.1)) % 4096).toNat }

/-- The map in Umber of a mesh shifter, with the drift that firmware last wrote into it (R139, R76). -/
def umberMap (t : TileIx) (x : Tile) (i : Nat) : SegMap := driftedMap x.mesh.mapDz i (charMap t x i)

/-- An image translated: the selection of every physical shifter under the maps in Umber (R50, R61). -/
def translateImage (t : TileIx) (x : Tile) (im : Image) : List (BitVec 13) :=
  (List.range shifterCount).map (fun i =>
    (translate (umberMap t x i) (physicalCode x.cal.retiredV x.cal.retiredU im i)).1)

/-- A latch set loaded with an image: selections, their parity bits, and the revision of the maps (R60, R61). -/
def loadedLatch (t : TileIx) (x : Tile) (im : Image) : Latch :=
  let sel := translateImage t x im
  { image := im, sel := sel, parity := sel.map selParity, mapRev := x.mesh.mapRev, complete := true }

/-- The parity check of a latch set (R60, Table 2-8). -/
def Latch.parityOk (l : Latch) : Bool := decide (l.parity = l.sel.map selParity)

/-- A bit of the latch of one shifter flips. -/
def Latch.flip (i : Nat) (l : Latch) : Latch := { l with sel := l.sel.modify i (fun v => v ^^^ 1) }

/-- The codes of the port shifters: input ports 0 to 127, then LO ports (block 0x0005, R40). -/
def portCode (t : TileIx) (x : Tile) (i : Nat) : BitVec 10 :=
  BitVec.ofNat 10 (field (memReadN (coefDefault t) x.cal.coefs (0x0005 * 2 ^ 24 + 2 * i) 2) 0 2)

/-- The single latches of the 256 port shifters, set from calibration and never from a phase image (R40). -/
def portLatches (t : TileIx) (x : Tile) : List (BitVec 13) :=
  (List.range 256).map (fun i => (translate (portMap t x i) (portCode t x i)).1)

/-- Drift offsets of the zones, as firmware writes them into Umber's maps (R139). -/
def zoneDz (h : HeaterDrive) : Vector (Int × Int) 128 := Vector.ofFn (fun z => (h.zones[z].dzTheta, h.zones[z].dzPhi))

/-- Umber's maps written again with the zones' drift (R139). -/
def writeMaps (h : HeaterDrive) (m : Mesh) : Mesh := { m with mapDz := zoneDz h, mapRev := m.mapRev + 1, mapWaits := false }

/-- Changed OFFSETs reach Umber's segment maps: at once, or after the load in progress (R76, R139). -/
def mapUpdate (h : HeaterDrive) (m : Mesh) : Mesh := if m.load.isSome then { m with mapWaits := true } else writeMaps h m

/-- Every shifter of a physical column meets the identity code within ±0.5 step under its characterised map (R70). -/
def columnReachesIdentity (t : TileIx) (x : Tile) (u : Bool) (c : Nat) : Bool :=
  (columnShifters u c).all (fun i => decide ((translate (charMap t x i) identityCode).2.natAbs ≤ 2))

/-! ### Values that a write may put in force -/

/-- A signed field at `o` outside a range. -/
def s16Out (b : List Byte) (o : Nat) (lo hi : Int) : Bool := decide (s16At b o < lo ∨ hi < s16At b o)

/-- A 16-bit field at `o` of `n` fields is not below `top`. -/
def fieldsOver (b : List Byte) (n top : Nat) : Bool := (List.range n).any (fun i => decide (top ≤ field b (2 * i) 2))

/-- A block that breaks the widths and ranges of Tables 2-1, 3-1, 4-2, 4-3, 5-5 and 5-7 (R49, R111, R118, R140). -/
def badCoef (id : Nat) (b : List Byte) : Bool :=
  if id = 0x0002 then (List.range 4).any (fun i => decide (66 ≤ byteAt b i ∧ byteAt b i ≠ 0xFF)) ||
    (List.range 2).any (fun u => decide (byteAt b (2 * u) < 66 ∧ byteAt b (2 * u) = byteAt b (2 * u + 1)))
  else if id = 0x0003 then (List.range shifterCount).any (fun i => badMap ((b.drop (28 * i)).take 28))
  else if id = 0x0004 then (List.range 256).any (fun i => badMap ((b.drop (28 * i)).take 28))
  else if id = 0x0005 then fieldsOver b 256 1024
  else if id = 0x0006 then fieldsOver b 8192 1024
  else if id = 0x0007 then
    (List.range 256).any (fun k => s16Out b (4 * k) (-512) 511 || decide (field b (4 * k + 2) 2 < 0x4000))
  else if id = 0x0009 then
    (List.range 128).any (fun z => decide (4096 ≤ field b (6 * z) 2 ∨ 1024 ≤ field b (6 * z + 2) 2 ∨ 4096 ≤ field b (6 * z + 4) 2)) ||
    decide (7 < byteAt b 784) || decide (byteAt b 785 < 8 ∨ 38 < byteAt b 785) || decide (field b 786 2 ≠ 0)
  else if id = 0x000A then
    (List.range 136).any (fun c => decide (16 ≤ byteAt b c) || (decide (128 ≤ c) && !(byteAt b c).testBit 2))
  else if id = 0x0101 then
    (List.range 256).any (fun k =>
      let o := 10 * k
      s16Out b o (-512) 511 || s16Out b (o + 2) (-512) 511 ||
      decide (field b (o + 4) 2 < 0x6000 ∨ 0xAAAA < field b (o + 4) 2) ||
      decide (field b (o + 6) 2 < 0x6000 ∨ 0xAAAA < field b (o + 6) 2) || decide (byteAt b (o + 8) = 0x80) ||
      decide (byteAt b (o + 9) ≠ 0))
  else if id = 0x0102 then (List.range 256).any (fun i => s16Out b (2 * i) (-256) 256)
  else if id = 0x0103 then
    (List.range 128).any (fun z => s16Out b (2 * z) (-2048) 2047) || (List.range 16).any (fun k => s16Out b (256 + 2 * k) (-1024) 1024)
  else if id = 0x0104 then
    (List.range 4).any (fun k => decide (3 < byteAt b k)) || decide (3 < byteAt b 4) || decide (field b 5 3 ≠ 0) ||
    (List.range 4).any (fun k => decide (field b (8 + 2 * k) 2 ≠ 0 ∧ (field b (8 + 2 * k) 2 < 640 ∨ 4000 < field b (8 + 2 * k) 2))) ||
    (List.range 2).any (fun k => decide (4096 ≤ field b (16 + 2 * k) 2)) ||
    (List.range 8).any (fun k => decide (4096 ≤ field b (20 + 2 * k) 2))
  else false

end Sys2Proof.Machine
end

