-- ==== Sys2Proof/Machine/TileOps.lean ====
section
/-! DEFINITION. Phase images, latches and swaps of a tile, and the tile's state changes (R52 to R64, R72 to R75, R277, R278). -/
namespace Sys2Proof.Machine

/-- The codes of the 40,960 bytes of a phase image, kept where they differ from the zero matrix (R52). -/
def imageOfBytes (bs : List Byte) : Image :=
  let w := leNat bs
  (List.range 32768).filterMap (fun n =>
    let c := BitVec.ofNat 10 (w / 2 ^ (10 * n))
    if c = zeroCode n then none else some (n, c))

/-- The bytes of a phase image (R52). -/
def imageBytes (im : Image) : List Byte :=
  leBytes 40960 (((List.range 32768).map (fun n => (codeAt im n).toNat * 2 ^ (10 * n))).foldl (· + ·) 0)

/-- The image at a stack address. -/
def imageAt (s : State) (a : Nat) : Image := imageOfBytes (stackRead s a 40960)

/-- The image of a tile-image entry; an empty entry gives the zero matrix (R268). -/
def entryImage (s : State) (e : Option ImageEntry) : Image :=
  match e with
  | some x => imageAt s x.image.toNat
  | none => []

/-- What the output port of a tile delivers: the value, and the STALE bit and CAL_EPOCH of its descriptors. -/
structure OutputPort where
  value : List (BitVec 12)
  stale : Bool
  epoch : W32
deriving DecidableEq, Repr

/-- The output port: while the tile is in MAINT it repeats the last value delivered, STALE, with the epoch in force when that
value was computed (R150). -/
def outputPort (x : Tile) : OutputPort :=
  { value := x.conv.outLast, stale := decide (x.state = .maint),
    epoch := if x.conv.outLast = [] then x.cal.epoch else x.conv.outEpoch }

/-- A tile is in service. -/
def inService (x : Tile) : Bool := decide (x.state = .ready) || decide (x.state = .serving)

/-- A tile runs in MAINT, READY or SERVING or is becoming so: not OFF and not FAULTED. -/
def holdsImage (x : Tile) : Bool := !(decide (x.state = .off) || decide (x.state = .faulted))

/-- Tiles of a mask. -/
def tilesOf (m : BitVec 10) : List TileIx := (List.finRange 10).filter (fun t => m.getLsbD t.val)

/-- The load of the shadow latches that goes on, and those that wait (Table 2-7): a new one of a higher level is placed and the
displaced one is repeated after it; at equal or lower level it waits behind the load in progress. -/
def beginLoad (l : ShadowLoad) (x : Tile) : Tile :=
  match x.mesh.load with
  | none => { x with mesh := { x.mesh with load := some l, shadow := { x.mesh.shadow with complete := false } } }
  | some old =>
    if l.level < old.level then { x with mesh := { x.mesh with load := some l, loadQueue := old :: x.mesh.loadQueue } }
    else { x with mesh := { x.mesh with loadQueue := x.mesh.loadQueue ++ [l] } }

/-- A load of the shadow latches that no swap waits for yet. -/
def newLoad (im : Image) (use : LoadUse) (level : Nat) (hidden : Bool) : ShadowLoad :=
  { image := im, use := use, level := level, hidden := hidden }

/-- The load in progress ends: the shadow latches hold its image under the maps in Umber, and a map update that waited is applied
after it (R76). -/
def endLoad (t : TileIx) (x : Tile) : Tile :=
  match x.mesh.load with
  | none => x
  | some l =>
    let m := { x.mesh with shadow := loadedLatch t x l.image, load := none, parityRetries := 0 }
    { x with mesh := if m.mapWaits then writeMaps x.heat m else m }

/-- The next of the loads that wait for the shadow latches begins (Table 2-7). -/
def nextLoad (x : Tile) : Tile :=
  match x.mesh.load, x.mesh.loadQueue with
  | none, l :: ls => { x with mesh := { x.mesh with load := some l, loadQueue := ls, shadow := { x.mesh.shadow with complete := false } } }
  | _, _ => x

/-- The exchange of the two latches (R62). -/
def swapLatches (x : Tile) : Tile :=
  { x with mesh := { x.mesh with active := x.mesh.shadow, shadow := x.mesh.active, swapWaits := false } }

/-- A swap takes effect: the latches exchange, and the shadow latches take the next load that waits (R62, Table 2-7). -/
def takeSwap (x : Tile) : Tile := nextLoad (swapLatches x)

/-- Vectors of a tile are held from now on for a swap that cannot take effect (R64, R274). -/
def holdVectors (now : W64) (x : Tile) : Tile :=
  { x with mesh := { x.mesh with heldFrom := (if x.mesh.heldFrom.isSome then x.mesh.heldFrom else some now) } }

/-- Vectors go on; the symbols held are counted for a load that was meant to be hidden (R64). -/
def releaseVectors (now : W64) (counted : Bool) (x : Tile) : Tile :=
  match x.mesh.heldFrom with
  | none => x
  | some sc =>
    { x with lateSwap := (if counted then satAdd x.lateSwap (now - sc).toNat else x.lateSwap),
             mesh := { x.mesh with heldFrom := none } }

/-- A tile presents the vectors of a Q5 to Q7 pass (R63): it runs a segment at such a format and its vectors are not held. -/
def midPass (x : Tile) : Bool := x.job.isSome && decide (x.batchFormat ≠ 0) && x.mesh.heldFrom.isNone

/-- The image that a group has committed for a tile in MAINT and that its restore loads (R269, R75). -/
def committedImage (m : Mesh) : Option Image :=
  ((m.load.toList ++ m.loadQueue).filter (fun l => decide (l.use = .commit))).getLast?.map (fun l => l.image)

/-- A swap that falls while a tile is in MAINT: the restore applies it, to what the group has committed until now (R75, R277). -/
def swapInMaint (x : Tile) : Tile :=
  let m := x.mesh
  let m1 := match committedImage m with
    | none => m
    | some im => if m.swapAtRestore then { m with active := { m.active with image := im } }
                 else { m with shadow := { m.shadow with image := im } }
  { x with mesh := { m1 with load := none, loadQueue := [], swapAtRestore := !m.swapAtRestore } }

/-- Both latches reloaded, active, then shadow, and the port shifters set (R40, R60, R75, R278); loads that wait are done
with. -/
def reloadLatches (t : TileIx) (act sh : Image) (x : Tile) : Tile :=
  let y := { x with mesh := writeMaps x.heat x.mesh }
  { y with mesh := { y.mesh with
      active := loadedLatch t y act, shadow := loadedLatch t y sh, load := none, loadQueue := [], ports := portLatches t y,
      swapAtRestore := false, swapWaits := false, heldFrom := none, parityRetries := 0 } }

/-- A requested correction update takes effect at a pass boundary, all coefficients at once (R87). -/
def passBoundary (c : Convert) : Convert :=
  if c.updateReq then { c with pairs := c.pairsNext, streams := c.streamsNext, updateReq := false } else c

/-- A tile event whose code Table 22-3 does not list: 0 a failed check on a SLEW tile (Table 4-4), 1 a drift fit that does not
converge and 2 two invalid record slots (Table 5-9), 3 a bad test DAC (Table 3-4), 4 repeated
SKIP (Table 17-5); its code is free (assumption 63). -/
def tileEvent (k : Nat) (t : TileIx) (s : State) : State := event (Config.tileEvent k) (BitVec.ofNat 16 t.val) 0 s

/-- State codes (Table 2-5). -/
def TileState.code : TileState → W16
  | .off => 0
  | .dark => 1
  | .warm => 2
  | .ready => 3
  | .serving => 4
  | .maint => 5
  | .faulted => 6

/-- A tile's state changes, with its event (Table 22-3) and, on FAULTED, its alarm; vectors are held in service only. -/
def enterTile (t : TileIx) (st : TileState) (s : State) : State :=
  if s.tiles[t].state = st then s
  else
    let keeps := decide (st = .ready) || decide (st = .serving)
    let s1 := setTile t (fun x =>
      let m := { x.mesh with heldFrom := if keeps then x.mesh.heldFrom else none }
      { x with state := st, moving := none, mesh := m }) s
    if st = .ready ∧ s.tiles[t].state = .serving ∨ st = .serving then s1
    else
      let s2 := event evTileState (BitVec.ofNat 16 t.val) st.code s1
      if st = .faulted then raiseAlarm false alTileFault (BitVec.ofNat 16 t.val) s2 else s2

end Sys2Proof.Machine
end

