-- ==== Sys2Proof/Machine/TimeOps.lean ====
section
/-! DEFINITION. Radio time: frames, markers and the times of scheduled events (R230 to R237), and the holdover bound (R231). -/
namespace Sys2Proof.Machine

/-- SCLK of a 10 ms frame, of 1,024 frames, of a subframe (R233, R234). -/
abbrev frameTicks : Nat := 39321600
abbrev cycleTicks : Nat := 40265318400
abbrev subframeTicks : Nat := 3932160

/-- SCLK of a slot (Table 8-4). -/
def slotTicks (num : BitVec 3) : Nat := if num = 0 then 3932160 else 1966080

/-- Slots of a frame. -/
def slotsPerFrame (num : BitVec 3) : Nat := if num = 0 then 10 else 20

/-- Start of OFDM symbol `l` after its slot marker (Table 8-4). -/
def symStart (num : BitVec 3) (l : Nat) : Nat :=
  if num = 0 then l * 280576 + (if 1 ≤ l then 2048 else 0) + (if 8 ≤ l then 2048 else 0)
  else l * 140288 + (if 1 ≤ l then 2048 else 0)

/-- An instant, in 1/100 SCLK of radio time, has come. -/
def reached (s : State) (at_ : Int) : Bool := decide (at_ ≤ radioTicks s.time * 100)

/-- F of R233. -/
def frameNo (t : TimeUnit) : Int := radioTicks t / 39321600

/-- Position in the 1,024-frame cycle. -/
def cyclePos (t : TimeUnit) : Nat := (radioTicks t % 40265318400).toNat

/-- Slots since the GPS epoch (R250). -/
def slotNow (t : TimeUnit) : Int := radioTicks t / (slotTicks t.numerology : Nat)

/-- OFDM symbol in which a position of a slot lies. -/
def symAt (num : BitVec 3) (pos : Nat) : Nat :=
  ((List.range 13).filter (fun l => decide (symStart num (l + 1) ≤ pos))).length

/-- SFN, subframe, slot within the subframe and OFDM symbol now, as TIME_MARK reports them (R235). -/
def timeMark (t : TimeUnit) : BitVec 19 :=
  let p := cyclePos t
  let sl := p % subframeTicks / slotTicks t.numerology
  BitVec.ofNat 19 (p / frameTicks + p % frameTicks / subframeTicks * 2 ^ 10 + sl * 2 ^ 14 +
    symAt t.numerology (p % slotTicks t.numerology) * 2 ^ 15)

/-- Position of a tuple in the cycle (R236). -/
def tuplePos (num : BitVec 3) (sfn subframe slot sym offset : Nat) : Nat :=
  (sfn * frameTicks + subframe * subframeTicks + slot * slotTicks num + symStart num sym + offset) % cycleTicks

/-- Position in the cycle at which an event falls. -/
def eventPos (t : TimeUnit) : EventTime → Nat
  | .absolute sc => ((radioTicks t + ((sc.toNat : Int) - t.symbolCount.toNat)) % 40265318400).toNat
  | .tuple sfn sf sl sym off =>
    tuplePos t.numerology sfn.toNat sf.toNat (if sl then 1 else 0) sym.toNat off.toNat

/-- SCLK from now until an event; negative for an absolute time that has passed. -/
def leadOf (t : TimeUnit) (e : EventTime) : Int :=
  match e with
  | .absolute sc => (sc.toNat : Int) - t.symbolCount.toNat
  | .tuple _ _ _ _ _ => ((eventPos t e + cycleTicks - cyclePos t) % cycleTicks : Nat)

/-- A time below 20 us ahead, or above 10.24 s ahead, is refused (R236, R329): 20 us is 78,643.2 SCLK. -/
def badLead (t : TimeUnit) (e : EventTime) : Bool := decide (leadOf t e * 10 < 786432) || decide (leadOf t e > 40265318400)

/-- The event falls on a slot marker (Table 8-5). -/
def onSlotMarker (t : TimeUnit) (e : EventTime) : Bool := decide (eventPos t e % slotTicks t.numerology = 0)

/-- The event time of an EVENT_SET or GAP_DECLARE descriptor (R329, R330). -/
def eventTimeOf (d : Descriptor) : EventTime :=
  if d.u8 0x0A = 0 then .absolute (BitVec.ofNat 64 (d.u64 0x10))
  else .tuple (BitVec.ofNat 10 (d.u16 0x18)) (BitVec.ofNat 4 (d.u8 0x1A)) (decide (d.u8 0x1B = 1)) (BitVec.ofNat 4 (d.u8 0x1C))
    (BitVec.ofNat 32 (d.u32 0x20))

/-- Range checks of the time fields at 0x0A to 0x23. -/
def eventTimeChecks (d : Descriptor) (t : TimeUnit) : List (Nat × Bool) :=
  let tup := decide (d.u8 0x0A = 1)
  [chk 0x0A (decide (1 < d.u8 0x0A)),
   chk 0x18 (tup && decide (1023 < d.u16 0x18)),
   chk 0x1A (tup && decide (9 < d.u8 0x1A)),
   chk 0x1B (tup && decide (slotsPerFrame t.numerology / 10 ≤ d.u8 0x1B)),
   chk 0x1C (tup && decide (13 < d.u8 0x1C)),
   chk 0x20 (tup && decide (1966079 < d.u32 0x20)),
   chk (if tup then 0x20 else 0x10) (badLead t (eventTimeOf d))]

/-- Comparators that are free, lowest number first (R236). -/
def freeComparators (s : State) : List (Fin 64) := (List.finRange 64).filter (fun i => s.time.comparators[i].isNone)

/-- One comparator written. -/
def setComparator (i : Fin 64) (e : Option ArmedEvent) (s : State) : State :=
  { s with time := { s.time with comparators := put s.time.comparators i e } }

/-- A tuple event is armed (R338). -/
def tupleArmed (s : State) : Bool :=
  s.time.comparators.toList.any (fun c => match c with
    | some e => (match e.time with
      | .tuple _ _ _ _ _ => true
      | .absolute _ => false)
    | none => false)

/-- The time-error bound of a holdover [ns] after `k` SCLK, rounded down (R231). -/
def boundAfter (h : Holdover) (k : Nat) : Nat :=
  if h.withSyncE then h.e0 + k / 117964800000
  else h.e0 + (2500000 * k * 3932160000 + 6 * k * k) / (10000000 * 3932160000 * 3932160000)

/-- The bound now. -/
def holdBound (s : State) : Nat :=
  match s.time.holdover with
  | none => 0
  | some h => boundAfter h (s.time.symbolCount - h.startSC).toNat

/-- Sync state of a code (Table 8-3). -/
def SyncState.code : SyncState → W16
  | .freerun => 0
  | .acquiring => 1
  | .locked => 2
  | .holdIn => 3
  | .holdOut => 4

/-- A sync state entered, with its event and its alarm (Table 8-3). -/
def enterSync (st : SyncState) (s : State) : State :=
  if s.time.syncState = st then s
  else
    let s1 := event evSyncState 0 st.code (clearAlarm alHoldover 0 { s with time := { s.time with syncState := st } })
    match st with
    | .holdIn => raiseAlarm false alHoldover 0 s1
    | .holdOut => raiseAlarm true alHoldover 0 s1
    | _ => s1

/-- Streams may be opened (R229, R192). -/
def mayOpen (s : State) : Bool :=
  (decide (s.time.syncState = .locked) || decide (s.time.syncState = .holdIn)) && !s.tray.debugOn

/-- Time of day moved by `k` ticks (R231). -/
def stepTod (k : Int) (t : TimeUnit) : TimeUnit :=
  let n : Int := (t.todSec.toNat : Int) * 3932160000 + t.todTick.toNat + k
  { t with todSec := BitVec.ofInt 48 (n / 3932160000), todTick := BitVec.ofNat 32 (n % 3932160000).toNat }

/-! ### The reference oscillator over temperature (R220, R221) -/

/-- The table's correction at a temperature of 1/16 degree, interpolated linearly between the bins from -20 to +120 degrees. -/
def oscCorrection (table : Vector Int 141) (temp : Int) : Int :=
  let d := clampInt 0 2240 (temp + 320)
  let at_ := fun (k : Nat) => table.toList.getD k 0
  let k := (d / 16).toNat
  at_ k + roundDivEven ((at_ (min 140 (k + 1)) - at_ k) * (d % 16)) 16

/-- A tuning word with a correction, inside the range of 8 ppm in steps of 10^-12 about the middle of the word. -/
def oscWord (steered : BitVec 24) (corr : Int) : BitVec 24 := BitVec.ofInt 24 (clampInt 388608 16388608 (steered.toNat + corr))

/-- The bin of a temperature: the nearest whole degree. -/
def oscBin (temp : Int) : Nat := (clampInt 0 140 ((temp + 328) / 16)).toNat

/-- One round of firmware on core 1: in FREERUN and in holdover the last steered word with the correction of the oscillator's board
sensor, channel 47, unless the servo holds the word at its range limit (Table 8-7); while LOCKED the bin is learned (R221,
assumption 90). -/
def oscRound (s : State) : State :=
  let t := s.time
  let temp := s.thermal.chans[(47 : Fin 64)].value.toInt
  let free := { s with time := { t with oscTuning := if t.oscHeld then t.oscTuning else oscWord t.oscSteered (oscCorrection t.oscTable temp) } }
  match t.syncState with
  | .freerun => free
  | .holdIn => free
  | .holdOut => free
  | .acquiring => s
  | .locked => { s with time := { t with oscTable := Vector.ofFn (fun k =>
      if k.val = oscBin temp then Config.oscLearn t.oscTable[k] t.oscSteered s.thermal.hkRound.toNat else t.oscTable[k]) } }

/-- Nanoseconds as SCLK ticks, to nearest. -/
def nsTicks (ns : Int) : Int := roundDivEven (ns * 393216) 100000

end Sys2Proof.Machine
end

