-- ==== Sys2Proof/Machine/Float.lean ====
section
/-! DEFINITION. IEEE 754 arithmetic in binary32, binary64, FP16 and BF16: exact on dyadic values, then one rounding to nearest
even (R183 to R191, R204, R211). -/
namespace Sys2Proof.Machine

/-- A floating value: NaN, an infinity, or (-1)^neg * m * 2^e. -/
inductive FVal where
  | nan
  | inf (neg : Bool)
  | num (neg : Bool) (m : Nat) (e : Int)
deriving DecidableEq, Repr

/-- A binary format: precision, least and greatest exponent, width of the fraction and of the exponent field. -/
structure Fmt where
  prec : Nat
  emin : Int
  emax : Int
  frac : Nat
  ebits : Nat
deriving DecidableEq, Repr

def binary32 : Fmt := { prec := 24, emin := -126, emax := 127, frac := 23, ebits := 8 }
def binary64 : Fmt := { prec := 53, emin := -1022, emax := 1023, frac := 52, ebits := 11 }
def fp16 : Fmt := { prec := 11, emin := -14, emax := 15, frac := 10, ebits := 5 }
def bf16 : Fmt := { prec := 8, emin := -126, emax := 127, frac := 7, ebits := 8 }

/-- The value of an encoding. -/
def Fmt.decode (f : Fmt) (w : Nat) : FVal :=
  let m := w % 2 ^ f.frac
  let x := w / 2 ^ f.frac % 2 ^ f.ebits
  let neg := decide (w / 2 ^ (f.frac + f.ebits) % 2 = 1)
  if x = 2 ^ f.ebits - 1 then (if m = 0 then .inf neg else .nan)
  else if x = 0 then .num neg m (f.emin - f.frac)
  else .num neg (m + 2 ^ f.frac) (x - 1 + f.emin - f.frac)

/-- A natural number divided by 2^k and rounded to nearest even. -/
def shiftRound (m k : Nat) : Nat :=
  let q := m / 2 ^ k
  let r := m % 2 ^ k
  if 2 * r < 2 ^ k then q else if 2 ^ k < 2 * r then q + 1 else if q % 2 = 0 then q else q + 1

/-- Whether a normalised value lies beyond the finite range of a format. -/
def Fmt.exceeds (f : Fmt) (m : Nat) (q : Int) : Bool := decide (0 < m) && decide (f.emax < (Nat.log2 m : Int) + q)

/-- (-1)^neg * m * 2^e rounded to the precision and range of a format, infinity beyond it. -/
def Fmt.round (f : Fmt) (neg : Bool) (m : Nat) (e : Int) : FVal :=
  if m = 0 then .num neg 0 (f.emin - f.frac)
  else
    let q := max ((Nat.log2 m : Int) + e - f.frac) (f.emin - f.frac)
    let m1 := if q ≤ e then m * 2 ^ (e - q).toNat else shiftRound m (q - e).toNat
    if f.exceeds m1 q then .inf neg
    else if m1 = 2 ^ f.prec then .num neg (2 ^ f.frac) (q + 1) else .num neg m1 q

/-- A value rounded to a format. -/
def Fmt.fit (f : Fmt) : FVal → FVal
  | .nan => .nan
  | .inf n => .inf n
  | .num n m e => f.round n m e

/-- The encoding of a value already rounded to the format; a NaN gives the canonical NaN. -/
def Fmt.encode (f : Fmt) (v : FVal) : Nat :=
  match v with
  | .nan => (2 ^ f.ebits - 1) * 2 ^ f.frac + 2 ^ (f.frac - 1)
  | .inf n => (if n then 2 ^ (f.frac + f.ebits) else 0) + (2 ^ f.ebits - 1) * 2 ^ f.frac
  | .num n m e =>
    (if n then 2 ^ (f.frac + f.ebits) else 0) +
    (if m < 2 ^ f.frac then m else (e + f.frac - f.emin + 1).toNat * 2 ^ f.frac + (m - 2 ^ f.frac))

/-- A finite value as a signed integer at exponent `e0`, at or below its own. -/
def scaled (neg : Bool) (m : Nat) (e e0 : Int) : Int := (if neg then -1 else 1) * (m * 2 ^ (e - e0).toNat : Nat)

/-- The exact sum of two values. -/
def addExact : FVal → FVal → FVal
  | .nan, _ => .nan
  | _, .nan => .nan
  | .inf a, .inf b => if a = b then .inf a else .nan
  | .inf a, .num _ _ _ => .inf a
  | .num _ _ _, .inf b => .inf b
  | .num na ma ea, .num nb mb eb =>
    let e0 := min ea eb
    let t := scaled na ma ea e0 + scaled nb mb eb e0
    if t = 0 then .num (na && nb) 0 e0 else .num (decide (t < 0)) t.natAbs e0

def negate : FVal → FVal
  | .nan => .nan
  | .inf a => .inf (!a)
  | .num n m e => .num (!n) m e

/-- The exact product. -/
def mulExact : FVal → FVal → FVal
  | .nan, _ => .nan
  | _, .nan => .nan
  | .inf a, .inf b => .inf (a != b)
  | .inf a, .num n m _ => if m = 0 then .nan else .inf (a != n)
  | .num n m _, .inf b => if m = 0 then .nan else .inf (n != b)
  | .num na ma ea, .num nb mb eb => .num (na != nb) (ma * mb) (ea + eb)

/-- The quotient with enough bits and a sticky bit for one rounding to binary64 or less. -/
def divSticky : FVal → FVal → FVal
  | .nan, _ => .nan
  | _, .nan => .nan
  | .inf _, .inf _ => .nan
  | .inf a, .num n _ _ => .inf (a != n)
  | .num n _ _, .inf b => .num (n != b) 0 0
  | .num na ma ea, .num nb mb eb =>
    if mb = 0 then (if ma = 0 then .nan else .inf (na != nb))
    else
      let k := 64 + Nat.log2 mb + 1
      let q := ma * 2 ^ k / mb
      .num (na != nb) (2 * q + (if ma * 2 ^ k % mb = 0 then 0 else 1)) (ea - eb - k - 1)

/-- Operations of a format, each rounded once. -/
def Fmt.add (f : Fmt) (a b : FVal) : FVal := f.fit (addExact a b)
def Fmt.sub (f : Fmt) (a b : FVal) : FVal := f.fit (addExact a (negate b))
def Fmt.mul (f : Fmt) (a b : FVal) : FVal := f.fit (mulExact a b)
def Fmt.fma (f : Fmt) (a b c : FVal) : FVal := f.fit (addExact (mulExact a b) c)
def Fmt.div (f : Fmt) (a b : FVal) : FVal := f.fit (divSticky a b)

/-- An integer times 2^e, exact. -/
def ofInt (n : Int) (e : Int) : FVal := .num (decide (n < 0)) n.natAbs e

/-- Whether a value is NaN; zero; finite. -/
def FVal.isNan : FVal → Bool
  | .nan => true
  | _ => false
def FVal.isZero : FVal → Bool
  | .num _ 0 _ => true
  | _ => false
def FVal.isFinite : FVal → Bool
  | .num _ _ _ => true
  | _ => false
def FVal.isNeg : FVal → Bool
  | .nan => false
  | .inf n => n
  | .num n m _ => n && decide (m ≠ 0)

/-- a < b for values that are not NaN; -0 equals +0. -/
def lessThan : FVal → FVal → Bool
  | .nan, _ => false
  | _, .nan => false
  | .inf a, .inf b => a && !b
  | .inf a, .num _ _ _ => a
  | .num _ _ _, .inf b => !b
  | .num na ma ea, .num nb mb eb =>
    let e0 := min ea eb
    decide (scaled na ma ea e0 < scaled nb mb eb e0)

/-- The sign of an encoded zero or number. -/
def FVal.signBit : FVal → Bool
  | .nan => false
  | .inf n => n
  | .num n _ _ => n

/-- The order of MIN and MAX: -0 below +0 (Table 6-5, R204). -/
def beforeIn (a b : FVal) : Bool := lessThan a b || (a.isZero && b.isZero && a.signBit && !b.signBit)

/-- floor(v) of a finite value. -/
def floorVal (neg : Bool) (m : Nat) (e : Int) : Int :=
  let t : Int := if neg then -(m : Int) else m
  if 0 ≤ e then t * 2 ^ e.toNat else t / 2 ^ (-e).toNat

/-- A finite value rounded to the nearest integer, ties to even. -/
def nearestInt (neg : Bool) (m : Nat) (e : Int) : Int :=
  let t : Int := if neg then -(m : Int) else m
  if 0 ≤ e then t * 2 ^ e.toNat else roundDivEven t (2 ^ (-e).toNat)

/-- Canonical NaNs (R191, R212, Table 6-7). -/
abbrev nan32 : Nat := 0x7FC00000

def f32 (w : Nat) : FVal := binary32.decode w
def toF32 (v : FVal) : Nat := binary32.encode (binary32.fit v)

/-- The user table of R189 applied to a value: floor((a - LO) * INV), exact, clamped to 0 to 255. -/
def userTable (tab : List Nat) (a : FVal) : FVal :=
  let lo := f32 (tab.getD 0 0)
  let inv := f32 (tab.getD 1 0)
  let entry := fun (i : Int) => f32 (tab.getD (2 + (clampInt 0 255 i).toNat) 0)
  match mulExact (addExact a (negate lo)) inv with
  | .nan => .nan
  | .inf n => entry (if n then 0 else 255)
  | .num n m e => entry (floorVal n m e)

/-- A function of finite values, with its limits at the infinities; NaN gives NaN. -/
def withLimits (f : W32 → W32) (atNeg atPos : FVal) (a : FVal) : FVal :=
  match a with
  | .nan => .nan
  | .inf n => if n then atNeg else atPos
  | .num n m e => f32 (f (BitVec.ofNat 32 (toF32 (.num n m e)))).toNat

def posZero : FVal := .num false 0 (-149)
def fone (neg : Bool) : FVal := .num neg 0x800000 (-23)

/-- The activation of a binary32 value (Table 6-6). -/
def activate (act : Nat) (clip : FVal) (tab : List Nat) (a : FVal) : FVal :=
  let relu := match a with
    | .nan => FVal.nan
    | v => if v.signBit then posZero else v
  if act = 1 then relu
  else if act = 2 then (match relu with
    | .nan => .nan
    | v => if lessThan clip v then clip else v)
  else if act = 3 then withLimits Config.gelu (.num true 0 (-149)) (.inf false) a
  else if act = 4 then withLimits Config.sigmoid posZero (fone false) a
  else if act = 5 then withLimits Config.tanh (fone true) (fone false) a
  else if act = 6 then userTable tab a
  else a

/-- One converted component: its code, whether it saturated, whether it was NaN (Table 6-7, R190, R191). -/
structure Converted where
  code : Nat
  sat  : Bool
  isNan : Bool
deriving DecidableEq, Repr

/-- An integer target: range, code width, scale 2^k before rounding. -/
def toIntTarget (lo hi : Int) (w k : Nat) (v : FVal) : Converted :=
  match v with
  | .nan => { code := 0, sat := false, isNan := true }
  | .inf n => { code := (BitVec.ofInt w (if n then lo else hi)).toNat, sat := true, isNan := false }
  | .num n m e =>
    let i := nearestInt n m (e + k)
    { code := (BitVec.ofInt w (clampInt lo hi i)).toNat, sat := decide (i < lo ∨ hi < i), isNan := false }

/-- The largest finite value of a format. -/
def Fmt.largest (f : Fmt) (neg : Bool) : FVal := .num neg (2 ^ f.prec - 1) (f.emax - f.frac)

/-- A floating target with saturation to its largest finite magnitude. -/
def toFloatTarget (f : Fmt) (v : FVal) : Converted :=
  match f.fit v with
  | .nan => { code := f.encode .nan, sat := false, isNan := true }
  | .inf n => { code := f.encode (f.largest n), sat := true, isNan := false }
  | .num n m e => { code := f.encode (.num n m e), sat := false, isNan := false }

/-- Conversion to target `conv` of Table 6-7, or 15: binary32 as computed. -/
def convert (conv : Nat) (v : FVal) : Converted :=
  if conv = 0 then toIntTarget (-128) 127 8 0 v
  else if conv = 1 then toIntTarget (-32768) 32767 16 0 v
  else if conv = 2 then toFloatTarget fp16 v
  else if conv = 3 then toFloatTarget bf16 v
  else if conv = 4 then toIntTarget (-2048) 2047 12 4 v
  else { code := toF32 v, sat := false, isNan := v.isNan }

end Sys2Proof.Machine
end

