-- ==== Sys2Proof/Machine/TreeOps.lean ====
section
/-! DEFINITION. Tree models in memory: their validation, feature preparation and traversal (R199 to R212). -/
namespace Sys2Proof.Machine

/-- The fields of a model descriptor (Table 7-1). -/
structure Model where
  addr    : Nat
  mode    : Nat
  nclass  : Nat
  ntrees  : Nat
  nraw    : Nat
  ncross  : Nat
  maxDepth : Nat
  link    : Nat
  leafFrac : Nat
  inputType : Nat
  leafScale : Nat
  prepOff : Nat
  crossOff : Nat
  baseOff : Nat
  tableOff : Nat
  treesOff : Nat
  treesLen : Nat
deriving DecidableEq, Repr

/-- The descriptor at a stack address. -/
def modelAt (s : State) (a : Nat) : Model :=
  let d := stackRead s a 64
  { addr := a, mode := byteAt d 6, nclass := byteAt d 7, ntrees := field d 8 4, nraw := field d 0x0C 2,
    ncross := field d 0x0E 2, maxDepth := byteAt d 0x10, link := byteAt d 0x11, leafFrac := byteAt d 0x12,
    inputType := byteAt d 0x13, leafScale := field d 0x14 4, prepOff := field d 0x18 4, crossOff := field d 0x1C 4,
    baseOff := field d 0x20 4, tableOff := field d 0x24 4, treesOff := field d 0x28 8, treesLen := field d 0x30 8 }

/-- Where a check of a model fails: the structure of R314 (4 descriptor, 5 tree record), the record, the offset. -/
abbrev ModelFault := Nat × Nat × Nat

/-- Bytes of one element of an input type (Table 7-1). -/
def inputSize (t : Nat) : Nat := if t = 0 then 1 else if t = 4 then 4 else 2

/-- The preparation entry of raw feature `f` (Table 7-2). -/
def prepEntry (s : State) (m : Model) (f : Nat) : List Byte := stackRead s (m.addr + m.prepOff + 16 * f) 16

/-- The cross entry `q` (Table 7-3). -/
def crossEntry (s : State) (m : Model) (q : Nat) : List Byte := stackRead s (m.addr + m.crossOff + 8 * q) 8

/-- The words of a binary32 array. -/
def words (s : State) (a n : Nat) : List Nat := (List.range n).map (fun i => leNat (stackRead s (a + 4 * i) 4))

/-- Thresholds of a BIN entry. -/
def binThresholds (s : State) (m : Model) (e : List Byte) : List Nat :=
  if byteAt e 0 = 2 then words s (m.addr + field e 0x0C 4) (byteAt e 1) else []

/-- Strictly ascending and none NaN. -/
def ascending : List Nat → Bool
  | [] => true
  | [x] => !(f32 x).isNan
  | x :: y :: r => !(f32 x).isNan && lessThan (f32 x) (f32 y) && ascending (y :: r)

/-- A positive finite INV of a user table (R189). -/
def invOk (w : Nat) : Bool := (f32 w).isFinite && lessThan posZero (f32 w)

/-- A table of a model lies beyond the memory window, so that its offset names no table (Table 7-1). -/
def tableOutside (s : State) (m : Model) (off len : Nat) : Bool := decide (windowSize s.tray.variant < m.addr + off + len)

/-- Checks of the descriptor's own fields (Table 7-1, Table 7-6). -/
def modelChecks (s : State) (a : Nat) : List (Nat × Bool) :=
  let d := stackRead s a 64
  let m := modelAt s a
  [chk 0x00 (decide (field d 0 4 ≠ 0x45545A51)), chk 0x04 (decide (field d 4 2 ≠ 1)), chk 0x06 (decide (1 < m.mode)),
   chk 0x07 (decide (m.nclass < 1 ∨ 32 < m.nclass)), chk 0x08 (decide (m.ntrees < 1 ∨ 65536 < m.ntrees)),
   chk 0x0C (decide (m.nraw < 1 ∨ 256 < m.nraw)), chk 0x0E (decide (64 < m.ncross)),
   chk 0x10 (decide (m.maxDepth < 1 ∨ (if m.mode = 0 then 8 else 24) < m.maxDepth)),
   chk 0x11 (decide (4 < m.link) || (decide (m.link = 1) && decide (m.nclass ≠ 1)) ||
     (decide (m.link = 2) && decide (m.nclass < 2))),
   chk 0x12 (decide (8 < m.leafFrac)), chk 0x13 (decide (4 < m.inputType)), chk 0x14 (!(f32 m.leafScale).isFinite),
   chk 0x18 (tableOutside s m m.prepOff (16 * m.nraw)),
   chk 0x1C ((decide (m.ncross = 0) && decide (m.crossOff ≠ 0)) || tableOutside s m m.crossOff (8 * m.ncross)),
   chk 0x20 (tableOutside s m m.baseOff (4 * m.nclass)),
   chk 0x24 (if m.link = 4 then tableOutside s m m.tableOff 1032 || !invOk (leNat (stackRead s (a + m.tableOff + 4) 4))
     else decide (m.tableOff ≠ 0)),
   chk 0x28 (decide (m.treesOff % 64 ≠ 0)),
   chk 0x30 (decide (windowSize s.tray.variant < a + m.treesOff + m.treesLen)),
   chk 0x38 (decide (field d 0x38 4 ≠ (crc32c (d.take 0x38)).toNat)), chk 0x3C (decide (field d 0x3C 4 ≠ 0))]

/-- A preparation entry breaks Table 7-2. -/
def badPrep (s : State) (m : Model) (f : Nat) : Bool :=
  let e := prepEntry s m f
  let op := byteAt e 0
  decide (3 < op) || decide (field e 2 2 ≠ 0) || (if op = 2 then decide (byteAt e 1 = 0) else decide (byteAt e 1 ≠ 0)) ||
  (decide (op ≠ 1) && decide (field e 4 8 ≠ 0)) || (decide (op ≠ 2) && decide (field e 0x0C 4 ≠ 0)) ||
  (decide (op = 2) && tableOutside s m (field e 0x0C 4) (4 * byteAt e 1)) || !ascending (binThresholds s m e)

/-- A raw slot that is prepared and not UNUSED (R202). -/
def rawSlotOk (s : State) (m : Model) (k : Nat) : Bool := decide (k < m.nraw) && decide (byteAt (prepEntry s m k) 0 ≠ 3)

/-- A cross entry breaks Table 7-3. -/
def badCross (s : State) (m : Model) (q : Nat) : Bool :=
  let e := crossEntry s m q
  let a := field e 2 2
  let b := field e 4 2
  decide (4 < byteAt e 0) || decide (byteAt e 1 ≠ 0) || decide (field e 6 2 ≠ 0) || !rawSlotOk s m a || !rawSlotOk s m b ||
  (decide (byteAt e 0 = 2) && !(decide (byteAt (prepEntry s m a) 0 = 2) && decide (byteAt (prepEntry s m b) 0 = 2)))

/-- A SLOT that a node may name (R202). -/
def slotOk (s : State) (m : Model) (k : Nat) : Bool :=
  rawSlotOk s m k || (decide (256 ≤ k) && decide (k < 256 + m.ncross))

/-- Node `i` of the record at `a`. -/
def nodeAt (s : State) (a i : Nat) : List Byte := stackRead s (a + 16 + 8 * i) 8
def nodeThresh (n : List Byte) : Nat := field n 0 4
def nodeSlot (n : List Byte) : Nat := field n 4 2 % 512
def nodeLeaf (n : List Byte) : Bool := (field n 4 2).testBit 15
def nodeRight (n : List Byte) : Nat := field n 6 2

/-- Bytes rounded up to 64. -/
def pad64 (n : Nat) : Nat := (n + 63) / 64 * 64

/-- Length of a record by its header's fields (R201). -/
def recordLen (m : Model) (nodes depth : Nat) : Nat :=
  if m.mode = 0 then pad64 (16 + 8 * (2 ^ depth - 1) + 2 * 2 ^ depth) else pad64 (16 + 8 * nodes)

/-- Depth of every node of a LEVEL record in ascending order, 0 for the root: `parents` lists (child, depth). -/
def levelDepths (s : State) (a : Nat) : Nat → Nat → List (Nat × Nat) → List (Nat × Nat)
  | 0, _, ds => ds
  | fuel + 1, i, ds =>
    let n := nodeAt s a i
    match ds.find? (fun p => decide (p.1 = i)) with
    | none => levelDepths s a fuel (i + 1) ds
    | some p =>
      if nodeLeaf n then levelDepths s a fuel (i + 1) ds
      else levelDepths s a fuel (i + 1) (ds ++ [(i + 1, p.2 + 1), (nodeRight n, p.2 + 1)])

/-- The header checks of one tree record (R201, R202): the offset of the first field that fails. R202 lists TREE_INDEX, CLASS and
the sum of TREE_LEN; that a TREE_LEN other than the length that R201 gives the record, a NODES or DEPTH outside Table 7-4, and a
reserved field other than 0 are rejected with them is the model's reading (DESIGN CHOICE, log 83). -/
def headerFail (s : State) (m : Model) (a index : Nat) : Option Nat :=
  let h := stackRead s a 16
  let nodes := field h 8 2
  let depth := byteAt h 0x0A
  firstFailing [chk 0 (decide (field h 0 4 ≠ recordLen m nodes depth)), chk 4 (decide (field h 4 4 ≠ index)),
    chk 8 (if m.mode = 0 then decide (nodes ≠ 2 ^ depth - 1) else decide (nodes < 3 ∨ 32767 < nodes)),
    chk 0x0A (decide (depth < 1 ∨ m.maxDepth < depth)), chk 0x0B (decide (m.nclass ≤ byteAt h 0x0B)),
    chk 0x0C (decide (field h 0x0C 4 ≠ 0))]

/-- The checks of one tree record (R201, R202): the offset of the first field that fails. -/
def recordFault (s : State) (m : Model) (a index : Nat) : Option Nat :=
  let h := stackRead s a 16
  let nodes := field h 8 2
  let okNode := fun i => let n := nodeAt s a i; !nodeLeaf n && slotOk s m (nodeSlot n) && !(f32 (nodeThresh n)).isNan
  match headerFail s m a index with
  | some o => some o
  | none =>
    if m.mode = 0 then
      ((List.range nodes).find? (fun i => !okNode i)).map (fun i => 16 + 8 * i)
    else
      let ds := levelDepths s a nodes 0 [(0, 0)]
      let bad := fun i =>
        let n := nodeAt s a i
        decide ((ds.filter (fun p => decide (p.1 = i))).length ≠ 1) ||
        ds.any (fun p => decide (p.1 = i) && decide (m.maxDepth < p.2)) ||
        (!nodeLeaf n && (!okNode i || decide (nodeRight n < i + 2) || decide (nodes ≤ nodeRight n)))
      ((List.range nodes).find? bad).map (fun i => 16 + 8 * i)

/-- The records of a stream checked in order; `fuel` counts those left. -/
def streamFault (s : State) (m : Model) : Nat → Nat → Nat → Option ModelFault
  | 0, index, off => if off = m.treesLen ∧ index = m.ntrees then none else some (4, 0, 0x30)
  | fuel + 1, index, off =>
    let a := m.addr + m.treesOff + off
    match recordFault s m a index with
    | some o => some (5, index, o)
    | none => streamFault s m fuel (index + 1) (off + leNat (stackRead s a 4))

/-- The first rule of R202 that a model breaks. -/
def modelFault (s : State) (a : Nat) : Option ModelFault :=
  match firstFailing (modelChecks s a) with
  | some o => some (4, 0, o)
  | none =>
    let m := modelAt s a
    if (List.range m.nraw).any (badPrep s m) then some (4, 0, 0x18)
    else if (List.range m.ncross).any (badCross s m) then some (4, 0, 0x1C)
    else streamFault s m m.ntrees 0 0

/-- The tables of a model in the order that its check word takes them after the tree stream (R202): preparation tables, cross
table, base scores, user table. The thresholds of BIN entries are counted to the preparation tables and stand after all the
entries, in feature order (DESIGN CHOICE, log 84). -/
def modelTables (s : State) (m : Model) : List Byte :=
  stackRead s (m.addr + m.prepOff) (16 * m.nraw) ++
  (List.range m.nraw).flatMap (fun f => (binThresholds s m (prepEntry s m f)).flatMap (leBytes 4)) ++
  (if m.ncross = 0 then [] else stackRead s (m.addr + m.crossOff) (8 * m.ncross)) ++
  stackRead s (m.addr + m.baseOff) (4 * m.nclass) ++ (if m.link = 4 then stackRead s (m.addr + m.tableOff) 1032 else [])

/-- The check word that a slot stores (R202): tree stream, then tables. -/
def modelCrc (s : State) (a : Nat) : W32 :=
  let m := modelAt s a
  crc32c (stackRead s (a + m.treesOff) m.treesLen ++ modelTables s m)

/-- The check word that a wave ends with: `run` is what it has read of the stream (R203). -/
def waveCrc (s : State) (m : Model) (run : W32) : W32 := ((modelTables s m).foldl crcByte run) ^^^ 0xFFFFFFFF#32

/-- The ranges that a model occupies: its tree stream and its tables, as offset and length. -/
def modelRanges (s : State) (m : Model) : List (Nat × Nat) :=
  [(m.treesOff, m.treesLen), (m.prepOff, 16 * m.nraw), (m.crossOff, 8 * m.ncross), (m.baseOff, 4 * m.nclass),
   (m.tableOff, if m.link = 4 then 1032 else 0)] ++
  (List.range m.nraw).map (fun f => let e := prepEntry s m f
    (field e 0x0C 4, if byteAt e 0 = 2 then 4 * byteAt e 1 else 0))

/-- Every range of a model that lies in the window can be read (R547); one that does not is a fault of the model. -/
def modelReadFails (s : State) (a : Nat) : Option W16 :=
  match readFails s (2 ^ 63 + a) 64 with
  | some c => some c
  | none =>
    let m := modelAt s a
    (modelRanges s m).findSome? (fun r =>
      if tableOutside s m r.1 r.2 then none else readFails s (2 ^ 63 + a + r.1) r.2)

/-- Raw feature `f` of a sample: its value (Table 7-1 INPUT_TYPE, R204). -/
def rawFeature (t : Nat) (bs : List Byte) : FVal :=
  if t = 0 then ofInt (signedOf 8 (leNat bs)) 0
  else if t = 1 then ofInt (signedOf 16 (leNat bs)) 0
  else if t = 2 then fp16.decode (leNat bs)
  else if t = 3 then bf16.decode (leNat bs)
  else f32 (leNat bs)

/-- The prepared value of a raw feature under its entry (Table 7-2). -/
def prepare (s : State) (m : Model) (f : Nat) (x : FVal) : FVal :=
  let e := prepEntry s m f
  if byteAt e 0 = 1 then binary32.fma (f32 (field e 4 4)) x (f32 (field e 8 4))
  else if byteAt e 0 = 2 then
    ofInt (((binThresholds s m e).filter (fun t => !lessThan x (f32 t))).length : Int) 0
  else x

/-- A cross of two prepared slots (Table 7-3). -/
def crossVal (s : State) (m : Model) (q : Nat) (v : Nat → FVal) : FVal :=
  let e := crossEntry s m q
  let a := v (field e 2 2)
  let b := v (field e 4 2)
  if byteAt e 0 = 0 then binary32.mul a b
  else if byteAt e 0 = 1 then binary32.sub a b
  else if byteAt e 0 = 2 then
    binary32.add (binary32.mul a (ofInt (byteAt (prepEntry s m (field e 4 2)) 1 + 1) 0)) b
  else if byteAt e 0 = 3 then (if beforeIn b a then b else a)
  else (if beforeIn a b then b else a)

/-- A sample prepared into its slots, with its status (R204, R205, Table 7-8). -/
def prepareSample (s : State) (m : Model) (sample : List Byte) : Prepared :=
  let sz := inputSize m.inputType
  let raw := (List.range m.nraw).map (fun f => rawFeature m.inputType ((sample.drop (sz * f)).take sz))
  let used := (List.range m.nraw).filter (fun f => decide (byteAt (prepEntry s m f) 0 ≠ 3))
  let vals := used.map (fun f => (f, prepare s m f (raw.getD f .nan)))
  let look := fun k => match vals.find? (fun p => decide (p.1 = k)) with
    | some p => p.2
    | none => FVal.nan
  let crosses := (List.range m.ncross).map (fun q => (256 + q, crossVal s m q look))
  let status : Byte := if raw.any FVal.isNan then 1 else if (vals ++ crosses).any (fun p => p.2.isNan) then 2 else 0
  { status := status, slots := (vals ++ crosses).map (fun p => (p.1, BitVec.ofNat 32 (toF32 p.2))) }

/-- The prepared value of a slot. -/
def slotVal (p : Prepared) (k : Nat) : FVal :=
  match p.slots.find? (fun x => decide (x.1 = k)) with
  | some x => f32 x.2.toNat
  | none => .nan

/-- A sample goes right where its value is at or above the threshold (Table 7-5, R206). -/
def goesRight (p : Prepared) (n : List Byte) : Bool := !lessThan (slotVal p (nodeSlot n)) (f32 (nodeThresh n))

/-- The walk of a PARALLEL tree (R206). -/
def walkParallel (s : State) (a : Nat) (p : Prepared) : Nat → Nat → Nat
  | 0, i => i
  | k + 1, i => walkParallel s a p k (2 * i + 1 + (if goesRight p (nodeAt s a i) then 1 else 0))

/-- The walk of a LEVEL tree: the leaf's node (R201). -/
def walkLevel (s : State) (a : Nat) (p : Prepared) : Nat → Nat → Nat
  | 0, i => i
  | k + 1, i =>
    let n := nodeAt s a i
    if nodeLeaf n then i else walkLevel s a p k (if goesRight p n then nodeRight n else i + 1)

/-- The leaf value of a sample in the record at `a` (R206, R207). -/
def leafValue (s : State) (m : Model) (a : Nat) (p : Prepared) : Int :=
  let d := byteAt (stackRead s a 16) 0x0A
  if m.mode = 0 then
    let i := walkParallel s a p d 0 - (2 ^ d - 1)
    signedOf 16 (leNat (stackRead s (a + 16 + 8 * (2 ^ d - 1) + 2 * i) 2))
  else signedOf 16 (field (nodeAt s a (walkLevel s a p (m.maxDepth + 1) 0)) 0 2)

/-- The scores of a sample from its leaf sums, in units of 2^-8 (R211 steps 1 to 3). -/
def scoresOf (s : State) (m : Model) (sums : List Int) : List FVal :=
  (List.range m.nclass).map (fun k =>
    binary32.add (binary32.mul (binary32.fit (ofInt (sums.getD k 0) (-8))) (f32 m.leafScale))
      (f32 (leNat (stackRead s (m.addr + m.baseOff + 4 * k) 4))))

/-- The link of class `k` (Table 7-6). -/
def linkVal (s : State) (m : Model) (scores : List FVal) (k : Nat) : FVal :=
  let x := scores.getD k .nan
  if m.link = 1 then withLimits Config.sigmoid posZero (fone false) x
  else if m.link = 2 then
    (if scores.any FVal.isNan then .nan
     else f32 (Config.softmax (scores.map (fun v => BitVec.ofNat 32 (toF32 v))) k).toNat)
  else if m.link = 3 then withLimits Config.expo posZero (.inf false) x
  else if m.link = 4 then userTable (words s (m.addr + m.tableOff) 258) x
  else x

/-- The format of OUT_TYPE of a tree job (R211). -/
def outFmt (t : Nat) : Fmt := if t = 1 then fp16 else if t = 2 then bf16 else binary32
def outSize (t : Nat) : Nat := if t = 0 then 4 else 2

/-- One sample's outputs and status (R212, R213): a NaN sample gives canonical NaNs; a value beyond the range is saturated. A
score or link result that is NaN though the sample is not (a NaN base score, a NaN of the user table) is written as the canonical
NaN and leaves the status OK: Table 7-8 has no status for it (DESIGN CHOICE, log 85). -/
def treeOutput (s : State) (m : Model) (outType : Nat) (status : Byte) (sums : List Int) : List Byte × Byte :=
  let f := outFmt outType
  if status ≠ 0 then
    ((List.range m.nclass).flatMap (fun _ => leBytes (outSize outType) (f.encode .nan)), status)
  else
    let cs := (List.range m.nclass).map (fun k => toFloatTarget f (linkVal s m (scoresOf s m sums) k))
    (cs.flatMap (fun c => leBytes (outSize outType) c.code), if cs.any (fun c => c.sat) then 3 else 0)

end Sys2Proof.Machine
end

