-- ==== Sys2Proof/Machine/TwinOps.lean ====
section
/-! DEFINITION. Sending on the Seliviuk link and mirroring to the twin (R457, R466, R280). -/
namespace Sys2Proof.Machine

/-- The link carries frames (Table 18-4). -/
def linkCarries (s : State) : Bool := decide (s.twin.linkState = .up) || decide (s.twin.linkState = .up1)

/-- The bytes of a frame before its CHECK (Table 18-3). -/
def frameBody (type flags : Byte) (seq ackSeq : W32) (payload : List Byte) : List Byte :=
  [type, flags] ++ leBytes 2 payload.length ++ leBytes 4 seq.toNat ++ leBytes 4 ackSeq.toNat ++ leBytes 4 0 ++ payload

/-- The bytes of a frame as they cross the link. -/
def frameBytes (f : Frame) : List Byte := frameBody f.type f.flags f.seq f.ackSeq f.payload ++ leBytes 4 f.check.toNat

/-- A frame with its CHECK, the CRC-32C of all bytes before it. -/
def mkFrame (type flags : Byte) (seq ackSeq : W32) (payload : List Byte) : Frame :=
  { type := type, flags := flags, seq := seq, ackSeq := ackSeq, payload := payload,
    check := crc32c (frameBody type flags seq ackSeq payload) }

/-- A frame put on the link; sequenced types take a SEQ and stay for replay (R457, R458). -/
def sendFrame (type flags : Byte) (payload : List Byte) (s : State) : State :=
  let sequenced := decide (type ≠ 0x01#8 ∧ type ≠ 0x02#8)
  let fr := mkFrame type flags (if sequenced then s.twin.txSeq else 0) s.twin.rxSeq payload
  { s with twin := { s.twin with
      sent := fr :: s.twin.sent,
      txSeq := if sequenced then s.twin.txSeq + 1 else s.twin.txSeq,
      unacked := if sequenced then s.twin.unacked ++ [fr] else s.twin.unacked } }

/-- Payloads of at most 2,016 bytes; the last frame of a message is marked LAST (Table 18-3). -/
def payloadsOf : Nat → List Byte → List (List Byte)
  | 0, bs => [bs]
  | fuel + 1, bs => if bs.length ≤ 2016 then [bs] else bs.take 2016 :: payloadsOf fuel (bs.drop 2016)

/-- A message sent in as many frames as it takes. -/
def sendMessage (type : Byte) (payload : List Byte) (s : State) : State :=
  let cs := payloadsOf (payload.length / 2016) payload
  (List.range cs.length).foldl (fun s i => sendFrame type (if i + 1 = cs.length then 1 else 0) (cs.getD i []) s) s

/-- Whether this tray mirrors items of group `g` (`none`: items of no group): ACTIVE all of them, SHARE group 0 and its
journal items only (R466), once a pair has formed. -/
def mirrors (s : State) (g : Option Nat) : Bool :=
  !(decide (s.twin.pairState = .none) || decide (s.twin.pairState = .linked)) &&
  (decide (s.twin.role = .active) || (decide (s.twin.role = .share) && decide (g = some 0 ∨ g = none)))

/-- A message sent where the link carries frames; without it the resynchronisation brings the twin its content (R467). -/
def sendIfUp (type : Byte) (payload : List Byte) (s : State) : State :=
  if linkCarries s then sendMessage type payload s else s

/-- A journal entry: a command's descriptor with the bytes it brought (R280, Table 18-7). -/
def mirror (g : Option Nat) (desc entries : List Byte) (s : State) : State :=
  if mirrors s g then
    sendIfUp 0x03#8 (desc ++ entries) { s with twin := { s.twin with
      journalSeq := s.twin.journalSeq + 1, journalLag := s.twin.journalLag + 1 } }
  else s

/-- The journal entry of a swap for its boundary in radio time (R280, R281). -/
def mirrorSwap (g : GroupIx) (at_ : Nat) (s : State) : State :=
  mirror (some g.val) [] (BitVec.ofNat 8 g.val :: leBytes 8 at_) s

/-- Stack memory that a committed set references, copied to the twin at the same address (R280, R467). -/
def mirrorMemory (g : GroupIx) (addr n : Nat) (s : State) : State :=
  if mirrors s (some g.val) then
    sendIfUp 0x04#8 (leBytes 8 addr ++ stackRead s addr n) { s with twin := { s.twin with
      dirty := (addr, n) :: s.twin.dirty } }
  else s

end Sys2Proof.Machine
end

