-- ==== Sys2Proof/Machine/SetOps.lean ====
section
/-! DEFINITION. Configuration sets: entry layouts (Table 12-6), validation (R247, R265, R268, R350, R595), IN_USE (R271), and
the swaps of every kind (R273 to R278), with what a radio swap does to the slots in work (R261, Table 10-5). -/
namespace Sys2Proof.Machine

/-- Entry sizes by KIND (Table 12-6). -/
def entrySize (kind : Nat) : Nat := if kind = 0 then 32 else if kind = 1 ∨ kind = 2 then 64 else 16

/-- Index range by KIND. -/
def entryRange (kind : Nat) : Nat := if kind = 0 ∨ kind = 2 then 64 else if kind = 4 then 10 else 16

/-- The kinds that a group's SET_STAGE may name (R319). -/
def kindFits (g kind : Nat) : Bool :=
  if g = 0 then decide (kind ≤ 1) else if g = 1 then decide (kind = 2) else if g = 2 then decide (kind = 3) else decide (kind = 4)

/-- The first reserved byte of an entry that is not 0 (R10, Table 12-6). -/
def entryReserved (kind : Nat) (b : List Byte) : Option Nat :=
  let zero := fun lo hi => (List.range (hi - lo)).map (fun i => chk (lo + i) (decide (byteAt b (lo + i) ≠ 0)))
  firstFailing
    (if kind = 0 then [chk 0 (decide (2 ≤ byteAt b 0)), chk 5 (decide (16 ≤ byteAt b 5))] ++ zero 0x12 0x20
     else if kind = 1 then [chk 0 (decide (8 ≤ byteAt b 0))] ++ zero 0x24 0x40
     else if kind = 2 then zero 0x20 0x40
     else if kind = 3 then zero 0x08 0x10
     else zero 0x0D 0x10)

def parseStream (b : List Byte) : StreamEntry :=
  { en := (byteAt b 0).testBit 0, port := BitVec.ofNat 8 (byteAt b 1), ulGroup := BitVec.ofNat 8 (byteAt b 2),
    dlGroup := BitVec.ofNat 8 (byteAt b 3), ant := BitVec.ofNat 8 (byteAt b 4), compUl := BitVec.ofNat 2 (byteAt b 5),
    compDl := BitVec.ofNat 2 (byteAt b 5 / 4), vlan := BitVec.ofNat 16 (field b 6 2), eaxcUl := BitVec.ofNat 16 (field b 8 2),
    eaxcDl := BitVec.ofNat 16 (field b 10 2), peerMac := BitVec.ofNat 48 (beNat ((b.drop 0x0C).take 6)) }

def streamBytes (e : StreamEntry) : List Byte :=
  [BitVec.ofNat 8 (if e.en then 1 else 0), e.port, e.ulGroup, e.dlGroup, e.ant,
   BitVec.ofNat 8 (e.compUl.toNat + 4 * e.compDl.toNat)] ++ leBytes 2 e.vlan.toNat ++ leBytes 2 e.eaxcUl.toNat ++
  leBytes 2 e.eaxcDl.toNat ++ beBytes 6 e.peerMac.toNat ++ List.replicate 14 0

def parseGroup (b : List Byte) : GroupEntry :=
  { en := (byteAt b 0).testBit 0, kind := BitVec.ofNat 2 (byteAt b 0 / 2), format := BitVec.ofNat 8 (byteAt b 1),
    nprb := BitVec.ofNat 16 (field b 2 2), prbg := BitVec.ofNat 8 (byteAt b 4), nant := BitVec.ofNat 8 (byteAt b 5),
    nlayer := BitVec.ofNat 8 (byteAt b 6), batchSyms := BitVec.ofNat 8 (byteAt b 7), tile := BitVec.ofNat 8 (byteAt b 8),
    altTile := BitVec.ofNat 8 (byteAt b 9), ring := BitVec.ofNat 8 (byteAt b 10), outType := BitVec.ofNat 8 (byteAt b 11),
    userScale := BitVec.ofNat 32 (field b 12 4), seed := BitVec.ofNat 64 (field b 16 8),
    rxOpen := BitVec.ofNat 16 (field b 0x18 2), rxClose := BitVec.ofNat 16 (field b 0x1A 2),
    txAdvance := BitVec.ofNat 16 (field b 0x1C 2), txSpan := BitVec.ofNat 16 (field b 0x1E 2),
    dlLead := BitVec.ofNat 16 (field b 0x20 2), cpAdvance := BitVec.ofNat 16 (field b 0x22 2) }

def groupBytes (e : GroupEntry) : List Byte :=
  [BitVec.ofNat 8 ((if e.en then 1 else 0) + 2 * e.kind.toNat), e.format] ++ leBytes 2 e.nprb.toNat ++
  [e.prbg, e.nant, e.nlayer, e.batchSyms, e.tile, e.altTile, e.ring, e.outType] ++ leBytes 4 e.userScale.toNat ++
  leBytes 8 e.seed.toNat ++ leBytes 2 e.rxOpen.toNat ++ leBytes 2 e.rxClose.toNat ++ leBytes 2 e.txAdvance.toNat ++
  leBytes 2 e.txSpan.toNat ++ leBytes 2 e.dlLead.toNat ++ leBytes 2 e.cpAdvance.toNat ++ List.replicate 28 0

def parseFusion (b : List Byte) : FusionEntry :=
  { act := BitVec.ofNat 8 (byteAt b 0), scaleMode := BitVec.ofNat 8 (byteAt b 1), biasType := BitVec.ofNat 8 (byteAt b 2),
    conv := BitVec.ofNat 8 (byteAt b 3), clip := BitVec.ofNat 32 (field b 4 4), tableAddr := BitVec.ofNat 64 (field b 8 8),
    scale := BitVec.ofNat 64 (field b 16 8), biasAddr := BitVec.ofNat 64 (field b 24 8) }

def fusionBytes (e : Option FusionEntry) : List Byte :=
  match e with
  | none => List.replicate 64 0
  | some e => [e.act, e.scaleMode, e.biasType, e.conv] ++ leBytes 4 e.clip.toNat ++ leBytes 8 e.tableAddr.toNat ++
      leBytes 8 e.scale.toNat ++ leBytes 8 e.biasAddr.toNat ++ List.replicate 32 0

def modelBytes (e : Option ModelSlot) : List Byte :=
  (match e with
   | none => leBytes 8 0
   | some e => leBytes 8 e.desc.toNat) ++ List.replicate 8 0

def tileImageBytes (member : Bool) (t : Nat) (e : Option ImageEntry) : List Byte :=
  (match e with
   | none => List.replicate 12 0
   | some e => leBytes 8 e.image.toNat ++ leBytes 4 e.scale.toNat) ++
  [BitVec.ofNat 8 (if member then t else 0xFF), 0, 0, 0]

/-- A model slot entry; DESC 0 empties the slot, and its check word comes at commit (R202). -/
def parseModelSlot (b : List Byte) : Option ModelSlot :=
  if field b 0 8 = 0 then none else some { desc := BitVec.ofNat 64 (field b 0 8), crc := 0 }

def parseImage (b : List Byte) : ImageEntry :=
  { image := BitVec.ofNat 64 (field b 0 8), scale := BitVec.ofNat 32 (field b 8 4) }

/-- One staged entry written into the shadow sets (R319). -/
def stageEntry (kind i : Nat) (b : List Byte) (c : ConfSets) : ConfSets :=
  if h : i < 64 then
    if kind = 0 then { c with radioShadow := { c.radioShadow with streams := put c.radioShadow.streams ⟨i, h⟩ (parseStream b) } }
    else if kind = 2 then { c with fusionShadow := put c.fusionShadow ⟨i, h⟩ (some (parseFusion b)) }
    else if h2 : i < 16 then
      if kind = 1 then { c with radioShadow := { c.radioShadow with groups := put c.radioShadow.groups ⟨i, h2⟩ (parseGroup b) } }
      else if kind = 3 then
        { c with modelShadow := put c.modelShadow ⟨i, h2⟩ (parseModelSlot b) }
      else if h3 : i < 10 then
        { c with imageShadow := put c.imageShadow ⟨i, h3⟩ (some (parseImage b)) }
      else c
    else c
  else c

/-- COUNT staged entries from the bytes `bs`. -/
def stageAll (kind first : Nat) (bs : List Byte) : Nat → ConfSets → ConfSets
  | 0, c => c
  | n + 1, c => stageEntry kind (first + n) ((bs.drop (entrySize kind * n)).take (entrySize kind)) (stageAll kind first bs n c)

/-- The shadow of a group filled from its active set, or emptied (R268); `full` is COPY. -/
def openShadow (g : GroupIx) (full : Bool) (c : ConfSets) : ConfSets :=
  if g = 0 then { c with radioShadow := if full then c.radioActive else RadioSet.closed }
  else if g = 1 then { c with fusionShadow := if full then c.fusionActive else Vector.replicate 64 none }
  else if g = 2 then { c with modelShadow := if full then c.modelActive else Vector.replicate 16 none }
  else
    let sh : Vector (Option ImageEntry) 10 := Vector.ofFn (fun t =>
      if c.groups[g].members.getLsbD t.val then (if full then c.imageActive[t] else none) else c.imageShadow[t])
    { c with imageShadow := sh }

/-- The radio mapping that was active before the last swap still parses messages: those of slots before its marker, until
RX_CLOSE of the last symbol of the last of these slots (R273). -/
def oldMapLives (s : State) : Bool :=
  match s.radio.swapSlot with
  | none => false
  | some m =>
    let close : Nat := (s.sets.radioShadow.groups.toList.map (fun e =>
      if e.en ∧ e.kind ≠ 1 then e.rxClose.toNat * 393216 else 0)).foldl max 0
    let last : Int := (m.toInt - 1) * (slotTicks s.time.numerology : Nat) + (symStart s.time.numerology 13 : Nat)
    !reached s (last * 100 + (close : Int))

/-- Work that started under the set that is now the shadow still runs (R271). -/
def inUse (s : State) (g : GroupIx) : Bool :=
  let odd := fun (e : W32) => (s.sets.groups[g].epoch - e).getLsbD 0
  if g = 0 then s.radio.slots.any (fun x => odd x.mapEpoch) || oldMapLives s
  else if g = 1 then s.jobs.any (fun j => j.fusionBound && odd j.fusionEpoch)
  else if g = 2 then s.jobs.any (fun j => j.modelBound && odd j.modelEpoch)
  else false

/-! ### Validation -/

/-- A failing rule of a staged set: the locator of R314 within structure 2, or another completion. -/
def stagedFault (kind index o : Nat) : Reply := Reply.argIn 2 (kind * 2 ^ 24 + index) o

/-- Fields of a stream entry that lie outside Table 9-4. A reserved group code is rejected in a closed entry too (R11). -/
def streamEntryFault (v : Variant) (e : StreamEntry) : Option Nat :=
  firstFailing [chk 1 (e.en && decide (portsFitted v ≤ e.port.toNat)),
    chk 2 (decide (16 ≤ e.ulGroup.toNat) && decide (e.ulGroup ≠ 0x1F)),
    chk 3 (decide (16 ≤ e.dlGroup.toNat) && decide (e.dlGroup ≠ 0x1F)), chk 4 (e.en && decide (64 ≤ e.ant.toNat))]

/-- Fields of an enabled group entry that lie outside Tables 9-5 and 9-8. -/
def groupRangeFault (e : GroupEntry) : List (Nat × Bool) :=
  [chk 2 (decide (e.nprb.toNat < 1 ∨ 273 < e.nprb.toNat)), chk 4 (decide (e.prbg.toNat < 1 ∨ 16 < e.prbg.toNat)),
    chk 5 (decide (e.nant.toNat < 1 ∨ 64 < e.nant.toNat)), chk 6 (decide (e.nlayer.toNat < 1 ∨ 64 < e.nlayer.toNat)),
    chk 8 (decide (9 < e.tile.toNat)),
    chk 9 (decide (e.altTile ≠ 0x0F) && (decide (9 < e.altTile.toNat) || decide (e.altTile.toNat / 5 ≠ e.tile.toNat / 5))),
    chk 10 (decide (e.ring.toNat < 1 ∨ 63 < e.ring.toNat)),
    chk 11 (if e.kind = 0 then decide (e.outType.toNat < 1 ∨ 3 < e.outType.toNat)
            else if e.kind = 1 then decide (e.outType ≠ 1) else false),
    chk 12 (!invOk e.userScale.toNat),
    chk 0x18 (decide (440 < e.rxOpen.toNat)),
    chk 0x1A (decide (e.rxClose.toNat < e.rxOpen.toNat + 10 ∨ 450 < e.rxClose.toNat)),
    chk 0x1C (decide (e.txAdvance.toNat < 30 ∨ 400 < e.txAdvance.toNat)),
    chk 0x1E (decide (e.txSpan.toNat < 10 ∨ 35 < e.txSpan.toNat)),
    chk 0x20 (decide (e.dlLead.toNat < 5 ∨ 200 < e.dlLead.toNat) ||
      (decide (e.kind = 1) && decide (e.dlLead.toNat * 393216 < setTime e * 100 + 786432))),
    chk 0x22 (decide (e.cpAdvance.toNat < 50 ∨ 1000 < e.cpAdvance.toNat))]

/-- The first field of a group entry that fails, in layout order. A reserved code of an enumeration fails in a disabled entry
too, and so does a reserved conversion target in a PASS group (R11). -/
def groupEntryFault (e : GroupEntry) : Option Nat :=
  firstFailing ([chk 0 (decide (e.kind = 3)), chk 1 (decide (3 < e.format.toNat)), chk 7 (decide (3 < e.batchSyms.toNat)),
    chk 11 (decide (4 < e.outType.toNat))] ++ (if e.en then groupRangeFault e else []))

/-- Open streams that name a group in its direction. -/
def streamsOf (m : RadioSet) (g : Nat) : List StreamEntry :=
  let down := match m.groups.toList[g]? with
    | some e => decide (e.kind = 1)
    | none => false
  m.streams.toList.filter (fun e => e.en && decide ((if down then e.dlGroup else e.ulGroup).toNat = g))

/-- Bytes of one slot's layer data of every PRECODE group, and T_FETCH in units of 0.01 us (Table 9-8): 50 GB/s, or 25 GB/s
on -M. -/
def fetchTime (v : Variant) (m : RadioSet) : Nat :=
  let bytes := (m.groups.toList.map (fun e =>
    if e.en ∧ e.kind = 1 then 14 * e.nlayer.toNat * 12 * e.nprb.toNat * 4 else 0)).foldl (· + ·) 0
  match v with
  | .m => ceilDiv (bytes * 100) 25000
  | _ => ceilDiv (bytes * 100) 50000

/-- Bytes of one PRB under a compression (R243). -/
def prbBytes (comp : BitVec 2) : Nat := if comp = 0 then 48 else if comp = 1 then 28 else if comp = 2 then 37 else 43

/-- PRBs that one U-plane message carries in one section: a frame's payload is at most 9,000 bytes (R240), of which the
eCPRI, radio and section headers take 18. -/
def prbsPerMessage (comp : BitVec 2) : Nat := 8982 / prbBytes comp

/-- Bytes on the wire of one stream's downlink U-plane of one OFDM symbol, with the overhead of its frames. -/
def messageBytes (e : StreamEntry) (nprb : Nat) : Nat :=
  ceilDiv nprb (prbsPerMessage e.compDl) * (56 + (if e.vlan.getLsbD 15 then 4 else 0)) + nprb * prbBytes e.compDl

/-- Downlink bytes of all PRECODE groups on a port for one OFDM symbol (R247). -/
def portBytes (m : RadioSet) (p : Nat) : Nat :=
  ((List.range 16).flatMap (fun g => match m.groups.toList[g]? with
    | some e => if e.en ∧ e.kind = 1 then
        ((streamsOf m g).filter (fun x => decide (x.port.toNat = p))).map (fun x => messageBytes x e.nprb.toNat) else []
    | none => [])).foldl (· + ·) 0

/-- The bytes of a port that a group sends on exceed what its TX_SPAN carries at 12,500 bytes a microsecond (R247). -/
def overSpan (m : RadioSet) (g : Nat) (e : GroupEntry) : Bool :=
  (List.range 6).any (fun p => (streamsOf m g).any (fun x => decide (x.port.toNat = p)) &&
    decide (e.txSpan.toNat * 12500 < portBytes m p))

/-- Fronthaul bytes that a mapping needs on one Kermes die: two slots of 16-bit IQ for every stream of its groups (Table 6-1). -/
def frontNeed (m : RadioSet) (die : Nat) : Nat :=
  ((List.range 16).map (fun g => match m.groups.toList[g]? with
    | some e => if e.en ∧ e.tile.toNat / 5 = die then (streamsOf m g).length * 2 * 14 * 12 * e.nprb.toNat * 4 else 0
    | none => 0)).foldl (· + ·) 0

/-- Banks of 768 KiB that a need takes (R165). -/
def banksFor (bytes : Nat) : Nat := ceilDiv bytes 786432

/-- Retired banks whose first byte lies in a part of the scratchpad: the regions stand in the order of Table 6-1, so that banks 0
to 10 begin in input staging and 11 to 13 in phase-image staging (assumption 64). -/
def retiredIn (k : Kermes) (lo hi : Nat) : Nat := (k.retired.filter (fun b => decide (lo ≤ b.val ∧ b.val < hi))).length

/-- Bytes of the regions of Table 6-1, less their retired banks: a bank retired from the fronthaul region is replaced from the
partial-sum region (R165, R194). -/
def inputStaging (k : Kermes) : Nat := 8388608 - 786432 * retiredIn k 0 11
def imageStaging (k : Kermes) : Nat := 2097152 - 786432 * retiredIn k 11 14
def frontBytes (k : Kermes) : Nat := 786432 * k.frontBanks
def psumBytes (k : Kermes) : Nat := 39845888 - 786432 * (k.frontBanks + retiredIn k 14 64)

/-- A fronthaul region of `banks` on a die leaves less than 8 MiB of partial sums (R165). -/
def noPsum (s : State) (die banks : Nat) : Bool :=
  s.kermes.toList[die]?.any (fun k => decide (psumBytes { k with frontBanks := banks } < 8388608))

/-- A tile that a SET_MEMBER in progress takes into a group: it drains its pooled work (R265). -/
def joinsGroup (s : State) (t : TileIx) : Bool :=
  s.sets.groups.toList.any (fun g => match g.joining with
    | some x => x.2.2.getLsbD t.val && !g.members.getLsbD t.val
    | none => false)

/-- A tile that an enabled group of the active radio mapping names as TILE or ALT_TILE (R265, R351). -/
def radioNames (s : State) (t : TileIx) : Bool :=
  s.sets.radioActive.groups.toList.any (fun e => e.en && (decide (e.tile.toNat = t.val) || decide (e.altTile.toNat = t.val)))

/-- A tile that belongs to a tile group, or is on its way into one. -/
def isResident (s : State) (t : TileIx) : Bool := s.tiles[t].group.isSome || joinsGroup s t

/-- Rules between entries of a radio mapping that give ARG_RANGE (R247, R246, R265): kind, index and offset. -/
def mappingFault (s : State) (m : RadioSet) : Option (Nat × Nat × Nat) :=
  let gs := (List.range 16).filterMap (fun g => match m.groups.toList[g]? with
    | some e => if e.en then some (g, e) else none
    | none => none)
  let ss := (List.range 64).filterMap (fun i => match m.streams.toList[i]? with
    | some e => if e.en then some (i, e) else none
    | none => none)
  let ants := fun g => (streamsOf m g).map (fun e => e.ant.toNat)
  match (List.range 64).filterMap (fun i => (m.streams.toList[i]?).bind (fun e =>
      (streamEntryFault s.tray.variant e).map (fun o => (0, i, o)))) with
  | f :: _ => some f
  | [] =>
  match (List.range 16).filterMap (fun g => (m.groups.toList[g]?).bind (fun e => (groupEntryFault e).map (fun o => (1, g, o)))) with
  | f :: _ => some f
  | [] =>
  match ss.find? (fun a => ss.any (fun b => decide (b.1 < a.1) && decide (b.2.port = a.2.port) && decide (b.2.eaxcUl = a.2.eaxcUl))) with
  | some a => some (0, a.1, 0x08)
  | none =>
  match ss.find? (fun a => ss.any (fun b => decide (b.1 < a.1) && decide (b.2.port = a.2.port) && decide (b.2.eaxcDl = a.2.eaxcDl))) with
  | some a => some (0, a.1, 0x0A)
  | none =>
  match gs.find? (fun a => !(decide ((ants a.1).length = a.2.nant.toNat) &&
      (List.range a.2.nant.toNat).all (fun k => decide (k ∈ ants a.1)))) with
  | some a => some (1, a.1, 5)
  | none =>
  match gs.find? (fun a => gs.any (fun b => decide (b.1 < a.1) && decide (b.2.ring = a.2.ring))) with
  | some a => some (1, a.1, 10)
  | none =>
  match gs.find? (fun a => noPsum s (a.2.tile.toNat / 5) (banksFor (frontNeed m (a.2.tile.toNat / 5)))) with
  | some a => some (1, a.1, 8)
  | none =>
  match gs.find? (fun a => decide (a.2.kind = 1) && decide (a.2.cpAdvance.toNat * 100 <
      (a.2.txAdvance.toNat + a.2.dlLead.toNat) * 100 + fetchTime s.tray.variant m)) with
  | some a => some (1, a.1, 0x22)
  | none =>
  match gs.find? (fun a => decide (a.2.kind = 1) && overSpan m a.1 a.2) with
  | some a => some (1, a.1, 0x1E)
  | none =>
  match gs.find? (fun a => (List.finRange 10).any (fun t => isResident s t &&
      (decide (a.2.tile.toNat = t.val) || decide (a.2.altTile.toNat = t.val)))) with
  | some a => some (1, a.1, if (List.finRange 10).any (fun t => isResident s t && decide (a.2.tile.toNat = t.val))
                            then 8 else 9)
  | none => none

/-- A mapping opens a stream that is closed in the active one. -/
def opensStream (s : State) (m : RadioSet) : Bool :=
  (List.finRange 64).any (fun i => m.streams[i].en && !s.sets.radioActive.streams[i].en)

/-- The radio shadow is valid, or the reply of the first rule that fails (R247, R265, R350, R351, R313). -/
def radioFault (s : State) : Option Reply :=
  let m := s.sets.radioShadow
  match mappingFault s m with
  | some f => some (stagedFault f.1 f.2.1 f.2.2)
  | none =>
    if opensStream s m && !mayOpen s then some (Reply.of codeStateIllegal)
    else if m.groups.toList.any (fun e => e.en && (List.finRange 10).any (fun t => s.tiles[t].heat.slew &&
        (decide (e.tile.toNat = t.val) || decide (e.altTile.toNat = t.val)))) then some (Reply.of codeStateIllegal)
    else if (List.finRange 10).any (fun t => decide (65536 < tileRadio s.time.numerology m t)) || overAccount s m then
      some (Reply.of codeOverload)
    else none

/-- Fields of a fusion entry that break Table 10-3, Table 6-6, R189 or R595. -/
def fusionFault (s : State) (e : FusionEntry) : Option Nat :=
  let v := s.tray.variant
  firstFailing [chk 0 (decide (6 < e.act.toNat)), chk 1 (decide (1 < e.scaleMode.toNat)), chk 2 (decide (3 < e.biasType.toNat)),
    chk 3 (decide (4 < e.conv.toNat) && decide (e.conv ≠ 15)),
    chk 4 (if e.act = 2 then !invOk e.clip.toNat else decide (e.clip ≠ 0)),
    chk 8 (if e.act = 6 then badSaddr v e.tableAddr.toNat 1 || !invOk (leNat (stackRead s (e.tableAddr.toNat + 4) 4))
           else decide (e.tableAddr ≠ 0)),
    chk 16 (if e.scaleMode = 0 then decide (2 ^ 32 ≤ e.scale.toNat) else badSaddr v e.scale.toNat 1),
    chk 24 (if e.biasType = 0 then decide (e.biasAddr ≠ 0) else badSaddr v e.biasAddr.toNat 1)]

/-- The first index of a list that has a fault. -/
def firstFault {α : Type} (f : α → Option Nat) : Nat → List α → Option (Nat × Nat)
  | _, [] => none
  | i, x :: xs => match f x with
    | some o => some (i, o)
    | none => firstFault f (i + 1) xs

/-- The fusion shadow's first fault; a user table that cannot be read fails with the code of the read (R189). -/
def fusionSetFault (s : State) : Option Reply :=
  match firstFault (fun e => e.bind (fusionFault s)) 0 s.sets.fusionShadow.toList with
  | some p => some (stagedFault 2 p.1 p.2)
  | none => s.sets.fusionShadow.toList.findSome? (fun e => e.bind (fun x =>
      if x.act = 6 then (readFails s (2 ^ 63 + x.tableAddr.toNat) 1032).map Reply.of else none))

/-- The model slots of the shadow with their check words, or the reply of the first that fails (R202, R268). -/
def modelSetFault (s : State) : Option Reply :=
  (List.range 16).findSome? (fun i => (s.sets.modelShadow.toList[i]?).bind (fun e => e.bind (fun x =>
    let a := x.desc.toNat
    if badSaddr s.tray.variant a 64 then some (stagedFault 3 i 0)
    else match modelReadFails s a with
      | some c => some (Reply.of c)
      | none => (modelFault s a).map (fun f => Reply.argIn f.1 f.2.1 f.2.2))))

/-- The half of a tile: false A for 0 to 4, true B for 5 to 9. -/
def tileHalf (t : Nat) : Bool := decide (5 ≤ t)

/-- Tile-image entries of a group: a finite, non-negative scale and an address in the tile's half (R268); an image that a member
in service cannot load fails with the code of the read (R269). -/
def imageFault (s : State) (g : GroupIx) : Option Reply :=
  let ts := tilesOf s.sets.groups[g].members
  match ts.findSome? (fun t => s.sets.imageShadow[t].bind (fun e => (firstFailing [chk 0 (badSaddr s.tray.variant e.image.toNat 64 ||
        (stackHalf s.tray.variant (stackOf e.image.toNat) != tileHalf t.val)),
      chk 8 (!(f32 e.scale.toNat).isFinite || (f32 e.scale.toNat).isNeg)]).map (fun o => stagedFault 4 t.val o))) with
  | some r => some r
  | none => ts.findSome? (fun t => s.sets.imageShadow[t].bind (fun e =>
      if inService s.tiles[t] then (readFails s (2 ^ 63 + e.image.toNat) 40960).map Reply.of else none))

/-- Validation of a group's shadow as one unit (R268). -/
def commitFault (s : State) (g : GroupIx) : Option Reply :=
  if g = 0 then radioFault s else if g = 1 then fusionSetFault s else if g = 2 then modelSetFault s else imageFault s g

/-! ### Completion of waiting set commands, and swaps -/

/-- A completion of descriptor `id` of ring `n`, if it still runs. -/
def completeId (n : RingIx) (id : Nat) (r : Reply) (s : State) : State :=
  match s.rings[n].dispatched.find? (fun f => decide (f.id = id)) with
  | some f => complete n f r s
  | none => s

/-- A swap event of group `g` is armed. -/
def swapArmed (s : State) (g : GroupIx) : Bool :=
  s.time.comparators.toList.any (fun c => match c with
    | some e => (match e.action with
      | .radioSwap _ => decide (g = 0)
      | .tileSwap h => decide (h = g)
      | _ => false)
    | none => false)

/-- STAGED, or PENDING while a swap event is armed (Table 10-4). -/
def settleShadow (g : GroupIx) (s : State) : State :=
  setGroup g (fun x => { x with shadow := if swapArmed s g then .pending else .staged }) s

/-- A SET_COMMIT that waits completes once no member load and no mirror acknowledgement is outstanding (R269, R280). -/
def tryFinishCommit (g : GroupIx) (s : State) : State :=
  match s.sets.groups[g].committing with
  | none => s
  | some (n, id) =>
    if (tilesOf s.sets.groups[g].members).any (fun t => inService s.tiles[t] && decide (3 ≤ g.val) &&
        !s.tiles[t].mesh.shadow.complete) || s.twin.commitWaits.any (fun w => decide (w.2.2.1 = g)) then s
    else completeId n id (Reply.of codeOk)
      (settleShadow g (setGroup g (fun x => { x with committing := none }) s))

/-- The active and shadow entries of group `g`'s kind exchanged (R273). -/
def exchangeSets (g : GroupIx) (c : ConfSets) : ConfSets :=
  if g = 0 then { c with radioActive := c.radioShadow, radioShadow := c.radioActive }
  else if g = 1 then { c with fusionActive := c.fusionShadow, fusionShadow := c.fusionActive }
  else if g = 2 then { c with modelActive := c.modelShadow, modelShadow := c.modelActive }
  else
    let m := c.groups[g].members
    { c with imageActive := Vector.ofFn (fun t => if m.getLsbD t.val then c.imageShadow[t] else c.imageActive[t]),
             imageShadow := Vector.ofFn (fun t => if m.getLsbD t.val then c.imageActive[t] else c.imageShadow[t]) }

/-- The boundary between the fronthaul and partial-sum regions follows the active mapping (R165); the default without one. -/
def moveBoundary (s : State) : State :=
  let m := s.sets.radioActive
  let any := m.groups.toList.any (fun e => e.en)
  { s with kermes := Vector.ofFn (fun k => { s.kermes[k] with
      frontBanks := if any then banksFor (frontNeed m k.val) else 32 }) }

/-- A set at acceptance. -/
def BatchSet.init (k : Nat) : BatchSet :=
  { index := k, started := false, done := false, missing := 0, job := none, code := codeOk, stale := false, epoch := 0,
    noCustody := false }

/-- The sets of a slot under a group entry. -/
def slotSets (e : GroupEntry) : List BatchSet := (List.range (setsPerSlot e.batchSyms.toNat)).map BatchSet.init

/-- A slot of which a set has started or a symbol has gone by: it finishes under the mapping it started with (R261). -/
def slotBegun (x : RadioSlot) : Bool :=
  x.sets.any (fun b => b.started || b.done) || decide (x.txSent ≠ []) || decide (x.txSkipped ≠ [])

/-- A slot ended before it began: it leaves the slots in work, counted where it is dropped (R559). -/
def cutSlot (x : RadioSlot) (r : Reply) (s : State) : State :=
  completeId x.ring x.id r { s with radio := { s.radio with
    slots := s.radio.slots.filter (fun y => decide (y.id ≠ x.id)),
    groups := if r.code = codeDropped then upd s.radio.groups x.group (fun c => { c with slotDropped := satInc c.slotDropped })
              else s.radio.groups } }

/-- A slot at or after the marker of a radio swap, not begun, goes over to the new mapping (Table 10-5). Where its group is no
longer served on its ring it ends with DROPPED, and with ARG_RANGE where its weights no longer fit the weight groups. -/
def rebindSlot (s : State) (x : RadioSlot) : State :=
  let e := s.sets.radioActive.groups[x.group]
  if (x.slotNo - BitVec.ofInt 64 (slotNow s.time)).toInt < 0 ∨ slotBegun x then s
  else if !e.en ∨ e.kind ≠ x.entry.kind ∨ e.ring ≠ x.entry.ring then cutSlot x (Reply.of codeDropped) s
  else if e.kind ≠ 2 ∧ weightGroups e ≠ x.weights.length then cutSlot x (Reply.arg 0x20) s
  else { s with radio := { s.radio with slots := s.radio.slots.map (fun y => if y.id = x.id then
    { y with entry := e, mapEpoch := s.sets.groups[(0 : GroupIx)].epoch, sets := slotSets e,
             fetched := y.fetched && decide (e.nlayer = y.entry.nlayer) && decide (e.nprb = y.entry.nprb) } else y) } }

/-- Table 10-5 at the swap of the radio mapping. -/
def rebindSlots (s : State) : State := s.radio.slots.foldl rebindSlot s

/-- A swap of group `g` takes effect (R273, R275): sets exchanged, SWAP_EPOCH on, shadow STAGED; a member in service
exchanges its latches and presents vectors again, its held symbols counted (R64, R274); a member in MAINT exchanges them at its
restore (R277). -/
def doSwap (g : GroupIx) (s : State) : State :=
  let s1 := { s with sets := exchangeSets g s.sets }
  let s2 := setGroup g (fun x => { x with epoch := x.epoch + 1 }) s1
  let s3 := if 3 ≤ g.val then { s2 with tiles := Vector.ofFn (fun t =>
      let x := s2.tiles[t]
      if x.group = some g then
        (if inService x then takeSwap (releaseVectors s.time.symbolCount true x)
         else if x.state = .maint then swapInMaint x else x)
      else x) } else s2
  let s4 := { s3 with jobs := s3.jobs.map (fun j => match j.kind with
    | .resident t => if s3.tiles[t].group = some g ∧ j.firstNewJ.isNone ∧ j.started then
        { j with firstNewJ := some (j.passesDone * j.params.perPass) } else j
    | _ => j) }
  let s5 := if g = 0 then rebindSlots (moveBoundary
      { s4 with radio := { s4.radio with swapSlot := some (BitVec.ofInt 64 (slotNow s4.time)) } }) else s4
  settleShadow g s5

/-- A member in service keeps its group from swapping: its shadow image is incomplete, or a pass of it runs (R63, R274,
Table 10-6). -/
def holdsGroup (x : Tile) : Bool := inService x && (!x.mesh.shadow.complete || midPass x)

/-- Some member holds the whole group (R274). -/
def groupHeld (s : State) (g : GroupIx) : Bool := (tilesOf s.sets.groups[g].members).any (fun t => holdsGroup s.tiles[t])

/-- A swap joins those that wait for a boundary of a group. -/
def waitSwap (g : GroupIx) (n : RingIx) (id result : Nat) (s : State) : State :=
  setGroup g (fun x => { x with swapWaits := x.swapWaits ++ [(n, id, result)] }) s

/-- Members of a group go on presenting vectors, what they have held counted (R64). -/
def releaseGroup (g : GroupIx) (s : State) : State :=
  { s with tiles := s.tiles.map (fun x => if x.group = some g then releaseVectors s.time.symbolCount true x else x) }

/-- Members hold their vectors from the boundary that the swap missed (R64, R274); one in a pass does so once that pass ends. -/
def markHeld (g : GroupIx) (s : State) : State :=
  { s with tiles := s.tiles.map (fun x =>
      if x.group = some g ∧ inService x ∧ !midPass x then holdVectors s.time.symbolCount x else x) }

/-- A radio swap would open a stream while that is forbidden (R276). -/
def radioSwapForbidden (s : State) : Bool := opensStream s s.sets.radioShadow && !mayOpen s

end Sys2Proof.Machine
end

