-- ==== Sys2Proof/Machine/Fetch.lean ====
section
/-! DEFINITION. The mailbox engine: descriptor fetch, admission by ring policy, the slot rules of a FRONTHAUL ring at fetch,
a slot's C-plane list and the messages that it names, and the failures of the rings (R289, R290, R297, R298, R257, R309). -/
namespace Sys2Proof.Machine

/-- The enabled group that a FRONTHAUL ring serves in the active mapping (R246). -/
def groupOfRing (s : State) (n : RingIx) : Option GroupIx :=
  (List.finRange 16).find? (fun g => s.sets.radioActive.groups[g].en && decide (s.sets.radioActive.groups[g].ring.toNat = n.val))

/-- Completions that a descriptor of ring `n` reserves (R297). -/
def fetchResv (s : State) (n : RingIx) : Nat :=
  if s.rings[n].policy = 2 then
    (match groupOfRing s n with
     | some g => if s.sets.radioActive.groups[g].kind = 1 then 1 else setsPerSlot s.sets.radioActive.groups[g].batchSyms.toNat
     | none => 1)
  else 1

/-- How many of the posted descriptors one read covers: at most eight, each with its credit U + O + R + r (R297). -/
def fetchCount (r : Ring) (resv : Nat) : Nat :=
  min (min 8 r.posted) ((2 * r.depth - 1 - (r.unreleased + r.owed)) / resv)

/-- The descriptor `i` after the SQ head. -/
def descAt (s : State) (r : Ring) (i : Nat) : Descriptor :=
  { bytes := hostRead s (r.sqBase.toNat + 64 * ((r.sqHead.toNat + i) % r.depth)) 64 }

/-- The opcode is one that the ring's policy carries (R286, R290). -/
def carried (n : RingIx) (r : Ring) (op : Nat) : Bool :=
  if r.policy = 2 then decide (op = opSlot)
  else if op = opSlot then false
  else if op = opRingConfig ∨ op = opRingReset then decide (n = 0) else true

/-- Header checks: what the descriptor completes with at once, if it fails (R289, R290). Its reserved fields, those of its
command among them (R10), are checked with them: ARG_RANGE comes before every other code (R313). -/
def headerFault (n : RingIx) (r : Ring) (d : Descriptor) : Option Reply :=
  match cmdInfo d.opcode with
  | none => some (Reply.arg 0)
  | some i =>
    match firstFailing (chk 2 (decide (4 ≤ d.u8 2)) :: reservedChecks i d) with
    | some o => some (Reply.arg o)
    | none => if !carried n r d.opcode then some (Reply.of codeStateIllegal) else none

/-! ### Slot descriptors (R257, R328) -/

/-- Slots ahead of the current one, in the 1,024-frame cycle, that a slot descriptor names. -/
def slotAhead (t : TimeUnit) (d : Descriptor) : Int :=
  let total : Int := 1024 * slotsPerFrame t.numerology
  let cur : Int := (cyclePos t / slotTicks t.numerology : Nat)
  let idx : Int := d.u16 8 * slotsPerFrame t.numerology + d.u8 0x0A
  (idx - cur + total / 2) % total - total / 2

/-- The slot number N of a slot descriptor (R250). -/
def slotNumber (t : TimeUnit) (d : Descriptor) : Int := slotNow t + slotAhead t d

/-- SCLK from now to the marker of the slot that a descriptor names. -/
def slotLead (t : TimeUnit) (d : Descriptor) : Int :=
  slotAhead t d * (slotTicks t.numerology : Nat) - (cyclePos t % slotTicks t.numerology : Nat)

/-- Range checks of SLOT for its group (R328, R311). -/
def slotArgs (s : State) (g : GroupIx) (d : Descriptor) : List (Nat × Bool) :=
  let e := s.sets.radioActive.groups[g]
  [chk 0x08 (decide (1023 < d.u16 0x08)), chk 0x0A (decide (slotsPerFrame s.time.numerology ≤ d.u8 0x0A)),
   chk 0x0C (decide (64 * (streamsOf s.sets.radioActive g.val).length < d.u16 0x0C)),
   chk 0x10 (decide (d.u64 0x10 % 16 ≠ 0)), chk 0x18 (decide (d.u64 0x18 % 64 ≠ 0)),
   chk 0x20 (decide (e.kind ≠ 2) && badSaddr s.tray.variant (d.u64 0x20) 16)]

/-- The descriptor of a slot comes later than R257 allows: CP_ADVANCE + 10 us before its marker. -/
def slotLate (s : State) (g : GroupIx) (d : Descriptor) : Bool :=
  decide (slotLead s.time d * 100 < (s.sets.radioActive.groups[g].cpAdvance.toNat + 10) * 393216)

/-! ### The C-plane list of a slot (Table 12-14) -/

/-- One C-plane list entry (Table 12-14). -/
def cSection (b : List Byte) : CSection :=
  { stream := ⟨byteAt b 0 % 64, by omega⟩, sectionType := BitVec.ofNat 8 (byteAt b 1), startSym := byteAt b 2,
    numSym := byteAt b 3, sectionId := field b 4 2, startPrb := field b 6 2, numPrb := field b 8 2,
    reMask := BitVec.ofNat 12 (field b 0x0A 2), freqOffset := signedOf 24 (field b 0x0C 3) }

/-- The stream of an index is open and belongs to a group in the group's direction. -/
def streamInGroup (m : RadioSet) (g : Nat) (i : Nat) : Bool :=
  match m.streams.toList[i]? with
  | none => false
  | some e => e.en && decide ((if (m.groups.toList[g]?.any (fun x => decide (x.kind = 1))) then e.dlGroup else e.ulGroup).toNat = g)

/-- The first field of a C-plane entry that breaks Table 12-14. -/
def cEntryFault (m : RadioSet) (g nprb : Nat) (b : List Byte) : Option Nat :=
  firstFailing [chk 0 (!streamInGroup m g (byteAt b 0)), chk 1 (decide (byteAt b 1 ≠ 1 ∧ byteAt b 1 ≠ 3)),
    chk 2 (decide (13 < byteAt b 2)), chk 3 (decide (byteAt b 3 < 1 ∨ 14 < byteAt b 3 ∨ 14 < byteAt b 2 + byteAt b 3)),
    chk 4 (decide (4096 ≤ field b 4 2)), chk 6 (decide (nprb ≤ field b 6 2)),
    chk 8 (decide (field b 8 2 ≠ 0 ∧ nprb < field b 6 2 + field b 8 2)),
    chk 0x0A (decide (field b 0x0A 2 = 0 ∨ 4096 ≤ field b 0x0A 2)),
    chk 0x0C (decide (byteAt b 1 ≠ 3 ∧ field b 0x0C 3 ≠ 0)), chk 0x0F (decide (byteAt b 0x0F ≠ 0))]

/-- The bytes of entry `i` of the C-plane list. -/
def cEntry (s : State) (d : Descriptor) (i : Nat) : List Byte := hostRead s (d.u64 0x10 + 16 * i) 16

/-- The C-plane list read, or the reply of the first entry that fails. -/
def readCplane (s : State) (g : GroupIx) (d : Descriptor) : Except Reply (List CSection) :=
  let m := s.sets.radioActive
  let n := d.u16 0x0C
  let nprb := m.groups[g].nprb.toNat
  match readFails s (d.u64 0x10) (16 * n) with
  | some c => .error (Reply.of c)
  | none =>
    match (List.range n).findSome? (fun i => (cEntryFault m g.val nprb (cEntry s d i)).map (fun o => (i, o))) with
    | some x => .error (Reply.argIn 3 x.1 (16 * x.1 + x.2))
    | none => .ok ((List.range n).map (fun i => cSection (cEntry s d i)))

/-! ### U-plane sections of a downlink symbol (R242, R243) -/

/-- Sections (sectionId, first PRB, PRBs) packed into messages, in order: a message takes what fits its 8,988 bytes of sections,
and a section is cut between PRBs. numPrbu has 8 bits, so that only the whole carrier goes as one section of more than 255 PRBs.
`room` is what the message in hand still takes, `acc` its sections, last first; `fuel` bounds the steps. -/
def packSections (size nprb : Nat) : Nat → Nat → List (Nat × Nat × Nat) → List (Nat × Nat × Nat) → List (List (Nat × Nat × Nat))
  | 0, _, _, _ => []
  | _ + 1, _, acc, [] => if acc = [] then [] else [acc.reverse]
  | fuel + 1, room, acc, p :: ps =>
    let fit := (room - 6) / size
    let cap := if p.2.1 = 0 ∧ p.2.2 = nprb ∧ nprb ≤ fit then fit else min fit 255
    if p.2.2 ≤ cap then packSections size nprb fuel (room - 6 - p.2.2 * size) (p :: acc) ps
    else if cap = 0 then acc.reverse :: packSections size nprb fuel 8988 [] (p :: ps)
    else ((p.1, p.2.1, cap) :: acc).reverse ::
      packSections size nprb fuel 8988 [] ((p.1, p.2.1 + cap, p.2.2 - cap) :: ps)

/-- The messages of a stream for an OFDM symbol of a downlink slot: the sections that its C-plane list names for both. -/
def symMessages (comp : BitVec 2) (nprb : Nat) (cs : List CSection) (i : StreamIx) (sym : Nat) : List (List (Nat × Nat × Nat)) :=
  let ps := (cs.filter (fun c => decide (c.stream = i) && decide (c.startSym ≤ sym) && decide (sym < c.startSym + c.numSym))).map
    (fun c => (c.sectionId, c.startPrb, if c.numPrb = 0 then nprb - c.startPrb else c.numPrb))
  packSections (prbBytes comp) nprb (2 * (ps.length + (ps.map (fun p => p.2.2)).foldl (· + ·) 0) + 2) 8988 [] ps

/-- The U-plane messages of the symbols `syms` of a downlink slot that is not served, counted in TX_DROP (Table 9-3). -/
def dropMessages (m : RadioSet) (g nprb : Nat) (cs : List CSection) (syms : List Nat) (s : State) : State :=
  (List.finRange 64).foldl (fun s i =>
    if !streamInGroup m g i.val then s
    else
      let n := (syms.map (fun l => (symMessages m.streams[i].compDl nprb cs i l).length)).foldl (· + ·) 0
      { s with radio := { s.radio with streams := upd s.radio.streams i (fun c => { c with txDrop := satAdd c.txDrop n }) } }) s

/-- Counters of a group. -/
def setGroupCnt (g : GroupIx) (f : GroupCnt → GroupCnt) (s : State) : State :=
  { s with radio := { s.radio with groups := upd s.radio.groups g f } }

/-- A late descriptor counted: the tenth in consecutive slots raises MINOR (R262). -/
def countLate (g : GroupIx) (s : State) : State :=
  let s1 := setGroupCnt g (fun c => { c with slotDropped := satInc c.slotDropped, lateDesc := satInc c.lateDesc })
    { s with radio := { s.radio with lateRun := upd s.radio.lateRun g (fun k => k + 1) } }
  if s1.radio.lateRun[g] = 10 then
    raiseAlarm false evLateDesc (BitVec.ofNat 16 g.val) (event evLateDesc (BitVec.ofNat 16 g.val) 0 s1)
  else s1

/-- The tray transmits nothing for a group and slot that is dropped (R257). -/
def dropLate (g : GroupIx) (d : Descriptor) (s : State) : State :=
  let m := s.sets.radioActive
  if m.groups[g].kind ≠ 1 then s
  else match readCplane s g d with
  | .error _ => s
  | .ok cs => dropMessages m g.val m.groups[g].nprb.toNat cs (List.range 14) s

/-- A descriptor on time ends a run of late ones. -/
def countOnTime (g : GroupIx) (s : State) : State :=
  clearAlarm evLateDesc (BitVec.ofNat 16 g.val) { s with radio := { s.radio with lateRun := put s.radio.lateRun g 0 } }

/-! ### Admission (R298) -/

/-- A descriptor appended to the queue of its ring. -/
def enqueueCmd (n : RingIx) (f : Fetched) (s : State) : State := setRing n (fun r => { r with queue := r.queue ++ [f] }) s

/-- A group has streams that a warm restart holds closed (R390). -/
def groupHolds (s : State) (g : GroupIx) : Bool :=
  (List.finRange 64).any (fun i => s.radio.held.getLsbD i.val &&
    (decide (s.sets.radioActive.streams[i].ulGroup.toNat = g.val) || decide (s.sets.radioActive.streams[i].dlGroup.toNat = g.val)))

/-- The slot rules of R257 on a fetched slot descriptor: its fields first (R313), then those of a held group are dropped
(R390). -/
def admitSlot (n : RingIx) (f : Fetched) (s : State) : State :=
  match groupOfRing s n with
  | none => finish n f (Reply.of codeStateIllegal) s
  | some g =>
    match firstFailing (slotArgs s g f.desc) with
    | some o => finish n f (Reply.arg o) s
    | none =>
      if groupHolds s g then finish n f (Reply.of codeDropped) s
      else if slotLate s g f.desc then finish n f (Reply.of codeDropped) (dropLate g f.desc (countLate g s))
      else
        let s1 := countOnTime g s
        if 2 < slotAhead s.time f.desc then finish n f (Reply.of codeOverload) s1 else enqueueCmd n f s1

/-- One fetched descriptor treated in the order of R298; one whose fetch ends in RESETTING completes with DROPPED (R306). -/
def admitOne (n : RingIx) (resv : Nat) (s : State) (d : Descriptor) : State :=
  let f : Fetched := { id := s.nextId, desc := d, resv := resv }
  let s1 := { s with nextId := s.nextId + 1 }
  let r := s.rings[n]
  if r.state ≠ .enabled then finish n f (Reply.of codeDropped) s1
  else match headerFault n r d with
  | some x => finish n f x s1
  | none =>
    if r.policy = 2 then admitSlot n f s1
    else if r.queue.length < r.depth then enqueueCmd n f s1
    else if r.policy = 0 then finish n f (Reply.of codeOverload) s1
    else match r.queue with
    | [] => enqueueCmd n f s1
    | old :: _ => enqueueCmd n f (finish n old (Reply.of codeDropped) s1)

/-- The read of `k` descriptors has arrived: the head moves on, then each is treated in ring order (R297, R304). A ring that
leaves full once the engine has resumed raises vector 64 + n (R302). -/
def fetchRead (n : RingIx) (k resv : Nat) (s : State) : State :=
  let r := s.rings[n]
  let ds := (List.range k).map (descAt s r)
  let s1 := setRing n (fun r => { r with
    sqHead := BitVec.ofNat 12 ((r.sqHead.toNat + k) % r.depth), fetchRetried := false,
    fetchStalled := decide (k < min 8 r.posted) }) s
  let s2 := ds.foldl (admitOne n resv) s1
  if r.fetchStalled ∧ r.posted = r.depth - 1 then raiseSq n s2 else s2

/-- Whether the engine fetches from a ring now: not from S1 on (R371). -/
def fetches (s : State) (n : RingIx) : Bool :=
  (decide (s.power.stage = .none) || decide (s.power.stage = .s0)) && s.host.linkUp && firmwareRuns s && decide (s.rings[n].posted ≠ 0) &&
  (decide (s.rings[n].state = .enabled) || decide (s.rings[n].state = .resetting))

/-- The mailbox engine fetches from a ring (R297, R298). -/
def execDescriptorFetch (ring : RingIx) (s : State) : Result :=
  if !fetches s ring then .next s
  else
    let resv := fetchResv s ring
    let k := fetchCount s.rings[ring] resv
    if k = 0 then .next (setRing ring (fun r => { r with fetchStalled := true }) s)
    else .next (fetchRead ring k resv s)

/-! ### Ring failures (R309) -/

/-- A ring halts, with its event and, for ring 0, its alarm. -/
def haltRing (n : RingIx) (cause : W16) (s : State) : State :=
  let s1 := event evRingHalted (BitVec.ofNat 16 n.val) cause (setRing n (fun r => { r with state := .halted }) s)
  if n = 0 then raiseAlarm false evRingHalted 0 s1 else s1

/-- A fetch failed: one retry, then every queued descriptor completes and the ring halts (R301, R309). -/
def execFetchFailure (ring : RingIx) (s : State) : Result :=
  if s.rings[ring].state ≠ .enabled then .next s
  else if !s.rings[ring].fetchRetried then .next (setRing ring (fun r => { r with fetchRetried := true }) s)
  else .next (haltRing ring codeIntRingHalted
    (completeAll ring s.rings[ring].queue codeIntRingHalted (setRing ring (fun r => { r with fetchRetried := false }) s)))

/-- A completion write failed: the ring halts and loses what was queued (R309). -/
def execCompletionWriteFailure (ring : RingIx) (s : State) : Result :=
  if s.rings[ring].state = .enabled ∨ s.rings[ring].state = .resetting then
    .next (haltRing ring codeIntTransfer (setRing ring (fun r => { r with queue := [], waiting := [] }) s))
  else .next s

/-- The mailbox engine makes no progress: MAJOR, a takeover request and a warm restart (R309). -/
def execFetchProgressWatchdog (s : State) : Result :=
  if firmwareRuns s then
    let s1 := requestTakeover alFetchHang (raiseAlarm true alFetchHang 0 s)
    .next { s1 with tray := { s1.tray with restartDue := true } }
  else .next s

end Sys2Proof.Machine
end

