-- ==== Sys2Proof/Machine/FrameOps.lean ====
section
/-! DEFINITION. Fronthaul frames: the Ethernet and eCPRI headers (R240, R241), the U-plane message (R242, R243) and the frames
that the tray builds (R242, R243, R328). The byte layouts are those of eCPRI V2.0 and of the CUS specification that the spec
names (assumption 9). -/
namespace Sys2Proof.Machine

/-- A frame after its Ethernet header: the bytes after EtherType 0xAEFE, with no tag or one (R240); none where the tray drops it. -/
def ecpriPart (fr : List Byte) : Option (List Byte) :=
  let ty := beNat ((fr.drop 12).take 2)
  let body := if ty = 0x8100 then (if beNat ((fr.drop 16).take 2) = 0xAEFE then some (fr.drop 18) else none)
              else if ty = 0xAEFE then some (fr.drop 14) else none
  match body with
  | none => none
  | some b => if b.length ≤ 9000 then some b else none

/-- The message type and the payload of an eCPRI message; none for a version other than 1, for C set, and for a payload shorter
than it says (R241). -/
def ecpriMessage (b : List Byte) : Option (Nat × List Byte) :=
  let n := beNat ((b.drop 2).take 2)
  if byteAt b 0 / 16 ≠ 1 ∨ byteAt b 0 % 2 = 1 ∨ b.length < 4 + n then none
  else some (byteAt b 1, (b.drop 4).take n)

/-- The unsigned field of `w` bits at bit `o` of big-endian bytes. -/
def beBits (bs : List Byte) (o w : Nat) : Nat := beNat bs / 2 ^ (8 * bs.length - o - w) % 2 ^ w

/-- Bits of a mantissa by compression (Table 9-2). -/
def mantissaBits (comp : BitVec 2) : Nat := if comp = 0 then 16 else if comp = 1 then 9 else if comp = 2 then 12 else 14

/-- udCompHdr of a compression: IQ width and method. -/
def compHdr (comp : BitVec 2) : Nat := if comp = 0 then 0 else mantissaBits comp * 16 + 1

/-- A value saturated to INT16. -/
def sat16 (v : Int) : Int := clampInt (-32768) 32767 v

/-- The 24 values of one PRB (R243); none where udCompParam has bits [7:4] set. -/
def readPrb (comp : BitVec 2) (bs : List Byte) : Option (List Int) :=
  let w := mantissaBits comp
  if comp = 0 then some ((List.range 24).map (fun i => signedOf 16 (beBits bs (16 * i) 16)))
  else if 16 ≤ byteAt bs 0 then none
  else some ((List.range 24).map (fun i => sat16 (signedOf w (beBits (bs.drop 1) (w * i) w) * 2 ^ byteAt bs 0)))

/-- The radio header of a U-plane message: frame, subframe, slot, symbol. -/
structure UHead where
  frame    : Nat
  subframe : Nat
  slot     : Nat
  sym      : Nat
deriving DecidableEq, Repr

def uHead (b : List Byte) : UHead :=
  { frame := byteAt b 1, subframe := byteAt b 2 / 16, slot := byteAt b 2 % 16 * 4 + byteAt b 3 / 64, sym := byteAt b 3 % 64 }

/-- The header of a received U-plane message meets Table 9-2: uplink, payloadVersion 1, filterIndex 0, a slot of the numerology. -/
def uHeadOk (num : BitVec 3) (b : List Byte) : Bool :=
  let h := uHead b
  decide (4 ≤ b.length) && decide (byteAt b 0 = 0x10) && decide (h.subframe < 10) && decide (h.slot < slotsPerFrame num / 10) &&
  decide (h.sym < 14)

/-- The PRBs of the sections of a message as (prb, values); none where a section breaks Table 9-2. `fuel` bounds them. -/
def readSections (comp : BitVec 2) (nprb : Nat) : Nat → List Byte → Option (List (Nat × List Int))
  | 0, _ => none
  | fuel + 1, b =>
    if b = [] then some []
    else
      let rb := beBits (b.take 3) 12 1
      let inc := beBits (b.take 3) 13 1
      let start := if byteAt b 3 = 0 then 0 else beBits (b.take 3) 14 10
      let n := if byteAt b 3 = 0 then nprb else byteAt b 3
      let size := prbBytes comp
      if b.length < 6 ∨ rb = 1 ∨ inc = 1 ∨ nprb < start + n ∨ byteAt b 4 ≠ compHdr comp ∨ b.length < 6 + n * size then none
      else
        let prbs := (List.range n).map (fun i => (start + i, readPrb comp ((b.drop (6 + i * size)).take size)))
        if prbs.any (fun p => p.2.isNone) then none
        else match readSections comp nprb fuel (b.drop (6 + n * size)) with
        | none => none
        | some r => some (prbs.map (fun p => (p.1, p.2.getD [])) ++ r)

/-! ### Frames that the tray builds -/

/-- The exponent of a PRB: the smallest at which every value fits a mantissa of `w` bits (R243). -/
def bfpExp (w : Nat) (vs : List Int) : Nat :=
  match (List.range 16).find? (fun x => vs.all (fun v =>
    decide (clampInt (-(2 ^ (w - 1))) (2 ^ (w - 1) - 1) (roundDivEven v (2 ^ x)) = roundDivEven v (2 ^ x)))) with
  | some x => x
  | none => 15

/-- Values packed big-endian in `w` bits each. -/
def packBe (w : Nat) (vs : List Int) : List Byte :=
  beBytes ((w * vs.length + 7) / 8)
    (vs.foldl (fun a v => a * 2 ^ w + (BitVec.ofInt w v).toNat) 0 * 2 ^ ((8 - w * vs.length % 8) % 8))

/-- The bytes of one PRB under a compression (R243). -/
def writePrb (comp : BitVec 2) (vs : List Int) : List Byte :=
  if comp = 0 then packBe 16 vs
  else
    let w := mantissaBits comp
    let x := bfpExp w vs
    BitVec.ofNat 8 x :: packBe w (vs.map (fun v => clampInt (-(2 ^ (w - 1))) (2 ^ (w - 1) - 1) (roundDivEven v (2 ^ x))))

/-- The Ethernet header of a frame to a stream's radio unit. -/
def ethHeader (e : StreamEntry) : List Byte :=
  let src := if h : e.port.toNat < 6 then (Config.portMac ⟨e.port.toNat, h⟩).toList else []
  let tag := if e.vlan.getLsbD 15 then
      [0x81#8, 0x00#8] ++ beBytes 2 (e.vlan.toNat / 4096 % 8 * 8192 + e.vlan.toNat % 4096) else []
  beBytes 6 e.peerMac.toNat ++ src ++ tag ++ [0xAE#8, 0xFE#8]

/-- An eCPRI message of a type with an eAxC ID and a sequence: E 1, subsequence 0 (Table 9-1). -/
def ecpriFrame (e : StreamEntry) (type : Byte) (eaxc seq : Nat) (body : List Byte) : List Byte :=
  ethHeader e ++ [0x10#8, type] ++ beBytes 2 (4 + body.length) ++ beBytes 2 eaxc ++ [BitVec.ofNat 8 seq, 0x80#8] ++ body

/-- The four bytes of the radio header: direction (true: downlink), frame, subframe, slot, symbol. -/
def radioHeader (down : Bool) (num : BitVec 3) (d : Descriptor) (sym : Nat) : List Byte :=
  let per := slotsPerFrame num / 10
  let sub := d.u8 0x0A / per
  let sl := d.u8 0x0A % per
  [if down then 0x90#8 else 0x10#8, BitVec.ofNat 8 (d.u16 8), BitVec.ofNat 8 (sub * 16 + sl / 4),
   BitVec.ofNat 8 (sl % 4 * 64 + sym)]

/-- One U-plane message of a stream and symbol: its sections (sectionId, first PRB, PRBs), where numPrbu 0 names all PRBs of the
carrier; `prbs` are the values of the carrier's PRBs. -/
def uMessage (num : BitVec 3) (d : Descriptor) (comp : BitVec 2) (sym nprb : Nat) (prbs : List (List Int))
    (secs : List (Nat × Nat × Nat)) : List Byte :=
  radioHeader true num d sym ++ secs.flatMap (fun p =>
    beBytes 3 (p.1 * 4096 + p.2.1) ++
    [BitVec.ofNat 8 (if p.2.1 = 0 ∧ p.2.2 = nprb then 0 else p.2.2), BitVec.ofNat 8 (compHdr comp), 0x00#8] ++
    ((prbs.drop p.2.1).take p.2.2).flatMap (writePrb comp))

/-- numPrbc of a section: 0 names all PRBs of the carrier. -/
def numPrbc (nprb : Nat) (c : CSection) : Nat :=
  if c.numPrb = 0 then (if c.startPrb = 0 then 0 else (nprb - c.startPrb) % 256) else c.numPrb % 256

/-- The C-plane message of one section (R242, R328): beamId 0, ef 0. `open_` are the five bytes of timeOffset, frameStructure
and cpLength of a type 3 message, whose values the spec leaves to the numerology's own tables. -/
def cMessage (down : Bool) (num : BitVec 3) (d : Descriptor) (comp : BitVec 2) (nprb : Nat) (c : CSection) (open_ : List Byte) :
    List Byte :=
  let head := radioHeader down num d c.startSym ++ [0x01#8, c.sectionType]
  let mid := if c.sectionType = 3 then open_ ++ [BitVec.ofNat 8 (compHdr comp)] else [BitVec.ofNat 8 (compHdr comp), 0x00#8]
  let sec := beBytes 3 (c.sectionId * 4096 + c.startPrb) ++ [BitVec.ofNat 8 (numPrbc nprb c)] ++
    beBytes 2 (c.reMask.toNat * 16 + c.numSym) ++ [0x00#8, 0x00#8]
  let tail := if c.sectionType = 3 then beBytes 3 (BitVec.ofInt 24 c.freqOffset).toNat ++ [0x00#8] else []
  head ++ mid ++ sec ++ tail

/-- A frame sent on a port (R25): with custody, and while the port is up. -/
def sendEcpri (p : PortIx) (bs : List Byte) (s : State) : State :=
  { s with radio := { s.radio with txFrames := { port := p, bytes := bs } :: s.radio.txFrames } }

/-- A port that can transmit. -/
def portUp (s : State) (p : PortIx) : Bool := s.radio.ports[p].linkUp && !s.radio.ports[p].stopped

/-- Time of day at one SCLK resolution as an eCPRI timestamp of 10 bytes, corrected by an asymmetry [ns] (Table 9-1, R225). -/
def timestamp (t : TimeUnit) (asym : Int) : List Byte :=
  let ns : Int := (t.todSec.toNat : Int) * 1000000000 + t.todTick.toNat * 100000 / 393216 - asym
  beBytes 6 (ns / 1000000000).toNat ++ beBytes 4 (ns % 1000000000).toNat

end Sys2Proof.Machine
end

