-- ==== Sys2Proof/Machine/Detect.lean ====
section
/-! DEFINITION. From raw samples to CS12: the correction chain (Table 3-1, R86 to R89), the statistics collectors (R92), the
monitor conversions (R93, R98), and the test of a receiver path (R99 to R102). -/
namespace Sys2Proof.Machine

/-! ### The correction chain (R85 to R89): values carry 10 fractional bits of an ADC LSB -/

/-- Step 1 and the first half of step 4: a sample less an offset in 1/16 LSB. -/
def lessOffset (v : Int) (ofs : BitVec 10) : Int := v - 64 * ofs.toInt

/-- A gain G/32768, cut to 10 fractional bits (assumption 62). -/
def gained (g : W16) (v : Int) : Int := v * g.toNat / 32768

/-- Symbols of the integration length (R88, Table 3-7). -/
def passSymbols (format : Nat) : Nat := 4 ^ format

/-- Sample `i` of a stream's list is of half 1: `odd` says so of sample 1, the first of the pass; sample 0 is the one before it (R85). -/
def isHalf1 (odd : Bool) (i : Nat) : Bool := decide ((i + (if odd then 0 else 1)) % 2 = 1)

/-- The raw sample `i` of a stream. -/
def rawAt (r : List Byte) (i : Nat) : Int := (r.getD i 0).toInt

/-- Steps 1 and 2: offset and gain of the half. -/
def halfCorrected (odd : Bool) (p : Interleave) (r : List Byte) (i : Nat) : Int :=
  if isHalf1 odd i then gained p.gain1 (lessOffset (rawAt r i * 1024) p.ofs1)
  else gained p.gain0 (lessOffset (rawAt r i * 1024) p.ofs0)

/-- Step 3: a half-1 sample less its skew times the slope between the adjacent half-0 samples; 508.62 ps is 5,086.2 units. -/
def skewCorrected (odd : Bool) (p : Interleave) (r : List Byte) (i : Nat) : Int :=
  let x := halfCorrected odd p r
  if isHalf1 odd i then x i - 10 * p.skew.toInt * (x (i + 1) - x (i - 1)) / 50862 else x i

/-- Step 4: the offset and the gain of the stream. -/
def streamCorrected (odd : Bool) (p : Interleave) (c : StreamCal) (r : List Byte) (i : Nat) : Int :=
  gained c.gain (lessOffset (skewCorrected odd p r i) c.ofs)

/-- Steps 5 and 6: the sum of the pass divided by L, rounded to 1/16 LSB with ties to even, and saturated (R88, R89): the CS12
sample and whether it saturated. -/
def toCs12 (l : Nat) (sum : Int) : BitVec 12 × Bool :=
  let q := roundDivEven sum (64 * l)
  (BitVec.ofInt 12 (clampInt (-2048) 2047 q), decide (q < -2048 ∨ 2047 < q))

/-- The corrected samples of a pass of `l` symbols (R85, R86). -/
def correctedSamples (l : Nat) (odd : Bool) (p : Interleave) (c : StreamCal) (r : List Byte) : List Int :=
  (List.range l).map (fun i => streamCorrected odd p c r (i + 1))

/-- A raw sample of the pass sits at an ADC rail (R89). -/
def atRail (l : Nat) (r : List Byte) : Bool :=
  (List.range l).any (fun i => decide (rawAt r (i + 1) = -128 ∨ rawAt r (i + 1) = 127))

/-- The raw samples of stream `k`. -/
def streamRaw (raw : List (List Byte)) (k : Nat) : List Byte := raw.getD k []

/-- The 256 CS12 samples of a pass in stream order (R90), and whether it counts as clipped (R89). -/
def detectPass (c : Convert) (l : Nat) (odd : Bool) (raw : List (List Byte)) : List (BitVec 12) × Bool :=
  let qs := (List.finRange 256).map (fun k =>
    toCs12 l (correctedSamples l odd c.pairs[k] c.streams[k] (streamRaw raw k.val)).sum)
  (qs.map (fun q => q.1), (List.range 256).any (fun k => atRail l (streamRaw raw k)) || qs.any (fun q => q.2))

/-! ### Collectors (R92) -/

/-- One symbol of a pair added: its half's count, sum and square, and a half-0 sample's products with its neighbours. -/
def PairSums.add (odd : Bool) (r : List Byte) (m : PairSums) (i : Nat) : PairSums :=
  let v := rawAt r i
  if isHalf1 odd i then { m with n1 := m.n1 + 1, s1 := m.s1 + v, q1 := m.q1 + (v * v).toNat }
  else { m with n0 := m.n0 + 1, s0 := m.s0 + v, q0 := m.q0 + (v * v).toNat, pf := m.pf + v * rawAt r (i + 1),
                pp := m.pp + v * rawAt r (i - 1) }

/-- The symbols of a pass added to the open window. -/
def Collector.addPass (c : Convert) (l : Nat) (odd : Bool) (raw : List (List Byte)) (w : Collector) : Collector :=
  { pairs := Vector.ofFn (fun k => ((List.range l).map (· + 1)).foldl (PairSums.add odd (streamRaw raw k.val)) w.pairs[k]),
    streams := Vector.ofFn (fun k =>
      let ys := correctedSamples l odd c.pairs[k] c.streams[k] (streamRaw raw k.val)
      (w.streams[k].1 + ys.sum, w.streams[k].2 + (ys.map (fun y => (y * y).toNat)).sum)) }

/-- Sums of two sets of symbols. -/
def PairSums.plus (a : PairSums) (m : PairMoments) : PairSums :=
  { n0 := a.n0 + m.n0, n1 := a.n1 + m.n1, s0 := a.s0 + m.s0, s1 := a.s1 + m.s1, q0 := a.q0 + m.q0, q1 := a.q1 + m.q1,
    pf := a.pf + m.pf, pp := a.pp + m.pp }

/-- The symbols of a window in which no pass ran, added to what its passes gave. -/
def Collector.addRest (rest : List PairMoments) (ss : List (Fin 256 × Int × Nat)) (w : Collector) : Collector :=
  { pairs := rest.foldl (fun v m => upd v m.pair (fun a => a.plus m)) w.pairs,
    streams := ss.foldl (fun v p => upd v p.1 (fun a => (a.1 + p.2.1, a.2 + p.2.2))) w.streams }

/-! ### Covariances of a drift window (R136) -/

/-- A sum that saturates at the 48 bits of WB48 (R136, R169). -/
def sum48 (a b : Int) : Int := clampInt (-(2 ^ 47)) (2 ^ 47 - 1) (a + b)

/-- A value in units of 2^-8, cut (assumption 62). -/
def units8 (v : Int) (e : Int) : Int := if 0 ≤ e + 8 then v * 2 ^ (e + 8).toNat else v / 2 ^ (-(e + 8)).toNat

/-- Sums of two lists, the first holding zeros where it is empty. -/
def addInts (as bs : List Int) : List Int := if as = [] then bs else (List.zip as bs).map (fun p => sum48 p.1 p.2)
def addPairs (as bs : List (Int × Int)) : List (Int × Int) :=
  if as = [] then bs else (List.zip as bs).map (fun p => (sum48 p.1.1 p.2.1, sum48 p.1.2 p.2.2))

/-- a times the conjugate of b. -/
def timesConj (a b : Int × Int) : Int × Int := (a.1 * b.1 + a.2 * b.2, a.2 * b.1 - a.1 * b.2)

/-- Element `m` of a list of real and imaginary parts in turn. -/
def complexAt (l : List Int) (m : Nat) : Int × Int := (l.getD (2 * m) 0, l.getD (2 * m + 1) 0)

/-- A pass goes by a drift window; one in 2^k is sampled, from the codes and exponent sent and the CS12 samples received (R136). -/
def DriftWindow.addPass (k : Nat) (im : Image) (inMaint : Bool) (codes : List (BitVec 6)) (e : Int) (samples : List (BitVec 12))
    (w : DriftWindow) : DriftWindow :=
  let w1 := { w with passes := w.passes + 1, maint := w.maint || inMaint }
  if w.passes % 2 ^ k ≠ 0 then w1
  else
    let xs := (List.range 128).map (complexAt (codes.map (fun c => c.toInt)))
    let ys := (List.range 128).map (complexAt (samples.map (fun c => c.toInt)))
    let xx := xs.flatMap (fun a => xs.map (fun b => (units8 (timesConj a b).1 (2 * e), units8 (timesConj a b).2 (2 * e))))
    { w1 with
      sampled := w.sampled + 1, xx := addPairs w.xx xx, yy := addInts w.yy (ys.map (fun y => (timesConj y y).1)),
      yy1 := addPairs w.yy1 ((List.zip ys (ys.drop 1)).map (fun p => timesConj p.1 p.2)),
      image := if w.image.isNone then some im else w.image, mixed := w.mixed || w.image.any (fun i => decide (i ≠ im)) }

/-! ### Monitor conversions (R93, R98) -/

/-- The result of a channel: the average of its last two conversions; a half is cut (assumption 62). -/
def Conversions.result (v : Conversions) : BitVec 12 := BitVec.ofNat 12 ((v.third.toNat + v.fourth.toNat) / 2)

def Conversions.zero : Conversions := { settle1 := 0, settle2 := 0, third := 0, fourth := 0 }

/-- The receiver that channels 50 and 51 follow: the selected one of the test DAC, else receiver 0 (R98). -/
def tiaReceiver (c : Convert) : Fin 128 :=
  match c.testDac with
  | some d => d.1
  | none => 0

/-- The conversions of channel `k` in a round (R93, R98). -/
def channelConv (c : Convert) (convs : List (Fin 64 × Conversions)) (tia : List (Fin 128 × Conversions × Conversions))
    (k : Fin 64) : Conversions :=
  if k.val = 50 ∨ k.val = 51 then
    (match tia.find? (fun p => decide (p.1 = tiaReceiver c)) with
    | some p => if k.val = 50 then p.2.1 else p.2.2
    | none => Conversions.zero)
  else match convs.find? (fun p => decide (p.1 = k)) with
    | some p => p.2
    | none => Conversions.zero

/-! ### The test-voltage DAC (R99 to R102) -/

/-- The codes of a path test, in order (R101). -/
def pathTestCodes : List Nat := [212, 362, 512, 662, 812]

/-- The current that a code injects, in 0.1 uA (R99). -/
def injectedCurrent (code : Nat) : Int := (code : Int) - 512

/-- The shift of an ADC sample that a code brings through a path at nominal gain, in 1/100 LSB: 3.2 LSB for 1 uA (R99, R102). -/
def injectedShift (code : Nat) : Int := 32 * injectedCurrent code

/-- Channel 49 agrees with the set current within 0.5 uA; one of its codes is 0.025 uA (Table 3-4, R102). -/
def chan49Agrees (code : Nat) (p : PathPoint) : Bool :=
  decide (((p.chan49.toNat : Int) - 2048 - 4 * injectedCurrent code).natAbs ≤ 20)

/-- The test DAC is sound by channel 49 at every code (Table 3-10). -/
def testDacAgrees (ps : List PathPoint) : Bool := (List.zip pathTestCodes ps).all (fun x => chan49Agrees x.1 x.2)

/-- 4,096 times the mean of a point. -/
def pathSum (p : PathPoint) : Int := p.sum0 + p.sum1

/-- A list rises strictly. -/
def risesStrictly : List Int → Bool
  | a :: b :: l => decide (a < b) && risesStrictly (b :: l)
  | _ => true

/-- 4,096 times the sum of (c - 512) times the mean, whose quotient by 225,000 is the slope fitted to five points. -/
def slopeSum (ps : List PathPoint) : Int := ((List.zip pathTestCodes ps).map (fun x => injectedCurrent x.1 * pathSum x.2)).sum

/-- The receiver path passes (R102): the slope within 10 % of 0.32 LSB per code, the mean at 512 within 2 LSB, the halves
within 1 LSB at every code, the means rising strictly. -/
def pathPasses (ps : List PathPoint) : Bool :=
  decide (ps.length = 5) && decide (265420800 ≤ slopeSum ps ∧ slopeSum ps ≤ 324403200) &&
  decide (((ps.map pathSum).getD 2 0).natAbs ≤ 8192) &&
  ps.all (fun p => decide ((p.sum0 - p.sum1).natAbs ≤ 2048)) && risesStrictly (ps.map pathSum)

end Sys2Proof.Machine
end

