-- ==== Sys2Proof/Machine/JobOps.lean ====
section
/-! DEFINITION. The arithmetic of a matrix job: block exponents (R80, R594), block ratios and folds (R170 to R178), combining
(R180, R181) and the output stage (R187 to R191). -/
namespace Sys2Proof.Machine

/-! ### Elements in memory (Table 12-10) -/

/-- Bits of one element of a type; 0 for a reserved code. -/
def elemBits (t : Nat) : Nat :=
  if t = 0 ∨ t = 7 then 8 else if t = 1 ∨ t = 4 ∨ t = 5 ∨ t = 8 then 16 else if t = 2 ∨ t = 6 ∨ t = 9 then 32
  else if t = 3 then 12 else if t = 10 then 64 else 0

/-- Bytes of `n` packed elements. -/
def packedBytes (t n : Nat) : Nat := (n * elemBits t + 7) / 8

/-- The raw code of element `i` of a packed array. -/
def elemRaw (t : Nat) (bs : List Byte) (i : Nat) : Nat := leNat bs / 2 ^ (elemBits t * i) % 2 ^ elemBits t

/-- The value of an element code. -/
def elemVal (t raw : Nat) : FVal :=
  if t = 3 then ofInt (signedOf 12 raw) (-4)
  else if t = 4 then fp16.decode raw
  else if t = 5 then bf16.decode raw
  else if t = 6 then f32 raw
  else ofInt (signedOf (elemBits t) raw) 0

/-- `n` element values from element `first` of a packed array at a DADDR. -/
def readElems (s : State) (t addr first n : Nat) : List FVal :=
  let bs := daddrRead s addr (packedBytes t (first + n))
  (List.range n).map (fun i => elemVal t (elemRaw t bs (first + i)))

/-! ### Block exponents (R80, R594) -/

/-- The smallest e for which a component's magnitude times 2^-e is below 31.5; `none` for a zero, which sets no bound. -/
def compExp : FVal → Option Int
  | .num _ m x =>
    if m = 0 then none
    else
      let b : Int := Nat.log2 m + x - 4
      if m * 32 < 63 * 2 ^ Nat.log2 m then some b else some (b + 1)
  | _ => none

/-- The block exponent of a vector: `none` where R172 stops the job (an element that is NaN or infinite, or above +127). -/
def blockExp (vs : List FVal) : Option Int :=
  if vs.any (fun v => !v.isFinite) then none
  else
    let e : Int := match vs.filterMap compExp with
      | [] => 0
      | x :: xs => max (-128) (xs.foldl max x)
    if 127 < e then none else some e

/-! ### Ratios and folds (R170 to R178) -/

/-- A binary32 scale as m and exponent. -/
def scaleParts (w : W32) : Nat × Int :=
  match f32 w.toNat with
  | .num _ m e => (m, e)
  | _ => (0, 0)

/-- a < b for two finite non-negative binary32 scales. -/
def scaleLt (a b : W32) : Bool := lessThan (f32 a.toNat) (f32 b.toNat)

/-- The largest of some scales. -/
def maxScale (ws : List W32) : W32 := ws.foldl (fun a b => if scaleLt a b then b else a) 0

/-- BR_t = round-to-nearest-even(32,768 s_t / s_max); 0 for a zero block (R170). -/
def blockRatio (st smax : W32) : Nat :=
  let a := scaleParts st
  let b := scaleParts smax
  if a.1 = 0 ∨ b.1 = 0 then 0
  else
    let e0 := min a.2 b.2
    (roundDivEven (32768 * a.1 * 2 ^ (a.2 - e0).toNat : Nat) (b.1 * 2 ^ (b.2 - e0).toNat)).toNat

/-- The term v * BR/32,768 * 2^(e - E) of a CS12 sample, truncated toward minus infinity at 2^-24 (R170), in units of 2^-24. -/
def foldTerm (sample : BitVec 12) (br : Nat) (e eAcc : Int) : Int :=
  let n : Int := sample.toInt * br
  let k := e - eAcc + 5
  if 0 ≤ k then n * 2 ^ k.toNat else n / 2 ^ (-k).toNat

/-- The 16-bit draw of R175. -/
def draw16 (seed : W64) (j t c : Nat) : Nat :=
  let idx : W64 := BitVec.ofNat 64 (j * 2 ^ 32 + t * 2 ^ 16 + c)
  let z0 := seed + (idx + 1) * 0x9E3779B97F4A7C15#64
  let z1 := (z0 ^^^ (z0 >>> 30)) * 0xBF58476D1CE4E5B9#64
  let z2 := (z1 ^^^ (z1 >>> 27)) * 0x94D049BB133111EB#64
  let z3 := z2 ^^^ (z2 >>> 31)
  (z3 >>> 48).toNat

/-- A value in units of 2^-24 rounded stochastically to units of 2^-8 with draw `u` (R174). -/
def stochRound (x : Int) (u : Nat) : Int := x / 65536 + (if u < (x % 65536).toNat then 1 else 0)

/-- Range limits of PS24, of WB48 (Table 6-2), and an addition that saturates there (R169): the sum, and whether it saturated. -/
def satTo (w : Nat) (x : Int) : Int × Bool :=
  let c := clampInt (-(2 ^ (w - 1))) (2 ^ (w - 1) - 1) x
  (c, decide (c ≠ x))

/-- GW of a variant (Table 6-4). -/
def groupWidth : Variant → Nat
  | .b => 4
  | .m => 6
  | .n => 2

/-- PS24 added into WB48 and reset (R178). -/
def spill (a : Acc) : Acc × Bool :=
  let r := satTo 48 (a.wb + a.ps)
  ({ a with wb := r.1, ps := 0, folds := 0 }, r.2)

/-- A rounded value folded into PS24, with the spill that it or the component's last fold brings (R178). -/
def foldRounded (period : Nat) (last : Bool) (q : Int) (a : Acc) : Acc × Bool :=
  let r := satTo 24 (a.ps + q)
  let a1 := { a with ps := r.1, folds := a.folds + 1 }
  if period ≤ a1.folds ∨ last then ((spill a1).1, r.2 || (spill a1).2) else (a1, r.2)

/-- The term of column block `t` folded into a component by ORDER (R177); `stop` is the engine's last column block plus 1. -/
def foldInto (p : JobParams) (gw stop t : Nat) (term : Int) (a : Acc) : Acc × Bool :=
  let last := decide (t + 1 = stop)
  let a1 := { a with nextT := t + 1 }
  if p.order = 0 then foldRounded p.spill last (stochRound term (draw16 p.seed a.j t a.c)) a1
  else if a.grpN + 1 = gw ∨ last then
    foldRounded (max 1 (p.spill / gw)) last (stochRound (a.grp + term) (draw16 p.seed a.j (t / gw) a.c))
      { a1 with grp := 0, grpN := 0 }
  else ({ a1 with grp := a.grp + term, grpN := a.grpN + 1 }, false)

/-! ### The output stage (R187 to R191) -/

/-- SC[k] = round(USER_SCALE * s_max * 2^(E - 1)), one rounding (R188). -/
def stageScale (user : Nat) (smax : W32) (e : Int) : FVal :=
  binary32.fit (mulExact (mulExact (f32 user) (f32 smax.toNat)) (.num false 1 (e - 1)))

/-- USER_SCALE[k] of a fusion entry (Table 10-3). -/
def userScale (s : State) (f : FusionEntry) (k : Nat) : Nat :=
  if f.scaleMode = 0 then f.scale.toNat % 2 ^ 32 else leNat (stackRead s (f.scale.toNat + 4 * k) 4)

/-- B[k] widened to binary32 (R188). -/
def biasOf (s : State) (f : FusionEntry) (k : Nat) : FVal :=
  if f.biasType = 1 then f32 (leNat (stackRead s (f.biasAddr.toNat + 4 * k) 4))
  else if f.biasType = 2 then bf16.decode (leNat (stackRead s (f.biasAddr.toNat + 2 * k) 2))
  else if f.biasType = 3 then fp16.decode (leNat (stackRead s (f.biasAddr.toNat + 2 * k) 2))
  else posZero

/-- The words LO, INV and TAB of a user table. -/
def userTab (s : State) (f : FusionEntry) : List Nat := if f.act = 6 then words s f.tableAddr.toNat 258 else []

/-- Steps 1 and 2: WB48 in units of 2^-8 to binary32, then the scale. -/
def scaled32 (wb : Int) (sc : FVal) : FVal := binary32.mul (binary32.fit (ofInt wb (-8))) sc

/-- Steps 1 to 5 of one component under a fusion entry. -/
def stageOut (s : State) (f : FusionEntry) (tab : List Nat) (smax : W32) (e : Int) (k : Nat) (wb : Int) : Converted :=
  let a := binary32.add (scaled32 wb (stageScale (userScale s f k) smax e)) (biasOf s f k)
  convert f.conv.toNat (activate f.act.toNat (f32 f.clip.toNat) tab a)

/-- Bytes of one result component of a conversion (R191); CS12 is packed. -/
def convBits (conv : Nat) : Nat := if conv = 0 then 8 else if conv = 4 then 12 else if conv = 15 then 32 else 16

/-- The packed length of a result vector of `n` components. -/
def outBytes (conv n : Nat) : Nat := (n * convBits conv + 7) / 8

/-- The bytes of a result vector from its component codes. -/
def packCodes (conv : Nat) (codes : List Nat) : List Byte :=
  leBytes (outBytes conv codes.length)
    ((List.zip (List.range codes.length) codes).foldl (fun a p => a + p.2 * 2 ^ (convBits conv * p.1)) 0)

/-- A binary32 value added into a word of the memory stacks, rounded to nearest even (R181). -/
def atomicInto (addr : Nat) (v : FVal) (s : State) : State :=
  let old := f32 (leNat (stackRead s addr 4))
  daddrWrite (2 ^ 63 + addr) (leBytes 4 (toF32 (binary32.add old v))) s

/-! ### Jobs: their blocks, passes and engines -/

/-- Result components of one vector: 2 NROWS in complex mode, NROWS in paired-real mode (R191). -/
def JobParams.comps (p : JobParams) : Nat := if p.paired then p.nrows else 2 * p.nrows

/-- Elements of one input vector (R322). -/
def JobParams.elems (p : JobParams) : Nat := if p.paired then p.ncols else 2 * p.ncols

/-- Row and column blocks. -/
def JobParams.rowBlocks (p : JobParams) : Nat := ceilDiv p.nrows 128
def JobParams.colBlocks (p : JobParams) : Nat := ceilDiv p.ncols 128

/-- Passes of one batch of a matrix job (R29). -/
def JobParams.passes (p : JobParams) : Nat := ceilDiv p.nvec p.perPass

/-- The slot in work that a radio job serves. -/
def slotOf (s : State) (g : GroupIx) (slotNo : W64) : Option RadioSlot :=
  s.radio.slots.find? (fun x => decide (x.group = g) && decide (x.slotNo = slotNo))

/-- Blocks of a job: (row, col), in order; for a radio set one per weight group (R249). -/
def jobBlocks (s : State) (j : Job) : List (Nat × Nat) :=
  match j.kind with
  | .matmul => (List.range j.params.rowBlocks).flatMap (fun r => (List.range j.params.colBlocks).map (fun t => (r, t)))
  | .resident _ => [(0, 0)]
  | .vecRaw _ => [(0, 0)]
  | .radio g n _ => (match slotOf s g n with
    | some x => (List.range (weightGroups x.entry)).map (fun b => (b, 0))
    | none => [])
  | .reduce => []
  | .tree => []

/-- Passes of the batch of a block. -/
def blockPasses (s : State) (j : Job) (row : Nat) : Nat :=
  match j.kind with
  | .radio g n _ => (match slotOf s g n with
    | some x => batchPasses x.entry row
    | none => 0)
  | _ => j.params.passes

/-- Progress of a block; a block that has not begun has none of either. -/
def blockRun (j : Job) (row col : Nat) : BlockRun :=
  match j.blocks.find? (fun b => decide (b.row = row) && decide (b.col = col)) with
  | some b => b
  | none => { row := row, col := col, sent := 0, got := 0, tiles := 0, bad := false }

/-- Progress of a block replaced. -/
def setRun (b : BlockRun) (j : Job) : Job :=
  { j with blocks := b :: j.blocks.filter (fun x => !(decide (x.row = b.row) && decide (x.col = b.col))) }

/-- Result vectors of one sub-batch (R167). -/
def subVectors (j : Job) : Nat := if j.subBatch then j.psum / (9 * j.params.comps) else j.params.nvec

/-- The vector after the last one of the sub-batch in work. -/
def subEnd (j : Job) : Nat := min j.params.nvec (j.vecDone + subVectors j)

/-- Passes of `n` vectors of a job. -/
def passesOf (p : JobParams) (n : Nat) : Nat := ceilDiv n p.perPass

/-- Passes of a block that may be dispatched: those up to the end of the sub-batch in work (R167). -/
def openPasses (s : State) (j : Job) (row : Nat) : Nat :=
  match j.kind with
  | .matmul => passesOf j.params (subEnd j)
  | .resident _ => passesOf j.params (subEnd j)
  | _ => blockPasses s j row

/-- Passes of a block before the sub-batch in work. -/
def donePasses (j : Job) : Nat :=
  match j.kind with
  | .matmul => passesOf j.params j.vecDone
  | .resident _ => passesOf j.params j.vecDone
  | _ => 0

/-- Every pass of every block has arrived, of the sub-batch in work. -/
def allArrived (s : State) (j : Job) : Bool :=
  (jobBlocks s j).all (fun b => decide ((blockRun j b.1 b.2).got = openPasses s j b.1)) && decide (j.held = [])

/-- The Kermes die of a tile: 0 A, 1 B. -/
def engineOf (t : TileIx) : Fin 2 := if t.val < 5 then 0 else 1

/-- The first column block that engine B takes of a row block, if it takes one (R180). -/
def splitOf (j : Job) (row : Nat) : Option Nat := (j.splits.find? (fun p => decide (p.1 = row))).map (fun p => p.2)

/-- Whether a block may run on an engine: the engines divide the column blocks in ascending order, under TREE in whole groups
(R180); one engine serves a job planned within one half (R194). -/
def engineFits (s : State) (j : Job) (e : Fin 2) (row col : Nat) : Bool :=
  let onA := j.blocks.any (fun b => decide (b.row = row) && decide (col ≤ b.col) && decide (passesOf j.params j.vecDone < b.sent))
  match splitOf j row with
  | some k => if e = 1 then decide (k ≤ col) else decide (col < k)
  | none =>
    if e = 0 then true
    else !onA && (decide (j.params.order = 0) || decide (col % groupWidth s.tray.variant = 0)) &&
      (!s.sched.interKermesBad || decide (col = 0))

/-- The column block after the last one of an engine. -/
def engineStop (j : Job) (e : Fin 2) (row : Nat) : Nat :=
  match splitOf j row with
  | some k => if e = 0 then k else j.params.colBlocks
  | none => j.params.colBlocks

/-- The first column block of an engine. -/
def engineStart (j : Job) (e : Fin 2) (row : Nat) : Nat :=
  match splitOf j row with
  | some k => if e = 0 then 0 else k
  | none => 0

/-- Vectors of a radio pass: (copy, OFDM symbol of the slot, subcarrier) of those that exist (R249). -/
def radioVectors (x : RadioSlot) (set b pass : Nat) : List (Nat × Nat × Nat) :=
  let e := x.entry
  let n := batchSymbols e.batchSyms.toNat
  let nsc := groupPrbs e b * 12
  let p := copiesOf e.nant.toNat e.nlayer.toNat
  ((List.range p).filter (fun c => decide (pass * p + c < nsc * n))).map (fun c =>
    (c, set * n + (pass * p + c) / nsc, 12 * b * e.prbg.toNat + (pass * p + c) % nsc))

/-- Output rows of one copy of a radio batch. -/
def radioRows (e : GroupEntry) : Nat := if e.kind = 1 then e.nant.toNat else e.nlayer.toNat

/-- The value pair of one input component of a radio vector: an antenna's sample (COMBINE) or a layer's (PRECODE). -/
def radioInput (x : RadioSlot) (k l sc : Nat) : List FVal :=
  if x.entry.kind = 1 then
    let o := ((l * x.entry.nlayer.toNat + k) * 12 * x.entry.nprb.toNat + sc) * 4
    [ofInt (signedOf 16 (field x.layers o 2)) 0, ofInt (signedOf 16 (field x.layers (o + 2) 2)) 0]
  else match x.prbs.find? (fun p => decide (p.ant = k) && decide (p.sym = l) && decide (p.prb = sc / 12)) with
    | some p => [ofInt (p.vals.getD (2 * (sc % 12)) 0) 0, ofInt (p.vals.getD (2 * (sc % 12) + 1) 0) 0]
    | none => [posZero, posZero]

/-- Element values in pairs. -/
def pairsOf : List FVal → List (FVal × FVal)
  | a :: b :: l => (a, b) :: pairsOf l
  | _ => []

/-- Vectors xa and xb side by side; a missing xb is all zero (R29, R58). -/
def besides (xa xb : List FVal) : List (FVal × FVal) :=
  (List.range xa.length).map (fun i => (xa.getD i posZero, xb.getD i posZero))

/-- The (I, Q) values that a pass puts on modulators 0, 1, …; modulators beyond it carry zero (R38, R56, R57, R58). -/
def passVector (s : State) (j : Job) (row col pass : Nat) : List (FVal × FVal) :=
  let p := j.params
  let vec := fun (v : Nat) =>
    let per := if p.paired then 1 else 2
    readElems s p.inType.toNat (p.inBase.toNat + v * p.inStride) (128 * col * per)
      ((min (128 * (col + 1)) p.ncols - 128 * col) * per)
  match j.kind with
  | .radio g n set => (match slotOf s g n with
    | some x =>
      let ins := if x.entry.kind = 1 then x.entry.nlayer.toNat else x.entry.nant.toNat
      (radioVectors x set row pass).flatMap (fun v => (List.range ins).flatMap (fun k => pairsOf (radioInput x k v.2.1 v.2.2)))
    | none => [])
  | .vecRaw _ => []
  | _ => if p.paired then besides (vec (p.perPass * pass)) (if p.perPass = 2 ∧ 2 * pass + 1 < p.nvec then vec (2 * pass + 1) else [])
         else pairsOf (vec pass)

/-- The components of the input vector or vectors of a pass, whose one exponent R80 takes. -/
def passInputs (s : State) (j : Job) (row col pass : Nat) : List FVal :=
  (passVector s j row col pass).flatMap (fun v => [v.1, v.2])

/-! ### DAC codes and the lane word (R79 to R84) -/

/-- A component times 2^-e, to the nearest integer, ties to even (R80 step 2, R594). -/
def scaledCode (e : Int) (v : FVal) : Int :=
  match v with
  | .num neg m x =>
    let k := x - e
    let q : Int := if 0 ≤ k then (m : Int) * 2 ^ k.toNat else roundDivEven m (2 ^ (-k).toNat)
    if neg then -q else q
  | _ => 0

/-- The 6-bit DAC code of a component under exponent e (R79, R80). -/
def dacCode (e : Int) (v : FVal) : BitVec 6 := BitVec.ofInt 6 (scaledCode e v)

/-- The 256 codes of a pass, I then Q of each modulator, zero beyond the vector (R56, R84). -/
def passCodes (e : Int) (vs : List (FVal × FVal)) : List (BitVec 6) :=
  (List.range 256).map (fun i => match vs[i / 2]? with
    | some v => dacCode e (if i % 2 = 0 then v.1 else v.2)
    | none => 0)

/-- The 193 bytes of a vector on the lane (R84). -/
def laneWord (e : Int) (codes : List (BitVec 6)) : List Byte :=
  leBytes 192 (((List.range 256).map (fun i => (codes.getD i 0).toNat * 2 ^ (6 * i))).foldl (· + ·) 0) ++ [BitVec.ofInt 8 e]

/-- The codes and the exponent of a lane word. -/
def laneCodes (w : List Byte) : List (BitVec 6) :=
  (List.range 256).map (fun i => BitVec.ofNat 6 (leNat (w.take 192) / 2 ^ (6 * i)))
def laneExp (w : List Byte) : Int := ((w.getD 192 0)).toInt

/-- The code that a DAC drives: -32 is driven as -31 (R81). -/
def drivenCode (c : BitVec 6) : BitVec 6 := if c = 0b100000 then 0b100001 else c

/-- Codes of a vector that the package clamps (R81). -/
def clampedCodes (codes : List (BitVec 6)) : Nat := (codes.filter (fun c => decide (c = 0b100000))).length

/-- Polarity (true negative) and level of a DAC's drive for a code: DAC 2m drives I and 2m + 1 drives Q of modulator m; its table
is indexed by the magnitude (R82, R154). -/
def driveLevel (t : TileIx) (x : Tile) (dac : Nat) (c : BitVec 6) : Bool × Nat :=
  let v := (drivenCode c).toInt
  (decide (v < 0), field (memReadN (coefDefault t) x.cal.coefs (0x0006 * 2 ^ 24 + 64 * dac + 2 * v.natAbs) 2) 0 2)

/-- The vector of a pass staged (R16, R80); a raw vector is staged as it stands in memory (R337). -/
def stagePass (s : State) (j : Job) (row col pass : Nat) : Staged :=
  match j.kind with
  | .vecRaw _ =>
    let w := daddrRead s (j.params.inBase.toNat + 256 * pass) 193
    { row := row, col := col, pass := pass, e := laneExp w, codes := laneCodes w }
  | _ =>
    let vs := passVector s j row col pass
    let e := (blockExp (passInputs s j row col pass)).getD 0
    { row := row, col := col, pass := pass, e := e, codes := passCodes e vs }

/-- The staged vector of a pass. -/
def stagedOf (j : Job) (row col pass : Nat) : Option Staged :=
  j.staged.find? (fun v => decide (v.row = row) && decide (v.col = col) && decide (v.pass = pass))

/-- Vectors of a segment staged, those not already there (R16). -/
def stageSegment (s : State) (row col first count : Nat) (j : Job) : Job :=
  { j with staged := j.staged ++ (((List.range count).map (fun i => first + i)).filter (fun k =>
      (stagedOf j row col k).isNone)).map (stagePass s j row col) }

/-- Which sample of a pass belongs to which component of which result vector: (j, c, sample) (R58, R90, R249). -/
def passPicks (s : State) (j : Job) (row pass : Nat) : List (Nat × Nat × Nat) :=
  let p := j.params
  let nr := min 128 (p.nrows - 128 * row)
  match j.kind with
  | .radio g n set => (match slotOf s g n with
    | some x =>
      let rows := radioRows x.entry
      (radioVectors x set row pass).flatMap (fun v => (List.range rows).flatMap (fun r =>
        let jj := v.2.1 * 12 * x.entry.nprb.toNat + v.2.2
        [(jj, 2 * r, 2 * (v.1 * rows + r)), (jj, 2 * r + 1, 2 * (v.1 * rows + r) + 1)]))
    | none => [])
  | .vecRaw _ => []
  | _ =>
    if p.paired then
      (List.range nr).map (fun k => (p.perPass * pass, 128 * row + k, 2 * k)) ++
      (if p.perPass = 2 ∧ 2 * pass + 1 < p.nvec then (List.range nr).map (fun k => (2 * pass + 1, 128 * row + k, 2 * k + 1)) else [])
    else (List.range nr).flatMap (fun k =>
      [(pass, 2 * (128 * row + k), 2 * k), (pass, 2 * (128 * row + k) + 1, 2 * k + 1)])

/-- The row block of a result component. -/
def rowOfComp (p : JobParams) (c : Nat) : Nat := (if p.paired then c else c / 2) / 128

/-- Engine B takes over a row block from column block `col` on: engine A's components whose last fold that makes are spilled
(R178, R180). -/
def closeSplit (row col : Nat) (j : Job) : Job :=
  let ends := fun (a : Acc) => decide (a.engine = 0) && decide (rowOfComp j.params a.c = row) && decide (col ≤ a.nextT) &&
    decide (0 < a.folds)
  { j with splits := (row, col) :: j.splits,
           accs := j.accs.map (fun a => if ends a then (spill a).1 else a),
           sat := j.sat || j.accs.any (fun a => ends a && (spill a).2) }

/-- The s of a block, and the s_max to which its row block is brought (R170): a radio batch stands for itself. -/
def blockScales (s : State) (j : Job) (row col : Nat) : W32 × W32 :=
  let p := j.params
  match j.kind with
  | .matmul =>
    (p.scales.getD (row * p.colBlocks + col) 0,
     maxScale ((List.range p.colBlocks).map (fun t => p.scales.getD (row * p.colBlocks + t) 0)))
  | .resident t =>
    let w := match s.sets.imageActive[t] with
      | some e => e.scale
      | none => 0
    (w, w)
  | .radio g n _ => (match slotOf s g n with
    | some x => let w := (x.weights.getD row (0, 0)).2; (w, w)
    | none => (0, 0))
  | _ => (0, 0)

/-- The accumulator of a component on an engine; one not yet begun starts at the engine's first column block. -/
def accOf (j : Job) (e : Fin 2) (row jj c : Nat) (smax : W32) : Acc :=
  match j.accs.find? (fun a => decide (a.engine = e) && decide (a.j = jj) && decide (a.c = c)) with
  | some a => a
  | none => { engine := e, j := jj, c := c, ps := 0, wb := 0, grp := 0, grpN := 0, nextT := engineStart j e row, folds := 0,
              scale := smax }

/-- An accumulator replaced. -/
def setAcc (a : Acc) (j : Job) : Job :=
  { j with accs := a :: j.accs.filter (fun x => !(decide (x.engine = a.engine) && decide (x.j = a.j) && decide (x.c = a.c))) }

/-- One pass folded into its components (R170). -/
def foldPass (s : State) (h : HeldPass) (j : Job) : Job :=
  let sc := blockScales s j h.row h.col
  let br := match j.kind with
    | .matmul => blockRatio sc.1 sc.2
    | _ => blockRatio h.scale h.scale
  let smax := match j.kind with
    | .matmul => sc.2
    | _ => h.scale
  (passPicks s j h.row h.pass).foldl (fun j p =>
    let a := accOf j h.engine h.row p.1 p.2.1 smax
    let r := foldInto j.params (groupWidth s.tray.variant) (engineStop j h.engine h.row) h.col
      (foldTerm (h.samples.getD p.2.2 0) br h.e j.params.accExp) a
    { setAcc r.1 j with sat := j.sat || r.2 }) { j with passesDone := j.passesDone + 1 }

/-- A held pass whose column block is the next of its components folds now (R166, R177). -/
def foldable (s : State) (j : Job) (h : HeldPass) : Bool :=
  match passPicks s j h.row h.pass with
  | [] => true
  | p :: _ => decide ((accOf j h.engine h.row p.1 p.2.1 0).nextT = h.col)

/-- Held passes folded in order while one can be; `fuel` bounds them. -/
def drainHeld (s : State) : Nat → Job → Job
  | 0, j => j
  | fuel + 1, j =>
    match j.held.find? (foldable s j) with
    | none => j
    | some h => drainHeld s fuel (foldPass s h { j with held := j.held.erase h })

/-! ### Jobs in State -/

/-- One job replaced. -/
def setJob (id : Nat) (f : Job → Job) (s : State) : State :=
  { s with jobs := s.jobs.map (fun j => if j.id = id then f j else j) }

/-- The job of an id. -/
def jobOf (s : State) (id : Nat) : Option Job := s.jobs.find? (fun j => decide (j.id = id))

/-- A job gone: its tiles are free of it. -/
def dropJob (id : Nat) (s : State) : State :=
  { s with jobs := s.jobs.filter (fun j => decide (j.id ≠ id)),
           tiles := s.tiles.map (fun x =>
             { x with job := if x.job = some id then none else x.job, next := if x.next = some id then none else x.next }) }

/-- The part of a die's partial-sum region that no running job has reserved. -/
def psumFree (s : State) (e : Fin 2) : Nat := psumBytes s.kermes[e] -
  ((s.jobs.filter (fun j => j.psumDies.getLsbD e.val)).map (fun j => j.psum)).foldl (· + ·) 0

/-- HANDOVER is asserted in some zone: no new job is admitted (R327). -/
def noAdmit (s : State) : Bool := s.thermal.handover.toList.any (fun t => t.on)

def JobParams.none : JobParams :=
  { format := 0, paired := false, order := 0, combine := 0, spill := 64, accExp := 0, inType := 0, seed := 0, inBase := 0,
    nvec := 0, inStride := 0, outBase := 0, outStride := 0, nrows := 0, ncols := 0, tileMask := 0, statsAddr := 0,
    scales := [], images := [], single := false }

/-- A job at acceptance. -/
def newJob (ring : RingIx) (f : Fetched) (kind : JobKind) (level : Nat) (p : JobParams) : Job :=
  { id := f.id, ring := ring, desc := f.desc, kind := kind, level := level, params := p, fusion := none, fusionEpoch := 0,
    fusionBound := false, model := none, modelEpoch := 0, modelBound := false, tree := TreeRun.init, accs := [], held := [], staged := [],
    segments := [], blocks := [], splits := [], psum := 0, psumDies := 0, vecDone := 0, passesDone := 0, chained := false, tilesUsed := 0, work := 0,
    cost := 0, startSC := 0, started := false, sat := false, stale := false, epoch := 0, precision := false,
    degraded := false, subBatch := false, convSat := 0, convNan := 0, nanSkipped := 0, firstNewJ := none, peak := 0 }

/-- Samples of a tree job of one status. -/
def statusCount (j : Job) (st : Byte) : Nat := (j.tree.statuses.filter (fun x => decide (x = st))).length

/-- The statistics record (Table 12-12). -/
def statsRecord (s : State) (j : Job) : List Byte :=
  let flags := (if j.sat then 1 else 0) + (if j.stale then 2 else 0) + (if j.precision then 4 else 0) +
    (if j.subBatch then 8 else 0)
  let tree := decide (j.kind = .tree)
  let w30 := if tree then statusCount j 0 else if j.kind = .reduce then j.nanSkipped.toNat else j.peak.toNat
  let n := fun (st : Byte) => if tree then statusCount j st else 0
  leBytes 8 j.startSC.toNat ++ leBytes 8 s.time.symbolCount.toNat ++ leBytes 8 j.work ++ leBytes 2 j.tilesUsed.toNat ++
  leBytes 2 flags ++ leBytes 4 j.fusionEpoch.toNat ++ leBytes 4 j.modelEpoch.toNat ++ leBytes 4 j.convSat.toNat ++
  leBytes 4 j.convNan.toNat ++
  leBytes 4 (match j.firstNewJ with | some k => k | none => 0xFFFFFFFF) ++ leBytes 4 w30 ++ leBytes 4 (n 1) ++
  leBytes 4 (n 2) ++ leBytes 4 (n 3)

/-- The codes that a job's own flags bring (R186, R193, R125, R160). -/
def jobCodes (j : Job) : List W16 :=
  (if j.stale then [codeStaleOutput] else []) ++ (if j.degraded then [codeCalDegraded] else []) ++
  (if j.precision || j.sat then [codePrecisionUnmet] else [])

/-- A job ends with the first of the codes that apply (R313, R572): statistics are written before its completion (R326), and
a write of them that fails adds its own code (R339). -/
def finishJobAt (j : Job) (codes : List W16) (result detail : Nat) (s : State) : State :=
  let a := j.params.statsAddr.toNat
  let w := if a = 0 then none else writeFails s a 64
  let s1 := if a = 0 then s else daddrWrite a (statsRecord s j) s
  let all := codes ++ jobCodes j ++ w.toList
  let code := pickCode all
  let arg := decide (code = codeArgRange)
  let r : Reply := { Reply.of code with
    result := if arg then BitVec.ofNat 32 result else 0, detail := if arg then BitVec.ofNat 16 detail else 0,
    stale := j.stale, epoch := j.epoch.setWidth 16 }
  completeId j.ring j.id r (dropJob j.id s1)

/-- A job ends; an ARG_RANGE of it names a field of its descriptor. -/
def finishJob (j : Job) (codes : List W16) (detail : Nat) (s : State) : State := finishJobAt j codes 0 detail s

/-- Bytes of an output region made free: the spec leaves the outputs of a stopped job undefined (R301, assumption 3). -/
def freeRegion (a n : Nat) (s : State) : State := daddrWrite a (drawBytes n s).1 (drawBytes n s).2

/-- A matrix job stopped: its partial sums are lost and its output buffer holds free bytes. -/
def stopJob (j : Job) (code : W16) (detail : Nat) (s : State) : State :=
  let p := j.params
  let s1 := if p.outStride = 0 ∨ p.nvec = 0 then s
            else freeRegion p.outBase.toNat (p.outStride * (p.nvec - 1) + outBytes ((j.fusion.map (fun f => f.conv.toNat)).getD 0) p.comps) s
  finishJob j [code] detail s1

end Sys2Proof.Machine
end

