-- ==== Sys2Proof/Machine/GapOps.lean ====
section
/-! DEFINITION. Gaps and characterisation steps of a tile (R141 to R147, Tables 5-3 and 5-4), and its entry into MAINT. -/
namespace Sys2Proof.Machine

/-- Units of a step, and its duration in units of 0.01 us (Table 5-3). -/
def StepKind.units : StepKind → Nat
  | .segCol _ _ => 2
  | .segD => 2
  | .segPort _ => 2
  | .pathTest _ _ => 2
  | .portAlign => 1
  | .dacTable _ => 1
  | .streamCal _ => 1
  | .gainTrace => 1
  | .lossRef => 1
  | .colCheck _ _ => 1

def StepKind.time : StepKind → Nat
  | .segCol _ _ => 800
  | .segD => 800
  | .segPort _ => 800
  | .pathTest _ _ => 586
  | .portAlign => 400
  | .dacTable _ => 400
  | .streamCal _ => 400
  | .gainTrace => 400
  | .lossRef => 400
  | .colCheck _ _ => 400

/-- The 154 steps of a routine pass (Table 5-3). -/
def routineSteps : List StepKind :=
  (List.range 66).map (fun c => .segCol false c) ++ (List.range 66).map (fun c => .segCol true c) ++ [.segD] ++
  [.segPort false, .segPort true, .portAlign] ++ (List.finRange 8).map (fun g => .dacTable g) ++
  (List.finRange 8).map (fun g => .streamCal g) ++ [.gainTrace, .lossRef]

/-- A tile goes to MAINT at a pass boundary; classes 1 and 2 are suspended (R75, R133, R137, R151). -/
def enterMaint (t : TileIx) (s : State) : State :=
  enterTile t .maint (setTile t (fun x =>
    let cal := { x.cal with drift := { x.cal.drift with maint := true } }
    { x with maintDue := false, conv := { x.conv with windowMaint := true }, cal := cal }) s)

/-- A batch begun on a tile still has passes to dispatch. -/
def batchRuns (s : State) (t : TileIx) : Bool :=
  s.jobs.any (fun j => (jobBlocks s j).any (fun b =>
    let r := blockRun j b.1 b.2
    r.tiles.getLsbD t.val && decide (r.sent < openPasses s j b.1)))

/-! ### Gaps in time (R144, R145) -/

/-- A tile by number is in a state. -/
def tileIs (s : State) (t : Nat) (st : TileState) : Bool := s.tiles.toList[t]?.any (fun x => decide (x.state = st))

/-- The tile that serves a radio group: TILE, or ALT_TILE while TILE is out of service (R261, R262, R332). -/
def radioTile (s : State) (e : GroupEntry) : Nat :=
  if decide (e.altTile ≠ 0x0F) && !(tileIs s e.tile.toNat .ready || tileIs s e.tile.toNat .serving) then e.altTile.toNat
  else e.tile.toNat

/-- The time that ranks a radio set, in 1/100 SCLK: RX_CLOSE of its last symbol, or the U-plane window of its first (Table 13-5). -/
def setDue (num : BitVec 3) (e : GroupEntry) (n : W64) (k : Nat) : Int :=
  let m := batchSymbols e.batchSyms.toNat
  let at_ := fun (l : Nat) => (n.toInt * (slotTicks num : Nat) + (symStart num l : Nat)) * 100
  if e.kind = 1 then at_ (k * m) - (e.txAdvance.toNat * 393216 : Nat) else at_ (k * m + m - 1) + (e.rxClose.toNat * 393216 : Nat)

/-- How long before the U-plane window of its first symbol a downlink set starts on a tile, in 1/100 SCLK: DL_LEAD, or the
stretched set time and 2 us where that is more (R259). -/
def dlLeadNow (s : State) (e : GroupEntry) : Nat :=
  let skip := (s.tiles.toList[radioTile s e]?.map (fun x => x.skip)).getD 0
  max (e.dlLead.toNat * 393216) (setTimeNow s.thermal.divideOn skip e * 100 + 786432)

/-- When a set starts at the latest, in 1/100 SCLK of radio time: RX_CLOSE of its last symbol, or its lead before the U-plane
window of its first (R258, R259). -/
def setStartAt (s : State) (e : GroupEntry) (n : W64) (k : Nat) : Int :=
  setDue s.time.numerology e n k - (if e.kind = 1 then (dlLeadNow s e : Int) else 0)

/-- SCLK until core 1's plan dispatches to a tile: the first radio set of it that has not started falls due (assumption 67). -/
def plannedIn (s : State) (t : TileIx) : Option Nat :=
  least ((s.radio.slots.filter (fun x => decide (x.entry.kind ≠ 2) && decide (radioTile s x.entry = t.val))).flatMap (fun x =>
    (x.sets.filter (fun b => !b.started && !b.done)).map (fun b =>
      (setStartAt s x.entry x.slotNo b.index / 100 - radioTicks s.time).toNat)))

/-- SCLK that remain in a tile's declared gap. -/
def gapLeft (s : State) (t : TileIx) : Option Nat :=
  s.time.comparators.toList.findSome? (fun c => match c with
    | some e => (match e.action, e.time with
      | .gapEnd tiles, .absolute sc => if tiles.getLsbD t.val then some (sc.toNat - s.time.symbolCount.toNat) else none
      | _, _ => none)
    | none => none)

/-- A duration in 0.01 us fits in what remains of a gap of a kind: an IDLE gap ends 0.3 us before the next planned dispatch, a
DECLARED one at its end, a REPAIR one when the repair completes (Table 5-4). 0.01 us is 39.3216 SCLK. -/
def fitsIn (s : State) (t : TileIx) (k : GapKind) (time : Nat) : Bool :=
  match k with
  | .idle => (plannedIn s t).all (fun n => decide ((time + 30) * 393216 ≤ n * 10000))
  | .declared => (gapLeft s t).any (fun n => decide (time * 393216 ≤ n * 10000))
  | .repair => true

/-- A step fits in the time that remains, with the 0.26 us of the restore (R145). -/
def stepFits (s : State) (t : TileIx) (k : StepKind) : Bool := s.tiles[t].cal.gap.any (fun g => fitsIn s t g.kind (k.time + 26))

/-- A gap lasts at least the 4.3 us that make it usable (R144). -/
def gapUsable (s : State) (t : TileIx) (k : GapKind) : Bool := fitsIn s t k 430

/-- Steps may start: by core 3 (R18), with no DIVIDE and no SKIP, REPAIR gaps exempt (R147). -/
def mayStep (s : State) (t : TileIx) : Bool :=
  match s.tiles[t].cal.gap with
  | some g => coreRuns s 3 && !g.ended && (decide (g.kind = .repair) ||
      (!s.thermal.divideOn && !divideAsserted s && decide (s.tiles[t].skip = 0)))
  | none => false

/-- The next step of a tile: on demand first, then the routine pass; a REPAIR gap runs the repair's steps alone. -/
def nextStep (c : Calib) : Option StepKind :=
  match c.demand with
  | k :: _ => some k
  | [] => if c.gap.any (fun g => decide (g.kind = .repair)) then none else c.steps.head?

/-- The next step taken off its list and in progress. -/
def takeStep (k : StepKind) (c : Calib) : Calib :=
  let c1 := { c with step := some (k, k.units), stepResults := [], stepPoints := [] }
  match c.demand with
  | _ :: ds => { c1 with demand := ds }
  | [] => { c1 with steps := c.steps.drop 1 }

/-- The test DAC connected to one receiver path at a code: a tile that is not in MAINT refuses (R99, R100). -/
def connectDac (r : Fin 128) (q : Bool) (code : BitVec 10) (x : Tile) : Except W16 Tile :=
  if x.state = .maint then .ok { x with conv := { x.conv with testDac := some (r, q, code) } } else .error codeStateIllegal

/-- A scan mask written by firmware: at the next round, or at once where the scan stands still (R94, R95). -/
def writeMask (m : W64) (c : Convert) : Convert :=
  if c.scanIdle then { c with scanMask := m, scanIdle := decide (m = 0), nextMask := none } else { c with nextMask := some m }

/-- Monitor channels that a step reads: channel 49 for a path test, the taps for the gain trace and the loss references (R101,
R143, assumption 68). -/
def StepKind.mask : StepKind → W64
  | .pathTest _ _ => 0x0002000000000000
  | .gainTrace => 0x000001FFFFFFFE00
  | .lossRef => 0x000003FFFFFFFFFF
  | _ => 0

/-- A step whose channels the running mask lacks sets its own mask and keeps the running one (Table 5-8). -/
def maskForStep (k : StepKind) (c : Convert) : Convert :=
  let m := c.nextMask.getD c.scanMask
  if k.mask &&& ~~~m = 0 then c else writeMask (m ||| k.mask) { c with savedMask := some m }

/-- The step's end: the previous mask back, the test DAC disconnected (R101, Table 5-8). -/
def afterStep (c : Convert) : Convert :=
  let c1 := { c with testDac := none, savedMask := none }
  match c.savedMask with
  | some m => writeMask m c1
  | none => c1

/-- What a step sets up in the converters of its tile, which is in MAINT: its scan mask, and the path of a path test at the first
code of R101. -/
def setUpStep (k : StepKind) (x : Tile) : Tile :=
  let y := { x with conv := maskForStep k x.conv }
  match k with
  | .pathTest r q => (match connectDac r q 212 y with
    | .ok z => z
    | .error _ => y)
  | _ => y

/-- A tile may run a step: in MAINT, or in service with no segment and between batches (R74, R141). -/
def stepMayRun (s : State) (t : TileIx) : Bool :=
  let x := s.tiles[t]
  x.job.isNone && x.next.isNone && (decide (x.state = .maint) || (inService x && x.moving.isNone && !batchRuns s t))

/-- The next step begins where a gap is open, the tile is free, and the step fits (R141, R145). -/
def beginStep (t : TileIx) (s : State) : State :=
  let x := s.tiles[t]
  if x.cal.step.isSome ∨ !stepMayRun s t ∨ !mayStep s t then s
  else match nextStep x.cal with
  | none => s
  | some k =>
    if stepFits s t k then
      setTile t (setUpStep k) (enterMaint t (setTile t (fun x => { x with cal := takeStep k x.cal }) s))
    else s

/-- The step in progress is abandoned and set back to run whole: on demand, or as the next of its routine pass, which is not over
before it has run (R142, R146). -/
def abandonStep (x : Tile) : Tile :=
  match x.cal.step with
  | none => x
  | some (k, _) =>
    let c := { x.cal with step := none, stepResults := [], stepPoints := [] }
    let c1 := if x.cal.passOpen ∧ k ∈ routineSteps then { c with steps := k :: c.steps } else { c with demand := k :: c.demand }
    { x with cal := c1, conv := afterStep x.conv }

/-- A new gap of a kind; a repair leaves a declared gap that goes on beneath it, with its counts. -/
def newGap (k : GapKind) (old : Option Gap) : Gap :=
  match old with
  | some g => if k = .repair ∧ (g.beneath ∨ (g.kind = .declared ∧ !g.ended)) then
      { g with kind := .repair, ended := false, beneath := true }
    else { kind := k, ended := false, steps := 0, overruns := 0, beneath := false }
  | none => { kind := k, ended := false, steps := 0, overruns := 0, beneath := false }

/-- A gap of a kind opened on a tile. -/
def openGap (t : TileIx) (k : GapKind) (s : State) : State :=
  setTile t (fun x => { x with cal := { x.cal with gap := some (newGap k x.cal.gap) } }) s

/-- A routine pass is due (R142). -/
def startPass (c : Calib) : Calib := { c with steps := routineSteps, passOpen := true }

/-- A tile that is CAL_DEGRADED starts a routine pass in its first usable gaps (R160). -/
def passIfDegraded (c : Calib) : Calib := if c.degraded && !c.passOpen then startPass c else c

/-- A declared gap opens on a tile, beside a repair in progress; steps start in it if it is usable (R144, R160, R330). -/
def openDeclared (t : TileIx) (s : State) : State :=
  if s.tiles[t].cal.gap.any (fun g => decide (g.kind = .repair)) then s
  else
    let s1 := openGap t .declared s
    if gapUsable s1 t .declared then beginStep t (setTile t (fun x => { x with cal := passIfDegraded x.cal }) s1) else s1

/-- Steps scheduled on demand, each once. -/
def demandSteps (ks : List StepKind) (c : Calib) : Calib :=
  { c with demand := c.demand ++ ks.filter (fun k => !(decide (k ∈ c.demand))) }

/-- A command that waits for a tile to reach a state completes there (R331, R332). -/
def finishControl (t : TileIx) (s : State) : State :=
  match s.tiles[t].control with
  | some (n, id, st) =>
    if s.tiles[t].state = st then
      completeId n id (Reply.of codeOk) (setTile t (fun x => { x with control := none }) s)
    else s
  | none => s

end Sys2Proof.Machine
end

