-- ==== Sys2Proof/Machine/Sets.lean ====
section
/-! DEFINITION. The configuration-set commands (Table 12-5) and the end of a shadow load. -/
namespace Sys2Proof.Machine

/-- The group of a set command. -/
def groupOf (d : Descriptor) : GroupIx := ⟨d.u8 8 % 16, by omega⟩

def groupChecks (d : Descriptor) : List (Nat × Bool) := [chk 8 (decide (15 < d.u8 8))]

/-- A set command on a group whose SET_COMMIT is validating (R319). -/
def committing (s : State) (g : GroupIx) : Bool := s.sets.groups[g].committing.isSome

def illegal (s : State) : Body := .done s (Reply.of codeStateIllegal)

/-- SET_OPEN (R268). -/
def setOpenBody (f : Fetched) (s : State) : Body :=
  let g := groupOf f.desc
  if s.sets.groups[g].shadow = .pending ∨ committing s g ∨ inUse s g then illegal s
  else
    let s1 := { s with sets := openShadow g (decide (f.desc.u8 9 = 0)) s.sets }
    .done (mirror (some g.val) f.desc.bytes [] (setGroup g (fun x => { x with shadow := .opened }) s1)) (Reply.of codeOk)

def execSetOpen (ring : RingIx) (s : State) : Result :=
  serve (isOp opSetOpen) ring (fun f _ => groupChecks f.desc ++ [chk 9 (decide (1 < f.desc.u8 9))]) setOpenBody s

/-- Argument checks of SET_STAGE (R319, Table 12-5). -/
def setStageArgs (f : Fetched) (s : State) : List (Nat × Bool) :=
  let d := f.desc
  let k := d.u8 9
  let member := fun i => decide (k ≠ 4) ||
    (List.finRange 10).any (fun t => decide (t.val = i) && s.sets.groups[groupOf d].members.getLsbD t.val)
  groupChecks d ++ [chk 9 (!kindFits (d.u8 8) k),
    chk 0x0A (decide (entryRange k ≤ d.u16 0x0A) || !member (d.u16 0x0A)),
    chk 0x0C (decide (d.u16 0x0C < 1) || decide (entryRange k < d.u16 0x0A + d.u16 0x0C) ||
      (List.range (min 10 (d.u16 0x0C))).any (fun i => !member (d.u16 0x0A + i))),
    chk 0x10 (badDaddr s.tray.variant (d.u64 0x10) 16)]

/-- The first entry of a staged array with a reserved byte set, or a tile-image entry that names another tile. -/
def stagedReserved (kind first : Nat) (bs : List Byte) (n : Nat) : Option (Nat × Nat) :=
  (List.range n).findSome? (fun i =>
    let b := (bs.drop (entrySize kind * i)).take (entrySize kind)
    match entryReserved kind b with
    | some o => some (first + i, o)
    | none => if kind = 4 ∧ byteAt b 0x0C ≠ first + i then some (first + i, 0x0C) else none)

/-- SET_STAGE (R268, R319). -/
def setStageBody (f : Fetched) (s : State) : Body :=
  let d := f.desc
  let g := groupOf d
  let k := d.u8 9
  let n := d.u16 0x0C
  if s.sets.groups[g].shadow ≠ .opened ∨ committing s g ∨ inUse s g then illegal s
  else match readFails s (d.u64 0x10) (n * entrySize k) with
  | some c => .done s (Reply.of c)
  | none =>
    let bs := daddrRead s (d.u64 0x10) (n * entrySize k)
    match stagedReserved k (d.u16 0x0A) bs n with
    | some (i, o) => .done s (stagedFault k i o)
    | none => .done (mirror (some g.val) d.bytes bs { s with sets := stageAll k (d.u16 0x0A) bs n s.sets }) (Reply.of codeOk)

def execSetStage (ring : RingIx) (s : State) : Result := serve (isOp opSetStage) ring setStageArgs setStageBody s

/-- The check words of the committed model slots stored (R202). -/
def storeCrcs (s : State) : State :=
  { s with sets := { s.sets with modelShadow := s.sets.modelShadow.map (fun e =>
      e.map (fun x => { x with crc := modelCrc s x.desc.toNat })) } }

/-- Shadow loads of the members in service begin; that of a member in MAINT ends at its restore (R269, R75). -/
def loadMembers (g : GroupIx) (s : State) : State :=
  { s with tiles := Vector.ofFn (fun t =>
      if s.tiles[t].group = some g ∧ (inService s.tiles[t] ∨ s.tiles[t].state = .maint) then
        beginLoad (newLoad (entryImage s s.sets.imageShadow[t]) .commit 3 true) s.tiles[t]
      else s.tiles[t]) }

/-- The stack memory that a fusion entry references: its user table, and its scale and bias arrays. An array has one entry per
output component of the job that names it, and at most 65,536 (R171, R188): the model copies the longest one that the window
holds (DESIGN CHOICE, log 88). -/
def fusionRanges (v : Variant) (e : FusionEntry) : List (Nat × Nat) :=
  let array := fun (a size : Nat) => (a, min (65536 * size) (windowSize v - a))
  (if e.act = 6 then [(e.tableAddr.toNat, 1032)] else []) ++
  (if e.scaleMode = 1 then [array e.scale.toNat 4] else []) ++
  (if e.biasType = 0 then [] else [array e.biasAddr.toNat (if e.biasType = 1 then 4 else 2)])

/-- Stack ranges that a group's active or shadow set references (R270). -/
def referenced (s : State) (g : GroupIx) (shadow : Bool) : List (Nat × Nat) :=
  if g = 0 then []
  else if g = 1 then (if shadow then s.sets.fusionShadow else s.sets.fusionActive).toList.flatMap (fun e => match e with
    | none => []
    | some e => fusionRanges s.tray.variant e)
  else if g = 2 then (if shadow then s.sets.modelShadow else s.sets.modelActive).toList.flatMap (fun e => match e with
    | none => []
    | some e => ((0, 64) :: modelRanges s (modelAt s e.desc.toNat)).filterMap (fun r =>
        if r.2 = 0 then none else some (e.desc.toNat + r.1, r.2)))
  else (tilesOf s.sets.groups[g].members).filterMap (fun t =>
    (if shadow then s.sets.imageShadow[t] else s.sets.imageActive[t]).map (fun e => (e.image.toNat, 40960)))

/-- The stack memory that a committed shadow references, copied to the twin (R270, R280). -/
def mirrorReferenced (g : GroupIx) (s : State) : State :=
  (referenced s g true).foldl (fun s r => mirrorMemory g r.1 r.2 s) s

/-- SET_COMMIT (R268, R269, R280): validation, loads, mirror; it completes once they are done. -/
def setCommitBody (n : RingIx) (f : Fetched) (s : State) : Body :=
  let g := groupOf f.desc
  if s.sets.groups[g].shadow ≠ .opened ∨ committing s g then illegal s
  else match commitFault s g with
  | some r => .done s r
  | none =>
    let s1 := if g = 2 then storeCrcs s else s
    let s2 := if 3 ≤ g.val then loadMembers g s1 else s1
    let s3 := mirrorReferenced g (mirror (some g.val) f.desc.bytes [] s2)
    let s4 := if mirrors s (some g.val) then
      { s3 with twin := { s3.twin with commitWaits := s3.twin.commitWaits ++ [(n, f.id, g, s3.twin.journalSeq)] } } else s3
    .running (tryFinishCommit g (setGroup g (fun x => { x with committing := some (n, f.id) }) s4))

def execSetCommit (ring : RingIx) (s : State) : Result :=
  serve (isOp opSetCommit) ring (fun f _ => groupChecks f.desc) (setCommitBody ring) s

/-- SET_DISCARD (R272). -/
def setDiscardBody (f : Fetched) (s : State) : Body :=
  let g := groupOf f.desc
  if s.sets.groups[g].shadow = .pending ∨ committing s g ∨ inUse s g then illegal s
  else .done (mirror (some g.val) f.desc.bytes [] (setGroup g (fun x => { x with shadow := .empty }) s)) (Reply.of codeOk)

def execSetDiscard (ring : RingIx) (s : State) : Result :=
  serve (isOp opSetDiscard) ring (fun f _ => groupChecks f.desc) setDiscardBody s

/-- The first slot marker at least 50 us after now, as a symbol count (R273): 50 us is 196,608 SCLK. -/
def nextMarker (s : State) : Nat :=
  let p := slotTicks s.time.numerology
  let pos := (cyclePos s.time + 196608) % p
  s.time.symbolCount.toNat + 196608 + (p - pos) % p

/-- A symbol count as radio time [SCLK], which both trays share (R281); 0 before its epoch. -/
def boundaryTime (s : State) (sc : Nat) : Nat := (radioTicks s.time + ((sc : Int) - s.time.symbolCount.toNat)).toNat

/-- SET_SWAP (R273, R274, R276). -/
def setSwapBody (n : RingIx) (f : Fetched) (s : State) : Body :=
  let g := groupOf f.desc
  let st := s.sets.groups[g].shadow
  if (st ≠ .staged ∧ st ≠ .pending) ∨ committing s g then illegal s
  else if g = 0 then
    match freeComparators s with
    | [] => .done s (Reply.of codeOverload)
    | i :: _ =>
      let e : ArmedEvent := { time := .absolute (BitVec.ofNat 64 (nextMarker s)), action := .radioSwap true, ring := n,
                              id := f.id, tag := f.desc.tag }
      .running (mirrorSwap 0 (boundaryTime s (nextMarker s)) (settleShadow 0 (setComparator i (some e) s)))
  else if groupHeld s g then
    .running (mirrorSwap g (boundaryTime s s.time.symbolCount.toNat)
      (markHeld g (waitSwap g n f.id 0 s)))
  else .done (doSwap g (mirrorSwap g (boundaryTime s s.time.symbolCount.toNat) s)) (Reply.of codeOk)

def execSetSwap (ring : RingIx) (s : State) : Result :=
  serve (isOp opSetSwap) ring (fun f _ => groupChecks f.desc) (setSwapBody ring) s

/-- Shadow states as SET_READ and `SWAP_STATUS` report them (Table 10-4). -/
def ShadowState.code : ShadowState → Nat
  | .empty => 0
  | .opened => 1
  | .staged => 2
  | .pending => 3

/-- Every entry of a group in index order (R318). -/
def setBytes (c : ConfSets) (g : GroupIx) (shadow : Bool) : List Byte :=
  if g = 0 then
    let m := if shadow then c.radioShadow else c.radioActive
    m.streams.toList.flatMap streamBytes ++ m.groups.toList.flatMap groupBytes
  else if g = 1 then (if shadow then c.fusionShadow else c.fusionActive).toList.flatMap fusionBytes
  else if g = 2 then (if shadow then c.modelShadow else c.modelActive).toList.flatMap modelBytes
  else (List.finRange 10).flatMap (fun t =>
    let mem := c.groups[g].members.getLsbD t.val
    tileImageBytes mem t.val (if mem then (if shadow then c.imageShadow[t] else c.imageActive[t]) else none))

/-- SET_READ (R318). -/
def setReadBody (f : Fetched) (s : State) : Body :=
  let g := groupOf f.desc
  if committing s g then illegal s
  else writeThen (f.desc.u64 0x10) (setBytes s.sets g (decide (f.desc.u8 9 = 1)))
    (Reply.okDetail s.sets.groups[g].epoch.toNat s.sets.groups[g].shadow.code) s

def execSetRead (ring : RingIx) (s : State) : Result :=
  serve (isOp opSetRead) ring (fun f s => groupChecks f.desc ++ [chk 9 (decide (1 < f.desc.u8 9)),
    chk 0x10 (badDaddr s.tray.variant (f.desc.u64 0x10) 64)]) setReadBody s

/-- The new membership of a group takes effect (R265): a tile that joins holds the zero matrix and empty entries; one that
leaves returns to the pool. -/
def applyMembers (g : GroupIx) (m : BitVec 10) (s : State) : State :=
  let old := s.sets.groups[g].members
  let changes := fun (t : TileIx) => old.getLsbD t.val != m.getLsbD t.val
  let act : Vector (Option ImageEntry) 10 := Vector.ofFn (fun t => if changes t then none else s.sets.imageActive[t])
  let sh : Vector (Option ImageEntry) 10 := Vector.ofFn (fun t => if changes t then none else s.sets.imageShadow[t])
  let ts : Vector Tile 10 := Vector.ofFn (fun t =>
    if changes t then
      (if m.getLsbD t.val then { reloadLatches t [] [] s.tiles[t] with group := some g } else { s.tiles[t] with group := none })
    else s.tiles[t])
  setGroup g (fun x => { x with members := m, joining := none })
    { s with sets := { s.sets with imageActive := act, imageShadow := sh }, tiles := ts }

/-- A SET_MEMBER completes once no joining tile runs a job (R265). -/
def tryJoin (g : GroupIx) (s : State) : State :=
  match s.sets.groups[g].joining with
  | none => s
  | some (n, id, m) =>
    if (tilesOf m).any (fun t => s.tiles[t].job.isSome) then s
    else completeId n id (Reply.of codeOk) (applyMembers g m s)

/-- A job runs on a resident tile, between two of its segments too. -/
def residentRuns (s : State) (t : TileIx) : Bool :=
  s.tiles[t].job.isSome || s.jobs.any (fun j => decide (j.kind = .resident t) && j.started)

/-- SET_MEMBER (R265, R318). -/
def setMemberBody (n : RingIx) (f : Fetched) (s : State) : Body :=
  let g := groupOf f.desc
  let m := BitVec.ofNat 10 (f.desc.u16 0x0A)
  let old := s.sets.groups[g].members
  let joins := (tilesOf m).filter (fun t => !old.getLsbD t.val)
  let leaves := (tilesOf old).filter (fun t => !m.getLsbD t.val)
  if s.sets.groups[g].shadow ≠ .empty ∨ committing s g ∨ s.sets.groups[g].joining.isSome ∨
      leaves.any (fun t => residentRuns s t) ∨ joins.any (fun t => s.tiles[t].group.isSome || joinsGroup s t || radioNames s t) then illegal s
  else
    .running (tryJoin g (mirror (some g.val) f.desc.bytes []
      (setGroup g (fun x => { x with joining := some (n, f.id, m) }) s)))

def execSetMember (ring : RingIx) (s : State) : Result :=
  serve (isOp opSetMember) ring (fun f _ => [chk 8 (decide (f.desc.u8 8 < 3 ∨ 15 < f.desc.u8 8)),
    chk 0x0A (decide (1024 ≤ f.desc.u16 0x0A))]) (setMemberBody ring) s

/-- The first swap that waits for a boundary of a group takes effect, unless its shadow is EMPTY or OPEN by then (R276). -/
def swapFirst (g : GroupIx) (s : State) : State :=
  match s.sets.groups[g].swapWaits with
  | [] => s
  | (n, id, result) :: ws =>
    let s1 := setGroup g (fun x => { x with swapWaits := ws }) s
    if s.sets.groups[g].shadow = .empty ∨ s.sets.groups[g].shadow = .opened then
      completeId n id { Reply.ok result with code := codeStateIllegal } (releaseGroup g s1)
    else completeId n id (Reply.ok result) (doSwap g s1)

/-- The swaps of a group that wait take effect in their order at the first boundary common to its members (R274, Table 10-6). -/
def trySwap (g : GroupIx) (s : State) : State :=
  if groupHeld s g then s else s.sets.groups[g].swapWaits.foldl (fun s _ => swapFirst g s) s

/-- A tile of a group whose swap waits has come to a pass boundary: it holds its vectors, and the group swaps if none holds it
(R63, R274). -/
def groupBoundary (t : TileIx) (s : State) : State :=
  match s.tiles[t].group with
  | none => s
  | some g => if s.sets.groups[g].swapWaits ≠ [] then trySwap g (setTile t (holdVectors s.time.symbolCount) s) else s

/-- A pass of a tile ends: a requested correction update and a swap of its own take effect (R63, R76, R87), and a swap of its
group may (R274). -/
def atPassBoundary (t : TileIx) (s : State) : State :=
  groupBoundary t (setTile t (fun x =>
    let y := if x.mesh.swapWaits then takeSwap x else x
    { y with conv := passBoundary y.conv }) s)

/-- The first segment of a list that stands on a tile begins to present vectors. -/
def beginFirst (t : TileIx) : List Segment → List Segment
  | [] => []
  | g :: gs => if g.tile = t then { g with begun := true } :: gs else g :: beginFirst t gs

/-- The segment that a tile runs begins to present vectors through its image (R62). -/
def beginSegment (t : TileIx) (s : State) : State :=
  match s.tiles[t].job with
  | none => s
  | some id => { s with jobs := s.jobs.map (fun j => if j.id = id then { j with segments := beginFirst t j.segments } else j) }

/-- The segment that a tile runs waits for its image. -/
def segmentWaits (s : State) (t : TileIx) : Bool :=
  match s.tiles[t].job with
  | none => false
  | some id => s.jobs.any (fun j => decide (j.id = id) &&
      (j.segments.find? (fun g => decide (g.tile = t))).any (fun g => !g.begun))

/-- What the end of a load brings (R64): a batch whose segment waits for it swaps it in, the symbols held counted for a hidden
load; the same image under new maps is swapped in at once, or at the next pass boundary (R76); a commit or a swap of the group
goes on (R269, R274). -/
def loadUsed (t : TileIx) (l : ShadowLoad) (s : State) : State :=
  match l.use with
  | .batch id =>
    if s.tiles[t].job = some id ∧ segmentWaits s t then
      beginSegment t (setTile t (fun x => takeSwap (releaseVectors s.time.symbolCount l.hidden x)) s)
    else s
  | .reload => setTile t (fun x => if midPass x then { x with mesh := { x.mesh with swapWaits := true } } else takeSwap x) s
  | .commit => match s.tiles[t].group with
    | none => s
    | some g => trySwap g (tryFinishCommit g s)

/-- The load of a tile's shadow latches ends (R61, R64); a tile in MAINT keeps its load for the restore (R269). -/
def execShadowLoadDone (tile : TileIx) (s : State) : Result :=
  match s.tiles[tile].mesh.load with
  | none => .next s
  | some l => if s.tiles[tile].state = .maint then .next s else .next (loadUsed tile l (setTile tile (endLoad tile) s))

end Sys2Proof.Machine
end

