-- ==== Sys2Proof/Machine/Jobs.lean ====
section
/-! DEFINITION. Matrix jobs: acceptance (R322 to R324), dispatch of segments (R343, R347, R125), and the fold of samples
(R166 to R178). -/
namespace Sys2Proof.Machine

/-! ### Acceptance -/

/-- Input types of a matrix job (Table 12-8). -/
def matrixType (t : Nat) : Bool := decide (t = 0 ∨ t = 1 ∨ t = 3 ∨ t = 4 ∨ t = 5)

/-- E of a job (R171, Table 6-3). -/
def jobExp (d : Descriptor) : Int :=
  if d.u8 0x0D = 1 then (if d.u8 0x0F = 1 then 11 else if d.u8 0x0F = 4 then 12 else 3) else signedOf 8 (d.u8 0x0C)

/-- Checks that MATMUL and RESIDENT share (Table 12-8). -/
def matrixArgs (d : Descriptor) (v : Variant) : List (Nat × Bool) :=
  [chk 0x08 (decide (16 ≤ d.u8 0x08 ∨ 3 < d.u8 0x08 % 8)), chk 0x0D (decide (1 < d.u8 0x0D)),
   chk 0x0E (decide (63 < d.u8 0x0E)),
   chk 0x0F (!matrixType (d.u8 0x0F) || (decide (d.u8 0x0F = 5) && decide (d.u8 0x0D % 2 = 1))),
   chk 0x18 (badDaddr v (d.u64 0x18) 1), chk 0x20 (decide (d.u32 0x20 = 0)), chk 0x24 (decide (d.u32 0x24 % 64 ≠ 0)),
   chk 0x30 (badDaddr v (d.u64 0x30) 1), chk 0x38 (decide (d.u32 0x38 % 64 ≠ 0))]

/-- ATOMIC is named (R179). -/
def atomicNamed (d : Descriptor) : Bool := decide (d.u8 0x09 / 4 % 4 = 1)

def matmulArgs (f : Fetched) (s : State) : List (Nat × Bool) :=
  let d := f.desc
  matrixArgs d s.tray.variant ++
  [chk 0x09 (decide (16 ≤ d.u8 0x09 ∨ 1 < d.u8 0x09 % 4 ∨ 1 < d.u8 0x09 / 4 % 4)), chk 0x0A (decide (256 < d.u16 0x0A)),
   chk 0x28 (badSaddr s.tray.variant (d.u64 0x28) 64),
   chk 0x30 (atomicNamed d && (!daddrIsStack (d.u64 0x30) || decide (d.u64 0x30 % 4 ≠ 0)))]

/-- The packed length of an input vector of RESIDENT, its stride below it. -/
def residentArgs (f : Fetched) (s : State) : List (Nat × Bool) :=
  let d := f.desc
  let paired := decide (8 ≤ d.u8 0x08)
  let elems := (d.u8 0x0A + 1) * (if paired then 1 else 2)
  matrixArgs d s.tray.variant ++
  [chk 0x09 (decide (9 < d.u8 0x09)), chk 0x0A (decide (127 < d.u8 0x0A)), chk 0x0B (decide (127 < d.u8 0x0B)),
   chk 0x24 (decide (d.u32 0x24 < packedBytes (d.u8 0x0F) elems)),
   chk 0x28 (decide (d.u64 0x28 ≠ 0) && badDaddr s.tray.variant (d.u64 0x28) 64)]

/-- The parameters of a matrix descriptor, with the shape and the tables that its kind gives. -/
def matrixParams (d : Descriptor) (resident : Bool) (nrows ncols mask stats : Nat) (scales : List W32) (images : List W64) :
    JobParams :=
  { format := BitVec.ofNat 3 (d.u8 0x08), paired := decide (8 ≤ d.u8 0x08),
    order := if resident then 0 else BitVec.ofNat 2 (d.u8 0x09),
    combine := if resident then 0 else BitVec.ofNat 2 (d.u8 0x09 / 4),
    spill := if resident ∨ d.u16 0x0A = 0 then 64 else d.u16 0x0A, accExp := jobExp d, inType := BitVec.ofNat 8 (d.u8 0x0F),
    seed := BitVec.ofNat 64 (d.u64 0x10), inBase := BitVec.ofNat 64 (d.u64 0x18), nvec := d.u32 0x20,
    inStride := d.u32 0x24, outBase := BitVec.ofNat 64 (d.u64 0x30), outStride := d.u32 0x38, nrows := nrows,
    ncols := ncols, tileMask := BitVec.ofNat 10 mask, statsAddr := BitVec.ofNat 64 stats, scales := scales,
    images := images, single := false }

/-- Header of a job table (Table 12-9). -/
structure TableHead where
  rowBlk : Nat
  colBlk : Nat
  nrows  : Nat
  ncols  : Nat
  mask   : Nat
  stats  : Nat
deriving DecidableEq, Repr

def tableHead (b : List Byte) : TableHead :=
  { rowBlk := field b 0 2 + 1, colBlk := field b 2 2 + 1, nrows := field b 4 4, ncols := field b 8 4, mask := field b 0x0C 2,
    stats := field b 0x10 8 }

/-- Tiles of a mask that are in the pool; mask 0 names every pooled tile (Table 12-9). -/
def poolOf (s : State) (mask : BitVec 10) : List TileIx :=
  (List.finRange 10).filter (fun t => s.tiles[t].group.isNone && (decide (mask = 0) || mask.getLsbD t.val))

/-- The first field of a job table header that fails (Table 12-9, R171, R323). -/
def headFault (s : State) (paired : Bool) (b : List Byte) : Option Nat :=
  let h := tableHead b
  let zero := (List.range 40).map (fun i => chk (0x18 + i) (decide (byteAt b (0x18 + i) ≠ 0)))
  firstFailing ([chk 4 (decide (h.nrows ≤ 128 * (h.rowBlk - 1) ∨ 128 * h.rowBlk < h.nrows) ||
      decide (65536 < h.nrows * (if paired then 1 else 2))),
    chk 8 (decide (h.ncols ≤ 128 * (h.colBlk - 1) ∨ 128 * h.colBlk < h.ncols)),
    chk 0x0C (decide (1024 ≤ h.mask) || (List.finRange 10).any (fun t => h.mask.testBit t.val && s.tiles[t].group.isSome)),
    chk 0x0E (decide (field b 0x0E 2 ≠ 0)),
    chk 0x10 (decide (h.stats ≠ 0) && badDaddr s.tray.variant h.stats 64)] ++ zero)

/-- A block or weight entry that breaks Table 9-7: the offset in it. -/
def blockEntryFault (v : Variant) (b : List Byte) : Option Nat :=
  firstFailing [chk 0 (badSaddr v (field b 0 8) 64), chk 8 (!(f32 (field b 8 4)).isFinite || (f32 (field b 8 4)).isNeg),
    chk 0x0C (decide (field b 0x0C 4 ≠ 0))]

/-- The fusion entry that a job names, in the active set. -/
def fusionNamed (s : State) (d : Descriptor) : Option FusionEntry := (s.sets.fusionActive.toList[d.u8 0x0E]?).join

/-- What an entry forbids to a job: CONV 15 without ATOMIC, ATOMIC with an activation or a conversion (Table 10-3), and a
stride below the packed result (R191). -/
def fusionJobFault (e : FusionEntry) (atomic : Bool) (outStride comps : Nat) : Option Nat :=
  firstFailing [chk 0x0E (if atomic then decide (e.act ≠ 0 ∨ e.conv ≠ 15) else decide (e.conv = 15)),
    chk 0x38 (decide (outStride < outBytes e.conv.toNat comps))]

/-- A job that may use the dies `ds` reserves its part of their partial-sum regions: vectors per sub-batch, 0 if not one
fits (R167). -/
def psumFit (s : State) (ds : List (Fin 2)) (p : JobParams) : Nat :=
  match least (ds.map (fun e => psumFree s e / (9 * p.comps))) with
  | none => 0
  | some k => if p.paired ∧ 1 < k then k - k % 2 else k

/-- The dies of some tiles. -/
def diesOf (ts : List TileIx) : List (Fin 2) :=
  (if ts.any (fun t => decide (engineOf t = 0)) then [0] else []) ++ (if ts.any (fun t => decide (engineOf t = 1)) then [1] else [])

/-- A job accepted: it waits in State for its segments. -/
def acceptMatrix (ring : RingIx) (f : Fetched) (kind : JobKind) (p : JobParams) (e : FusionEntry) (per : Nat) (ds : List (Fin 2))
    (s : State) : State :=
  let j := newJob ring f kind (if s.rings[ring].level = 3 then 3 else 4) { p with single := decide (per = 1 ∧ 1 < p.nvec) }
  { s with jobs := s.jobs ++ [{ j with
      fusion := some e, fusionEpoch := s.sets.groups[(1 : GroupIx)].epoch, psum := min p.nvec per * (9 * p.comps),
      psumDies := (if 0 ∈ ds then 1 else 0) + (if 1 ∈ ds then 2 else 0),
      subBatch := decide (per < p.nvec) }] }

/-- The stack that an ATOMIC destination lies in has a failed atomic unit (R194). -/
def atomicStackBad (s : State) (a : Nat) : Bool := s.sched.atomicBad.getLsbD (stackOf (daddrOff a))

/-- MATMUL after its descriptor's own checks (R322, R323). -/
def matmulBody (ring : RingIx) (f : Fetched) (s : State) : Body :=
  let d := f.desc
  let jt := d.u64 0x28
  let paired := decide (8 ≤ d.u8 0x08)
  match readFails s (2 ^ 63 + jt) 64 with
  | some c => .done s (Reply.of c)
  | none =>
  let hb := stackRead s jt 64
  match headFault s paired hb with
  | some o => .done s (Reply.argIn 1 0 o)
  | none =>
  let h := tableHead hb
  let n := h.rowBlk * h.colBlk
  match readFails s (2 ^ 63 + jt + 64) (16 * n) with
  | some c => .done s (Reply.of c)
  | none =>
  let entry := fun i => stackRead s (jt + 64 + 16 * i) 16
  match (List.range n).findSome? (fun i => (blockEntryFault s.tray.variant (entry i)).map (fun o => (i, o))) with
  | some x => .done s (Reply.argIn 1 x.1 (64 + 16 * x.1 + x.2))
  | none =>
  let p := matrixParams d false h.nrows h.ncols h.mask h.stats ((List.range n).map (fun i => BitVec.ofNat 32 (field (entry i) 8 4)))
    ((List.range n).map (fun i => BitVec.ofNat 64 (field (entry i) 0 8)))
  if p.inStride < packedBytes (d.u8 0x0F) p.elems then .done s (Reply.arg 0x24)
  else
  let pool := poolOf s p.tileMask
  match fusionNamed s d with
  | none => illegal s
  | some e =>
  match fusionJobFault e (atomicNamed d) p.outStride p.comps with
  | some o => .done s (Reply.arg o)
  | none =>
  let per := psumFit s (diesOf pool) p
  if per = 0 ∧ pool ≠ [] then .done s (Reply.argIn 1 0 4)
  else if pool.all (fun t => decide (s.tiles[t].state = .faulted)) then illegal s
  else if noAdmit s then .done s (Reply.of codeThermalThrottled)
  else if atomicNamed d && atomicStackBad s (d.u64 0x30) then .done s (Reply.of codeIntAtomic)
  else .running (acceptMatrix ring f .matmul p e per (diesOf pool) s)

def execMatmul (ring : RingIx) (s : State) : Result := serve (isOp opMatmul) ring matmulArgs (matmulBody ring) s

/-- RESIDENT after its descriptor's own checks (R266, R324, R277). -/
def residentBody (ring : RingIx) (f : Fetched) (s : State) : Body :=
  let d := f.desc
  let t : TileIx := ⟨d.u8 9 % 10, by omega⟩
  let p := matrixParams d true (d.u8 0x0B + 1) (d.u8 0x0A + 1) 0 (d.u64 0x28) [] []
  match fusionNamed s d with
  | none => illegal s
  | some e =>
  match fusionJobFault e false p.outStride p.comps with
  | some o => .done s (Reply.arg o)
  | none =>
  let per := psumFit s [engineOf t] p
  if per = 0 then .done s (Reply.arg 0x0B)
  else if s.tiles[t].group.isNone ∨ s.sets.imageActive[t].isNone ∨ s.tiles[t].state = .faulted then illegal s
  else if noAdmit s then .done s (Reply.of codeThermalThrottled)
  else .running (acceptMatrix ring f (.resident t) p e per [engineOf t] s)

def execResident (ring : RingIx) (s : State) : Result := serve (isOp opResident) ring residentArgs (residentBody ring) s

/-! ### JOB_ABORT (R326, Table 12-11) -/

/-- Opcodes of the jobs that JOB_ABORT reaches. -/
def jobOp (o : Nat) : Bool := decide (o = opMatmul ∨ o = opResident ∨ o = opReduce ∨ o = opTree)

/-- Outputs of a tree job that ends early: SKIPPED and canonical NaNs for every sample of an unfinished wave (R214). -/
def skipRest (j : Job) (s : State) : State :=
  match j.model with
  | none => s
  | some m =>
    let d := j.desc
    let mo := modelAt s m.desc.toNat
    (List.range (d.u32 0x0C - j.tree.statuses.length)).foldl (fun s i =>
      let k := j.tree.statuses.length + i
      let o := treeOutput s mo (d.u8 9) 4 []
      daddrWrite (d.u64 0x28 + k) [o.2] (daddrWrite (d.u64 0x20 + k * d.u32 0x1C) o.1 s)) s

/-- A job stopped with a code, by its kind. -/
def stopAny (j : Job) (code : W16) (s : State) : State :=
  match j.kind with
  | .matmul => stopJob j code 0 s
  | .resident _ => stopJob j code 0 s
  | .tree => finishJob j [code] 0 (skipRest j s)
  | _ => finishJob j [code] 0 s

/-- The ring that a JOB_ABORT names. -/
def abortRing (d : Descriptor) : RingIx := ⟨d.u8 8 % 64, by omega⟩

/-- The submissions that a JOB_ABORT may reach: one that the extension submits reaches those of the same forwarded command
alone (R513), any other reaches all. -/
def abortReaches (ring : RingIx) (f : Fetched) (n : RingIx) (s : State) (id : Nat) : Bool :=
  match submitter ring f.id s with
  | none => true
  | some k =>
    let of := fun (r : RingIx) (i : Nat) => s.cores[k].subs.find? (fun x => decide (x.ring = r) && decide (x.id = i))
    (of n id).any (fun x => (of ring f.id).any (fun y => decide (x.parent = y.parent)))

def jobAbortBody (ring : RingIx) (f : Fetched) (s : State) : Body :=
  let n := abortRing f.desc
  let tag := BitVec.ofNat 32 (f.desc.u32 0x0C)
  if s.rings[n].policy = 2 then illegal s
  else
    let q := s.rings[n].queue.filter (fun x => jobOp x.desc.opcode && decide (x.desc.tag = tag) && abortReaches ring f n s x.id)
    let js := s.jobs.filter (fun j => decide (j.ring = n) && decide (j.desc.tag = tag) && jobOp j.desc.opcode &&
      abortReaches ring f n s j.id)
    let s1 := js.foldl (fun s j => stopAny j codeDropped s) (completeAll n q codeDropped s)
    .done s1 (Reply.ok (q.length + js.length))

def execJobAbort (ring : RingIx) (s : State) : Result :=
  serve (isOp opJobAbort) ring (fun f _ => [chk 8 (decide (f.desc.u8 8 < 1 ∨ 63 < f.desc.u8 8))]) (jobAbortBody ring) s

/-! ### Dispatch of segments (R343, R347) -/

/-- A tile that a job's kind lets it use. -/
def mayUse (s : State) (j : Job) (t : TileIx) : Bool :=
  match j.kind with
  | .matmul => decide (t ∈ poolOf s j.params.tileMask)
  | .resident r => decide (r = t)
  | .vecRaw r => decide (r = t)
  | .radio g n _ => (match slotOf s g n with
    | some x => decide (radioTile s x.entry = t.val)
    | none => false)
  | _ => false

/-- A job that is a radio batch set: P1. -/
def Job.isRadio (j : Job) : Bool :=
  match j.kind with
  | .radio _ _ _ => true
  | _ => false

/-- A CAL_DEGRADED tile serves a Q6 or Q7 pooled job only when no other tile of the mask can (R323). -/
def degradedHeld (s : State) (j : Job) (t : TileIx) : Bool :=
  decide (2 ≤ j.params.format.toNat) && decide (j.kind = .matmul) && s.tiles[t].cal.degraded &&
  (poolOf s j.params.tileMask).any (fun u => inService s.tiles[u] && !s.tiles[u].cal.degraded)

/-- The first block of a job with a pass to dispatch that may go to a tile. -/
def nextBlock (s : State) (j : Job) (t : TileIx) : Option (Nat × Nat) :=
  (jobBlocks s j).find? (fun b => decide ((blockRun j b.1 b.2).sent < openPasses s j b.1) &&
    !j.segments.any (fun g => decide (g.row = b.1) && decide (g.col = b.2)) &&
    (j.isRadio || engineFits s j (engineOf t) b.1 b.2))

/-- A job has a pass to dispatch that may go to a tile. -/
def hasWork (s : State) (j : Job) (t : TileIx) : Bool :=
  mayUse s j t && !degradedHeld s j t && (nextBlock s j t).isSome

/-- Dispatch class (Table 13-4). -/
def classOf (s : State) (j : Job) : Nat :=
  let w := withinReserve s s.rings[j.ring]
  if j.isRadio then 1 else if j.level = 3 then (if w then 2 else 4) else (if w then 3 else 5)

/-- Tile time of a segment: its passes, what a batch below 512 symbols leaves exposed, the job's first load on the tile, and
the ramp of a SLEW tile found idle (R352). -/
def segmentCost (s : State) (j : Job) (t : TileIx) (row first count : Nat) : Nat :=
  let l := passLen j.params.format.toNat
  let batch := (openPasses s j row - donePasses j) * l
  count * l + (if first = donePasses j then 512 - batch else 0) +
  (if j.tilesUsed.getLsbD t.val then 0 else 512 + (if s.tiles[t].heat.slew ∧ s.tiles[t].state = .ready then 4194304 else 0))

/-! ### Turns of the rings of one class (R347, assumption 21) -/

/-- Passes of the longest segment that `left` passes of a batch leave (R343). -/
def segmentPasses (format left : Nat) : Nat := min left (15728 / passLen format)

/-- What the next segment of a job costs on a tile. -/
def headCost (s : State) (t : TileIx) (j : Job) : Nat :=
  match nextBlock s j t with
  | none => 0
  | some b =>
    let first := (blockRun j b.1 b.2).sent
    segmentCost s j t b.1 first (segmentPasses j.params.format.toNat (openPasses s j b.1 - first))

/-- The rings with work of a class for a tile, each by its oldest job that has some. -/
def classHeads (s : State) (t : TileIx) (c : Nat) : List Job :=
  let js := s.jobs.filter (fun j => !j.isRadio && decide (classOf s j = c) && hasWork s j t)
  js.filter (fun j => !js.any (fun k => decide (k.ring = j.ring) && decide (k.id < j.id)))

/-- The quantum of a ring among them: its RESERVE in tile-symbols; of RESERVE 0 the smallest positive one, or one segment where
no ring has any. -/
def quantumOf (s : State) (js : List Job) (j : Job) : Nat :=
  let of := fun (k : Job) => s.rings[k.ring].reserve.toNat
  if of j ≠ 0 then of j else (least ((js.map of).filter (fun q => decide (q ≠ 0)))).getD 15728

/-- Place of a ring in the round after the ring whose turn it is, which comes last. -/
def placeAfter (s : State) (j : Job) : Nat := (j.ring.val + 63 - s.sched.turn.val) % 64

/-- When a ring's turn comes that pays for its next segment, in places of the rounds ahead: at once for the ring whose turn it is
and whose deficit covers it. -/
def turnAt (s : State) (t : TileIx) (js : List Job) (j : Job) : Nat :=
  let short := headCost s t j - (s.sched.deficits[j.ring]).toNat
  if j.ring = s.sched.turn ∧ short = 0 then 63
  else max 1 (ceilDiv short (quantumOf s js j)) * 64 + placeAfter s j

/-- It is a job's ring that has the turn in its class. -/
def ringTurn (s : State) (j : Job) (t : TileIx) : Bool :=
  let js := classHeads s t (classOf s j)
  js.all (fun k => decide (turnAt s t js j ≤ turnAt s t js k))

/-- A segment of that ring dispatched: every ring visited on the way gains its quantum, the ring pays the cost and keeps the turn;
a ring without a job keeps nothing. -/
def takeTurn (j : Job) (t : TileIx) (cost : Nat) (s : State) : State :=
  let js := classHeads s t (classOf s j)
  let at_ := turnAt s t js j
  let gain := fun (r : RingIx) => match js.find? (fun k => decide (k.ring = r)) with
    | some k => (at_ - placeAfter s k) / 64 * quantumOf s js k
    | none => 0
  let deficits := Vector.ofFn (fun (r : RingIx) =>
    if s.jobs.any (fun k => decide (k.ring = r)) then
      s.sched.deficits[r] + (gain r : Int) - (if r = j.ring then (cost : Int) else 0)
    else 0)
  { s with sched := { s.sched with turn := j.ring, deficits := deficits } }

/-- Of two radio sets, the first is due earlier, or at the same time with the lower group (Table 13-5). -/
def dueBefore (s : State) (k j : Job) : Bool :=
  match k.kind, j.kind with
  | .radio g n a, .radio h m b => (match slotOf s g n, slotOf s h m with
    | some x, some y =>
      let d := setDue s.time.numerology x.entry n a
      let e := setDue s.time.numerology y.entry m b
      decide (d < e) || (decide (d = e) && decide (g < h))
    | _, _ => false)
  | _, _ => false

/-- Work that goes before a job on a tile: a higher class, a radio set due earlier, or an older job of the same ring and class
(R347, Table 13-5). -/
def outranked (s : State) (j : Job) (t : TileIx) : Bool :=
  s.jobs.any (fun k => hasWork s k t && (decide (classOf s k < classOf s j) || dueBefore s k j ||
    (!j.isRadio && decide (classOf s k = classOf s j) && decide (k.ring = j.ring) && decide (k.id < j.id))))

/-- A gap of a tile keeps a job off it (R144, Table 5-4). -/
def gapHolds (x : Tile) (radio : Bool) : Bool :=
  match x.cal.gap with
  | none => false
  | some g => decide (g.kind = .repair) || (decide (g.kind = .declared) && !radio)

/-- A piece of work is a radio batch set. -/
def radioRuns (s : State) (id : Nat) : Bool := s.jobs.any (fun i => decide (i.id = id) && i.isRadio)

/-- A job preempts what a tile runs: a radio set any other work (R30, Table 13-4). -/
def preempts (s : State) (j : Job) (x : Tile) : Bool := j.isRadio && x.job.any (fun k => !radioRuns s k)

/-- The segment that a tile runs ends its batch on it. -/
def endsBatch (s : State) (t : TileIx) : Bool :=
  s.tiles[t].job.any (fun id => s.jobs.any (fun k => decide (k.id = id) &&
    (k.segments.find? (fun g => decide (g.tile = t))).any (fun g => decide (g.first + g.count = openPasses s k g.row))))

/-- Core 1 may place a batch behind the one that a tile runs, so that its image loads meanwhile (R17, R61): behind the last
segment of a batch that presents its vectors, in the place of work of a lower class, and behind a radio set another one alone
(R346). -/
def mayFollow (s : State) (j : Job) (t : TileIx) : Bool :=
  let x := s.tiles[t]
  (decide (j.kind = .matmul) || j.isRadio) && endsBatch s t && !segmentWaits s t &&
  x.job.all (fun k => j.isRadio || !radioRuns s k) &&
  x.next.all (fun k => s.jobs.any (fun i => decide (i.id = k) && decide (classOf s j < classOf s i)))

/-- A tile can take a batch of a job now: in service, its vectors not held, and free, running work that a radio set preempts, or
with room behind its batch. -/
def tileTakes (s : State) (j : Job) (t : TileIx) : Bool :=
  let x := s.tiles[t]
  inService x && (!(x.resting || x.maintDue || joinsGroup s t || !x.laser.locked) || j.tilesUsed.getLsbD t.val) && !x.frozen &&
  x.moving.isNone && x.mesh.heldFrom.isNone &&
  x.cal.step.isNone && !gapHolds x j.isRadio && !s.kermes[engineOf t].lost &&
  (match x.job with
   | none => x.next.isNone
   | some _ => preempts s j x || mayFollow s j t)

/-- Passes of a segment: at most 15,728 SCLK, and at least 15,680 where it is not the last of its batch (R343). -/
def segmentLength (format first count n : Nat) : Bool :=
  decide (count * passLen format ≤ 15728) && (decide (first + count = n) || decide (15680 ≤ count * passLen format))

/-- Whether core 1 dispatches this segment (R18, R343, R347): whole passes, in order, within the sub-batch (R167), of the length of
R343, of the ring whose turn it is; a radio batch whole. -/
def dispatchable (s : State) (j : Job) (t : TileIx) (row col first count : Nat) : Bool :=
  let b := blockRun j row col
  let n := openPasses s j row
  coreRuns s 1 && decide ((row, col) ∈ jobBlocks s j) && decide (b.sent = first) && decide (1 ≤ count) && decide (first + count ≤ n) &&
  !j.segments.any (fun g => decide (g.row = row) && decide (g.col = col)) && mayUse s j t && tileTakes s j t &&
  (if j.isRadio then decide (first = 0) && decide (count = n)
   else segmentLength j.params.format.toNat first count n && ringTurn s j t && engineFits s j (engineOf t) row col) &&
  !outranked s j t && !(s.sched.excessCut && decide (4 ≤ classOf s j)) && !degradedHeld s j t

/-- A segment is the first that a tile runs of its batch (R125). -/
def freshBatch (j : Job) (t : TileIx) (row col : Nat) : Bool := !(blockRun j row col).tiles.getLsbD t.val

/-- The residual check of R125 at the dispatch of a batch to a tile, and at that of every segment the temperature check of R107. -/
def precisionFails (s : State) (t : TileIx) (format : Nat) (fresh : Bool) : Bool :=
  let h := s.tiles[t].heat
  let zone := s.thermal.zoneMax.toList.getD t.val (0, 0)
  let resid := !h.residValid || h.zones.toList.any (fun z => z.openHeater) || decide (h.residMax.toNat ≤ h.resid.toNat)
  decide (2 ≤ format) && ((fresh && resid) || decide (1600 < zone.1.toInt))

/-- A failed check of R125 on a SLEW tile is a tile event (Table 4-4, assumption 35). -/
def checkEvent (t : TileIx) (failed : Bool) (s : State) : State :=
  if failed && s.tiles[t].heat.slew then tileEvent 0 t s else s

/-- The phase image that a block needs in the active latches; none for a job on the tile's own image. -/
def blockImage (s : State) (j : Job) (row col : Nat) : Option Nat :=
  match j.kind with
  | .matmul => some (j.params.images.getD (row * j.params.colBlocks + col) 0).toNat
  | .radio g n _ => (slotOf s g n).map (fun x => (x.weights.getD row (0, 0)).1.toNat)
  | _ => none

/-- The codes of a block's image. -/
def blockCodes (s : State) (j : Job) (row col : Nat) : Option Image := (blockImage s j row col).map (imageAt s)

/-- A segment continues on the image of the active latches, so it adds no load (R343). -/
def onImage (s : State) (j : Job) (t : TileIx) (row col : Nat) : Bool :=
  (blockCodes s j row col).all (fun im => decide (s.tiles[t].mesh.active.image = im) && s.tiles[t].mesh.active.complete)

/-- The loads of batches given up, and what is held for them: their segments have gone. -/
def dropBatchLoads (x : Tile) : Tile :=
  let batch := fun (l : ShadowLoad) => match l.use with
    | .batch _ => true
    | _ => false
  let load := x.mesh.load.filter (fun l => !batch l)
  let m := { x.mesh with load := load, loadQueue := x.mesh.loadQueue.filter (fun l => !batch l), heldFrom := none }
  { x with mesh := if x.mesh.load.isSome ∧ load.isNone then { m with shadow := { m.shadow with complete := true } } else m }

/-- The peak residual of a tile fails a Q6 or Q7 batch (R125). -/
def peakFails (j : Job) (x : Tile) : Bool := decide (2 ≤ j.params.format.toNat) && decide (x.heat.residMax.toNat ≤ x.heat.peak.toNat)

/-- Work displaced from a tile, all of it or what is placed behind the running segment: it resumes from its first pass not yet
arrived (R30, R346); a failing peak is kept. -/
def displace (t : TileIx) (x : Tile) (all : Bool) (j : Job) : Job :=
  let goes := fun (g : Segment) => decide (g.tile = t) && (all || !g.begun)
  (j.segments.filter goes).foldl (fun j g =>
    let b := blockRun j g.row g.col
    setRun { b with sent := b.got, bad := b.bad || (g.begun && peakFails j x) } j)
    { j with segments := j.segments.filter (fun g => !goes g) }

/-- The fusion set bound at the first pass (R273): none if the entry has gone, else the job with it or the field it breaks. -/
inductive Bound where
  | ok (j : Job)
  | empty
  | bad (o : Nat)

def bindFusion (s : State) (j : Job) : Bound :=
  if j.fusionBound || j.fusion.isNone then .ok j
  else match fusionNamed s j.desc with
  | none => .empty
  | some e =>
    match fusionJobFault e (decide (j.params.combine = 1)) j.params.outStride j.params.comps with
    | some o => .bad o
    | none => .ok { j with fusion := some e, fusionEpoch := s.sets.groups[(1 : GroupIx)].epoch, fusionBound := true }

/-- The precision-miss counter of a radio group (R255). -/
def countMiss (j : Job) (s : State) : State :=
  match j.kind with
  | .radio g _ _ => { s with radio := { s.radio with
      groups := upd s.radio.groups g (fun c => { c with precisionMiss := satInc c.precisionMiss }) } }
  | _ => s

/-- The first read of an input vector that fails, of those that passes `first` to `first + count - 1` carry. -/
def vectorFails (s : State) (p : JobParams) (first count : Nat) : Option W16 :=
  ((List.range (count * p.perPass)).filter (fun i => decide (first * p.perPass + i < p.nvec))).findSome? (fun i =>
    readFails s (p.inBase.toNat + (first * p.perPass + i) * p.inStride) (packedBytes p.inType.toNat p.elems))

/-- The first read of a segment's inputs that fails (R547): its image, then its vectors. -/
def inputFails (s : State) (j : Job) (row col first count : Nat) : Option W16 :=
  match j.kind with
  | .radio _ _ _ => none
  | .vecRaw _ => (List.range count).findSome? (fun i => readFails s (j.params.inBase.toNat + 256 * (first + i)) 193)
  | _ =>
    match (blockImage s j row col).bind (fun a => readFails s (2 ^ 63 + a) 40960) with
    | some c => some c
    | none => vectorFails s j.params first count

/-- An input slice of the segment has e above E (R172). -/
def expFails (s : State) (j : Job) (row col first count : Nat) : Bool :=
  match j.kind with
  | .vecRaw _ => false
  | _ => (List.range count).any (fun i => match blockExp (passInputs s j row col (first + i)) with
    | none => true
    | some e => decide (j.params.accExp < e))

/-- The tile's side of a dispatched segment: behind the running one, it is noted and its image loads (R61, a hidden load); else the
tile is SERVING, with an exposed load where the image is not in the active latches, or, for a set that preempts, one that was
meant to be hidden (R64). The peak residual is cleared where R125 says so. -/
def occupy (s : State) (j : Job) (t : TileIx) (row col : Nat) (fresh : Bool) (x : Tile) : Tile :=
  let im := (blockCodes s j row col).getD []
  let level := if j.isRadio then 1 else j.level
  let loads := !onImage s j t row col
  let cut := preempts s j x
  if x.job.isSome ∧ !cut then
    let y := { dropBatchLoads x with next := some j.id }
    if loads then beginLoad (newLoad im (.batch j.id) level true) y else y
  else
    let y := { dropBatchLoads x with
      state := .serving, job := some j.id, next := none, batchFormat := j.params.format,
      heat := { x.heat with peak := if fresh ∧ 2 ≤ j.params.format.toNat then 0 else x.heat.peak },
      cal := { x.cal with gap := none } }
    if loads then
      let z := beginLoad (newLoad im (.batch j.id) level cut) y
      if cut then holdVectors s.time.symbolCount z else z
    else y

/-- A segment dispatched: its vectors staged, the tile occupied, what it displaces set back, progress, reservation and statistics
noted. -/
def startSegment (j : Job) (t : TileIx) (row col first count : Nat) (miss : Bool) (s : State) : State :=
  let cost := segmentCost s j t row first count
  let x := s.tiles[t]
  let fresh := freshBatch j t row col
  let loads := !onImage s j t row col
  let behind := x.job.isSome && !preempts s j x
  let b := blockRun j row col
  let g : Segment := { tile := t, row := row, col := col, first := first, count := count, loads := loads, fresh := fresh,
                       begun := !loads && !behind }
  let split := decide (engineOf t = 1) && (splitOf j row).isNone && !j.isRadio
  let j1 := setRun { b with sent := first + count, tiles := b.tiles ||| (1#10 <<< t.val) }
    (stageSegment s row col first count (if split then closeSplit row col j else j))
  let j2 := { j1 with
    segments := j1.segments ++ [g],
    tilesUsed := j.tilesUsed ||| (1#10 <<< t.val), work := j.work + count, cost := j.cost + cost,
    startSC := if j.started then j.startSC else s.time.symbolCount, started := true,
    epoch := s.tiles[t].cal.epoch, precision := j.precision || miss,
    degraded := j.degraded || (s.tiles[t].cal.degraded && decide (2 ≤ j.params.format.toNat)) }
  let s1 := { s with jobs := s.jobs.map (fun k => if k.id = j.id then j2 else displace t x (!behind) k) }
  let s2 := setTile t (occupy s j t row col fresh) s1
  if j.isRadio then s2
  else setRing j.ring (fun r =>
    { chargeBucket cost r with lastCost := if s.jobs.any (fun k => decide (k.ring = j.ring) && decide (j.id < k.id)) then r.lastCost
                                           else BitVec.ofNat 64 j2.cost }) { s2 with sched := (takeTurn j t cost s).sched }

/-- Core 1 dispatches a segment to a tile (R125, R172, R273, R347). -/
def execSegmentDispatch (tile : TileIx) (job row col first count : Nat) (s : State) : Result :=
  match jobOf s job with
  | none => .next s
  | some j =>
    if !dispatchable s j tile row col first count then .next s
    else match bindFusion s j with
    | .empty => .next (stopJob j codeStateIllegal 0 s)
    | .bad o => .next (stopJob j codeArgRange o s)
    | .ok j1 =>
      let miss := precisionFails s tile j.params.format.toNat (freshBatch j tile row col)
      if miss && !j.isRadio then .next (checkEvent tile true (stopJob { j1 with precision := true } codePrecisionUnmet 0 s))
      else match inputFails s j row col first count with
      | some c => .next (stopJob j1 c 0 s)
      | none =>
        if expFails s j row col first count then .next (stopJob j1 codeArgRange 0x0C s)
        else .next (checkEvent tile miss
          (startSegment j1 tile row col first count miss (if miss && !j.precision then countMiss j s else s)))

/-- Groups whose SET_MEMBER waits for tiles to drain go on (R265). -/
def tryJoins (s : State) : State := (List.finRange 16).foldl (fun s g => tryJoin g s) s

/-- What waits for a tile to be free between batches: a lost lock or written coefficients take it to MAINT, a REST darkens it
(R73, R74, R332), and an open gap begins its next step. -/
def settleTile (t : TileIx) (s : State) : State :=
  let x := s.tiles[t]
  if !inService x ∨ x.job.isSome ∨ x.next.isSome ∨ batchRuns s t then s
  else if !x.laser.locked ∨ x.maintDue then enterMaint t s
  else if x.resting then setTile t (fun x => { x with moving := some .dark, state := .ready }) s
  else beginStep t s

/-- A tile still on its way to, or in, a state that IDLE does not have. -/
def tileUp (x : Tile) : Bool :=
  decide (x.state = .warm) || decide (x.state = .ready) || decide (x.state = .serving) || decide (x.state = .maint)

/-- A POWER_STATE that waits completes when its state is reached (R333, R397); resting tiles that are free go DARK. -/
def tryPower (s : State) : State :=
  match s.tray.powerCmd with
  | none => s
  | some f =>
    if s.tray.deepReq then s
    else if s.tray.goal = .run then
      (if s.tiles.toList.any (fun x => decide (x.state = .warm)) then s
       else completeAny f (Reply.of codeOk) { s with tray := { s.tray with powerCmd := none, powerState := .run } })
    else
      let s1 := (List.finRange 10).foldl (fun s t => if s.tiles[t].resting then settleTile t s else s) s
      if s1.tiles.toList.any tileUp then s1
      else completeAny f (Reply.of codeOk) { s1 with tray := { s1.tray with powerCmd := none, powerState := .idle } }

/-- The segment placed behind the one that has ended is the tile's now: its image is swapped in at the boundary, or its vectors
are held until the load ends (R62, R64). -/
def advanceTile (t : TileIx) (id : Nat) (s : State) : State :=
  let seg := (jobOf s id).bind (fun j => j.segments.find? (fun g => decide (g.tile = t)))
  let format : BitVec 3 := ((jobOf s id).map (fun j => j.params.format)).getD 0
  let fresh := seg.any (fun g => g.fresh) && decide (2 ≤ format.toNat)
  let s1 := setTile t (fun x => { x with job := some id, next := none, batchFormat := format,
                                         heat := { x.heat with peak := if fresh then 0 else x.heat.peak } }) s
  if !(seg.any (fun g => g.loads)) then beginSegment t s1
  else if s1.tiles[t].mesh.load.isSome then setTile t (holdVectors s.time.symbolCount) s1
  else beginSegment t (setTile t takeSwap s1)

/-- The tile is free of its segment: it goes on with the one placed behind it; without one it is SERVING while some job still has
work for it, else READY (Table 2-6). -/
def releaseTile (t : TileIx) (s : State) : State :=
  match s.tiles[t].next with
  | some id => advanceTile t id s
  | none =>
    let idle := !s.jobs.any (fun j => hasWork s j t)
    settleTile t (setTile t (fun x =>
      let st := if x.state = .serving ∧ idle then TileState.ready else x.state
      { x with job := none, state := st }) s)

/-- The running segment of a tile ends its passes: a swap that waited for the boundary takes effect (R63, R274). -/
def segmentOver (t : TileIx) (s : State) : State := tryJoins (releaseTile t (atPassBoundary t s))

/-- A segment of a tile ends and the tile is arbitrated again (R343); after the last pass of a Q6 or Q7 batch the peak
residual of every tile that ran it is checked (R125). A segment whose image still loads has presented nothing and goes on. -/
def execSegmentEnd (tile : TileIx) (s : State) : Result :=
  match s.tiles[tile].job.bind (jobOf s) with
  | none => .next (segmentOver tile s)
  | some j =>
    match j.segments.find? (fun g => decide (g.tile = tile)) with
    | none => .next (segmentOver tile s)
    | some g =>
      if !g.begun then .next s
      else
        let h := s.tiles[tile].heat
        let b := blockRun j g.row g.col
        let failed := b.bad || peakFails j s.tiles[tile]
        let last := decide (g.first + g.count = openPasses s j g.row)
        let bad := last && failed
        let pk := if j.peak.toNat < h.peak.toNat then h.peak else j.peak
        let j1 := setRun { b with bad := failed } { j with segments := j.segments.erase g, peak := pk, precision := j.precision || bad }
        let s1 := checkEvent tile bad (setJob j.id (fun _ => j1) s)
        let s2 := if bad && !j.isRadio then stopJob j1 codePrecisionUnmet 0 s1
                  else if bad && !j.precision then countMiss j s1 else s1
        .next (segmentOver tile s2)

/-! ### Samples (R85 to R92, R136, R166 to R178) -/

/-- The 384-byte sample word of a pass (R90). -/
def sampleWord (samples : List (BitVec 12)) : List Byte :=
  leBytes 384 (((List.range 256).map (fun i => (samples.getD i 0).toNat * 2 ^ (12 * i))).foldl (· + ·) 0)

/-- A pass of a raw-vector run: its samples go to memory, the codes that the package clamps are counted (R337, R81). -/
def rawPass (j : Job) (t : TileIx) (v : Staged) (samples : List (BitVec 12)) (s : State) : State :=
  setTile t (fun x => { x with conv := { x.conv with codeClamp := satAdd x.conv.codeClamp (clampedCodes v.codes) } })
    (daddrWrite (j.params.outBase.toNat + 384 * v.pass) (sampleWord samples) s)

/-- The samples of a pass may arrive: it is the next of its block, and the tile does not hold it, either for its image or for a
swap (R62, R64, R274). -/
def passArrives (s : State) (j : Job) (t : TileIx) (row col pass : Nat) : Bool :=
  let b := blockRun j row col
  let g := j.segments.find? (fun g => decide (g.tile = t) && decide (g.row = row) && decide (g.col = col))
  decide (pass = b.got) && decide (b.got < b.sent) && b.tiles.getLsbD t.val &&
  g.all (fun g => g.begun && s.tiles[t].mesh.heldFrom.isNone)

/-- What a pass leaves in its tile: clipped passes counted (R89), the collectors and the drift window fed (R92, R136), the last
value of the output port with the epoch in force (R150). -/
def passSeen (j : Job) (v : Staged) (raw : List (List Byte)) (odd : Bool) (x : Tile) : Tile :=
  let l := passSymbols j.params.format.toNat
  let d := detectPass x.conv l odd raw
  let n := if d.2 then 1 else 0
  { x with
    conv := { x.conv with
      clip := satAdd x.conv.clip n, windowClips := x.conv.windowClips + n, open_ := x.conv.open_.addPass x.conv l odd raw,
      outLast := d.1, outEpoch := x.cal.epoch },
    cal := { x.cal with drift := x.cal.drift.addPass x.cal.driftStride x.mesh.active.image (decide (x.state = .maint)) v.codes v.e d.1 } }

/-- The samples of one pass arrive (R85 to R90, R166, R170): the raw ADC samples are corrected, summed and rounded to CS12, the
pass is held until its column block is next, and folds; a pass boundary ends it (R63, R87). -/
def execSampleFold (tile : TileIx) (job row col pass : Nat) (raw : List (List Byte)) (odd : Bool) (s : State) : Result :=
  match jobOf s job with
  | none => .next s
  | some j =>
    if !passArrives s j tile row col pass then .next s
    else
      let v := (stagedOf j row col pass).getD { row := row, col := col, pass := pass, e := 0, codes := [] }
      let samples := (detectPass s.tiles[tile].conv (passSymbols j.params.format.toNat) odd raw).1
      let s1 := setTile tile (passSeen j v raw odd) s
      let b := blockRun j row col
      let j1 := setRun { b with got := b.got + 1 } { j with staged := j.staged.erase v }
      match j.kind with
      | .vecRaw _ =>
        .next (atPassBoundary tile (rawPass j tile v samples (setJob job (fun _ => { j1 with passesDone := j.passesDone + 1 }) s1)))
      | _ =>
        let h : HeldPass := { engine := engineOf tile, row := row, col := col, pass := pass, samples := samples, e := v.e,
                              scale := (blockScales s j row col).1 }
        .next (atPassBoundary tile (setJob job (fun _ => drainHeld s (j.held.length + 1) { j1 with held := j.held ++ [h] }) s1))

/-- Engine B has received engine A's WB48 values and adds them exactly (R180). -/
def addChain (j : Job) : Job :=
  let fromA := j.accs.filter (fun a => decide (a.engine = 0) && j.accs.any (fun b =>
    decide (b.engine = 1) && decide (b.j = a.j) && decide (b.c = a.c)))
  fromA.foldl (fun j a =>
    match j.accs.find? (fun b => decide (b.engine = 1) && decide (b.j = a.j) && decide (b.c = a.c)) with
    | none => j
    | some b =>
      let r := satTo 48 (b.wb + a.wb)
      { setAcc { b with wb := r.1 } { j with accs := j.accs.erase a } with sat := j.sat || r.2 }) { j with chained := true }

/-- A job runs on both engines of a row block. -/
def crossesEngines (j : Job) : Bool := j.splits.any (fun p => decide (0 < p.2))

/-- Engine B receives the values of engine A, once engine A's folds and final spills are complete (R180). -/
def execChainReceive (job : Nat) (s : State) : Result :=
  match jobOf s job with
  | none => .next s
  | some j =>
    if crossesEngines j && !j.chained && decide (j.params.combine = 0) && allArrived s j then
      .next (setJob job (fun _ => addChain j) s)
    else .next s

/-- A stack controller adds a binary32 value into the destination word (R181). -/
def execAtomicAdd (addr : W64) (value : W32) (s : State) : Result :=
  let a := addr.toNat
  if a % 4 ≠ 0 ∨ windowSize s.tray.variant ≤ a ∨ s.sched.atomicBad.getLsbD (stackOf a) then .next s
  else .next (atomicInto a (f32 value.toNat) s)

end Sys2Proof.Machine
end

