-- ==== Sys2Proof/Machine/RadioOps.lean ====
section
/-! DEFINITION. Slots in work: the weights of a slot (R252, R261), what a set needs, the start of a set, its
outputs and its completion (R251, R254 to R260, R470). -/
namespace Sys2Proof.Machine

/-! ### The slot descriptor's lists -/

/-- The bytes of entry `i` of the weight table. -/
def wEntry (s : State) (d : Descriptor) (i : Nat) : List Byte := stackRead s (d.u64 0x20 + 16 * i) 16

/-- A weight entry that breaks Table 9-7, or whose image lies outside the half that serves TILE (R252). -/
def wEntryFault (s : State) (e : GroupEntry) (b : List Byte) : Option Nat :=
  firstFailing ((match blockEntryFault s.tray.variant b with
    | some o => [chk o true]
    | none => []) ++
    [chk 0 (stackHalf s.tray.variant (stackOf (field b 0 8)) != tileHalf e.tile.toNat)])

/-- The weights of a slot (R252, R261): a new table, or the kept one of the same shape. -/
def readWeights (s : State) (g : GroupIx) (d : Descriptor) : Except Reply (List (W64 × W32)) :=
  let e := s.sets.radioActive.groups[g]
  let n := weightGroups e
  if e.kind = 2 then .ok []
  else if d.u64 0x20 = 0 then
    (match s.radio.kept[g] with
     | some k => if k.nprb = e.nprb ∧ k.prbg = e.prbg then .ok k.table else .error (Reply.arg 0x20)
     | none => .error (Reply.arg 0x20))
  else match readFails s (2 ^ 63 + d.u64 0x20) (16 * n) with
  | some c => .error (Reply.of c)
  | none =>
    match (List.range n).findSome? (fun i => (wEntryFault s e (wEntry s d i)).map (fun o => (i, o))) with
    | some x => .error (Reply.argIn 6 x.1 (16 * x.1 + x.2))
    | none => .ok ((List.range n).map (fun i =>
        (BitVec.ofNat 64 (field (wEntry s d i) 0 8), BitVec.ofNat 32 (field (wEntry s d i) 8 4))))

/-! ### Slots and sets in State -/

/-- One slot in work replaced. -/
def setSlot (g : GroupIx) (n : W64) (f : RadioSlot → RadioSlot) (s : State) : State :=
  { s with radio := { s.radio with slots := s.radio.slots.map (fun x => if x.group = g ∧ x.slotNo = n then f x else x) } }

/-- One set of a slot replaced. -/
def RadioSlot.setSet (k : Nat) (f : BatchSet → BatchSet) (x : RadioSlot) : RadioSlot :=
  { x with sets := x.sets.map (fun b => if b.index = k then f b else b) }

/-- The mapping under which a slot runs: the active one, or the one it was swapped with (R261, R271). -/
def slotMap (s : State) (x : RadioSlot) : RadioSet :=
  if (s.sets.groups[(0 : GroupIx)].epoch - x.mapEpoch).getLsbD 0 then s.sets.radioShadow else s.sets.radioActive

/-- The mapping under which a received message of slot `n` is parsed (R261, R273): that of an uplink slot in work, else the one
that was active for the slot it names. -/
def mapFor (s : State) (n : W64) : RadioSet :=
  match s.radio.slots.find? (fun x => decide (x.slotNo = n) && decide (x.entry.kind ≠ 1)) with
  | some x => slotMap s x
  | none => if oldMapLives s && s.radio.swapSlot.any (fun m => decide (n.toInt < m.toInt)) then s.sets.radioShadow
            else s.sets.radioActive

/-- Stream counters. -/
def setStream (i : StreamIx) (f : StreamCnt → StreamCnt) (s : State) : State :=
  { s with radio := { s.radio with streams := upd s.radio.streams i f } }

/-- OFDM symbols of set `k`. -/
def setSyms (e : GroupEntry) (k : Nat) : List Nat :=
  (List.range (batchSymbols e.batchSyms.toNat)).map (fun i => k * batchSymbols e.batchSyms.toNat + i)

/-- PRBs that a C-plane section requests. -/
def sectionPrbs (nprb : Nat) (c : CSection) : List Nat :=
  (List.range (if c.numPrb = 0 then nprb - c.startPrb else c.numPrb)).map (fun i => c.startPrb + i)

/-- PRBs that the C-plane requested for a symbol on a stream. -/
def requestedPrbs (x : RadioSlot) (st : StreamIx) (sym : Nat) : List Nat :=
  (List.range x.entry.nprb.toNat).filter (fun p => x.cplane.any (fun c => decide (c.stream = st) &&
    decide (c.startSym ≤ sym) && decide (sym < c.startSym + c.numSym) && decide (p ∈ sectionPrbs x.entry.nprb.toNat c)))

/-- Streams of a slot's group. -/
def slotStreams (s : State) (x : RadioSlot) : List StreamIx :=
  (List.finRange 64).filter (fun i => streamInGroup (slotMap s x) x.group.val i.val)

/-- A PRB of an antenna and symbol has arrived. -/
def prbHere (x : RadioSlot) (ant sym prb : Nat) : Bool :=
  x.prbs.any (fun p => decide (p.ant = ant) && decide (p.sym = sym) && decide (p.prb = prb))

/-- Requested PRBs of a set that have not arrived on a stream. -/
def missingOn (s : State) (x : RadioSlot) (k : Nat) (st : StreamIx) : Nat :=
  let ant := ((slotMap s x).streams[st]).ant.toNat
  ((setSyms x.entry k).map (fun l => ((requestedPrbs x st l).filter (fun p => !prbHere x ant l p)).length)).foldl (· + ·) 0

/-- Every requested PRB of a set has arrived on every stream (R258). -/
def setArrived (s : State) (x : RadioSlot) (k : Nat) : Bool :=
  (slotStreams s x).all (fun st => decide (missingOn s x k st = 0))

/-- Requested PRBs of a whole slot. -/
def requestedAll (s : State) (x : RadioSlot) : Nat :=
  ((slotStreams s x).map (fun st => ((List.range 14).map (fun l => (requestedPrbs x st l).length)).foldl (· + ·) 0)).foldl (· + ·) 0

/-- A run of slots with more than 1 % of the requested PRBs missing goes on or ends (R262). -/
def countMissing (x : RadioSlot) (s : State) : State :=
  let miss := (x.sets.map (fun b => b.missing)).foldl (· + ·) 0
  if requestedAll s x < miss * 100 then
    { s with radio := { s.radio with missRun := upd s.radio.missRun x.group (fun k => k + 1) } }
  else clearAlarm evRxMissingHigh (BitVec.ofNat 16 x.group.val)
    { s with radio := { s.radio with missRun := put s.radio.missRun x.group 0 } }

/-- The completion of one set (R258, R328, R470). -/
def setReply (x : RadioSlot) (b : BatchSet) : Reply :=
  let code := if b.noCustody then firstCode b.code codeTwinNoCustody else b.code
  { Reply.of code with
    result := BitVec.ofNat 32 b.missing, detail := BitVec.ofNat 16 (b.index * batchSymbols x.entry.batchSyms.toNat),
    epoch := b.epoch.setWidth 16, stale := b.stale, more := decide (b.index + 1 < x.sets.length) }

/-- A slot is over: it is counted if any of it was dropped (R559), and leaves the slots in work. -/
def endSlot (x : RadioSlot) (s : State) : State :=
  let s1 := if x.entry.kind = 1 then s else countMissing x s
  let s2 := if x.sets.any (fun b => decide (b.code = codeDropped)) then
      setGroupCnt x.group (fun c => { c with slotDropped := satInc c.slotDropped }) s1 else s1
  { s2 with radio := { s2.radio with
      slots := s2.radio.slots.filter (fun y => !(decide (y.group = x.group) && decide (y.slotNo = x.slotNo))) } }

/-- Completions of the sets that have an outcome, in order; the last one ends the slot. `fuel` bounds them. -/
def postSets (g : GroupIx) (n : W64) : Nat → State → State
  | 0, s => s
  | fuel + 1, s =>
    match slotOf s g n with
    | none => s
    | some x =>
      match x.sets.find? (fun b => decide (b.index = x.posted)) with
      | none => s
      | some b =>
        if !b.done then s
        else
          let s1 := completeId x.ring x.id (setReply x b) s
          if x.posted + 1 < x.sets.length then postSets g n fuel (setSlot g n (fun y => { y with posted := y.posted + 1 }) s1)
          else endSlot x s1

/-- A set has its outcome (R328). An uplink set posts; a downlink slot posts at its last symbol. -/
def endSet (g : GroupIx) (n : W64) (k : Nat) (f : BatchSet → BatchSet) (s : State) : State :=
  let s1 := setSlot g n (RadioSlot.setSet k (fun b => { f b with done := true, job := none })) s
  match slotOf s1 g n with
  | none => s1
  | some x => if x.entry.kind = 1 then s1 else postSets g n (x.sets.length + 1) s1

/-- The die of the tile that serves a radio group. -/
def radioDie (s : State) (e : GroupEntry) : Fin 2 := if radioTile s e < 5 then 0 else 1

/-- Bytes that the result vectors of one radio set take, and the part of them that it reserves: what its die has free (R167,
assumption 65). -/
def radioFootprint (e : GroupEntry) : Nat := batchSymbols e.batchSyms.toNat * 12 * e.nprb.toNat * (18 * radioRows e)
def setReserve (s : State) (e : GroupEntry) : Nat :=
  let vec := 18 * radioRows e
  min (radioFootprint e) (psumFree s (radioDie s e) / vec * vec)

/-- The job of a radio set (R250): E 11, SEQ, the slot's seed, no column blocks beyond one. -/
def radioJob (s : State) (x : RadioSlot) (k : Nat) : Job :=
  let e := x.entry
  let p := { JobParams.none with
    format := e.format.setWidth 3, accExp := 11, seed := e.seed + x.slotNo, nrows := radioRows e, ncols := 1,
    nvec := 168 * e.nprb.toNat }
  let fu : FusionEntry := { act := 0, scaleMode := 0, biasType := 0, conv := e.outType, clip := 0, tableAddr := 0,
                            scale := e.userScale.setWidth 64, biasAddr := 0 }
  let j := newJob x.ring { id := s.nextId, desc := x.desc, resv := 0 } (.radio x.group x.slotNo k) 1 p
  { j with fusion := some fu, fusionBound := true, psum := setReserve s e, psumDies := 1#2 <<< (radioDie s e).val,
           subBatch := decide (setReserve s e < radioFootprint e) }

/-- The tile of a group is FAULTED with no tile to go to (R262). -/
def noRadioTile (s : State) (x : RadioSlot) : Bool :=
  decide (x.entry.kind ≠ 2) && tileIs s (radioTile s x.entry) .faulted

/-- The samples of a PASS set in the layout of R251, unrequested and missing ones zero. -/
def passWrites (x : RadioSlot) (k : Nat) : List (Nat × List Byte) :=
  (List.range x.entry.nant.toNat).flatMap (fun a => (setSyms x.entry k).map (fun l =>
    (x.desc.u64 0x18 + (l * x.entry.nant.toNat + a) * 12 * x.entry.nprb.toNat * 4,
     (List.range x.entry.nprb.toNat).flatMap (fun p =>
       let vals := match x.prbs.find? (fun q => decide (q.ant = a) && decide (q.sym = l) && decide (q.prb = p)) with
         | some q => q.vals
         | none => List.replicate 24 0
       (List.range 24).flatMap (fun i => leBytes 2 (BitVec.ofInt 16 (vals.getD i 0)).toNat)))))

/-- A list of writes done; the code of the first that fails (R339). -/
def writeAll (ws : List (Nat × List Byte)) (s : State) : State × Option W16 :=
  (ws.foldl (fun s w => daddrWrite w.1 w.2 s) s, ws.findSome? (fun w => writeFails s w.1 w.2.length))

/-- A set starts (R254, R258, R259): missing PRBs counted, its custody noted, its job waiting for the tile; a PASS set is written
at once, and a set with no tile ends (R262). -/
def startSet (g : GroupIx) (n : W64) (k : Nat) (s : State) : State :=
  match slotOf s g n with
  | none => s
  | some x =>
    let up := decide (x.entry.kind ≠ 1)
    let miss := fun st => if up then missingOn s x k st else 0
    let s1 := (slotStreams s x).foldl (fun s st =>
      if miss st = 0 then s else setStream st (fun c => { c with rxMissing := satAdd c.rxMissing (miss st) }) s) s
    let total := ((slotStreams s x).map miss).foldl (· + ·) 0
    let begin_ := fun (j : Option Nat) => RadioSlot.setSet k (fun b =>
      { b with started := true, missing := total, job := j, noCustody := up && !s.twin.grant })
    if x.entry.kind = 2 then
      let w := writeAll (passWrites x k) (setSlot g n (begin_ none) s1)
      endSet g n k (fun b => { b with code := w.2.getD codeOk }) w.1
    else if noRadioTile s x then
      requestTakeover alRadioTile (raiseAlarm true alRadioTile (BitVec.ofNat 16 g.val)
        (endSet g n k (fun b => { b with code := codeIntNoTile }) (setSlot g n (begin_ none) s1)))
    else
      let j := radioJob s1 x k
      let s2 := setSlot g n (begin_ (some j.id)) s1
      { s2 with jobs := s2.jobs ++ [j], nextId := s2.nextId + 1 }

/-- The work of a set that has not begun on a tile is given up. -/
def dropWork (b : BatchSet) (s : State) : State :=
  match b.job with
  | none => s
  | some id => dropJob id s

/-- A set is not processed: it carries DROPPED, and its arrived PRBs count as RX_LATE (R260). -/
def dropSet (g : GroupIx) (n : W64) (k : Nat) (s : State) : State :=
  match slotOf s g n with
  | none => s
  | some x =>
    let s1 := (slotStreams s x).foldl (fun s st =>
      let ant := ((slotMap s x).streams[st]).ant.toNat
      let c := (x.prbs.filter (fun p => decide (p.ant = ant) && decide (p.sym ∈ setSyms x.entry k))).length
      if c = 0 then s else setStream st (fun r => { r with rxLate := satAdd r.rxLate c }) s) s
    endSet g n k (fun b => { b with code := codeDropped }) s1

/-! ### Outputs of a radio job (R251) -/

/-- The output code of a component, 0 where no accumulator holds one. -/
def radioCode (s : State) (j : Job) (jj c : Nat) : Converted :=
  match j.fusion, j.accs.find? (fun a => decide (a.j = jj) && decide (a.c = c)) with
  | some f, some a => stageOut s f [] a.scale j.params.accExp c a.wb
  | _, _ => { code := 0, sat := false, isNan := false }

/-- Values of the carrier's subcarriers of one row and symbol as (real, imaginary) codes. -/
def radioRow (s : State) (j : Job) (nprb l r : Nat) : List (Converted × Converted) :=
  (List.range (12 * nprb)).map (fun sc =>
    (radioCode s j (l * 12 * nprb + sc) (2 * r), radioCode s j (l * 12 * nprb + sc) (2 * r + 1)))

/-- The writes of a COMBINE set into the slot's layer buffer. -/
def combineWrites (s : State) (j : Job) (x : RadioSlot) (k : Nat) : List (Nat × List Byte) :=
  let nprb := x.entry.nprb.toNat
  (setSyms x.entry k).flatMap (fun l => (List.range x.entry.nlayer.toNat).map (fun r =>
    (x.desc.u64 0x18 + (l * x.entry.nlayer.toNat + r) * 12 * nprb * 4,
     (radioRow s j nprb l r).flatMap (fun p => leBytes 2 p.1.code ++ leBytes 2 p.2.code))))

/-- The antenna samples of a PRECODE set. -/
def precodePrbs (s : State) (j : Job) (x : RadioSlot) (k : Nat) : List PrbData :=
  let nprb := x.entry.nprb.toNat
  (setSyms x.entry k).flatMap (fun l => (List.range x.entry.nant.toNat).flatMap (fun a =>
    let row := radioRow s j nprb l a
    (List.range nprb).map (fun p =>
      { ant := a, sym := l, prb := p,
        vals := ((row.drop (12 * p)).take 12).flatMap (fun q => [signedOf 16 q.1.code, signedOf 16 q.2.code]) })))

/-- The output stage of a radio set (R250, R251): its outputs are in place and the set has its outcome. -/
def outputRadio (j : Job) (g : GroupIx) (n : W64) (k : Nat) (s : State) : State :=
  match slotOf s g n with
  | none => dropJob j.id s
  | some x =>
    let out := fun (c : W16) (b : BatchSet) => { b with code := pickCode (c :: jobCodes j), stale := j.stale, epoch := j.epoch }
    if x.entry.kind = 1 then
      endSet g n k (out codeOk)
        (setSlot g n (fun y => { y with prbs := precodePrbs s j x k ++ y.prbs }) (dropJob j.id s))
    else
      let w := writeAll (combineWrites s j x k) (dropJob j.id s)
      endSet g n k (out (w.2.getD codeOk)) w.1

end Sys2Proof.Machine
end

