-- ==== Sys2Proof/Machine/Reduce.lean ====
section
/-! DEFINITION. REDUCE jobs: acceptance and the reductions of Table 6-5 (R183 to R186, R325). -/
namespace Sys2Proof.Machine

/-- A type is one of the numeric types; a floating one. -/
def numericType (t : Nat) : Bool := decide (t ≤ 6)
def floatType (t : Nat) : Bool := decide (4 ≤ t ∧ t ≤ 6)

/-- Input types that an operation allows (Table 6-5). -/
def reduceAllows (op t : Nat) : Bool :=
  if op = 1 then numericType t && decide (t ≠ 2)
  else if op = 0 ∨ op = 2 ∨ op = 3 ∨ op = 9 then numericType t
  else if op = 4 ∨ op = 5 ∨ op = 6 then decide (7 ≤ t ∧ t ≤ 10)
  else decide (t ≤ 10)

/-- Bytes of one element; a CS12 result stands in two bytes (R325). -/
def elemBytes (t : Nat) : Nat := (elemBits t + 7) / 8

/-- Bytes of one result (R325). -/
def resultBytes (op t : Nat) : Nat :=
  if op = 0 ∨ op = 1 then (if floatType t then 4 else 8)
  else if op = 7 ∨ op = 8 then 1 else if op = 9 then 16 else elemBytes t

/-- Alignment of a source array: its element's size; packed CS12 has none. -/
def elemAlign (t : Nat) : Nat := if t = 3 then 1 else max 1 (elemBytes t)

/-- Argument checks of REDUCE (Table 12-11, R183, R179, R181, R184). -/
def reduceArgs (f : Fetched) (s : State) : List (Nat × Bool) :=
  let d := f.desc
  let v := s.tray.variant
  let op := d.u8 8
  let t := d.u8 9
  let atomic := decide (d.u8 0x0A / 4 % 4 = 1)
  [chk 0x08 (decide (9 < op)), chk 0x09 (!reduceAllows op t),
   chk 0x0A (decide (16 ≤ d.u8 0x0A ∨ 1 < d.u8 0x0A % 4 ∨ 1 < d.u8 0x0A / 4 % 4) ||
     (atomic && !(decide (op = 0) && floatType t))),
   chk 0x0C (decide (d.u32 0x0C = 0)), chk 0x10 (badSaddr v (d.u64 0x10) (elemAlign t)),
   chk 0x20 (badDaddr v (d.u64 0x20) (resultBytes op t) || (atomic && !daddrIsStack (d.u64 0x20))),
   chk 0x28 (decide (d.u32 0x28 < resultBytes op t) || (atomic && decide (d.u32 0x28 % 4 ≠ 0))),
   chk 0x30 (decide (d.u64 0x30 ≠ 0) && badDaddr v (d.u64 0x30) 64)]

/-- The Kermes die that serves a stack address. -/
def dieOf (s : State) (a : Nat) : Fin 2 := if stackHalf s.tray.variant (stackOf a) then 1 else 0

/-- REDUCE after its argument checks. -/
def reduceBody (ring : RingIx) (f : Fetched) (s : State) : Body :=
  let d := f.desc
  if noAdmit s then .done s (Reply.of codeThermalThrottled)
  else if s.kermes[dieOf s (d.u64 0x10)].lost then .done s (Reply.of codeIntHalfLost)
  else if decide (d.u8 0x0A / 4 % 4 = 1) && atomicStackBad s (d.u64 0x20) then .done s (Reply.of codeIntAtomic)
  else
    let p := { JobParams.none with
      order := BitVec.ofNat 2 (d.u8 0x0A), combine := BitVec.ofNat 2 (d.u8 0x0A / 4), inType := BitVec.ofNat 8 (d.u8 9),
      statsAddr := BitVec.ofNat 64 (d.u64 0x30) }
    let j := newJob ring f .reduce (if s.rings[ring].level = 3 then 3 else 4) p
    .running { s with jobs := s.jobs ++ [{ j with started := true, startSC := s.time.symbolCount }] }

def execReduce (ring : RingIx) (s : State) : Result := serve (isOp opReduce) ring reduceArgs (reduceBody ring) s

/-! ### The operations -/

/-- What one reduction gives: its result bytes, whether WB48 saturated, and the NaN elements skipped. -/
structure Reduced where
  bytes : List Byte
  sat   : Bool
  nans  : Nat
deriving DecidableEq, Repr

def Reduced.plain (bs : List Byte) : Reduced := { bytes := bs, sat := false, nans := 0 }

/-- Lists cut into groups of `n` elements; `fuel` bounds them. -/
def chunks {α : Type} (n : Nat) : Nat → List α → List (List α)
  | 0, _ => []
  | fuel + 1, xs => if xs = [] ∨ n = 0 then [] else xs.take n :: chunks n fuel (xs.drop n)

/-- One level of a balanced pairwise tree. -/
def pairUp (f : FVal → FVal → FVal) : List FVal → List FVal
  | a :: b :: r => f a b :: pairUp f r
  | l => l

/-- A balanced pairwise tree over a group; `fuel` bounds its levels. -/
def treeFold (f : FVal → FVal → FVal) : Nat → List FVal → FVal
  | _, [] => posZero
  | _, [x] => x
  | 0, x :: _ => x
  | fuel + 1, xs => treeFold f fuel (pairUp f xs)

/-- A floating sum by ORDER (R184): SEQ in element order, TREE in groups of 64 * GW. -/
def floatSum (order gw : Nat) (xs : List FVal) : FVal :=
  if order = 0 then xs.foldl binary32.add posZero
  else ((chunks (64 * gw) xs.length xs).map (fun g => treeFold binary32.add g.length g)).foldl binary32.add posZero

/-- An exact sum in WB48 that saturates (R169): value and whether it did. -/
def satSum (xs : List Int) : Int × Bool :=
  xs.foldl (fun a x => ((satTo 48 (a.1 + x)).1, a.2 || (satTo 48 (a.1 + x)).2)) (0, false)

/-- Largest and smallest code of a type (R184). -/
def typeMax (t : Nat) : Nat := if t = 4 then 0x7C00 else if t = 5 then 0x7F80 else if t = 6 then 0x7F800000 else 2 ^ (elemBits t - 1) - 1
def typeMin (t : Nat) : Nat := if t = 4 then 0xFC00 else if t = 5 then 0xFF80 else if t = 6 then 0xFF800000 else 2 ^ (elemBits t - 1)

/-- The canonical NaN of a floating type. -/
def typeNan (t : Nat) : Nat := if t = 4 then 0x7E00 else if t = 5 then 0x7FC0 else nan32

/-- MIN (or MAX) of element codes: NaN skipped and counted, all NaN gives the canonical NaN. -/
def minMax (isMax : Bool) (t : Nat) (raws : List Nat) : Reduced :=
  let good := raws.filter (fun r => !(elemVal t r).isNan)
  let before := fun a b => if isMax then beforeIn (elemVal t b) (elemVal t a) else beforeIn (elemVal t a) (elemVal t b)
  let best := match good with
    | [] => if raws = [] then (if isMax then typeMin t else typeMax t) else typeNan t
    | x :: xs => xs.foldl (fun a b => if before b a then b else a) x
  { bytes := leBytes (elemBytes t) best, sat := false, nans := raws.length - good.length }

/-- The running update of R185. -/
structure MeanVar where
  n    : Nat
  mean : FVal
  m2   : FVal
deriving DecidableEq, Repr

def MeanVar.init : MeanVar := { n := 0, mean := .num false 0 (-1074), m2 := .num false 0 (-1074) }

/-- One element into the update; a NaN is skipped. -/
def MeanVar.push (a : MeanVar) (x : FVal) : MeanVar :=
  if x.isNan then a else
  let n := a.n + 1
  let d := binary64.sub x a.mean
  let mean := binary64.add a.mean (binary64.div d (ofInt n 0))
  { n := n, mean := mean, m2 := binary64.add a.m2 (binary64.mul d (binary64.sub x mean)) }

/-- Two results combined. -/
def MeanVar.join (a b : MeanVar) : MeanVar :=
  let n := a.n + b.n
  if n = 0 then { a with n := 0 }
  else
    let d := binary64.sub b.mean a.mean
    let q := fun (x : FVal) (k : Nat) => binary64.mul x (ofInt k 0)
    { n := n, mean := binary64.add a.mean (binary64.div (q d b.n) (ofInt n 0)),
      m2 := binary64.add (binary64.add a.m2 b.m2) (binary64.div (q (q (binary64.mul d d) a.n) b.n) (ofInt n 0)) }

/-- MEANVAR over the elements of an array, by ORDER: a TREE group is 64 * GW consecutive elements, NaNs among them (R184). -/
def meanVar (order gw : Nat) (xs : List FVal) : MeanVar :=
  if order = 0 then xs.foldl MeanVar.push MeanVar.init
  else match (chunks (64 * gw) xs.length xs).map (fun g => g.foldl MeanVar.push MeanVar.init) with
  | [] => MeanVar.init
  | g :: gs => gs.foldl MeanVar.join g

/-- The 16 bytes of a MEANVAR result. -/
def MeanVar.bytes (a : MeanVar) : List Byte :=
  let v := if a.n = 0 then posZero else binary64.div a.m2 (ofInt a.n 0)
  leBytes 4 (toF32 a.mean) ++ leBytes 4 (toF32 v) ++ leBytes 8 a.n

/-- Bitwise reductions. -/
def bitwise (op t : Nat) (raws : List Nat) : Nat :=
  let w := elemBits t
  if op = 4 then raws.foldl (fun a b => Nat.land a b) (2 ^ w - 1)
  else if op = 5 then raws.foldl (fun a b => Nat.lor a b) 0
  else raws.foldl (fun a b => Nat.xor a b) 0

/-- An element is not zero: both zeros count as zero, NaN as non-zero. -/
def nonZero (t raw : Nat) : Bool := if floatType t then !(elemVal t raw).isZero else decide (raw ≠ 0)

/-- A value squared as its operation squares it. -/
def termOf (op : Nat) (x : FVal) : FVal := if op = 1 then binary32.mul x x else x
def termInt (op : Nat) (x : Int) : Int := if op = 1 then x * x else x

/-- The floating sums of the two halves of the elements, A first. -/
def halfSums (op t order gw nA : Nat) (raws : List Nat) : List FVal :=
  let one := fun (l : List Nat) => floatSum order gw (l.map (fun r => termOf op (elemVal t r)))
  if nA = 0 ∨ nA = raws.length then [one raws] else [one (raws.take nA), one (raws.drop nA)]

/-- One reduction of element codes, the first `nA` of them in half A; the halves combine by CHAIN (R180, R184, R185). -/
def reduceOne (op t order gw nA : Nat) (raws : List Nat) : Reduced :=
  if op ≤ 1 ∧ floatType t then
    match halfSums op t order gw nA raws with
    | [a, b] => Reduced.plain (leBytes 4 (toF32 (binary32.add b a)))
    | l => Reduced.plain (leBytes 4 (toF32 (l.headD posZero)))
  else if op ≤ 1 then
    let one := fun (l : List Nat) => satSum (l.map (fun r => termInt op (signedOf (elemBits t) r)))
    let a := one (raws.take nA)
    let b := one (raws.drop nA)
    let c := satTo 48 (b.1 + a.1)
    { bytes := leBytes 8 (BitVec.ofInt 64 c.1).toNat, sat := a.2 || b.2 || c.2, nans := 0 }
  else if op = 2 ∨ op = 3 then minMax (decide (op = 3)) t raws
  else if op ≤ 6 then Reduced.plain (leBytes (elemBytes t) (bitwise op t raws))
  else if op = 7 then Reduced.plain [if raws.any (nonZero t) then 1 else 0]
  else if op = 8 then Reduced.plain [if raws.all (nonZero t) then 1 else 0]
  else
    let vals := raws.map (elemVal t)
    let a := meanVar order gw (vals.take nA)
    let b := meanVar order gw (vals.drop nA)
    { bytes := (if nA = 0 then b else if nA = raws.length then a else MeanVar.join a b).bytes, sat := false,
      nans := (vals.filter (fun v => v.isNan)).length }

/-- The element codes of reduction `i`. -/
def reduceRaws (s : State) (d : Descriptor) (i : Nat) : List Nat :=
  let t := d.u8 9
  let bs := stackRead s (d.u64 0x10 + i * d.u32 0x1C) (packedBytes t (d.u32 0x18))
  (List.range (d.u32 0x18)).map (fun k => elemRaw t bs k)

/-- How many elements of reduction `i` lie in half A. -/
def inHalfA (s : State) (d : Descriptor) (i : Nat) : Nat :=
  ((List.range (d.u32 0x18)).filter (fun k =>
    decide (dieOf s (d.u64 0x10 + i * d.u32 0x1C + k * elemBits (d.u8 9) / 8) = 0))).length

/-- The first read or write of a REDUCE job that fails (R339, R547). -/
def reduceFails (s : State) (d : Descriptor) : Option W16 :=
  (List.range (d.u32 0x0C)).findSome? (fun i =>
    match readFails s (2 ^ 63 + d.u64 0x10 + i * d.u32 0x1C) (packedBytes (d.u8 9) (d.u32 0x18)) with
    | some c => some c
    | none => writeFails s (d.u64 0x20 + i * d.u32 0x28) (resultBytes (d.u8 8) (d.u8 9)))

/-- Values added into a destination word in an order that a free bit gives (R182). -/
def atomicAll (addr : Nat) (vs : List FVal) (s : State) : State :=
  match vs with
  | [a, b] =>
    let s1 := (draw s).2
    if (draw s).1.getLsbD 0 then atomicInto addr b (atomicInto addr a s1) else atomicInto addr a (atomicInto addr b s1)
  | l => l.foldl (fun s v => atomicInto addr v s) s

/-- Reduction `i` done: its result written, or added under ATOMIC. -/
def reduceStep (j : Job) (i : Nat) (x : Job × State) : Job × State :=
  let d := j.desc
  let s := x.2
  let raws := reduceRaws s d i
  let gw := groupWidth s.tray.variant
  let nA := inHalfA s d i
  let a := d.u64 0x20 + i * d.u32 0x28
  if d.u8 0x0A / 4 % 4 = 1 then
    (x.1, atomicAll (daddrOff a) (halfSums (d.u8 8) (d.u8 9) (d.u8 0x0A % 4) gw nA raws) s)
  else
    let r := reduceOne (d.u8 8) (d.u8 9) (d.u8 0x0A % 4) gw nA raws
    ({ x.1 with sat := x.1.sat || r.sat, nanSkipped := satAdd x.1.nanSkipped r.nans }, daddrWrite a r.bytes s)

/-- A REDUCE job runs to its end (R325, R186). -/
def runReduce (j : Job) (s : State) : State :=
  match reduceFails s j.desc with
  | some c => finishJob j [c] 0 s
  | none =>
    let n := j.desc.u32 0x0C
    let r := (List.range n).foldl (fun x i => reduceStep j i x) (j, s)
    finishJob { r.1 with work := n * j.desc.u32 0x18 } [codeOk] 0 r.2

end Sys2Proof.Machine
end

