-- ==== Sys2Proof/Machine/Singular.lean ====
section
/-! DEFINITION. The largest singular value of a matrix of binary32 pairs, exactly, as DECOMPOSE takes it (R54 step 1, R320): the
least c with c^2 I - M^H M positive semidefinite, found by bisection over Gaussian integers and rounded once. -/
namespace Sys2Proof.Machine

/-- A Gaussian integer. -/
abbrev Gauss := Int × Int

def Gauss.mul (a b : Gauss) : Gauss := (a.1 * b.1 - a.2 * b.2, a.1 * b.2 + a.2 * b.1)
def Gauss.conj (a : Gauss) : Gauss := (a.1, -a.2)
def Gauss.add (a b : Gauss) : Gauss := (a.1 + b.1, a.2 + b.2)
def Gauss.sub (a b : Gauss) : Gauss := (a.1 - b.1, a.2 - b.2)

/-- A row less its part along the pivot row, times the pivot. -/
def eliminate (pivot : Int) (first : List Gauss) (row : List Gauss) : List Gauss :=
  List.zipWith (fun a b => Gauss.sub (pivot * a.1, pivot * a.2) (Gauss.mul (row.headD (0, 0)) b)) row.tail first.tail

/-- A Hermitian matrix of `n` rows is positive semidefinite, or with `strict` positive definite: elimination meets no negative
pivot, and below a pivot of 0 nothing else. -/
def definite (strict : Bool) : Nat → List (List Gauss) → Bool
  | 0, _ => true
  | n + 1, m =>
    match m with
    | [] => true
    | r :: rs =>
      let a := (r.headD (0, 0)).1
      if a < 0 then false
      else if a = 0 then !strict && r.all (fun x => decide (x = (0, 0))) && definite strict n (rs.map List.tail)
      else definite strict n (rs.map (eliminate a r))

/-- M^H M of a matrix given by its rows. -/
def gram (rows : List (List Gauss)) : List (List Gauss) :=
  let n := ((rows.map List.length).foldl max 0)
  (List.range n).map (fun j => (List.range n).map (fun k =>
    (rows.map (fun r => Gauss.mul (Gauss.conj (r.getD j (0, 0))) (r.getD k (0, 0)))).foldl Gauss.add (0, 0)))

/-- c^2 I - 4^k M^H M. -/
def shifted (k c : Nat) (g : List (List Gauss)) : List (List Gauss) :=
  (List.range g.length).map (fun i => (List.range g.length).map (fun j =>
    let x := ((g.getD i []).getD j (0, 0))
    let d : Int := if i = j then (c : Int) * c else 0
    (d - 4 ^ k * x.1, -(4 ^ k * x.2))))

/-- The least c of `lo + 1` to `hi` for which a test holds that holds at `hi` and from its least c on; `fuel` bounds the halvings. -/
def leastAbove (test : Nat → Bool) : Nat → Nat → Nat → Nat
  | 0, _, hi => hi
  | fuel + 1, lo, hi =>
    if hi ≤ lo + 1 then hi
    else
      let mid := (lo + hi) / 2
      if test mid then leastAbove test fuel lo mid else leastAbove test fuel mid hi

/-- Exponent and significand of a finite value, with its sign. -/
def signedParts (v : FVal) : Int × Int :=
  match v with
  | .num neg m e => (if neg then -(m : Int) else m, e)
  | _ => (0, 0)

/-- Finite values as integers at the least of their exponents, and that exponent. -/
def gaussRows (rows : List (List (FVal × FVal))) : List (List Gauss) × Int :=
  let parts := rows.map (fun r => r.map (fun p => (signedParts p.1, signedParts p.2)))
  let e0 := ((parts.flatMap (fun r => r.flatMap (fun p => [p.1.2, p.2.2]))).foldl min 0)
  let at_ := fun (p : Int × Int) => p.1 * 2 ^ (p.2 - e0).toNat
  (parts.map (fun r => r.map (fun p => (at_ p.1, at_ p.2))), e0)

/-- Every element is zero. -/
def zeroRows (rows : List (List (FVal × FVal))) : Bool :=
  (gaussRows rows).1.all (fun r => r.all (fun x => decide (x = (0, 0))))

/-- The largest singular value, rounded once to binary32 (R54, R320, assumption 66): 2^40 times it lies in (c - 1, c], and is c
exactly where c^2 I - 4^40 M^H M is not positive definite. -/
def largestSingular (rows : List (List (FVal × FVal))) : FVal :=
  let m := gaussRows rows
  let g := gram m.1
  let hi := 2 ^ 40 * ((m.1.flatMap (fun r => r.map (fun x => x.1.natAbs + x.2.natAbs))).sum)
  let c := leastAbove (fun c => definite false g.length (shifted 40 c g)) (Nat.log2 hi + 1) 0 hi
  if definite true g.length (shifted 40 c g) then binary32.round false (2 * c - 1) (m.2 - 41)
  else binary32.round false c (m.2 - 40)

end Sys2Proof.Machine
end

