-- ==== Sys2Proof/Machine/Trees.lean ====
section
/-! DEFINITION. Tree jobs: acceptance, waves, the arrival of a tree record, the end of a wave, and Sepia's lanes (R195 to R216,
R321, R326). -/
namespace Sys2Proof.Machine

/-! ### MODEL_CHECK and acceptance -/

/-- MODEL_CHECK (R321): the check word that a slot would store. -/
def modelCheckBody (f : Fetched) (s : State) : Body :=
  let a := f.desc.u64 0x10
  match modelReadFails s a with
  | some c => .done s (Reply.of c)
  | none => match modelFault s a with
    | some x => .done s (Reply.argIn x.1 x.2.1 x.2.2)
    | none => .done s (Reply.ok (modelCrc s a).toNat)

def execModelCheck (ring : RingIx) (s : State) : Result :=
  serve (isOp opModelCheck) ring (fun f s => [chk 0x10 (badSaddr s.tray.variant (f.desc.u64 0x10) 64)]) modelCheckBody s

/-- The model slot that a TREE descriptor names, in the active set (R199). -/
def slotNamed (s : State) (d : Descriptor) : Option ModelSlot := (s.sets.modelActive.toList[d.u8 8]?).join

/-- Argument checks of TREE (Table 12-11, R204, R211, R212); the strides are held against the model of the slot. -/
def treeArgs (f : Fetched) (s : State) : List (Nat × Bool) :=
  let d := f.desc
  let v := s.tray.variant
  let short := fun (o need : Nat) => decide (d.u32 o < need)
  [chk 0x08 (decide (15 < d.u8 8)), chk 0x09 (decide (2 < d.u8 9)), chk 0x0C (decide (d.u32 0x0C = 0)),
   chk 0x10 (badDaddr v (d.u64 0x10) 1), chk 0x18 (decide (d.u32 0x18 % 4 ≠ 0)), chk 0x1C (decide (d.u32 0x1C % 4 ≠ 0)),
   chk 0x20 (badDaddr v (d.u64 0x20) 1), chk 0x28 (badDaddr v (d.u64 0x28) 1),
   chk 0x30 (decide (d.u64 0x30 ≠ 0) && badDaddr v (d.u64 0x30) 64)] ++
  (match slotNamed s d with
   | none => []
   | some m =>
     let mo := modelAt s m.desc.toNat
     [chk 0x18 (short 0x18 (mo.nraw * inputSize mo.inputType)), chk 0x1C (short 0x1C (mo.nclass * outSize (d.u8 9)))])

/-- The Kermes die that folds the leaves of a model (R200). -/
def foldDie (s : State) (mo : Model) : Fin 2 := if stackHalf s.tray.variant (stackOf (mo.addr + mo.treesOff)) then 1 else 0

/-- Tree jobs are rejected: Sepia lost, or eight lanes retired (R216, R31). -/
def sepiaRejects (s : State) : Bool := s.sepia.lost || decide (8 ≤ popCount 16 s.sepia.retired.toNat)

/-- TREE after its argument checks. -/
def treeBody (ring : RingIx) (f : Fetched) (s : State) : Body :=
  let d := f.desc
  match slotNamed s d with
  | none => illegal s
  | some m =>
    if noAdmit s then .done s (Reply.of codeThermalThrottled)
    else if sepiaRejects s then .done s (Reply.of codeIntSepia)
    else if s.kermes[foldDie s (modelAt s m.desc.toNat)].lost then .done s (Reply.of codeIntHalfLost)
    else
      let p := { JobParams.none with nvec := d.u32 0x0C, statsAddr := BitVec.ofNat 64 (d.u64 0x30) }
      let j := newJob ring f .tree 5 p
      .running { s with jobs := s.jobs ++ [{ j with model := some m }] }

def execTree (ring : RingIx) (s : State) : Result := serve (isOp opTree) ring treeArgs (treeBody ring) s

/-! ### Waves -/

/-- Lanes that work. -/
def workingLanes (s : State) : List (Fin 16) := (List.finRange 16).filter (fun l => !s.sepia.retired.getLsbD l.val)

/-- The samples of a wave of `n` that lane `l` takes, first and count: a contiguous block of n_lane samples each, the last
working lane what is left (R196). -/
def laneBlock (s : State) (n : Nat) (l : Fin 16) : Option (Nat × Nat) :=
  let ls := workingLanes s
  let per := ceilDiv n ls.length
  (ls.findIdx? (fun k => decide (k = l))).map (fun i => (min n (i * per), min per (n - i * per)))

/-- Samples of the next wave of a job before the partial-sum region shortens it (R196). -/
def equalWave (n : Nat) : Nat := ceilDiv n (ceilDiv n 4096)

/-- Samples that the free partial-sum region of the folding die takes (R209). -/
def fitWave (s : State) (mo : Model) : Nat := psumFree s (foldDie s mo) / (6 * mo.nclass)

/-- Samples already finished. -/
def Job.samplesDone (j : Job) : Nat := j.tree.statuses.length

/-- The next wave's size. -/
def waveSize (s : State) (j : Job) (mo : Model) : Nat :=
  min (min (equalWave j.params.nvec) (fitWave s mo)) (j.params.nvec - j.samplesDone)

/-- The address of sample `k` of a job. -/
def sampleAddr (j : Job) (k : Nat) : Nat := j.desc.u64 0x10 + k * j.desc.u32 0x18

/-- Bytes of one sample. -/
def Model.sampleBytes (mo : Model) : Nat := mo.nraw * inputSize mo.inputType

/-- The first read of the wave's samples that fails (R216, R547). -/
def samplesFail (s : State) (j : Job) (mo : Model) (n : Nat) : Option W16 :=
  (List.range n).findSome? (fun i => readFails s (sampleAddr j (j.samplesDone + i)) mo.sampleBytes)

/-- The wave planned: its samples prepared (R198, R204), its leaf sums 0, its bytes reserved (R209). -/
def planWave (s : State) (j : Job) (mo : Model) (n : Nat) : Job :=
  let prep := fun i => prepareSample s mo (daddrRead s (sampleAddr j (j.samplesDone + i)) mo.sampleBytes)
  { j with
    tree := { j.tree with planned := true, waveSize := n, nextTree := 0, nextOff := 0, prepared := (List.range n).map prep, crcRun := 0xFFFFFFFF#32,
                          leaves := List.replicate n (List.replicate mo.nclass 0) },
    psum := 6 * mo.nclass * n, psumDies := if foldDie s mo = 0 then 1 else 2, subBatch := j.subBatch || decide (n < j.params.nvec),
    startSC := if j.started then j.startSC else s.time.symbolCount, started := true }

/-- The model slot bound at the job's first wave (R273); none if it has gone. -/
def bindModel (s : State) (j : Job) : Option Job :=
  if j.modelBound then some j
  else (slotNamed s j.desc).map (fun m =>
    { j with model := some m, modelBound := true, modelEpoch := s.sets.groups[(2 : GroupIx)].epoch })

/-- A tree job ends early (R214): unfinished samples carry SKIPPED and NaNs. -/
def endTree (j : Job) (code : W16) (s : State) : State := finishJob j [code] 0 (skipRest j s)

/-- A tree job whose model has changed under it ends (R203): its output buffer holds free values; finished waves keep their
status and every other sample is SKIPPED. `loc` is the record and the field that a broken header shows; a check word that
differs shows none, and its locator is free (assumption 3). -/
def endChanged (j : Job) (loc : Option (Nat × Nat)) (s : State) : State :=
  let d := j.desc
  let s1 := freeRegion (d.u64 0x20) (d.u32 0x1C * d.u32 0x0C) (skipRest j s)
  match loc with
  | some p => finishJobAt j [codeArgRange] (5 * 2 ^ 28 + p.1) p.2 s1
  | none => finishJobAt j [codeArgRange] (draw s1).1.toNat (draw (draw s1).2).1.toNat (draw (draw s1).2).2

/-- The leaf of one record added for every sample that is not NaN (R205, R209, R213). -/
def foldLeaves (s : State) (mo : Model) (a : Nat) (j : Job) : Job :=
  let cls := byteAt (stackRead s a 16) 0x0B
  let add := fun (x : Prepared × List Int) =>
    if x.1.status ≠ 0 then x.2
    else x.2.modify cls (fun v => v + leafValue s mo a x.1 * 2 ^ (8 - mo.leafFrac))
  { j with
    tree := { j.tree with leaves := (List.zip j.tree.prepared j.tree.leaves).map add, nextTree := j.tree.nextTree + 1,
                          crcRun := (stackRead s a (leNat (stackRead s a 4))).foldl crcByte j.tree.crcRun,
                          nextOff := j.tree.nextOff + leNat (stackRead s a 4) },
    work := j.work + j.tree.waveSize }

/-- One record of the stream arrives in a planned wave (R197, R203). -/
def recordArrives (j : Job) (mo : Model) (s : State) : State :=
  let a := mo.addr + mo.treesOff + j.tree.nextOff
  if mo.ntrees ≤ j.tree.nextTree then setJob j.id (fun _ => j) s
  else match readFails s (2 ^ 63 + a) 64 with
  | some c => endTree j c s
  | none =>
    match headerFail s mo a j.tree.nextTree with
    | some o => endChanged j (some (j.tree.nextTree, o)) s
    | none =>
      match readFails s (2 ^ 63 + a) (leNat (stackRead s a 4)) with
      | some c => endTree j c s
      | none => setJob j.id (fun _ => foldLeaves s mo a j) s

/-- A tree record arrives at Sepia (R196, R203, R206 to R209); the first record of a wave plans it. Where the free partial-sum
region does not take even one sample, the wave waits and nothing changes: R209 shortens a wave and names no least length (DESIGN
CHOICE, log 86). -/
def execTreeRecordArrival (job : Nat) (s : State) : Result :=
  match jobOf s job with
  | none => .next s
  | some j =>
    if j.kind ≠ .tree then .next s
    else match bindModel s j with
    | none => .next (endTree j codeStateIllegal s)
    | some j1 =>
      match j1.model with
      | none => .next s
      | some m =>
        let mo := modelAt s m.desc.toNat
        if j1.tree.planned then .next (recordArrives j1 mo s)
        else
          let n := waveSize s j1 mo
          if n = 0 then .next s
          else match samplesFail s j1 mo n with
          | some c => .next (endTree j1 c s)
          | none => .next (recordArrives (planWave s j1 mo n) mo s)

/-- The outputs of one sample of the wave: its bytes and its status (R211, R212). -/
def sampleOutput (s : State) (j : Job) (mo : Model) (i : Nat) : List Byte × Byte :=
  treeOutput s mo (j.desc.u8 9) ((j.tree.prepared.getD i ⟨2, []⟩).status) (j.tree.leaves.getD i [])

/-- The first write of the wave's results that fails (R339). -/
def waveWriteFails (s : State) (j : Job) (mo : Model) : Option W16 :=
  (List.range j.tree.waveSize).findSome? (fun i =>
    let k := j.samplesDone + i
    match writeFails s (j.desc.u64 0x20 + k * j.desc.u32 0x1C) (mo.nclass * outSize (j.desc.u8 9)) with
    | some c => some c
    | none => writeFails s (j.desc.u64 0x28 + k) 1)

/-- The wave's results and status bytes written. -/
def writeWave (j : Job) (mo : Model) (s : State) : State :=
  (List.range j.tree.waveSize).foldl (fun t i =>
    let o := sampleOutput s j mo i
    let k := j.samplesDone + i
    daddrWrite (j.desc.u64 0x28 + k) [o.2] (daddrWrite (j.desc.u64 0x20 + k * j.desc.u32 0x1C) o.1 t)) s

/-- The job after a finished wave. -/
def nextWave (s : State) (j : Job) (mo : Model) : Job :=
  { j with
    tree := { j.tree with planned := false, wave := j.tree.wave + 1, nextTree := 0, nextOff := 0, prepared := [], leaves := [],
                          tableRerun := false,
                          statuses := j.tree.statuses ++ (List.range j.tree.waveSize).map (fun i => (sampleOutput s j mo i).2) },
    psum := 0 }

/-- The last tree of a wave is done: link, outputs, and the check word of R203; after the last wave the job completes (R214). -/
def execSepiaWaveEnd (job : Nat) (s : State) : Result :=
  match jobOf s job with
  | none => .next s
  | some j =>
    match j.model with
    | none => .next s
    | some m =>
      let mo := modelAt s m.desc.toNat
      if !j.tree.planned || decide (j.tree.nextTree < mo.ntrees) then .next s
      else
        let j1 := nextWave s j mo
        let s1 := setJob job (fun _ => j1) (writeWave j mo s)
        if waveCrc s mo j.tree.crcRun ≠ m.crc then .next (endChanged j1 none s1)
        else match waveWriteFails s j mo with
        | some c => .next (endTree j1 c s1)
        | none =>
          if j1.samplesDone < j.params.nvec then .next s1
          else .next (finishJob j1 [if statusCount j1 1 + statusCount j1 2 = 0 then codeOk else codeFeatureNan] 0 s1)

/-! ### Lanes (R216) -/

/-- Twenty-four hours in SCLK. -/
abbrev dayTicks : Nat := 339738624000000

/-- A former event of the list lies within 24 h of now. -/
def eventWithin {n : Nat} (l : List (Fin n × W64)) (i : Fin n) (now : W64) : Bool :=
  l.any (fun p => decide (p.1 = i) && decide ((now - p.2).toNat ≤ dayTicks))

/-- A lane retired, with its event and its alarm. -/
def retireLane (l : Fin 16) (s : State) : State :=
  if s.sepia.retired.getLsbD l.val then s
  else
    let src := BitVec.ofNat 16 (0x100 + l.val)
    raiseAlarm false evRetired src (event evRetired src 0
      { s with sepia := { s.sepia with retired := s.sepia.retired ||| (1#16 <<< l.val) } })

/-- The wave of a tree job is run again from its first tree (Table 7-10). -/
def rerunWave (j : Job) : Job :=
  { j with tree := { j.tree with nextTree := 0, nextOff := 0, crcRun := 0xFFFFFFFF#32, leaves := j.tree.leaves.map (fun l => l.map (fun _ => 0)) },
           work := j.work - j.tree.waveSize * j.tree.nextTree }

/-- A parity error in a lane's buffers: counted, the wave run again on the other lanes, and the lane retired after a second
event in 24 h. -/
def laneError (lane : Fin 16) (job : Option Nat) (s : State) : State :=
  let again := eventWithin s.sepia.laneEvents lane s.time.symbolCount
  let s1 := { s with sepia := { s.sepia with
    parityErrs := satInc s.sepia.parityErrs,
    laneEvents := (lane, s.time.symbolCount) :: s.sepia.laneEvents.filter (fun p => decide (p.1 ≠ lane)) } }
  let s2 := match job with
    | none => s1
    | some k => setJob k (fun j => if j.kind = .tree ∧ j.tree.planned then rerunWave j else j) s1
  if again then retireLane lane s2 else s2

/-- A parity error in the front-stage tables: counted, the wave prepared and run again once; at the next the job ends with a
class 0x0F code. -/
def tableError (job : Option Nat) (s : State) : State :=
  let s1 := { s with sepia := { s.sepia with parityErrs := satInc s.sepia.parityErrs } }
  match job.bind (jobOf s1) with
  | none => s1
  | some j =>
    if j.kind ≠ .tree ∨ !j.tree.planned then s1
    else if j.tree.tableRerun then endTree j codeIntSepia s1
    else setJob j.id (fun j =>
      let r := rerunWave j
      { r with tree := { r.tree with tableRerun := true } }) s1

/-- A parity error in Sepia (R216). -/
def execSepiaLaneParity (lane : Option (Fin 16)) (job : Option Nat) (s : State) : Result :=
  match lane with
  | none => .next (tableError job s)
  | some l => if s.sepia.retired.getLsbD l.val then .next s else .next (laneError l job s)

/-- The known-answer tests run between jobs; a lane that fails is retired (R216). -/
def execSepiaKatTimer (failing : BitVec 16) (s : State) : Result :=
  if s.sepia.lost || s.jobs.any (fun j => decide (j.kind = .tree) && j.tree.planned) then .next s
  else .next ((List.finRange 16).foldl (fun s l => if failing.getLsbD l.val then retireLane l s else s)
    { s with sepia := { s.sepia with katRuns := s.sepia.katRuns + 1 } })

end Sys2Proof.Machine
end

