-- ==== Sys2Proof/Machine/Output.lean ====
section
/-! DEFINITION. The output stage of a job and its completion (R181, R187 to R191), the failures of Kermes, of the link between
its dies and of the memory stacks (R31, R194, R359), and the matrix commands DECOMPOSE and IMAGE_READ (R320, R321). -/
namespace Sys2Proof.Machine

/-! ### Work that ends early -/

/-- A piece of work stopped with a code, by its kind: a radio set takes the code as its outcome. -/
def stopWork (j : Job) (code : W16) (s : State) : State :=
  match j.kind with
  | .radio g n k => endSet g n k (fun b => { b with code := code, stale := b.stale || decide (code = codeStaleOutput),
                                                    epoch := j.epoch }) (dropJob j.id s)
  | _ => stopAny j code s

/-- The work of an id stopped, if it still runs. -/
def stopId (id : Option Nat) (code : W16) (s : State) : State :=
  match id.bind (jobOf s) with
  | some j => stopWork j code s
  | none => s

/-! ### Matrix outputs (R187 to R191) -/

/-- The accumulators of a component: one, or one per engine under ATOMIC. -/
def accsOf (j : Job) (jj c : Nat) : List Acc := j.accs.filter (fun a => decide (a.j = jj) && decide (a.c = c))

/-- One component through the output stage; one that nothing was folded into holds 0. -/
def outComp (s : State) (j : Job) (f : FusionEntry) (tab : List Nat) (jj c : Nat) : Converted :=
  match accsOf j jj c with
  | a :: _ => stageOut s f tab a.scale j.params.accExp c a.wb
  | [] => stageOut s f tab 0 j.params.accExp c 0

/-- One result vector written, its conversions counted (R190, R191). -/
def outVector (f : FusionEntry) (tab : List Nat) (jj : Nat) (x : Job × State) : Job × State :=
  let j := x.1
  let cs := (List.range j.params.comps).map (outComp x.2 j f tab jj)
  ({ j with convSat := satAdd j.convSat (cs.filter (fun c => c.sat)).length,
            convNan := satAdd j.convNan (cs.filter (fun c => c.isNan)).length },
   daddrWrite (j.params.outBase.toNat + jj * j.params.outStride) (packCodes f.conv.toNat (cs.map (fun c => c.code))) x.2)

/-- The value that an engine adds under ATOMIC: the scale step, and the bias where it holds column block 0 (R181). -/
def atomicValue (s : State) (j : Job) (f : FusionEntry) (c : Nat) (a : Acc) : FVal :=
  let v := scaled32 a.wb (stageScale (userScale s f c) a.scale j.params.accExp)
  if engineStart j a.engine (rowOfComp j.params c) = 0 then binary32.add v (biasOf s f c) else v

/-- One result vector added into its destination words (R181). -/
def atomicVector (f : FusionEntry) (jj : Nat) (x : Job × State) : Job × State :=
  (List.range x.1.params.comps).foldl (fun x c =>
    let vs := (accsOf x.1 jj c).map (atomicValue x.2 x.1 f c)
    let nans := if vs.any FVal.isNan then 1 else 0
    ({ x.1 with convNan := satAdd x.1.convNan nans },
     atomicAll (daddrOff (x.1.params.outBase.toNat + jj * x.1.params.outStride) + 4 * c) vs x.2)) x

/-- The tables that the output stage reads, and whether they can be read (R188, R194). -/
def tablesFail (s : State) (p : JobParams) (f : FusionEntry) : Option W16 :=
  let bias := if f.biasType = 1 then 4 else 2
  match (if f.scaleMode = 1 then readFails s (2 ^ 63 + f.scale.toNat) (4 * p.comps) else none) with
  | some c => some c
  | none => match (if f.biasType ≠ 0 then readFails s (2 ^ 63 + f.biasAddr.toNat) (bias * p.comps) else none) with
    | some c => some c
    | none => if f.act = 6 then readFails s (2 ^ 63 + f.tableAddr.toNat) 1032 else none

/-- The first write of a job's results that fails (R339). -/
def outputFails (s : State) (p : JobParams) (f : FusionEntry) : Option W16 :=
  (List.range p.nvec).findSome? (fun jj =>
    writeFails s (p.outBase.toNat + jj * p.outStride) (outBytes f.conv.toNat p.comps))

/-- A job with vectors left goes on with its next sub-batch: the partial-sum region is free again (R167). -/
def nextSubBatch (j : Job) (s : State) : State :=
  let bs := j.blocks.map (fun b => { b with tiles := 0, bad := false })
  setJob j.id (fun _ => { j with vecDone := subEnd j, accs := [], splits := [], chained := false, blocks := bs }) s

/-- The outputs of a matrix job, those of the sub-batch in work, and its end after the last one. -/
def outputMatrix (j : Job) (f : FusionEntry) (s : State) : State :=
  match tablesFail s j.params f with
  | some c => stopJob j c 0 s
  | none => match outputFails s j.params f with
    | some c => stopJob j c 0 s
    | none =>
      let tab := userTab s f
      let x := (List.range (subEnd j - j.vecDone)).foldl (fun x i =>
        if j.params.combine = 1 then atomicVector f (j.vecDone + i) x else outVector f tab (j.vecDone + i) x) (j, s)
      if subEnd j < j.params.nvec then nextSubBatch x.1 x.2 else finishJob x.1 [codeOk] 0 x.2

/-- A matrix job whose every pass has arrived and every segment has ended, its engines' values chained where it needs it. -/
def matrixReady (s : State) (j : Job) : Bool :=
  allArrived s j && decide (j.segments = []) && (j.chained || !crossesEngines j || decide (j.params.combine ≠ 0))

/-- After the final spill the output stage writes the results and the job completes (R187, R184, R251, R293, R326). -/
def execJobOutputDone (job : Nat) (s : State) : Result :=
  match jobOf s job with
  | none => .next s
  | some j =>
    match j.kind with
    | .tree => .next s
    | .reduce => .next (runReduce j s)
    | .vecRaw _ => if allArrived s j && decide (j.segments = []) then .next (finishJob j [codeOk] 0 s) else .next s
    | .radio g n k => if allArrived s j && decide (j.segments = []) then .next (outputRadio j g n k s) else .next s
    | .matmul => (match j.fusion with
      | some f => if matrixReady s j then .next (outputMatrix j f s) else .next s
      | none => .next s)
    | .resident _ => (match j.fusion with
      | some f => if matrixReady s j then .next (outputMatrix j f s) else .next s
      | none => .next s)

/-! ### Failures of Kermes (R194) -/

/-- A job adds by ATOMIC into a stack. -/
def addsInto (j : Job) (k : Nat) : Bool :=
  match j.kind with
  | .matmul => decide (j.params.combine = 1) && decide (stackOf (daddrOff j.params.outBase.toNat) = k)
  | .reduce => decide (j.params.combine = 1) && decide (stackOf (daddrOff (j.desc.u64 0x20)) = k)
  | _ => false

/-- A stack controller acknowledges no add within 10 us: its atomic unit has failed, and ATOMIC jobs on it end (R194). -/
def execAtomicAckTimeout (stack : Fin 6) (s : State) : Result :=
  let s1 := raiseAlarm false alAtomic (BitVec.ofNat 16 stack.val)
    { s with sched := { s.sched with atomicBad := s.sched.atomicBad ||| (1#6 <<< stack.val) } }
  .next ((s.jobs.filter (fun j => addsInto j stack.val)).foldl (fun s j => stopWork j codeIntAtomic s) s1)

/-- A scratchpad bank retired with its event and its alarm (R165, R194). -/
def retireBank (die : Fin 2) (bank : Fin 64) (s : State) : State :=
  let src := BitVec.ofNat 16 (0x200 + bank.val)
  raiseAlarm false evRetired src (event evRetired src 0
    { s with kermes := upd s.kermes die (fun k => { k with retired := bank :: k.retired }) })

/-- A scratchpad ECC error (R194): a single one is corrected and counted; a double one ends the job that read the word, and a
second in 24 h retires its bank. -/
def execScratchpadEccError (die : Fin 2) (bank : Fin 64) (double : Bool) (job : Option Nat) (s : State) : Result :=
  if bank ∈ s.kermes[die].retired then .next s
  else if !double then .next { s with kermes := upd s.kermes die (fun k => { k with singleErrs := satInc k.singleErrs }) }
  else
    let again := eventWithin s.kermes[die].bankEvents bank s.time.symbolCount
    let s1 := { s with kermes := upd s.kermes die (fun k =>
      { k with bankEvents := (bank, s.time.symbolCount) :: k.bankEvents.filter (fun p => decide (p.1 ≠ bank)) }) }
    let s2 := stopId job codeIntMemoryEcc s1
    .next (if again then retireBank die bank s2 else s2)

/-- The inter-Kermes link fails after eight retries: the CHAIN job ends, and later jobs stay within one half (R194). -/
def execInterKermesLinkError (job : Nat) (s : State) : Result :=
  let s1 := raiseAlarm false alLink 0 { s with sched := { s.sched with interKermesBad := true } }
  match jobOf s job with
  | none => .next s1
  | some j => if crossesEngines j && decide (j.params.combine = 0) then .next (stopWork j codeIntLink s1) else .next s1

/-! ### Memory stacks and dies (R31) -/

/-- A unit number put in a rising list. -/
def insertUnit (u : Nat) : List Nat → List Nat
  | [] => [u]
  | x :: xs => if u < x then u :: x :: xs else if u = x then x :: xs else x :: insertUnit u xs

/-- A controller reports an ECC error in unit `unit` of a stack (R19, R31, R547): a single-bit error is corrected; a double-bit
one ends the job that read it, and the stack may be taken offline. -/
def execMemoryEccError (stack : Fin 6) (unit : Nat) (double offline : Bool) (job : Option Nat) (s : State) : Result :=
  if stacksFitted s.tray.variant ≤ stack.val then .next s
  else
    let src := BitVec.ofNat 16 stack.val
    let s1 := raiseAlarm false evMemEcc src (event evMemEcc src (if double then 2 else 1)
      { s with sched := { s.sched with stackEvents := satInc s.sched.stackEvents } })
    let s2 := if double ∧ stackOf (32 * unit) = stack.val then
        { s1 with mem := { s1.mem with eccUnits := insertUnit unit s1.mem.eccUnits } } else s1
    let s3 := if double then stopId job codeIntMemoryEcc s2 else s2
    .next (if offline then raiseAlarm true evMemEcc src
        { s3 with mem := { s3.mem with stackOnline := s3.mem.stackOnline &&& ~~~(1#6 <<< stack.val) } } else s3)

/-- Tiles of a half. -/
def tilesOfDie (die : Fin 2) : List TileIx := (List.finRange 10).filter (fun t => decide (engineOf t = die))

/-- Work that a lost die takes with it: it runs on its tiles, holds accumulators there, or folds there. -/
def usesDie (s : State) (die : Fin 2) (j : Job) : Bool :=
  j.segments.any (fun g => decide (engineOf g.tile = die)) || j.accs.any (fun a => decide (a.engine = die)) ||
  (match j.kind with
   | .resident t => decide (engineOf t = die)
   | .vecRaw t => decide (engineOf t = die)
   | .reduce => decide (dieOf s (j.desc.u64 0x10) = die)
   | .tree => j.model.any (fun m => decide (foldDie s (modelAt s m.desc.toNat) = die))
   | _ => false)

/-- Stacks that a half serves. -/
def stacksOfDie (v : Variant) (die : Fin 2) : BitVec 6 :=
  BitVec.ofNat 6 (((List.range (stacksFitted v)).filter (fun k => stackHalf v k == decide (die = 1))).map (fun k => 2 ^ k)).sum

/-- A unit held beyond twice its longest length is cut, and its work ends (R359). -/
def execArbiterHoldTimeout (tile : Option TileIx) (job : Option Nat) (s : State) : Result :=
  let id := match job with
    | some k => some k
    | none => tile.bind (fun t => s.tiles[t].job)
  .next (raiseAlarm false alHold 0 (stopId id codeIntUnitCut
    { s with sched := { s.sched with holdErrs := satInc s.sched.holdErrs, holdEvents := s.sched.holdEvents + 1 } }))

/-! ### DECOMPOSE and IMAGE_READ -/

/-- Bytes of one element of the target matrix. -/
def decompSize (d : Descriptor) : Nat := if d.u8 8 = 0 then 8 else 4

/-- Rows of the target matrix at its leading dimension, as binary32 pairs. -/
def decompRows (s : State) (d : Descriptor) : List (List (FVal × FVal)) :=
  let sz := decompSize d
  (List.range (d.u8 0x0A + 1)).map (fun r =>
    let bs := daddrRead s (d.u64 0x10 + r * d.u32 0x0C * sz) (sz * (d.u8 0x0B + 1))
    (List.range (d.u8 0x0B + 1)).map (fun c =>
      (f32 (field bs (sz * c) 4), if sz = 8 then f32 (field bs (sz * c + 4) 4) else posZero)))

/-- The first row of the target that cannot be read. -/
def decompFails (s : State) (d : Descriptor) : Option W16 :=
  (List.range (d.u8 0x0A + 1)).findSome? (fun r =>
    readFails s (d.u64 0x10 + r * d.u32 0x0C * decompSize d) (decompSize d * (d.u8 0x0B + 1)))

/-- A matrix padded with zeros to 128 x 128 (R56), as binary64 words. -/
def paddedWords (rows : List (List (FVal × FVal))) : List (List (W64 × W64)) :=
  let w := fun (v : FVal) => BitVec.ofNat 64 (binary64.encode (binary64.fit v))
  (List.range 128).map (fun r => (List.range 128).map (fun c =>
    let p := (rows.getD r []).getD c (posZero, posZero)
    (w p.1, w p.2)))

/-- Image and scale of a finite matrix (R54 to R56): the zero matrix has s = 0 and the zero image; none where the iteration does
not converge. -/
def decomposed (rows : List (List (FVal × FVal))) : Option (Image × W32) :=
  if zeroRows rows then some ([], 0)
  else (Config.decompose (paddedWords rows)).map (fun im =>
    (im, BitVec.ofNat 32 (binary32.encode (largestSingular rows))))

/-- DECOMPOSE (R320, R339). -/
def decomposeBody (f : Fetched) (s : State) : Body :=
  let d := f.desc
  match decompFails s d with
  | some c => .done s (Reply.of c)
  | none =>
    let rows := decompRows s d
    if rows.any (fun r => r.any (fun p => !p.1.isFinite || !p.2.isFinite)) then .done s (Reply.arg 0x10)
    else match decomposed rows with
      | none => .done s (Reply.of codeIntDecompose)
      | some (im, sc) => writeThen (2 ^ 63 + d.u64 0x18) (imageBytes im) (Reply.ok sc.toNat) s

def execDecompose (ring : RingIx) (s : State) : Result :=
  serve (isOp opDecompose) ring (fun f s =>
    let d := f.desc
    [chk 0x08 (decide (1 < d.u8 8)), chk 0x0A (decide (127 < d.u8 0x0A)), chk 0x0B (decide (127 < d.u8 0x0B)),
     chk 0x0C (decide (d.u32 0x0C < d.u8 0x0B + 1)), chk 0x10 (badDaddr s.tray.variant (d.u64 0x10) 4),
     chk 0x18 (badSaddr s.tray.variant (d.u64 0x18) 64)]) decomposeBody s

/-- IMAGE_READ (R321): the mirror's codes of one latch image. -/
def imageReadBody (f : Fetched) (s : State) : Body :=
  let x := s.tiles[(⟨f.desc.u8 8 % 10, by omega⟩ : TileIx)]
  if x.state = .off ∨ x.state = .faulted then illegal s
  else writeThen (f.desc.u64 0x10) (imageBytes (if f.desc.u8 9 = 0 then x.mesh.active.image else x.mesh.shadow.image))
    (Reply.of codeOk) s

def execImageRead (ring : RingIx) (s : State) : Result :=
  serve (isOp opImageRead) ring (fun f s =>
    [chk 0x08 (decide (9 < f.desc.u8 8)), chk 0x09 (decide (1 < f.desc.u8 9)),
     chk 0x10 (badDaddr s.tray.variant (f.desc.u64 0x10) 64)]) imageReadBody s

end Sys2Proof.Machine
end

