-- ==== Sys2Proof/Machine/Tiles.lean ====
section
/-! DEFINITION. Tile states, lasers, latches and repairs (R32 to R36, R60, R69 to R78, R332). -/
namespace Sys2Proof.Machine

/-! ### Heaters and faults -/

/-- A code written into a channel's queue by its writer (R115, R117); while HOLD is in force it is discarded (R120). -/
def queueCode (c : BitVec 12) (h : Heater) : Heater :=
  if h.held then h
  else if 32 ≤ h.queue.length then { h with overflow := satInc16 h.overflow }
  else { h with queue := h.queue ++ [c] }

/-- A channel's first frame: code 0, or the stored code of an NVM channel (R119). A channel that HOLD holds is free again here
and nowhere else (DESIGN CHOICE, assumption 69: the spec does not say how firmware clears the fault). -/
def startHeater (h : Heater) : Heater :=
  { h with queue := [], code := if h.attr.getLsbD 0 then h.powerUp else 0, starved := 0, held := false, satLow := 0, satHigh := 0 }

/-- A channel's fault action, at a frame boundary: HOLD keeps the last code and discards later writes, ZERO drops both (R120). -/
def faultAction (h : Heater) : Heater :=
  if h.attr.getLsbD 1 then { h with held := true } else { h with queue := [], code := 0 }

def mapHeaters (f : Heater → Heater) (x : Tile) : Tile :=
  { x with heat := { x.heat with chans := x.heat.chans.map f } }

/-- A control fault of a tile: its channels take their fault actions at the next frame boundary (R120). -/
def controlFault (x : Tile) : Tile := { x with heat := { x.heat with controlFault := true, faultDue := true } }

/-- Every channel forced to code 0, whatever its attribute (R120). -/
def zeroHeaters (x : Tile) : Tile := mapHeaters (fun h => { h with queue := [], code := 0 }) x

/-- A thermal TRIP forces every channel of a tile to code 0, until Umber is powered again (R120, assumption 69). -/
def tripHeaters (x : Tile) : Tile :=
  let y := zeroHeaters x
  { y with heat := { y.heat with tripped := true } }

/-- A job that names one resident tile. -/
def namesTile (t : TileIx) (j : Job) : Bool :=
  match j.kind with
  | .resident r => decide (r = t)
  | .vecRaw r => decide (r = t)
  | _ => false

/-- A job runs on a tile: its segment, or, between two segments of a batch begun on the tile, that batch (R77). -/
def runsOn (s : State) (t : TileIx) (j : Job) : Bool :=
  decide (s.tiles[t].job = some j.id) ||
  (decide (s.tiles[t].state = .serving) && s.tiles[t].job.isNone && (jobBlocks s j).any (fun b =>
    let r := blockRun j b.1 b.2
    r.tiles.getLsbD t.val && decide (r.sent < openPasses s j b.1)))

/-- What core 1 has placed behind the running segment of a tile goes to other tiles. -/
def clearNext (t : TileIx) (s : State) : State :=
  let x := s.tiles[t]
  setTile t (fun x => { dropBatchLoads x with next := none }) { s with jobs := s.jobs.map (displace t x false) }

/-- The work of a tile whose light or state has failed ends STALE_OUTPUT, marked with the epoch of the tile's last output (R77,
R150). -/
def stopStale (t : TileIx) (s : State) : State :=
  let s1 := clearNext t s
  (s1.jobs.filter (runsOn s1 t)).foldl (fun s j => stopWork { j with stale := true, epoch := (outputPort s.tiles[t]).epoch } codeStaleOutput s) s1

/-- What a tile loses as it becomes FAULTED: lock, loads, gap and results; its heaters take their fault action (R120). -/
def loseTile (x : Tile) : Tile :=
  let y := controlFault (abandonStep x)
  { y with
    laser := { y.laser with locked := false, changing := false, changeDue := false, timedOut := false },
    mesh := { y.mesh with load := none, loadQueue := [], swapWaits := false, swapAtRestore := false },
    cal := { y.cal with gap := none, results := [], rxAlarm := [] }, resting := false, maintDue := false }

/-- A tile becomes FAULTED: its job completes with STALE_OUTPUT and resident jobs that name it with STATE_ILLEGAL, its heaters
take their fault action, a group that waited for its load goes on without it (R73, R77, R120, R277). -/
def faultTile (t : TileIx) (s : State) : State :=
  if s.tiles[t].state = .off ∨ s.tiles[t].state = .faulted then s
  else
    let s0 := stopStale t s
    let s1 := (s0.jobs.filter (namesTile t)).foldl (fun s j => stopWork j codeStateIllegal s) s0
    let s2 := enterTile t .faulted (setTile t loseTile s1)
    match s2.tiles[t].group with
    | none => tryPower s2
    | some g => tryPower (trySwap g (tryFinishCommit g s2))

/-- A Kermes die fails: its half is lost, MAJOR, and a takeover request (R31, R73, R216). -/
def execKermesDieFailure (die : Fin 2) (s : State) : Result :=
  if s.kermes[die].lost then .next s
  else
    let s1 := (s.jobs.filter (usesDie s die)).foldl (fun s j => stopWork j codeIntHalfLost s) s
    let s2 := { s1 with
      kermes := upd s1.kermes die (fun k => { k with lost := true }),
      mem := { s1.mem with stackOnline := s1.mem.stackOnline &&& ~~~(stacksOfDie s1.tray.variant die) } }
    let s3 := (tilesOfDie die).foldl (fun s t => faultTile t s) s2
    .next (requestTakeover alKermesLost (raiseAlarm true alKermesLost (BitVec.ofNat 16 die.val) s3))

/-! ### Stripes (R33, R34, R78) -/

/-- The stripe that a change lights: the lowest spare, else the lowest unlit worn one (R34). -/
def nextStripe (l : Laser) : Option (Fin 4) :=
  match (List.finRange 4).find? (fun k => decide (l.stripes[k].state = .spare)) with
  | some k => some k
  | none => (List.finRange 4).find? (fun k => decide (l.stripes[k].state = .worn) && decide (k ≠ l.lit))

/-- The heater channel of a stripe (Table 4-1). -/
def stripeChannel (k : Fin 4) : Fin 136 := ⟨128 + k.val, by omega⟩

/-- A stripe lit; a worn one stays marked worn (R33, R34). -/
def litStripe (p : Stripe) : Stripe := if p.state = .worn then p else { p with state := .lit }

/-- A channel's queue emptied and one code written: it drives from the next frame boundary on (R115, R129). -/
def restartHeater (c : BitVec 12) (h : Heater) : Heater := queueCode c { h with queue := [] }

/-- Stripe `k` lit in place of the lit one, which takes state `old`: the old heater is set to code 0, the new one starts at its
stored code, both at the next frame boundary (R78, R115, R129). -/
def lightStripe (k : Fin 4) (old : StripeState) (x : Tile) : Tile :=
  let o := x.laser.lit
  let ss := upd (upd x.laser.stripes o (fun p => { p with state := old, bias := 0 })) k litStripe
  let cs := upd (upd x.heat.chans (stripeChannel o) (restartHeater 0)) (stripeChannel k) (fun h => restartHeater h.powerUp h)
  { x with laser := { x.laser with stripes := ss, lit := k, locked := false, changeDue := false, changing := true, timedOut := false },
           heat := { x.heat with chans := cs } }

/-- The lit stripe of a tile in MAINT or WARM handled as failed: the next stripe lights in a REPAIR gap, or the tile is FAULTED
(R71, R78, R153). -/
def failStripe (t : TileIx) (s : State) : State :=
  match nextStripe s.tiles[t].laser with
  | none =>
    faultTile t (setTile t (fun x => { x with laser := { x.laser with
      stripes := upd x.laser.stripes x.laser.lit (fun p => { p with state := .failed, bias := 0 }) } }) s)
  | some k =>
    raiseAlarm false evStripeChanged (BitVec.ofNat 16 t.val)
      (openGap t .repair (setTile t (lightStripe k .failed) s))

/-- The latches of a tile group's member loaded from the group's current sets on its way to READY (R278). -/
def reloadResident (t : TileIx) (s : State) : State :=
  match s.tiles[t].group with
  | none => s
  | some g =>
    let st := s.sets.groups[g].shadow
    let sh := if st = .staged ∨ st = .pending then entryImage s s.sets.imageShadow[t] else s.tiles[t].mesh.shadow.image
    setTile t (reloadLatches t (entryImage s s.sets.imageActive[t]) sh) s

/-- A stripe change is complete: the running record is sealed, with the event (R78, R153). -/
def endChange (t : TileIx) (s : State) : State :=
  if s.tiles[t].laser.changing then
    let s1 := sealRecord 2 t (setTile t (fun x => { x with laser := { x.laser with changing := false } }) s)
    event evStripeChanged (BitVec.ofNat 16 t.val) (BitVec.ofNat 16 s.tiles[t].laser.lit.val) s1
  else s

/-- A changed stripe has reached lock: in MAINT its gain is traced next, in the REPAIR gap, and the change ends at the restore
(R78); in WARM, which runs no step, the change ends here and the trace is left on demand (DESIGN CHOICE, assumption 70). -/
def changeLocked (t : TileIx) (s : State) : State :=
  let x := s.tiles[t]
  let trace := setTile t (fun x => { x with cal := demandSteps [.gainTrace] x.cal }) s
  if !x.laser.changing then s
  else if x.state = .maint then beginStep t trace
  else endChange t (setTile t (fun x => { x with cal := { x.cal with gap := none } }) trace)

/-- The lit stripe of a tile comes within 20 pm of the ring resonance (R35, R36): a WARM tile is READY, in a start only once it
has settled (R391) unless it has left the timeline (R388); one in MAINT waits for its restore. -/
def execStripeLockAcquired (lock : LockOffset) (s : State) : Result :=
  let x := s.tiles[lock.tile]
  if x.laser.locked ∨ !(inService x || decide (x.state = .warm) || decide (x.state = .maint)) then .next s
  else if 20 < lock.pm.natAbs then .next (setTile lock.tile (fun x => { x with laser := { x.laser with offsetPm := lock.pm } }) s)
  else
    let s1 := changeLocked lock.tile (setTile lock.tile (fun x => { x with
      laser := { x.laser with locked := true, timedOut := false, offsetPm := lock.pm } }) s)
    if x.state = .warm ∧ (s.tray.phase = .done ∨ s.tray.lateTiles.getLsbD lock.tile.val) then
      .next (tryPower (finishControl lock.tile (enterTile lock.tile .ready (reloadResident lock.tile s1))))
    else .next s1

/-- The offset exceeds 50 pm: lock is lost, and the tile goes to MAINT between batches (R35, R73, R74). -/
def execStripeLockLost (lock : LockOffset) (s : State) : Result :=
  let y := setTile lock.tile (fun x => { x with laser := { x.laser with offsetPm := lock.pm } }) s
  if !s.tiles[lock.tile].laser.locked then .next s
  else if lock.pm.natAbs ≤ 50 then .next y
  else .next (settleTile lock.tile (setTile lock.tile (fun x => { x with laser := { x.laser with locked := false, timedOut := false } }) y))

/-- The stripe has not locked within 1.5 s: it has failed (R78), on a tile that still serves its batch as soon as that has ended
(R74). -/
def execStripeLockTimeout (tile : TileIx) (s : State) : Result :=
  let x := s.tiles[tile]
  if x.laser.locked then .next s
  else if x.state = .warm ∨ x.state = .maint then .next (failStripe tile s)
  else if inService x then .next (setTile tile (fun x => { x with laser := { x.laser with timedOut := true } }) s)
  else .next s

/-- T0 or T6 below half its setpoint: MAINT at once, the job stops with STALE_OUTPUT, and the stripe has failed (R77, R78). -/
def execLightLossTrip (tile : TileIx) (s : State) : Result :=
  let x := s.tiles[tile]
  if !inService x && !decide (x.state = .maint) then .next s
  else .next (failStripe tile (enterMaint tile (setTile tile abandonStep (stopStale tile s))))

/-! ### Transitions (Tables 2-6 and 12-16) -/

/-- Umber powered: both mirrors hold the zero matrix, every channel is at its power-up value, nothing forces or holds a code,
and the converters and the trim loop start anew (R60, R119). The mode is the recorded one, else the one that the tile had: a tile
that TILE_CONTROL has powered off keeps it (DESIGN CHOICE, assumption 71: R127 says TRACK of a start). -/
def powerUpTile (x : Tile) : Tile :=
  let y := mapHeaters startHeater x
  { y with
    mesh := { Mesh.init with mapRev := x.mesh.mapRev },
    heat := { y.heat with slew := x.heat.slewWant.getD x.heat.slew, slewWant := none, residValid := false, resid := 0, peak := 0,
                          meanSq := 0, controlFault := false, faultDue := false, overcurrent := false, tripped := false,
                          counter := 0, activity := 0, passGate := false, ballast := false },
    conv := { y.conv with scanIdle := decide (x.conv.scanMask = 0), round := 0, testDac := none, savedMask := none,
                          windowUsed := false, open_ := Collector.zero, closed := Collector.zero, outLast := [] },
    frozen := false }

/-- The laser goes dark between batches: a step in progress is abandoned, loads that wait are done with. -/
def darkenTile (x : Tile) : Tile :=
  let y := abandonStep x
  { y with laser := { y.laser with locked := false, timedOut := false }, mesh := { y.mesh with load := none, loadQueue := [] },
           resting := false, cal := { y.cal with gap := none } }

/-- A tile powered: its heater words and power-up codes first (R118, R119), then Umber; a tile whose factory record was needed
and is invalid is FAULTED (R159). -/
def powerDark (t : TileIx) (s : State) : State :=
  let s1 := enterTile t .dark (setTile t powerUpTile (loadHeaters t s))
  if s1.tiles[t].cal.factoryBad then faultTile t s1 else s1

/-- A timed transition of a tile ends: OFF or READY to DARK, or DARK to OFF (R73). -/
def execTileTransitionDone (tile : TileIx) (s : State) : Result :=
  let x := s.tiles[tile]
  let rested := setTile tile (fun x => { x with moving := none }) s
  match x.moving with
  | none => .next s
  | some goal =>
    let s1 := if goal = .dark ∧ x.state = .off then powerDark tile rested
      else if goal = .dark ∧ x.state = .ready then enterTile tile .dark (setTile tile darkenTile rested)
      else if goal = .off ∧ x.state = .dark then enterTile tile .off rested
      else rested
    .next (tryPower (finishControl tile s1))

/-- A tile of an enabled radio group that names no ALT_TILE (R332). -/
def soleRadioTile (s : State) (t : TileIx) : Bool :=
  s.sets.radioActive.groups.toList.any (fun e => e.en && decide (e.tile.toNat = t.val) && decide (e.altTile = 0x0F))

/-- The stripe that a start lights: the recorded one, or a spare where that one is marked failed (R34). -/
def startStripe (l : Laser) : Option (Fin 4) := if l.stripes[l.lit].state = .failed then nextStripe l else some l.lit

/-- DARK to WARM: Umber translates both mirror images into the latches, and the lit stripe begins to lock, before its first
power-up the lowest-numbered one (R34, R60, R73); with no stripe left the tile is FAULTED (R71). -/
def lightTile (t : TileIx) (s : State) : State :=
  match startStripe s.tiles[t].laser with
  | none => faultTile t s
  | some k =>
    enterTile t .warm (setTile t (fun x =>
      let y := reloadLatches t x.mesh.active.image x.mesh.shadow.image x
      { y with laser := { y.laser with locked := false, lit := k, stripes := upd y.laser.stripes k litStripe } }) s)

/-- TILE_CONTROL (R332, Table 12-16): it completes when the tile reaches the state that its action leads to. -/
def tileControlBody (n : RingIx) (f : Fetched) (s : State) : Body :=
  let t : TileIx := ⟨f.desc.u8 8 % 10, by omega⟩
  let x := s.tiles[t]
  let a := f.desc.u8 9
  let wait := fun (st : TileState) (s : State) => setTile t (fun x => { x with control := some (n, f.id, st) }) s
  let move := fun (st : TileState) (s : State) => setTile t (fun x => { x with moving := some st }) s
  if x.moving.isSome ∨ x.control.isSome then .done s (Reply.of codeStateIllegal)
  else if a = 0 then
    (if x.state = .off then .running (move .dark (wait .dark s)) else .done s (Reply.of codeStateIllegal))
  else if a = 1 then
    (if x.state = .dark then .running (lightTile t (wait .ready s)) else .done s (Reply.of codeStateIllegal))
  else if a = 2 then
    (if inService x && !soleRadioTile s t then
      .running (settleTile t (setTile t (fun x => { x with resting := true, control := some (n, f.id, .dark) }) s))
     else .done s (Reply.of codeStateIllegal))
  else if x.state = .dark then .running (move .off (wait .off s))
  else .done s (Reply.of codeStateIllegal)

def execTileControl (ring : RingIx) (s : State) : Result :=
  serve (isOp opTileControl) ring (fun f _ => [chk 0x08 (decide (9 < f.desc.u8 8)), chk 0x09 (decide (3 < f.desc.u8 9))])
    (tileControlBody ring) s

/-! ### Latches (R75, R76) -/

/-- A latch set that has lost a bit of shifter `i`: the parity check finds it, and it is loaded again from the mirror (R76). -/
def checkLatch (t : TileIx) (x : Tile) (i : Nat) (l : Latch) : Latch :=
  let hit := Latch.flip i l
  if hit.parityOk then hit else { loadedLatch t x l.image with complete := l.complete }

/-- The shadow latches of a member hold, or receive, what its group has committed. -/
def holdsStaged (s : State) (t : TileIx) : Bool :=
  match s.tiles[t].group with
  | none => false
  | some g => let st := s.sets.groups[g].shadow
    decide (st = .staged) || decide (st = .pending) || s.sets.groups[g].committing.isSome

/-- A parity error in a latch (R76): counted, and reloaded from the mirror; in the active latch the batch in progress ends
STALE_OUTPUT; the second one in a staged shadow image since its load sends the member to FAULTED (R283). -/
def execLatchParityError (tile : TileIx) (latch : LatchAt) (s : State) : Result :=
  let x := s.tiles[tile]
  let l := if latch.active then x.mesh.active else x.mesh.shadow
  if !holdsImage x ∨ l.sel.length ≤ latch.shifter then .next s
  else
    let s1 := setTile tile (fun x =>
      let m := { x.mesh with parityErrs := x.mesh.parityErrs + 1 }
      { x with mesh := if latch.active then { m with active := checkLatch tile x latch.shifter m.active }
        else { m with shadow := checkLatch tile x latch.shifter m.shadow, parityRetries := m.parityRetries + 1 } }) s
    if latch.active then
      (match x.job with
       | some id => .next (setJob id (fun j => { j with stale := true, epoch := (outputPort x).epoch }) s1)
       | none => .next s1)
    else if 1 ≤ x.mesh.parityRetries && holdsStaged s tile then .next (faultTile tile s1)
    else .next s1

/-- The shadow latches of a tile are free: no load, nothing placed behind the running segment, and no shadow image of a group
that waits in them. -/
def shadowFree (s : State) (t : TileIx) : Bool :=
  let x := s.tiles[t]
  x.mesh.load.isNone && x.next.isNone && !x.mesh.swapWaits && (match x.group with
    | none => true
    | some g => decide (s.sets.groups[g].shadow = .empty) || decide (s.sets.groups[g].shadow = .opened))

/-- 10 ms after a segment-map update the unchanged active image is loaded again; it is swapped in where the load ends, at a pass
boundary (R63, R76). -/
def execSegmapReloadTimer (tile : TileIx) (s : State) : Result :=
  let x := s.tiles[tile]
  if inService x && shadowFree s tile && decide (x.mesh.active.mapRev ≠ x.mesh.mapRev) then
    .next (setTile tile (beginLoad (newLoad x.mesh.active.image .reload 6 true)) s)
  else .next s

/-! ### The end of a MAINT residence (R75, R152, R153) -/

/-- Both latches reloaded in the roles that a swap held over would have produced, with what the group committed meanwhile in the
shadow; results in force, switch open (R75, R100, R152, R269). -/
def restoreTile (t : TileIx) (x : Tile) : Tile :=
  let y := applyResults t x
  let z := { y with maintDue := false, conv := { y.conv with testDac := none } }
  let act := if x.mesh.swapAtRestore then x.mesh.shadow.image else x.mesh.active.image
  let sh := if x.mesh.swapAtRestore then x.mesh.active.image else x.mesh.shadow.image
  reloadLatches t act ((committedImage x.mesh).getD sh) z

/-- An IDLE or REPAIR gap, or one that has ended, is over at the restore; a declared gap goes on. -/
def closeGap (c : Calib) : Calib :=
  match c.gap with
  | some g => if g.beneath then { c with gap := some { g with kind := .declared, beneath := false } }
              else if g.kind = .declared ∧ !g.ended then c else { c with gap := none }
  | none => c

/-- Seals that the end of a residence owes: a repair's, and a routine pass's (R142, R153). -/
def sealOwed (t : TileIx) (s : State) : State :=
  let c := s.tiles[t].cal
  let pass := c.passOpen && decide (c.steps = [])
  if pass || (c.sealAfter && decide (c.demand = [])) then
    let s1 := setTile t (fun x => { x with cal := { x.cal with
      passOpen := x.cal.passOpen && !pass, sealAfter := false, starved := x.cal.starved && !pass } }) s
    sealRecord 1 t (if pass then clearAlarm evCharStarved (BitVec.ofNat 16 t.val) s1 else s1)
  else s

/-- CAL_DEGRADED clears once records of both kinds have been sealed from live results (R160). -/
def clearDegraded (t : TileIx) (s : State) : State :=
  let c := s.tiles[t].cal
  if c.degraded && c.sealedChar && c.sealedRun then
    clearAlarm alCalStore (BitVec.ofNat 16 t.val) (setTile t (fun x => { x with cal := { x.cal with degraded := false } }) s)
  else s

/-- A REPAIR gap whose steps have not all run (R153). -/
def repairGoesOn (c : Calib) : Bool := c.gap.any (fun g => decide (g.kind = .repair) && !g.ended) && decide (c.demand ≠ [])

/-- A group goes on whose member has come back from MAINT (R269, R274). -/
def groupGoesOn (t : TileIx) (s : State) : State :=
  match s.tiles[t].group with
  | none => s
  | some g => trySwap g (tryFinishCommit g s)

/-- The restore of a tile in MAINT ends and it is READY (R75), unless a step, a lock or a shorted heater keeps it: a stripe whose
lock was not regained in time has failed (R78), and a repair runs its steps first (R153). -/
def execMaintRestoreDone (tile : TileIx) (s : State) : Result :=
  let x := s.tiles[tile]
  if x.state ≠ .maint ∨ x.cal.step.isSome ∨ x.heat.overcurrent then .next s
  else if !x.laser.locked then .next (if x.laser.timedOut then failStripe tile s else s)
  else if repairGoesOn x.cal then .next (beginStep tile s)
  else
    let s1 := setTile tile (fun x => { restoreTile tile x with cal := closeGap (restoreTile tile x).cal }) s
    let s2 := enterTile tile .ready (clearDegraded tile (endChange tile (sealOwed tile s1)))
    .next (settleTile tile (tryPower (finishControl tile (groupGoesOn tile s2))))

end Sys2Proof.Machine
end

