-- ==== Sys2Proof/Machine/CharOps.lean ====
section
/-! DEFINITION. What characterisation steps measure and what firmware does with it: segment maps and dead segments (R49, R51),
retirement of columns (R70, R71), the other coefficients of Table 5-3, path tests (R101, R102). -/
namespace Sys2Proof.Machine

/-! ### Segment maps (R49, R51, R152) -/

/-- The maps that a step measures: block and index (Table 5-3, R154). -/
def StepKind.maps : StepKind → List (Nat × Nat)
  | .segCol u c => (columnShifters u c).map (fun i => (0x0003, i))
  | .segD => (List.range 256).map (fun i => (0x0003, 16764 + i))
  | .segPort lo => (List.range 128).map (fun i => (0x0004, (if lo then 128 else 0) + i))
  | _ => []

/-- The bytes of a map of a tile. -/
def mapAt (t : TileIx) (x : Tile) (p : Nat × Nat) : List Byte :=
  memReadN (coefDefault t) x.cal.coefs (p.1 * 2 ^ 24 + 28 * p.2) 28

/-- A measured segment weight is inside 50 % to 150 % of its nominal one: the segment is not dead (Table 5-9). -/
def liveSegment (e : Nat × Nat) : Bool := decide (nominalWeight e.1 ≤ 2 * e.2 ∧ 2 * e.2 ≤ 3 * nominalWeight e.1)

/-- An entry put in its place: descending weight, equal weights in ascending segment number (R49). -/
def insertEntry (e : Nat × Nat) : List (Nat × Nat) → List (Nat × Nat)
  | [] => [e]
  | x :: xs => if x.2 < e.2 ∨ (x.2 = e.2 ∧ e.1 < x.1) then e :: x :: xs else x :: insertEntry e xs

def sortEntries (es : List (Nat × Nat)) : List (Nat × Nat) := es.foldr insertEntry []

/-- Entries laid over the positions of a map: one whose segment is gone is unused, the others take the entries in order (R51). -/
def layEntries (keeps : Nat → Bool) : List Nat → List (Nat × Nat) → List Nat
  | [], _ => []
  | w :: ws, es =>
    if keeps w then (match es with
      | e :: r => (e.1 * 4096 + e.2) :: layEntries keeps ws r
      | [] => 0xF000 :: layEntries keeps ws [])
    else 0xF000 :: layEntries keeps ws es

/-- A map measured again: the OFFSET less the zone's drift `dz` (R152), and the weights of the segments it holds; a segment that
fails is removed in place, and one removed before stays so (R49, R51, assumption 77). -/
def measuredMap (dz : Int) (old : List Byte) (offset : Nat) (ws : List Nat) : List Byte :=
  let words := (mapWords old).drop 1
  let entry := fun w => (segOf w, ws.getD (segOf w) 0)
  let keeps := fun w => decide (segOf w < 13) && liveSegment (entry w)
  leBytes 2 (((offset : Int) - dz) % 4096).toNat ++
  (layEntries keeps words (sortEntries ((words.filter keeps).map entry))).flatMap (leBytes 2)

/-- The drift in what is measured of a map: its zone's for a mesh shifter, none for a port shifter (R138, R152). -/
def driftOf (x : Tile) (p : Nat × Nat) : Int :=
  if p.1 = 0x0003 then
    let z := x.heat.zones[zoneOfShifter p.2]
    if isPhi p.2 then z.dzPhi else z.dzTheta
  else 0

/-- Bytes of a result, from an offset of a block on. -/
def coefResult (block o : Nat) (bs : List Byte) : List (Nat × Nat × Byte) :=
  (List.range bs.length).map (fun i => (block, o + i, bs.getD i 0))

/-! ### Results (Table 5-3, R143) -/

/-- GAIN_S that makes one code step 2.0 LSB, from the rise of an identity path in 1/1024 LSB, in the range of Table 3-1. -/
def streamGain (rise : Nat) : Nat :=
  if rise = 0 then 0xFFFF else min 0xFFFF (max 0x4000 (roundDivEven (67108864 : Int) rise).toNat)

/-- OFS_S from a mean in 1/1024 LSB, in the range of Table 3-1. -/
def streamOffset (mean : Int) : Int := clampInt (-512) 511 (roundDivEven mean 64)

/-- The coefficient bytes that a unit gives: what belongs to the step alone (R143, R152). -/
def unitResults (t : TileIx) (k : StepKind) (d : CharData) (x : Tile) : List (Nat × Nat × Byte) :=
  match k, d with
  | .portAlign, .ports cs => cs.flatMap (fun p => coefResult 0x0005 (2 * p.1.val) (leBytes 2 p.2.toNat))
  | .dacTable g, .levels ls _ =>
    (ls.filter (fun p => decide (p.1.val / 32 = g.val))).flatMap (fun p =>
      coefResult 0x0006 (64 * p.1.val + 2 * p.2.1.val) (leBytes 2 p.2.2.toNat))
  | .streamCal g, .streams ss =>
    (ss.filter (fun p => decide (p.1.val / 32 = g.val))).flatMap (fun p =>
      coefResult 0x0007 (4 * p.1.val) (le16s (streamOffset p.2.1) ++ leBytes 2 (streamGain p.2.2)))
  | .gainTrace, .gains gs => gs.flatMap (fun p => coefResult 0x000B (4 * p.1.val) (leBytes 4 p.2.toNat))
  | .lossRef, .taps rs => rs.flatMap (fun p => coefResult 0x0008 (2 * p.1.val) (leBytes 2 p.2.toNat))
  | _, .weights ss _ =>
    k.maps.flatMap (fun p => match ss.find? (fun m => decide (m.1 = p.2)) with
      | some m => coefResult p.1 (28 * p.2) (measuredMap (driftOf x p) (mapAt t x p) m.2.1 m.2.2)
      | none => [])
  | _, _ => []

/-- A tile as the results that wait for its restore will leave it. -/
def withResults (t : TileIx) (rs : List (Nat × Nat × Byte)) (x : Tile) : Tile :=
  applyResults t { x with cal := { x.cal with results := x.cal.results ++ rs } }

/-! ### Actions (R51, R70, R71, R102, Tables 2-8, 3-10, 4-6 and 5-9) -/

/-- A trim heater found open (Table 4-6): its zone's code is 0 from now on, MINOR. -/
def heaterOpen (t : TileIx) (z : Fin 128) (s : State) : State :=
  let src := BitVec.ofNat 16 t.val
  if s.tiles[t].heat.zones[z].openHeater then s
  else raiseAlarm false alHeater src (event evHeaterFault src (BitVec.ofNat 16 z.val)
    (setTile t (fun x => { x with heat := { x.heat with
      zones := upd x.heat.zones z (fun y => { y with openHeater := true }) } }) s))

/-- Columns retired in a section. -/
def retiredOf (u : Bool) (x : Tile) : List (Fin 66) := if u then x.cal.retiredU else x.cal.retiredV

/-- Firmware retires a physical column of a section (R43, R70, R71, R153): it is held at identity from the restore on, the
columns that the mapping moves are characterised, and the third retirement sends the tile to FAULTED. -/
def retireColumn (t : TileIx) (u : Bool) (col : Fin 66) (s : State) : State :=
  let cs := retiredOf u s.tiles[t]
  if col ∈ cs then s
  else if 2 ≤ cs.length then faultTile t s
  else
    let moved := (movedColumns u cs (cs ++ [col])).map (fun c => StepKind.segCol u c.val)
    let src := BitVec.ofNat 16 t.val
    let c := demandSteps moved { s.tiles[t].cal with sealAfter := true, changed := true }
    let c1 := if u then { c with retiredU := c.retiredU ++ [col] } else { c with retiredV := c.retiredV ++ [col] }
    let s1 := setTile t (fun x => { x with cal := c1 }) s
    let s2 := event evColumnRetired src (BitVec.ofNat 16 (col.val + if u then 0x8000 else 0)) s1
    if cs.length = 1 then raiseAlarm false evColumnRetired src s2 else s2

/-- An unsound shifter in a column of V or U: the column is checked before it retires, in a REPAIR gap; one already retired needs
nothing (R70, R153). -/
def columnUnsound (t : TileIx) (u : Bool) (c : Nat) (s : State) : State :=
  if (retiredOf u s.tiles[t]).any (fun r => decide (r.val = c)) then s
  else
    let check : StepKind := .colCheck u c
    openGap t .repair (setTile t (fun x => { x with cal := { x.cal with
      demand := check :: x.cal.demand.filter (fun k => decide (k ≠ check)) } }) s)

/-- Maps measured: dead segments are a repair that ends with a seal, an unsound column retires, an unsound D shifter is fatal
(R51, R69 to R71, R153, Table 5-9). -/
def mapsDone (t : TileIx) (k : StepKind) (was now : Tile) (s : State) : State :=
  let dead := k.maps.any (fun p => decide ((parseMap (mapAt t now p)).entries.length < (parseMap (mapAt t was p)).entries.length))
  let unsound := k.maps.any (fun p => !soundMap (parseMap (mapAt t now p)))
  let s1 := if dead then openGap t .repair (event evSegmentDead (BitVec.ofNat 16 t.val) 0
      (setTile t (fun x => { x with cal := { x.cal with sealAfter := true } }) s)) else s
  if !unsound then s1 else match k with
  | .segCol u c => columnUnsound t u c s1
  | .segD => faultTile t s1
  | _ => s1

/-- A column characterised: zones that waited for it alone are corrected again (R140). -/
def freeZones (u : Bool) (c : Nat) (x : Calib) : Calib :=
  let left := x.zonesHeld.map (fun p => (p.1, p.2.filter (fun q => !(decide (q = (u, c))))))
  { x with zonesHeld := left.filter (fun p => decide (p.2 ≠ [])) }

/-- The port group of a path (R101). -/
def pathGroup (r : Fin 128) : Fin 8 := ⟨r.val / 16, by omega⟩

/-- Path tests of a port group still on demand. -/
def groupTests (g : Fin 8) (c : Calib) : Bool := c.demand.any (fun k => match k with
  | .pathTest r _ => decide (pathGroup r = g)
  | _ => false)

/-- The end of a path test (R102, Tables 2-4 and 3-10): a test DAC that channel 49 contradicts is unusable, its tests are given
up and the tile keeps serving; a failed path is fatal; and so is a receiver alarm whose paths have all passed. -/
def pathDone (t : TileIx) (r : Fin 128) (ps : List PathPoint) (s : State) : State :=
  let c := s.tiles[t].cal
  if !testDacAgrees ps then
    tileEvent 3 t (setTile t (fun x => { x with
      conv := { x.conv with testDacBad := true },
      cal := { x.cal with rxAlarm := [], demand := x.cal.demand.filter (fun k => match k with
        | .pathTest _ _ => false
        | _ => true) } }) s)
  else if !pathPasses ps then faultTile t s
  else if pathGroup r ∈ c.rxAlarm ∧ !groupTests (pathGroup r) c then faultTile t s
  else s

/-- The end of an identity check (R70, R71): the column retires, or the tile is FAULTED where it does not reach identity, as
measured and by the maps now characterised. -/
def identityDone (t : TileIx) (u : Bool) (c : Nat) (d : CharData) (now : Tile) (s : State) : State :=
  let ok := columnReachesIdentity t now u c && (match d with
    | .identity es => es.all (fun e => decide (e.natAbs ≤ 2))
    | _ => true)
  if !ok then faultTile t s else if h : c < 66 then retireColumn t u ⟨c, h⟩ s else s

/-- A step that ran to its end: `was` before its results, `now` with them. -/
def stepDone (t : TileIx) (k : StepKind) (d : CharData) (ps : List PathPoint) (was now : Tile) (s : State) : State :=
  match k with
  | .segCol u c => setTile t (fun x => { x with cal := freeZones u c x.cal }) (mapsDone t k was now s)
  | .segD => mapsDone t k was now s
  | .segPort _ => mapsDone t k was now s
  | .dacTable _ => (match d with
    | .levels _ true => faultTile t s
    | _ => s)
  | .pathTest r _ => pathDone t r ps s
  | .colCheck u c => identityDone t u c d now s
  | _ => s

/-- Zones whose heater moved no phase in a step (Table 4-6). -/
def noteStill (t : TileIx) (d : CharData) (s : State) : State :=
  match d with
  | .weights _ zs => zs.foldl (fun s z => heaterOpen t z s) s
  | _ => s

/-- The points of a path test that a unit gives. -/
def unitPoints (d : CharData) : List PathPoint :=
  match d with
  | .path ps => ps
  | _ => []

end Sys2Proof.Machine
end

