-- ==== Sys2Proof/Machine/Calib.lean ====
section
/-! DEFINITION. Calibration of a tile: interleave, drift and characterisation (R131 to R153, R164), heater frames and monitor
rounds (R93 to R96, R112 to R130), and the calibration commands (R331, Table 12-16, R337). -/
namespace Sys2Proof.Machine

/-! ### Class 1 (R132 to R135) -/

/-- Floor of the square root, by 64 bits from the top. -/
def isqrtFrom : Nat → Nat → Nat → Nat
  | 0, _, r => r
  | k + 1, n, r => isqrtFrom k n (if (r + 2 ^ k) * (r + 2 ^ k) ≤ n then r + 2 ^ k else r)

def isqrt (n : Nat) : Nat := isqrtFrom 64 n 0

/-- 32,768 times the fourth root of a quotient, to nearest. -/
def quarterRoot (a b : Nat) : Nat := (isqrt (isqrt (a * 2 ^ 64 / b)) + 1) / 2

/-- A coefficient moved toward its target, by at most `limit`, where the difference is not inside the dead band (R135, R139). -/
def towards (still : Bool) (cur target : Int) (limit : Nat) : Int :=
  if still then cur else cur + clampInt (-(limit : Int)) limit (target - cur)

/-- N^2 times the variances, and the covariances, of a pair's window, with N the samples of one half (R134). -/
structure PairStats where
  v0 : Int
  v1 : Int
  cf : Int
  cp : Int

def pairStats (n : Nat) (m : PairSums) : PairStats :=
  { v0 := (n : Int) * m.q0 - m.s0 * m.s0, v1 := (n : Int) * m.q1 - m.s1 * m.s1,
    cf := (n : Int) * m.pf - m.s0 * m.s1, cp := (n : Int) * m.pp - m.s0 * m.s1 }

/-- A window is usable for a pair (R133). -/
def usablePair (n : Nat) (m : PairSums) : Bool :=
  let v := pairStats n m
  decide (m.n0 = n) && decide (m.n1 = n) && decide (16 * (n : Int) * n ≤ v.v0) && decide (16 * (n : Int) * n ≤ v.v1)

/-- Targets of a pair (R134), exact: N times OFS_H[0] in 1/16 LSB, the fourth powers of GAIN_H as the quotients of the variances,
and SKEW. -/
structure PairTarget where
  n    : Nat
  ofs  : Int
  v0   : Nat
  v1   : Nat
  skew : Int

/-- The targets of a usable window (R134). The round() of the skew takes ties to even (DESIGN CHOICE, assumption 74: the rule does
not say how a tie goes). -/
def pairTargets (n : Nat) (m : PairSums) (cur : Interleave) : PairTarget :=
  let v := pairStats n m
  let skew := if v.v0 + v.v1 ≤ 16 * (v.cf + v.cp) ∧ (v.cf + v.cp).toNat ≤ 4096 * (v.cp - v.cf).natAbs then
      cur.skew.toInt + roundDivEven (256 * (v.cp - v.cf)) (v.cf + v.cp).toNat
    else cur.skew.toInt
  { n := n, ofs := 8 * (m.s0 - m.s1), v0 := v.v0.toNat, v1 := v.v1.toNat, skew := skew }

/-- 32,768 times the fourth root of a/b lies strictly below the register value g. -/
def rootBelow (a b : Nat) (g : Int) : Bool := decide (0 < g) && decide (32768 ^ 4 * a < g.toNat ^ 4 * b)

/-- 32,768 times the fourth root of a/b lies strictly above the register value g. -/
def rootAbove (a b : Nat) (g : Int) : Bool := decide (g < 0) || decide (g.toNat ^ 4 * b < 32768 ^ 4 * a)

/-- A gain target lies less than 4 units from the register (Table 5-2). -/
def gainStill (a b : Nat) (cur : W16) : Bool := rootBelow a b (cur.toNat + 4) && rootAbove a b ((cur.toNat : Int) - 4)

/-- A gain target outside 0x6000 to 0xAAAA (Table 3-1). -/
def gainBad (a b : Nat) : Bool := rootBelow a b 0x6000 || rootAbove a b 0xAAAA

/-- A target outside Table 3-1's ranges: one ADC of the pair (R111, R135, R164). -/
def targetBad (g : PairTarget) : Bool :=
  decide (512 * g.n < g.ofs.natAbs) || gainBad g.v1 g.v0 || gainBad g.v0 g.v1 || decide (127 < g.skew.natAbs)

/-- An offset moved toward its target of `num / n` units (Table 5-2); the target is rounded to a unit, ties to even, only where
it lies a unit or more away (DESIGN CHOICE, assumption 74). -/
def moveOffset (num : Int) (n : Nat) (cur : BitVec 10) : BitVec 10 :=
  BitVec.ofInt 10 (clampInt (-512) 511 (towards (decide ((num - n * cur.toInt).natAbs < n)) cur.toInt (roundDivEven num n) 4))

/-- A gain moved toward its target, which is rounded to the nearest unit (Table 5-2, assumption 74). -/
def moveGain (a b : Nat) (cur : W16) : W16 := BitVec.ofInt 16 (towards (gainStill a b cur) cur.toNat (quarterRoot a b) 32)

/-- The coefficients of a pair after one window (R135, Table 5-2). -/
def movePair (g : PairTarget) (c : Interleave) : Interleave :=
  { ofs0 := moveOffset g.ofs g.n c.ofs0, ofs1 := moveOffset (-g.ofs) g.n c.ofs1,
    gain0 := moveGain g.v1 g.v0 c.gain0, gain1 := moveGain g.v0 g.v1 c.gain1,
    skew := BitVec.ofInt 8 (towards false c.skew.toInt g.skew 2) }

/-- One pair of a closed window: its shadow coefficients move, or its ADC is suspect and a path test is scheduled. -/
def classOne (n : Nat) (w : Collector) (x : Tile) (k : Fin 256) : Tile :=
  let m := w.pairs[k]
  let cur := x.conv.pairsNext[k]
  if !usablePair n m then x
  else
    let g := pairTargets n m cur
    if targetBad g then
      { x with cal := demandSteps [.pathTest ⟨k.val / 2, by omega⟩ (decide (k.val % 2 = 1))] x.cal }
    else
      let c := movePair g cur
      if c = cur then x
      else { x with conv := { x.conv with pairsNext := put x.conv.pairsNext k c, updateReq := true },
                    cal := { x.cal with changed := true } }

/-- A pair of the window has a target outside its range (R111, R164). -/
def adcSuspect (n : Nat) (w : Collector) (ps : Vector Interleave 256) : Bool :=
  (List.finRange 256).any (fun k => usablePair n w.pairs[k] && targetBad (pairTargets n w.pairs[k] ps[k]))

/-- The shadow correction registers before new values are written: those of a requested update, else the active ones (R87). -/
def shadowBase (c : Convert) : Convert :=
  if c.updateReq then c else { c with pairsNext := c.pairs, streamsNext := c.streams }

/-- The window that is open closes with the symbols in which no pass ran, and the next one opens (R92). -/
def turnWindow (maint : Bool) (rest : List PairMoments) (streams : List (Fin 256 × Int × Nat)) (c : Convert) : Convert :=
  { c with closed := c.open_.addRest rest streams, open_ := Collector.zero, windowClips := 0, windowMaint := maint }

/-- A collector window closes (R92, R132 to R135). A tile with no pass in progress is at a pass boundary. -/
def execCollectorWindowClose (tile : TileIx) (rest : WindowRest) (s : State) : Result :=
  let x := s.tiles[tile]
  let n := 2 ^ (x.cal.windowN - 1)
  let ballast := decide (x.state = .warm) && decide (s.tray.phase = .settle)
  let usable := (inService x || ballast) && !x.conv.windowMaint && decide (x.conv.windowClips < 2 ^ (x.cal.windowN - 10))
  let c := turnWindow (decide (x.state = .maint)) rest.pairs rest.streams x.conv
  if !usable then .next (setTile tile (fun x => { x with conv := c }) s)
  else
    let b := shadowBase { c with windowUsed := true }
    let y := (List.finRange 256).foldl (classOne n c.closed) { x with conv := b }
    let s1 := setTile tile (fun _ => { y with conv := if x.job.isNone then passBoundary y.conv else y.conv }) s
    if adcSuspect n c.closed b.pairsNext then
      .next (settleTile tile (openGap tile .repair (raiseAlarm false alAdc (BitVec.ofNat 16 tile.val) s1)))
    else .next s1

/-! ### Monitor rounds and the trim loop (R93 to R96, R121 to R124) -/

/-- Monitor channels 9 to 40 are all in a mask (R124). -/
def tapsScanned (m : W64) : Bool := (List.range 32).all (fun i => m.getLsbD (9 + i))

/-- The feedback terms after a round: C + (e * KFB) >> 8, within 1,024 codes (R122). -/
def feedback (es : List (Fin 16 × Int)) (h : HeaterDrive) : HeaterDrive :=
  { h with c := es.foldl (fun c p => put c p.1 (clampInt (-1024) 1024 (c.get p.1 + p.2 * h.kfb[p.1].toNat / 256))) h.c }

/-- The residual after a round: mean square filtered with a shift of 4, its root, and the peak (R124). -/
def residual (meanSq : Nat) (h : HeaterDrive) : HeaterDrive :=
  let m := ((h.meanSq : Int) + ((meanSq : Int) - h.meanSq) / 16).toNat
  let r : Byte := BitVec.ofNat 8 (min 255 (isqrt m))
  { h with meanSq := m, resid := r, peak := if h.peak.toNat < r.toNat then r else h.peak, residValid := true }

/-- The trim loop after a round: it learns from the round's taps if the mask held them all, and its feedback is stale as soon as
the mask in force omits one (R122, R124, R129). -/
def loopRound (errors : List (Fin 16 × Int)) (meanSq : Nat) (was now : W64) (h : HeaterDrive) : HeaterDrive :=
  let h1 := if tapsScanned was then residual meanSq (feedback errors h) else h
  { h1 with residValid := h1.residValid && tapsScanned was && tapsScanned now }

/-- A tile's residual forbids its drift window (R137). -/
def residHigh (h : HeaterDrive) : Bool := !h.residValid || decide (h.residMax.toNat ≤ h.resid.toNat)

/-- The monitor ADC's own references are out of range in a round: channel 59 outside 0.98 to 1.02 V, or channel 60 beyond 10 mV
(Table 3-10); a channel that the round did not convert says nothing. -/
def monitorBad (c : Convert) (mask : W64) : Bool :=
  (mask.getLsbD 59 && decide (c.mon[(59 : Fin 64)].1.toNat < 1960 ∨ 2040 < c.mon[(59 : Fin 64)].1.toNat)) ||
  (mask.getLsbD 60 && decide (20 < c.mon[(60 : Fin 64)].1.toNat))

/-- The results and the stamp of a round, for every selected channel, and the mask of the next one (R93 to R95, R98). -/
def roundEnd (convs : List (Fin 64 × Conversions)) (tia : List (Fin 128 × Conversions × Conversions)) (c : Convert) : Convert :=
  let st := c.round + 1
  let mon : Vector (BitVec 12 × W16) 64 := Vector.ofFn (fun k =>
    if c.scanMask.getLsbD k.val ∧ k.val ≤ 60 then (Conversions.result (channelConv c convs tia k), st) else c.mon[k])
  let mask := c.nextMask.getD c.scanMask
  { c with round := st, mon := mon, scanMask := mask, nextMask := none, scanIdle := decide (mask = 0) }

/-- Whether every field of a CAL_TUNE has taken effect on a tile. -/
def tuneSettled (x : Tile) : Bool :=
  decide (x.state = .faulted) || (x.conv.nextMask.isNone && x.heat.slewWant.isNone)

/-- CAL_TUNE commands whose fields have all taken effect complete (R331). -/
def finishTunes (s : State) : State :=
  let done := s.sched.tunes.filter (fun p => (tilesOf p.2.2).all (fun t => tuneSettled s.tiles[t]))
  let s1 := { s with sched := { s.sched with tunes := s.sched.tunes.filter (fun p => !(decide (p ∈ done))) } }
  done.foldl (fun s p => completeId p.1 p.2.1 (Reply.of codeOk) s) s1

/-- A monitor round ends (R94, R122, R124, Table 3-10). `meanSq` is the mean square of the round's 16 phase errors referred to
output error, in units of (1/256 LSB)^2. -/
def execMonitorRoundEnd (tile : TileIx) (convs : RoundConvs) (errors : List (Fin 16 × Int)) (meanSq : Nat) (s : State) : Result :=
  let x := s.tiles[tile]
  if x.state = .off ∨ x.conv.scanIdle then .next s
  else
    let mask := x.conv.scanMask
    let conv := roundEnd convs.chans convs.tia x.conv
    let heat := loopRound errors meanSq mask conv.scanMask x.heat
    let bad := if monitorBad conv mask then x.conv.monBad + 1 else 0
    let cal := { x.cal with changed := x.cal.changed || decide (heat.c ≠ x.heat.c),
                            drift := { x.cal.drift with residBad := x.cal.drift.residBad || residHigh heat } }
    let z := { x with conv := { conv with monBad := bad }, heat := heat, cal := cal }
    let s1 := finishTunes (setTile tile (fun _ => z) s)
    .next (if 2 ≤ bad then faultTile tile s1 else s1)

/-- The code of a channel at a frame boundary (R115, R117): the queue's next, or the last one again; a channel that HOLD holds
keeps its code (R120). The first frame after a power-up finds every queue empty and counts as a repeated one on a LOOP channel
(DESIGN CHOICE, assumption 75). -/
def frameCode (loop : Bool) (h : Heater) : Heater :=
  if h.held then h
  else if !h.attr.getLsbD 3 then { h with code := 0, queue := h.queue.drop 1 }
  else match h.queue with
  | c :: cs => { h with code := c, queue := cs, starved := 0 }
  | [] => if loop then { h with underrun := satInc16 h.underrun, starved := h.starved + 1 } else h

/-- A channel of the trim loop (R116, Table 4-2). -/
def isLoop (c : Fin 136) (h : Heater) : Bool := decide (c.val < 128) && !h.attr.getLsbD 2

/-- Every channel at a frame boundary (R115, R120): forced to 0 by an overcurrent or a TRIP; under a control fault a ZERO channel
stays at 0 (assumption 69). -/
def takeFrame (h : HeaterDrive) : HeaterDrive :=
  let due := if h.faultDue then h.chans.map faultAction else h.chans
  let cs : Vector Heater 136 := Vector.ofFn (fun c =>
    let y := due[c]
    if h.overcurrent ∨ h.tripped then { y with queue := [], code := 0 }
    else if h.controlFault ∧ !y.held then { y with queue := [], code := 0 }
    else frameCode (isLoop c y) y)
  { h with chans := cs, faultDue := false, counter := 0 }

/-- The pair of section and port group that feeds a zone back: V for bands 0 to 7, else U (R121, R122). -/
def zonePair (z : Fin 128) : Fin 16 :=
  if z.val / 8 < 8 then ⟨z.val % 8, by omega⟩ else ⟨8 + z.val % 8, by omega⟩

/-- The shift of the feedforward lag; DIVIDE lowers it by 1 (R121, R129). -/
def lagShift (divide : Bool) (h : HeaterDrive) : Nat := if divide then h.ffShift.toNat - 1 else h.ffShift.toNat

/-- One zone of the trim loop in one frame (R121): the lagged activity, and the code before its clamp. -/
def zoneCode (divide : Bool) (act : Nat) (z : Fin 128) (h : HeaterDrive) : Int × Int :=
  let x := h.zones[z]
  let af := x.af + ((act : Int) - x.af) / 2 ^ lagShift divide h
  (af, (x.setpt.toNat : Int) - (x.kff.toNat : Int) * (af - x.aRef.toNat) / 256 + h.c[zonePair z] + x.drift)

/-- The channel of a zone. -/
def zoneChannel (z : Fin 128) : Fin 136 := ⟨z.val, by omega⟩

/-- The measured activity index of a zone (R121). -/
def zoneActivity (acts : List (Fin 128 × Nat)) (z : Fin 128) : Nat :=
  match acts.find? (fun p => decide (p.1 = z)) with
  | some p => min 1023 p.2
  | none => 0

/-- One LOOP zone's code written, its saturation counted; an open heater's zone is held at 0 (R121, Table 4-6). -/
def driveZone (divide : Bool) (acts : List (Fin 128 × Nat)) (h : HeaterDrive) (z : Fin 128) : HeaterDrive :=
  let ch := zoneChannel z
  if !isLoop ch h.chans[ch] then h
  else
    let r := zoneCode divide (zoneActivity acts z) z h
    let c := clampInt 0 4095 r.2
    let f := fun (x : Heater) => { x with satLow := if r.2 < 0 then x.satLow + 1 else 0,
                                          satHigh := if 4095 < r.2 then x.satHigh + 1 else 0 }
    let code : BitVec 12 := if h.zones[z].openHeater then 0 else BitVec.ofInt 12 c
    { h with
      zones := upd h.zones z (fun x => { x with af := r.1, satCount := if c = r.2 then x.satCount else satInc x.satCount }),
      chans := upd h.chans ch (fun x => queueCode code (f x)) }

/-- A code that firmware writes (R116, R117): into the queue of an FW channel; on a LOOP channel it is discarded and the conflict
is flagged. -/
def firmwareCode (h : HeaterDrive) (w : Fin 136 × BitVec 12) : HeaterDrive :=
  if isLoop w.1 h.chans[w.1] then { h with sourceConflict := true } else { h with chans := upd h.chans w.1 (queueCode w.2) }

/-- The mean activity index of a tile, cut to an integer (R126, assumption 72). -/
def meanActivity (acts : List (Fin 128 × Nat)) : Nat := ((List.finRange 128).map (zoneActivity acts)).sum / 128

/-- The ramp of SLEW mode after one frame (R126): the index moves by at most SLEW_STEP; the pass gate holds vectors while the
measured index is above the ceiling, and ballast holds it at the floor. TRACK has no ramp. -/
def rampFrame (acts : List (Fin 128 × Nat)) (h : HeaterDrive) : HeaterDrive :=
  let a : Int := meanActivity acts
  let up := h.activity + h.slewStep.toNat
  let down := h.activity - h.slewStep.toNat
  if !h.slew then { h with activity := a, passGate := false, ballast := false }
  else { h with activity := clampInt down up a, passGate := decide (up < a), ballast := decide (a < down) }

/-- A zone saturated for 1 ms, which is 240 frames: at 4,095 its heater is open, at 0 it is a tile event (Table 4-6). -/
def zoneAlarm (t : TileIx) (s : State) (z : Fin 128) : State :=
  let h := s.tiles[t].heat.chans[zoneChannel z]
  if h.satHigh = 240 then heaterOpen t z s
  else if h.satLow = 240 then event evHeaterFault (BitVec.ofNat 16 t.val) (BitVec.ofNat 16 z.val) s
  else s

/-- A requested heater mode takes effect at a frame boundary while the tile is READY or in MAINT (R127). -/
def frameMode (x : Tile) : HeaterDrive :=
  match x.heat.slewWant with
  | some m => if x.state = .ready ∨ x.state = .maint then { x.heat with slew := m, slewWant := none } else x.heat
  | none => x.heat

/-- A PWM frame boundary (R112, R115, R121): every channel takes its code, and CCLK the rate that DIVIDE asks for (R441); then, in
the frame that begins, the trim loop and firmware write the next codes. -/
def execHeaterFrame (tile : TileIx) (activity : List (Fin 128 × Nat)) (writes : List (Fin 136 × BitVec 12)) (s : State) : Result :=
  let x := s.tiles[tile]
  if x.state = .off then .next s
  else
    let h := rampFrame activity (takeFrame (frameMode x))
    let h1 := writes.foldl firmwareCode ((List.finRange 128).foldl (driveZone (divideAsserted s) activity) h)
    let s1 := finishTunes (setTile tile (fun x => { x with heat := h1 })
      { s with thermal := { s.thermal with divideOn := divideAsserted s } })
    .next ((List.finRange 128).foldl (zoneAlarm tile) s1)

/-- The output of a heater channel: high while the frame counter is below the code (R112). -/
def heaterOutput (h : HeaterDrive) (c : Fin 136) : Bool := decide (h.counter < h.chans[c].code)

/-- A control fault (R120, Table 4-6): the control network lost for 100 us, a LOOP channel starved for 240 frames, or FAULTED. -/
def execHeaterControlFault (tile : TileIx) (cause : HeaterFault) (s : State) : Result :=
  let x := s.tiles[tile]
  let src := BitVec.ofNat 16 tile.val
  if x.state = .off then .next s
  else match cause with
  | .networkLost => .next (raiseAlarm true alHeater src (setTile tile controlFault s))
  | .underrun =>
    if x.heat.chans.toList.any (fun c => decide (240 ≤ c.starved)) then
      .next (raiseAlarm false alHeater src (faultTile tile (event evHeaterFault src 0 s)))
    else .next s
  | .tileFaulted => if x.state = .faulted then .next (setTile tile controlFault s) else .next s

/-- The heater supply above 3.0 A (R120, Table 4-6): every channel at 0, whatever HOLD holds, MAINT between batches (R74), and
FAULTED on recurrence within 1 s. Its event, like that of a stalled loop, names no one channel and carries 0 (DESIGN CHOICE,
assumption 76). -/
def execHeaterOvercurrent (tile : TileIx) (s : State) : Result :=
  let x := s.tiles[tile]
  let src := BitVec.ofNat 16 tile.val
  if x.state = .off then .next s
  else
    let again := match x.heat.overAt with
      | some sc => decide ((s.time.symbolCount - sc).toNat ≤ 3932160000)
      | none => false
    let s1 := raiseAlarm false alHeater src (event evHeaterFault src 0 (setTile tile (fun x =>
      let y := zeroHeaters x
      { y with heat := { y.heat with overcurrent := true, overAt := some s.time.symbolCount },
               maintDue := decide (x.state ≠ .maint) && decide (x.state ≠ .faulted) }) s))
    .next (if again then faultTile tile s1 else settleTile tile s1)

/-! ### Class 2 (R136 to R140) -/

/-- Physical columns of a zone's band: false V, true U (Table 4-1). -/
def zoneColumns (z : Fin 128) : List (Bool × Nat) :=
  let b := z.val / 8
  if b < 7 then (List.range 8).map (fun i => (false, 8 * b + i))
  else if b = 7 then (List.range 10).map (fun i => (false, 56 + i))
  else if b = 8 then (List.range 10).map (fun i => (true, i))
  else (List.range 8).map (fun i => (true, 8 * b - 62 + i))

/-- One offset moved toward its solved value in 1/256 quarter-step: not where the difference is under 1 quarter-step, at most by
8, within 256 (R139, R140). -/
def moveDz (solved cur : Int) : Int :=
  clampInt (-256) 256 (towards (decide ((solved - 256 * cur).natAbs < 256)) cur (roundDivEven solved 256) 8)

def moveZone (v : Int × Int) (z : TrimZone) : TrimZone :=
  { z with dzTheta := moveDz v.1 z.dzTheta, dzPhi := moveDz v.2 z.dzPhi }

/-- A DZ reaches a magnitude (R140). -/
def reaches (m : Nat) (old new : Int) : Bool := decide (old.natAbs < m) && decide (m ≤ new.natAbs)

/-- The power that a port group received in a window, and that of all ports (R136, R138). -/
def groupPower (w : DriftWindow) (g : Nat) : Int :=
  ((List.range 16).map (fun i => (w.xx.getD ((16 * g + i) * 129) (0, 0)).1)).sum

/-- A zone whose port group received less than 1/64 of the mean input power per port is left out of the solve (R138). -/
def leftOut (w : DriftWindow) (z : Fin 128) : Bool :=
  decide (512 * groupPower w (z.val % 8) < ((List.range 8).map (groupPower w)).sum)

/-- The SEG_COL steps of a zone (R140). -/
def zoneSteps (z : Fin 128) : List StepKind := (zoneColumns z).map (fun c => .segCol c.1 c.2)

/-- One solved zone: moved unless held or left out, its columns scheduled when a DZ of it reaches 128, held at 256. -/
def driftZone (t : TileIx) (fit : List (Int × Int)) (s : State) (z : Fin 128) : State :=
  let x := s.tiles[t]
  if x.cal.zonesHeld.any (fun p => decide (p.1 = z)) ∨ leftOut x.cal.drift z then s
  else
    let o := x.heat.zones[z]
    let y := moveZone (fit.getD z.val (256 * o.dzTheta, 256 * o.dzPhi)) o
    let cross := reaches 128 o.dzTheta y.dzTheta || reaches 128 o.dzPhi y.dzPhi
    let full := decide (256 ≤ y.dzTheta.natAbs ∨ 256 ≤ y.dzPhi.natAbs)
    let s1 := setTile t (fun x => { x with
      heat := { x.heat with zones := put x.heat.zones z y },
      cal := { (if cross then demandSteps (zoneSteps z) x.cal else x.cal) with
        zonesHeld := if full then (z, zoneColumns z) :: x.cal.zonesHeld else x.cal.zonesHeld } }) s
    if cross then event evDzLimit (BitVec.ofNat 16 t.val) (BitVec.ofNat 16 z.val) s1 else s1

/-- A drift window that has just opened (R136). -/
def freshWindow (x : Tile) : DriftWindow := { DriftWindow.zero with residBad := residHigh x.heat, maint := decide (x.state = .maint) }

/-- SEG_COL steps wait on demand: class 2 holds DZ until they have run (R164). -/
def charWaits (c : Calib) : Bool := c.demand.any (fun k => match k with
  | .segCol _ _ => true
  | _ => false)

/-- The zones move toward what the fit of a usable window gives, and changed OFFSETs go to Umber's maps (R139, R76). -/
def moveZones (t : TileIx) (fit : List (Int × Int)) (s : State) : State :=
  let s1 := (List.finRange 128).foldl (driftZone t fit) s
  if s1.tiles[t].heat.zones = s.tiles[t].heat.zones then s1
  else setTile t (fun x => { x with mesh := mapUpdate x.heat x.mesh, cal := { x.cal with changed := true } }) s1

/-- A usable drift window (R138, R139, R164): the zones move; at the tenth window in a row whose fit has not converged, class 2
holds DZ until the SEG_COL steps that it schedules have run. A window before the tenth moves the zones like any other
(assumption 73). -/
def driftFitted (t : TileIx) (s : State) : State :=
  let x := s.tiles[t]
  let w := x.cal.drift
  let fit := Config.driftFit x.mesh.active.image w.xx w.yy w.yy1
  let bad := fun (n : Nat) (s : State) => setTile t (fun x => { x with cal := { x.cal with driftBad := n } }) s
  if 10 ≤ x.cal.driftBad ∧ charWaits x.cal then s
  else if fit.1 then moveZones t fit.2 (bad 0 s)
  else if x.cal.driftBad + 1 = 10 then
    tileEvent 1 t (setTile t (fun x => { x with
      cal := demandSteps ((List.finRange 128).flatMap zoneSteps).eraseDups { x.cal with driftBad := 10 } }) s)
  else moveZones t fit.2 (bad (if 10 ≤ x.cal.driftBad then 1 else x.cal.driftBad + 1) s)

/-- A drift window closes after 2^j sampled passes (R136): a usable one is fitted (R137), and the next one opens. -/
def execDriftWindowClose (tile : TileIx) (s : State) : Result :=
  let x := s.tiles[tile]
  let w := x.cal.drift
  if w.sampled < 2 ^ x.cal.driftWindow then .next s
  else
    let usable := inService x && !w.mixed && !w.maint && !w.residBad
    let s1 := if usable then driftFitted tile s else s
    .next (setTile tile (fun x => { x with cal := { x.cal with drift := freshWindow x } }) s1)

/-! ### Class 3 (R141 to R148, R153) -/

def execRoutinePassStart (tile : TileIx) (s : State) : Result :=
  if s.tiles[tile].cal.passOpen then .next s
  else .next (setTile tile (fun x => { x with cal := startPass x.cal }) s)

/-- Core 1's plan places a job's next segment on a tile: a pooled batch only where no other tile takes it (Table 5-4,
assumption 67). -/
def placedOn (s : State) (j : Job) (t : TileIx) : Bool :=
  hasWork s j t && !(decide (j.kind = .matmul) && (List.finRange 10).any (fun u => decide (u ≠ t) && hasWork s j u && tileTakes s j u))

/-- Work of the classes up to `most` that core 1's plan places on a tile: 5 stands for P0 to P5, 1 for P0 to P2 (Tables 5-4
and 13-4). -/
def planned (s : State) (t : TileIx) (most : Nat) : Bool := s.jobs.any (fun j => placedOn s j t && decide (classOf s j ≤ most))

/-- The stripe that a planned change lights: another tile can take the work, and the tile is free for the 2 s of a stripe change
(R33, R153). -/
def changeNow (s : State) (t : TileIx) : Option (Fin 4) :=
  let other := (List.finRange 10).any (fun u => decide (u ≠ t) && inService s.tiles[u])
  if s.tiles[t].laser.changeDue ∧ other ∧ fitsIn s t .idle 200000000 then nextStripe s.tiles[t].laser else none

/-- An IDLE gap opens on a READY tile with no work: for a planned stripe change, else, if it is usable, for the next step; a tile
that is CAL_DEGRADED starts a routine pass (R33, R144, R160). -/
def execIdleGapOpen (tile : TileIx) (s : State) : Result :=
  let x := s.tiles[tile]
  if x.state ≠ .ready ∨ x.job.isSome ∨ x.next.isSome ∨ x.moving.isSome ∨ x.cal.gap.isSome ∨ planned s tile 5 then .next s
  else match changeNow s tile with
    | some k => .next (enterMaint tile (openGap tile .repair (setTile tile (lightStripe k .worn) s)))
    | none =>
      if !gapUsable s tile .idle then .next s
      else
        let s1 := setTile tile (fun x => { x with cal := passIfDegraded x.cal }) s
        let s2 := beginStep tile (openGap tile .idle s1)
        if s2.tiles[tile].cal.step.isSome then .next s2 else .next s1

/-- The gap that a unit ran in has ended: declared so, or by work (R144, R146). -/
def gapOver (s : State) (t : TileIx) : Bool :=
  match s.tiles[t].cal.gap with
  | none => true
  | some g => g.ended || (decide (g.kind = .idle) && planned s t 5) || (decide (g.kind = .declared) && planned s t 1)

/-- An overrun counted, the longest kept in ns (R146). -/
def overrun (lateNs : Nat) (c : Calib) : Calib :=
  { c with overrunCount := satInc c.overrunCount,
           overrunMax := if c.overrunMax.toNat < lateNs then BitVec.ofNat 32 lateNs else c.overrunMax,
           gap := c.gap.map (fun g => { g with overruns := g.overruns + 1, ended := true }) }

/-- A step's last unit: its results are kept for the restore, and its mask and the test DAC are let go (R101, R146, R152). -/
def keepStep (late : Option Nat) (got : List (Nat × Nat × Byte)) (x : Tile) : Tile :=
  let c := { x.cal with step := none, stepResults := [], stepPoints := [], results := x.cal.results ++ got,
                        gap := x.cal.gap.map (fun g => { g with steps := g.steps + 1 }) }
  { x with cal := (match late with
      | some n => overrun n c
      | none => c), conv := afterStep x.conv }

/-- A characterisation unit ends (R141, R145, R146): a step goes on, ends with its results, or is discarded at the end of its gap
and rescheduled whole. -/
def execCharUnitEnd (tile : TileIx) (data : CharData) (lateNs : Nat) (s : State) : Result :=
  let x := s.tiles[tile]
  match x.cal.step with
  | none => .next s
  | some (k, n) =>
    let late := gapOver s tile
    let got := x.cal.stepResults ++ unitResults tile k data x
    let points := x.cal.stepPoints ++ unitPoints data
    if n ≤ 1 then
      let s1 := noteStill tile data (setTile tile (keepStep (if late then some lateNs else none) got) s)
      let s2 := stepDone tile k data points (withResults tile [] x) (withResults tile got x) s1
      .next (if late then s2 else beginStep tile s2)
    else if late then
      .next (setTile tile (fun x => let y := abandonStep x
                                    { y with cal := overrun lateNs y.cal }) s)
    else
      .next (noteStill tile data (setTile tile (fun x => { x with cal := { x.cal with
        step := some (k, n - 1), stepResults := got, stepPoints := points } }) s))

/-- A routine pass still open after twice CHAR_PERIOD (R148). -/
def execCharStarved (tile : TileIx) (s : State) : Result :=
  if s.tiles[tile].cal.passOpen then
    let src := BitVec.ofNat 16 tile.val
    .next (raiseAlarm false evCharStarved src (event evCharStarved src 0
      (setTile tile (fun x => { x with cal := { x.cal with starved := true } }) s)))
  else .next s

/-- Every 60 min a running record is sealed if some coefficient has changed (R161). -/
def execRunningSealTimer (tile : TileIx) (s : State) : Result :=
  if s.tiles[tile].cal.changed then .next (clearDegraded tile (sealRecord 2 tile s)) else .next s

/-! ### Commands (Table 12-16, R155, R331, R337) -/

def tileOf (d : Descriptor) : TileIx := ⟨d.u8 8 % 10, by omega⟩

/-- COEF_READ (R155): the values in force of one block, with CAL_EPOCH. -/
def execCoefRead (ring : RingIx) (s : State) : Result :=
  serve (isOp opCoefRead) ring (fun f s =>
    [chk 0x08 (decide (9 < f.desc.u8 8)), chk 0x0A (decide (blockLen (f.desc.u16 0x0A) = 0)),
     chk 0x10 (badDaddr s.tray.variant (f.desc.u64 0x10) 64)])
    (fun f s =>
      let t := tileOf f.desc
      writeThen (f.desc.u64 0x10) (blockBytes t s.tiles[t] (f.desc.u16 0x0A)) (Reply.ok s.tiles[t].cal.epoch.toNat) s) s

/-- RECORD_READ (R155, R331): stored bytes, valid or not. -/
def recordReadBody (f : Fetched) (s : State) : Body :=
  let d := f.desc
  let kind := if d.u8 0x0A = 2 then 3 else d.u8 9
  let n := min (d.u32 0x18) (recordLen' kind)
  let valid := kind = 3 || recordValid s kind (tileOf d).val (d.u8 0x0A)
  if s.flash.archDead then .done s (Reply.of codeNvmNoResponse)
  else writeThen (d.u64 0x10) (flashRead s .archive (slotAddr kind (tileOf d).val (d.u8 0x0A)) n)
    (Reply.okDetail n (if valid then 1 else 0)) s

def execRecordRead (ring : RingIx) (s : State) : Result :=
  serve (isOp opRecordRead) ring (fun f s =>
    let d := f.desc
    [chk 0x08 (decide (9 < d.u8 8)), chk 0x09 (decide (d.u8 9 < 1 ∨ 2 < d.u8 9)), chk 0x0A (decide (2 < d.u8 0x0A)),
     chk 0x10 (badDaddr s.tray.variant (d.u64 0x10) 1)]) recordReadBody s

/-- Range checks of CAL_TUNE: of the fields that VALID names (Table 12-16). -/
def calTuneArgs (f : Fetched) (_s : State) : List (Nat × Bool) :=
  let d := f.desc
  let v := fun k => (d.u8 9).testBit k
  [chk 0x08 (decide (9 < d.u8 8) && decide (d.u8 8 ≠ 0xFF)),
   chk 0x0A (v 0 && decide (d.u8 0x0A < 16 ∨ 24 < d.u8 0x0A)), chk 0x0B (v 1 && decide (d.u8 0x0B < 4 ∨ 12 < d.u8 0x0B)),
   chk 0x0C (v 2 && decide (d.u8 0x0C < 12 ∨ 20 < d.u8 0x0C)), chk 0x0D (v 3 && decide (d.u8 0x0D < 8 ∨ 38 < d.u8 0x0D)),
   chk 0x0E (v 4 && decide (d.u16 0x0E < 1 ∨ 168 < d.u16 0x0E)), chk 0x10 (v 5 && decide (1 < d.u8 0x10)),
   chk 0x11 (v 6 && decide (d.u8 0x11 < 1 ∨ 16 < d.u8 0x11)),
   chk 0x18 (v 7 && decide (2 ^ 61 ≤ d.u64 0x18))]

/-- A scan mask that host software asks for (R94, R95, R163): at the next round, at once where the scan stands still or the tile is
OFF, and after the step where one runs under its own mask. -/
def tuneMask (m : W64) (x : Tile) : Convert :=
  if x.conv.savedMask.isSome then { x.conv with savedMask := some m }
  else if x.state = .off then { x.conv with scanMask := m, scanIdle := decide (m = 0), nextMask := none }
  else writeMask m x.conv

/-- The fields of a CAL_TUNE on one tile (R94, R127, R331): the scan mask at the next round, the mode at a frame boundary; on a
tile that does not run they hold at once. -/
def tuneTile (d : Descriptor) (x : Tile) : Tile :=
  let v := fun k => (d.u8 9).testBit k
  let cold := decide (x.state = .off ∨ x.state = .dark ∨ x.state = .warm)
  let c := x.cal
  let cal := { c with
    windowN := if v 0 then d.u8 0x0A else c.windowN, driftStride := if v 1 then d.u8 0x0B else c.driftStride,
    driftWindow := if v 2 then d.u8 0x0C else c.driftWindow,
    charPeriod := if v 4 then BitVec.ofNat 16 (d.u16 0x0E) else c.charPeriod }
  let mode := decide (d.u8 0x10 = 1)
  let h := { x.heat with
    residMax := if v 3 then BitVec.ofNat 8 (d.u8 0x0D) else x.heat.residMax,
    slewStep := if v 6 then BitVec.ofNat 5 (d.u8 0x11) else x.heat.slewStep,
    slew := if v 5 ∧ cold then mode else x.heat.slew,
    slewWant := if v 5 then (if cold ∨ x.heat.slew = mode then none else some mode) else x.heat.slewWant }
  { x with cal := cal, heat := h, conv := if v 7 then tuneMask (BitVec.ofNat 64 (d.u64 0x18)) x else x.conv }

/-- CAL_TUNE (R331): a single FAULTED tile is illegal, of all tiles FAULTED ones are left out; a tile that a radio group names
stays in TRACK (R351). -/
def calTuneBody (n : RingIx) (f : Fetched) (s : State) : Body :=
  let d := f.desc
  let all := decide (d.u8 8 = 0xFF)
  let mask : BitVec 10 := BitVec.ofNat 10 (((List.finRange 10).map (fun t =>
    if (all ∨ t = tileOf d) ∧ s.tiles[t].state ≠ .faulted then 2 ^ t.val else 0)).foldl (· + ·) 0)
  if (!all && decide (s.tiles[tileOf d].state = .faulted)) ||
      ((d.u8 9).testBit 5 && decide (d.u8 0x10 = 1) && (tilesOf mask).any (radioNames s)) then .done s (Reply.of codeStateIllegal)
  else
    let s1 := (tilesOf mask).foldl (fun s t => setTile t (tuneTile d) s) s
    .running (finishTunes { s1 with sched := { s1.sched with tunes := s1.sched.tunes ++ [(n, f.id, mask)] } })

def execCalTune (ring : RingIx) (s : State) : Result := serve (isOp opCalTune) ring calTuneArgs (calTuneBody ring) s

/-- CHAR_REQUEST queues a routine pass (R331). -/
def execCharRequest (ring : RingIx) (s : State) : Result :=
  serve (isOp opCharRequest) ring (fun f _ => [chk 0x08 (decide (9 < f.desc.u8 8))])
    (fun f s => .done (setTile (tileOf f.desc) (fun x => { x with cal := startPass x.cal }) s) (Reply.ok routineSteps.length)) s

/-- The shadow correction registers written and an update requested: it takes effect at the next pass boundary, where a tile
without a pass stands already (R87). -/
def writeShadow (ps : Vector Interleave 256) (ss : Vector StreamCal 256) (x : Tile) : Tile :=
  let c := { x.conv with pairsNext := ps, streamsNext := ss, updateReq := true }
  { x with conv := if x.job.isNone then passBoundary c else c }

/-- COEF_WRITE (R337, R87, Table 3-10): running blocks at a pass boundary, others through MAINT and restore. -/
def coefWriteBody (n : RingIx) (f : Fetched) (s : State) : Body :=
  let d := f.desc
  let t := tileOf d
  let id := d.u16 0x0A
  let x := s.tiles[t]
  if x.state = .faulted then .done s (Reply.of codeStateIllegal)
  else match readFails s (d.u64 0x10) (blockLen id) with
  | some c => .done s (Reply.of c)
  | none =>
    let b := daddrRead s (d.u64 0x10) (blockLen id)
    if badCoef id b then .done s (Reply.arg 0x10)
    else if id = 0x0101 then
      .done (setTile t (writeShadow (setLive id b x).conv.pairs (shadowBase x.conv).streamsNext) s) (Reply.of codeOk)
    else if id = 0x0102 then
      .done (setTile t (fun x => let y := setBlock t id b x
                                 { y with mesh := mapUpdate y.heat y.mesh }) s) (Reply.of codeOk)
    else if id ∈ runBlocks then .done (setTile t (setBlock t id b) s) (Reply.of codeOk)
    else if !inService x && !decide (x.state = .maint) then .done (setTile t (setBlock t id b) s) (Reply.of codeOk)
    else
      let rs := (List.range b.length).map (fun o => (id, o, b.getD o 0))
      let cal := { x.cal with results := x.cal.results ++ rs }
      let s1 := setTile t (fun x => { x with maintDue := true, control := some (n, f.id, .ready), cal := cal }) s
      .running (settleTile t s1)

def execCoefWrite (ring : RingIx) (s : State) : Result :=
  serve (isOp opCoefWrite) ring (fun f s =>
    [chk 0x08 (decide (9 < f.desc.u8 8)), chk 0x0A (decide (blockLen (f.desc.u16 0x0A) = 0)),
     chk 0x10 (badDaddr s.tray.variant (f.desc.u64 0x10) 1)]) (coefWriteBody ring) s

end Sys2Proof.Machine
end

