-- ==== Sys2Proof/Machine/Debug.lean ====
section
/-! DEFINITION. Debug mode: the signed unlock, accumulator reads and writes, and raw vectors (R192, R337). -/
namespace Sys2Proof.Machine

/-- The challenge block: a fresh nonce of 32 bytes and TRAY_SERIAL (R337). -/
def challengeBlock (s : State) : List Byte := (Config.nonce s.free).toList ++ Config.traySerial.toList

def debugChallengeBody (f : Fetched) (s : State) : Body :=
  let b := challengeBlock s
  writeThen (f.desc.u64 0x10) b (Reply.of codeOk)
    { s with free := s.free + 1, tray := { s.tray with challenge := some b } }

/-- DEBUG_CHALLENGE (R337). -/
def execDebugChallenge (ring : RingIx) (s : State) : Result :=
  serve (isOp opDebugChallenge) ring (fun f s => [chk 0x10 (badDaddr s.tray.variant (f.desc.u64 0x10) 1)]) debugChallengeBody s

/-- Sixty seconds after a challenge it is void (R337). -/
def execDebugChallengeExpiry (s : State) : Result := .next { s with tray := { s.tray with challenge := none } }

/-- One more on the byte that counts failed unlocks (R566). -/
def satInc8 (b : Byte) : Byte := if b = 0xFF#8 then b else b + 1#8

def debugUnlockBody (f : Fetched) (s : State) : Body :=
  let a := f.desc.u64 0x10
  if streamOpen s then illegal s
  else match readFails s a 96 with
  | some c => .done s (Reply.of c)
  | none =>
    let ok := match s.tray.challenge with
      | some b => Config.signatureOk Config.debugKey b (daddrRead s a 96)
      | none => false
    if ok then .done { s with tray := { s.tray with debugOn := true, challenge := none } } (Reply.of codeOk)
    else .done { s with tray := { s.tray with failedUnlocks := satInc8 s.tray.failedUnlocks } } (Reply.of codeDebugLocked)

/-- DEBUG_UNLOCK (R192, R337). -/
def execDebugUnlock (ring : RingIx) (s : State) : Result :=
  serve (isOp opDebugUnlock) ring (fun f s => [chk 0x10 (badDaddr s.tray.variant (f.desc.u64 0x10) 1)]) debugUnlockBody s

/-- DEBUG_LOCK leaves debug mode at once (R337). -/
def execDebugLock (ring : RingIx) (s : State) : Result :=
  serve (isOp opDebugLock) ring (fun _ _ => [])
    (fun _ s => .done { s with tray := { s.tray with debugOn := false } } (Reply.of codeOk)) s

/-! ### Accumulators (R168, R192) -/

/-- The job whose accumulators an ACC command names. -/
def accJob (s : State) (d : Descriptor) : Option Job :=
  s.jobs.find? (fun j => decide (j.ring.val = d.u8 8) && decide (j.desc.tag = BitVec.ofNat 32 (d.u32 0x0C)))

def accArgs (f : Fetched) (s : State) : List (Nat × Bool) :=
  let d := f.desc
  [chk 0x08 (decide (63 < d.u8 8)), chk 0x09 (decide (1 < d.u8 9)), chk 0x0A (decide (2 < d.u8 0x0A)),
   chk 0x14 (match accJob s d with
     | some j => decide (j.params.nvec * j.params.comps < d.u32 0x10 + d.u32 0x14)
     | none => false),
   chk 0x18 (badDaddr s.tray.variant (d.u64 0x18) 1)]

/-- Bytes of one value of a form: PS24 in 4, WB48 and the group accumulator in 8. -/
def accBytes (form : Nat) : Nat := if form = 0 then 4 else 8

/-- The value of a form. -/
def accValue (form : Nat) (a : Acc) : Int := if form = 0 then a.ps else if form = 1 then a.wb else a.grp

/-- A form written, from sign-extended bytes. -/
def setForm (form : Nat) (n : Nat) (a : Acc) : Acc :=
  if form = 0 then { a with ps := signedOf 24 n } else if form = 1 then { a with wb := signedOf 48 n } else { a with grp := signedOf 40 n }

/-- The accumulator of an ACC index on a die; one not yet begun holds 0. -/
def accAt (s : State) (j : Job) (d : Descriptor) (i : Nat) : Acc :=
  let c := (d.u32 0x10 + i) % j.params.comps
  let row := rowOfComp j.params c
  accOf j (if d.u8 9 = 0 then 0 else 1) row ((d.u32 0x10 + i) / j.params.comps) c (blockScales s j row 0).2

def accReadBody (f : Fetched) (s : State) : Body :=
  let d := f.desc
  match accJob s d with
  | none => illegal s
  | some j =>
    let n := accBytes (d.u8 0x0A)
    let bs := (List.range (d.u32 0x14)).flatMap (fun i =>
      leBytes n (BitVec.ofInt 64 (accValue (d.u8 0x0A) (accAt s j d i))).toNat)
    writeThen (d.u64 0x18) bs (Reply.of codeOk) s

/-- ACC_READ (R192). -/
def execAccRead (ring : RingIx) (s : State) : Result := serve (isOp opAccRead) ring accArgs accReadBody s

def accWriteBody (f : Fetched) (s : State) : Body :=
  let d := f.desc
  match accJob s d with
  | none => illegal s
  | some j =>
    let n := accBytes (d.u8 0x0A)
    match readFails s (d.u64 0x18) (n * d.u32 0x14) with
    | some c => .done s (Reply.of c)
    | none =>
      let bs := daddrRead s (d.u64 0x18) (n * d.u32 0x14)
      let j1 := (List.range (d.u32 0x14)).foldl (fun k i => setAcc (setForm (d.u8 0x0A) (field bs (n * i) n) (accAt s k d i)) k) j
      .done (setJob j.id (fun _ => j1) s) (Reply.of codeOk)

/-- ACC_WRITE (R192, R169): it takes effect before the next fold of the component written. -/
def execAccWrite (ring : RingIx) (s : State) : Result := serve (isOp opAccWrite) ring accArgs accWriteBody s

/-! ### VEC_RAW (R337, R81, R84) -/

def vecRawBody (ring : RingIx) (f : Fetched) (s : State) : Body :=
  let d := f.desc
  let t : TileIx := ⟨d.u8 8 % 10, by omega⟩
  if s.tiles[t].group.isNone ∨ s.tiles[t].state = .faulted then illegal s
  else
    let p := { JobParams.none with
      inBase := BitVec.ofNat 64 (d.u64 0x10), outBase := BitVec.ofNat 64 (d.u64 0x18), nvec := d.u32 0x0C }
    .running { s with jobs := s.jobs ++ [newJob ring f (.vecRaw t) 4 p] }

def execVecRaw (ring : RingIx) (s : State) : Result :=
  serve (isOp opVecRaw) ring (fun f s =>
    [chk 0x08 (decide (9 < f.desc.u8 8)), chk 0x10 (badDaddr s.tray.variant (f.desc.u64 0x10) 1),
     chk 0x18 (badDaddr s.tray.variant (f.desc.u64 0x18) 1)]) (vecRawBody ring) s

end Sys2Proof.Machine
end

