-- ==== Sys2Proof/Machine/Events.lean ====
section
/-! DEFINITION. Scheduled events: EVENT_SET, EVENT_CANCEL, GAP_DECLARE and the firing of each action (R236, R237, R329, R330). -/
namespace Sys2Proof.Machine

/-- Argument checks of EVENT_SET (R329, Table 8-5). -/
def eventSetArgs (f : Fetched) (s : State) : List (Nat × Bool) :=
  let d := f.desc
  let a := d.u8 8
  [chk 8 (!(decide (a = 0) || decide (a = 1) || decide (a = 4))),
   chk 9 ((decide (a = 0) && decide (d.u8 9 ≠ 0)) || (decide (a = 1) && decide (d.u8 9 < 3 ∨ 15 < d.u8 9))),
   chk (if d.u8 0x0A = 1 then 0x20 else 0x10) (decide (a = 0) && !onSlotMarker s.time (eventTimeOf d))] ++
  eventTimeChecks d s.time

/-- A tuple time during FREERUN is refused (Table 8-6). -/
def tupleRefused (d : Descriptor) (s : State) : Bool := decide (d.u8 0x0A = 1) && decide (s.time.syncState = .freerun)

/-- What the journal entry of an EVENT_SET adds to its descriptor: the ring, and for an absolute time the same instant in
radio time, since each tray counts symbols from its own start (R281). -/
def eventBytes (s : State) (n : RingIx) (e : ArmedEvent) : List Byte :=
  BitVec.ofNat 8 n.val :: (match e.time with
    | .absolute sc => leBytes 8 (boundaryTime s sc.toNat)
    | .tuple _ _ _ _ _ => [])

/-- EVENT_SET arms one comparator; a swap action makes its shadow PENDING (R329). -/
def eventSetBody (n : RingIx) (f : Fetched) (s : State) : Body :=
  let d := f.desc
  let g : GroupIx := ⟨d.u8 9 % 16, by omega⟩
  let swap := decide (d.u8 8 ≠ 4)
  let action : EventAction := if d.u8 8 = 0 then .radioSwap false else if d.u8 8 = 1 then .tileSwap g else .notify
  if tupleRefused d s || (swap && (decide (s.sets.groups[g].shadow ≠ .staged) || committing s g)) then illegal s
  else match freeComparators s with
  | [] => .done s (Reply.of codeOverload)
  | i :: _ =>
    let e : ArmedEvent := { time := eventTimeOf d, action := action, ring := n, id := f.id, tag := d.tag }
    let s1 := setComparator i (some e) s
    .running (if swap then mirror (some g.val) d.bytes (eventBytes s n e) (settleShadow g s1) else s1)

def execEventSet (ring : RingIx) (s : State) : Result := serve (isOp opEventSet) ring eventSetArgs (eventSetBody ring) s

/-- An armed command that EVENT_CANCEL of a ring and TAG cancels (R330). -/
def cancels (ring : Nat) (tag : W32) (e : ArmedEvent) : Bool :=
  decide (e.ring.val = ring) && decide (e.tag = tag) && (match e.action with
    | .radioSwap _ => true
    | .tileSwap _ => true
    | .gapStart _ _ _ => true
    | .gapEnd _ => true
    | .notify => true
    | .reserved => false)

/-- A tile's declared gap ends: it is over, or it lasts until the unit in progress ends (R146). -/
def endGap (x : Tile) : Tile :=
  match x.cal.gap with
  | some g => if g.kind = .declared then
      { x with cal := { x.cal with gap := if x.cal.step.isSome then some { g with ended := true } else none } }
    else { x with cal := { x.cal with gap := some { g with beneath := false } } }
  | none => x

/-- Steps and overruns of a tile's declared gap, a unit that runs past the end included (R330). -/
def gapCounts (x : Tile) : Nat × Nat :=
  match x.cal.gap with
  | some g => if g.kind = .declared then (g.steps, g.overruns + (if x.cal.step.isSome then 1 else 0))
              else if g.beneath then (g.steps, g.overruns) else (0, 0)
  | none => (0, 0)

/-- A declared gap over `tiles` ends, and its command completes with the steps and the overruns (R146, R330). -/
def endDeclared (code : W16) (e : ArmedEvent) (tiles : BitVec 10) (s : State) : State :=
  let cs := (tilesOf tiles).map (fun t => gapCounts s.tiles[t])
  let s1 := { s with tiles := Vector.ofFn (fun t => if tiles.getLsbD t.val then endGap s.tiles[t] else s.tiles[t]) }
  completeId e.ring e.id { Reply.okDetail ((cs.map (fun c => c.1)).foldl (· + ·) 0) ((cs.map (fun c => c.2)).foldl (· + ·) 0) with
    code := code } s1

/-- One comparator cancelled: its command completes with DROPPED, its shadow returns to STAGED, and a gap that has started ends
(R330, R273). -/
def cancelOne (s : State) (i : Fin 64) : State :=
  match s.time.comparators[i] with
  | none => s
  | some e =>
    let s1 := setComparator i none s
    let done := completeId e.ring e.id (Reply.of codeDropped)
    match e.action with
    | .radioSwap _ => settleShadow 0 (done s1)
    | .tileSwap g => settleShadow g (done s1)
    | .gapStart _ _ j => setComparator j none (done s1)
    | .gapEnd tiles => endDeclared codeDropped e tiles s1
    | _ => done s1

def eventCancelBody (f : Fetched) (s : State) : Body :=
  let hits := (List.finRange 64).filter (fun i => match s.time.comparators[i] with
    | some e => cancels (f.desc.u8 8) (BitVec.ofNat 32 (f.desc.u32 0x0C)) e
    | none => false)
  let swaps := hits.any (fun i => match s.time.comparators[i] with
    | some e => (match e.action with
      | .radioSwap _ => true
      | .tileSwap _ => true
      | _ => false)
    | none => false)
  let s1 := hits.foldl cancelOne s
  .done (if swaps then mirror (some 0) f.desc.bytes [] s1 else s1) (Reply.ok hits.length)

def execEventCancel (ring : RingIx) (s : State) : Result :=
  serve (isOp opEventCancel) ring (fun f _ => [chk 8 (decide (63 < f.desc.u8 8))]) eventCancelBody s

/-- GAP_DECLARE takes two comparators (R330). -/
def gapDeclareBody (n : RingIx) (f : Fetched) (s : State) : Body :=
  let d := f.desc
  if tupleRefused d s then illegal s
  else match freeComparators s with
  | i :: j :: _ =>
    let e : ArmedEvent := { time := eventTimeOf d, action := .gapStart (BitVec.ofNat 10 (d.u16 8)) (BitVec.ofNat 32 (d.u32 0x24)) j,
                            ring := n, id := f.id, tag := d.tag }
    .running (setComparator j (some { e with action := .reserved }) (setComparator i (some e) s))
  | _ => .done s (Reply.of codeOverload)

def execGapDeclare (ring : RingIx) (s : State) : Result :=
  serve (isOp opGapDeclare) ring (fun f s => [chk 8 (decide (1024 ≤ f.desc.u16 8)),
    chk 0x24 (decide (f.desc.u32 0x24 < 5 ∨ 100000 < f.desc.u32 0x24))] ++ eventTimeChecks f.desc s.time)
    (gapDeclareBody ring) s

/-- The RADIO_SWAP of a comparator fires (R273 to R276). -/
def execEventRadioSwap (cmp : Fin 64) (s : State) : Result :=
  match s.time.comparators[cmp] with
  | none => .next s
  | some e => match e.action with
    | .radioSwap bySet =>
      let s1 := setComparator cmp none s
      let result := if bySet then 0 else cmp.val
      if s.sets.groups[(0 : GroupIx)].shadow = .empty ∨ s.sets.groups[(0 : GroupIx)].shadow = .opened then
        .next (completeId e.ring e.id { Reply.ok result with code := codeStateIllegal } s1)
      else if radioSwapForbidden s1 then
        .next (completeId e.ring e.id { Reply.ok result with code := codeStateIllegal } (settleShadow 0 s1))
      else .next (completeId e.ring e.id (Reply.ok result) (doSwap 0 s1))
    | _ => .next s

/-- The TILE_SWAP of a comparator fires; a group with an incomplete member waits (R274, R276). -/
def execEventTileSwap (cmp : Fin 64) (s : State) : Result :=
  match s.time.comparators[cmp] with
  | none => .next s
  | some e => match e.action with
    | .tileSwap g =>
      let s1 := setComparator cmp none s
      if s.sets.groups[g].shadow = .empty ∨ s.sets.groups[g].shadow = .opened then
        .next (completeId e.ring e.id { Reply.ok cmp.val with code := codeStateIllegal } s1)
      else if groupHeld s1 g then
        .next (markHeld g (settleShadow g (waitSwap g e.ring e.id cmp.val s1)))
      else .next (completeId e.ring e.id (Reply.ok cmp.val) (doSwap g s1))
    | _ => .next s

/-- The symbol count at which an event that fires now was due. -/
def firedAt (s : State) (e : ArmedEvent) : Nat :=
  match e.time with
  | .absolute sc => sc.toNat
  | .tuple _ _ _ _ _ => s.time.symbolCount.toNat


/-- GAP_START: the gap opens on its tiles, and its end is armed at start plus DURATION (R330, R144). -/
def execEventGapStart (cmp : Fin 64) (s : State) : Result :=
  match s.time.comparators[cmp] with
  | none => .next s
  | some e => match e.action with
    | .gapStart tiles dur j =>
      let ends := firedAt s e + dur.toNat * 393216 / 100
      let s1 := setComparator j (some { e with time := .absolute (BitVec.ofNat 64 ends), action := .gapEnd tiles })
        (setComparator cmp none s)
      .next ((tilesOf tiles).foldl (fun s t => openDeclared t s) s1)
    | _ => .next s

/-- GAP_END: the command completes with the steps and the overruns of its gap (R330). -/
def execEventGapEnd (cmp : Fin 64) (s : State) : Result :=
  match s.time.comparators[cmp] with
  | none => .next s
  | some e => match e.action with
    | .gapEnd tiles => .next (endDeclared codeOk e tiles (setComparator cmp none s))
    | _ => .next s

/-- NOTIFY: OK on the issuing ring, RESULT the comparator number (R329). -/
def execEventNotify (cmp : Fin 64) (s : State) : Result :=
  match s.time.comparators[cmp] with
  | none => .next s
  | some e => match e.action with
    | .notify => .next (completeId e.ring e.id (Reply.ok cmp.val) (setComparator cmp none s))
    | _ => .next s

end Sys2Proof.Machine
end

