-- ==== Sys2Proof/Machine/PowerOps.lean ====
section
/-! DEFINITION. The shared operations of power entry, shutdown, restart and DEEP: the cap in force, the twin's last
heartbeat, the park actions of S2, rails off, the beginning of a start, entry into DEEP (chapters 13 to 15, 18). -/
namespace Sys2Proof.Machine

/-! ### The power cap (R356, R357, R362) -/

/-- The floor of R357 in whole watts, rounded up. -/
def floorWatts (s : State) : Nat := ceilDiv (capFloor s) 65536

/-- The cap in force: the host's, or under FEED_LOW or a SHED rule the larger of 250 W and the floor (R362, Table 15-10). -/
def applyCap (s : State) : State :=
  let c := if s.power.feedLow || s.power.shed then BitVec.ofNat 16 (max 250 (floorWatts s)) else s.power.capHost
  { s with power := { s.power with capInForce := c } }

/-! ### The twin's last heartbeat (Table 18-5) -/

/-- A heartbeat has been received and none is missing now. -/
def twinHeard (s : State) : Bool :=
  decide (s.twin.hbRx ≠ 0) && decide (s.twin.pairState ≠ .none) && decide (s.twin.pairState ≠ .linkDown)

/-- Bytes and flag bits of the last heartbeat. -/
def hbByte (s : State) (o : Nat) : Nat := byteAt s.twin.hbLast o
def hbFlag (s : State) (i : Nat) : Bool := (hbByte s 3).testBit i

/-- The twin is STANDBY or SHARE. -/
def twinStandsBy (s : State) : Bool := twinHeard s && (decide (hbByte s 0 = 2) || decide (hbByte s 0 = 3))

/-- The twin reports at least one feed good and no shutdown stage (R378). -/
def twinPowered (s : State) : Bool := decide (hbByte s 2 = 0) && (hbFlag s 0 || hbFlag s 1)

/-- The twin's last heartbeat reported DEEP (R406). -/
def twinDeep (s : State) : Bool := decide (s.twin.hbRx ≠ 0) && decide (hbByte s 1 = 1)

/-! ### Custody lines -/

/-- HOLD falls and is not retriggered (R464). -/
def dropHold (s : State) : State := { s with twin := { s.twin with hold := false } }

/-! ### Feeds -/

/-- A feed's magnitude measured. -/
def setMag (k : Fin 2) (m : W16) (s : State) : State :=
  { s with power := { s.power with feeds := upd s.power.feeds k (fun f => { f with mag := m }) } }

def setMags (a b : W16) (s : State) : State := setMag 1 b (setMag 0 a s)

/-- Code of a condition (Table 21-8). -/
def FeedCond.code : FeedCond → W16
  | .normal => 0
  | .low => 1
  | .lost => 2
  | .high => 3
  | .reversed => 4
  | .transient => 5

/-- A feed takes a condition, with its event and, unless it is normal, MINOR (Tables 14-2, 22-3). -/
def feedCond (k : Fin 2) (c : FeedCond) (s : State) : State :=
  if s.power.feeds[k].cond = c then s
  else
    let src := BitVec.ofNat 16 k.val
    let s1 := { s with power := { s.power with feeds := upd s.power.feeds k (fun f => { f with cond := c }) } }
    let s2 := event evFeedCond src c.code s1
    if c = .normal then clearAlarm evFeedCond src s2 else raiseAlarm false evFeedCond src s2

/-! ### Parking (R373, R374) -/

/-- The work of a job stops at its pass boundary; outputs of passes that ran carry STALE with the epoch. -/
def parkJob (s : State) (j : Job) : State := stopWork { j with stale := j.stale || j.started } codePowerLoss s

/-- The sets of a slot that have no outcome yet take POWER_LOSS (R377). -/
def parkSlot (s : State) (x : RadioSlot) : State :=
  (x.sets.filter (fun b => !b.done)).foldl (fun s b => endSet x.group x.slotNo b.index (fun y => { y with code := codePowerLoss }) s) s

/-- Every descriptor that a ring still holds completes with POWER_LOSS (R377). -/
def parkRing (s : State) (n : RingIx) : State := completeAll n (s.rings[n].queue ++ s.rings[n].dispatched) codePowerLoss s

/-- A tile goes DARK with its latches frozen. -/
def parkTile (s : State) (t : TileIx) : State :=
  let x := s.tiles[t]
  let s1 := setTile t (fun x => { darkenTile x with frozen := true, moving := none, control := none, job := none, next := none }) s
  if x.state = .off ∨ x.state = .faulted then s1 else enterTile t .dark s1

/-- The park journal (R374). -/
def parkJournal (reason : Option Reason) (s : State) : ParkJournal :=
  { valid := true, radio := s.sets.radioActive, fusion := s.sets.fusionActive, models := s.sets.modelActive,
    images := s.sets.imageActive, members := s.sets.groups.map (fun g => g.members), epochs := s.sets.groups.map (fun g => g.epoch),
    role := (match s.twin.role with
      | .alone => 0
      | .active => 1
      | .standby => 2
      | .share => 3),
    cap := s.power.capHost,
    time := { numerology := s.time.numerology, domain := s.time.domain, ptpPorts := s.time.ptpPorts, syncePort := s.time.syncePort,
              frameOffset := s.time.frameOffset, holdLimit := s.time.holdLimit, slewMax := s.time.slewMax, asym := s.time.asym,
              localPriority := s.time.localPriority },
    reason := reason, symbolCount := s.time.symbolCount, todSec := s.time.todSec }

/-- Whether RESTORE of this start has applied the journal (R407): until then a park keeps the old one. -/
def restored (s : State) : Bool :=
  !(decide (s.tray.phase = .rom) || decide (s.tray.phase = .verify) || decide (s.tray.phase = .firmware) ||
    decide (s.tray.phase = .restore))

/-- The actions of S2, in the order of R373, by firmware on core 3. Swap events that have not fired are lost (R279). -/
def parkActions (reason : Option Reason) (s : State) : State :=
  let s1 := dropHold s
  let s2 := s1.jobs.foldl parkJob s1
  let s3 := s2.radio.slots.foldl parkSlot s2
  let s4 := (List.finRange 10).foldl parkTile { s3 with
    radio := { s3.radio with slots := [] }, time := { s3.time with comparators := Vector.replicate 64 none },
    sched := { s3.sched with tunes := [] }, flash := { s3.flash with fwUpdate := none } }
  let s5 := (List.finRange 64).foldl parkRing s4
  { s5 with mem := { s5.mem with selfRefresh := true },
            power := { s5.power with journal := if restored s then some (parkJournal reason s) else s5.power.journal,
                                     s2done := true } }

/-! ### Stages -/

/-- The erase that a controller runs stops and is not resumed (R425); its unit stays marked, and its work begins a new
sequence when erases may start again. -/
def suspendErase (code : Bool) (s : State) : State :=
  if phaseOf s code ≠ .erasing then s
  else match worksOf s code with
  | [] => s
  | w :: ws =>
    let st := match w.steps with
      | .erase arr u a _ _ :: r => FlashStep.erase arr u a 0 0 :: r
      | r => r
    setPhase code .idle (setWorks code ({ w with steps := st } :: ws) s)

/-- The shutdown enters S2 for a reason (R371, R373); HOLD falls at once (R464). Stages that were skipped read 0 (Table 14-6). -/
def enterS2 (reason : Reason) (magA magB bank : W16) (s : State) : State :=
  let s1 := dropHold (suspendErase true (suspendErase false (setMags magA magB s)))
  let p := if s.power.stage = .none then
      { s1.power with stageSC := Vector.replicate 5 0, feedAt := Vector.replicate 4 0 } else s1.power
  let s2 := { s1 with power := { p with
    stage := .s2, stageSC := put p.stageSC 2 s1.time.symbolCount, reason := reason, bank := bank, charging := false,
    feedAt := put (put p.feedAt 2 magA) 3 magB, bankAt := put p.bankAt 0 bank, s2done := false, s3done := false } }
  if coreRuns s2 3 && firmwareRuns s2 then parkActions (some reason) s2 else s2

/-- A start reports SELFCHECK and DONE of its own: what S4 or a reset leaves of a tray's volatile state. -/
def Flash.volatileClear (f : Flash) : Flash :=
  { f with archWork := [], codeWork := [], archPhase := .idle, codePhase := .idle, failedUnits := [], tempQueue := [],
           eventBuf := [], fwUpdate := none, archDead := false, archUnread := false }

/-- Every rail off but Woad's and, where `keep`, the memory stacks' (R376). -/
def railsDown (keep : Bool) (s : State) : State :=
  { s with
    power := { s.power with railsOn := false, charging := false },
    mem := if keep then { s.mem with stackRail := true, selfRefresh := true }
           else { s.mem with stackRail := false, stackMem := [], eccUnits := [] },
    tiles := s.tiles.map (fun x => { x with
      state := if x.state = .faulted then .faulted else .off, moving := none, job := none, next := none }),
    jobs := [], radio := { s.radio with slots := [] }, rings := ringsInit,
    tray := { s.tray with powerState := .off, debugOn := false },
    twin := { s.twin with hold := false, req := false, hbRunning := false, timerOn := false },
    flash := s.flash.volatileClear }

/-- A feed is present: it can carry the bus. -/
def feedPresent (a b : W16) : Bool := decide (3800 ≤ a.toNat) || decide (3800 ≤ b.toNat)

/-- S4: rails off; the stacks' rail stays where a feed is present, else Woad is about to lose its power (R376, R379). -/
def enterS4 (magA magB bank : W16) (s : State) : State :=
  let s1 := railsDown (feedPresent magA magB) (setMags magA magB s)
  let p := s1.power
  { s1 with power := { p with
      stage := .s4, stageSC := put p.stageSC 4 s.time.symbolCount, bank := bank, bankAt := put p.bankAt 1 bank,
      offWait := if s.woad.tripLatch then .powerCycle else .feed (feedPresent magA magB && (p.journal.any (fun j => j.valid))),
      woadKept := feedPresent magA magB } }

/-! ### Starts (R377, R387, R389) -/

/-- Every stack that a variant has. -/
def stacksAll (v : Variant) : BitVec 6 := BitVec.ofNat 6 (2 ^ stacksFitted v - 1)

/-- The state in which a start begins, from what survives it: flash, Woad while it keeps power, the feeds and the bank, host
memory and, where `warm`, the memory stacks; inputs from the shelf and the twin; the traces and counters of the model. -/
def beginStart (warm : Bool) (s : State) : State :=
  let r := State.reset
  let keepW := s.woad.powered && s.power.woadKept
  { r with
    mem := { r.mem with
      hostMem := s.mem.hostMem, stackMem := if warm then s.mem.stackMem else [], eccUnits := if warm then s.mem.eccUnits else [],
      stackOnline := stacksAll s.tray.variant, selfRefresh := warm },
    flash := s.flash.volatileClear,
    thermal := r.thermal,
    woad := if keepW then { s.woad with trimmed := false, badCounts := 0, hclkSampling := false, clockFault := false,
                                        liveness := false, tripRounds := 0 }
            else { r.woad with tripLatch := false },
    power := { r.power with
      feeds := s.power.feeds, bank := s.power.bank, charging := decide (s.power.bank.toNat < 7500), bankWeak := s.power.bankWeak,
      bankCap := s.power.bankCap, feedLow := s.power.feedLow, shed := s.power.shed && keepW,
      journal := if warm then s.power.journal else none,
      shutdownSeq := s.power.shutdownSeq, railFaults := s.power.railFaults, relayOpen := s.power.relayOpen,
      twinRelayOpen := s.power.twinRelayOpen },
    twin := { r.twin with
      grant := s.twin.grant, holder := s.twin.holder, twinReq := s.twin.twinReq, twinHold := s.twin.twinHold },
    time := { r.time with oscTable := s.time.oscTable, rootFaults24 := s.time.rootFaults24 },
    tray := { r.tray with
      variant := s.tray.variant, shelfSlot := s.tray.shelfSlot, unclean := s.tray.unclean, warm := warm,
      tripHistory := if keepW then s.tray.tripHistory else none,
      restarts := s.tray.restarts + 1 },
    radio := { r.radio with ports := s.radio.ports.map (fun p => { Port.init with signal := p.signal }), txFrames := s.radio.txFrames },
    out := s.out, nextId := s.nextId, free := s.free, pending := s.pending }

/-- A warm restart without a power loss: the actions of S2, then the reset (R389). With core 3 not running Woad has no report
and the restart is cold (R380, R389); a start that has not reached DONE is repeated cold (R407). -/
def warmReset (s : State) : State :=
  if s.tray.phase ≠ .done then beginStart false s
  else if coreRuns s 3 then
    beginStart true (parkActions none { s with
      power := { s.power with s2done := false }, tray := { s.tray with unclean := false } })
  else beginStart false { s with tray := { s.tray with unclean := true } }

end Sys2Proof.Machine
end

