-- ==== Sys2Proof/Machine/Radio.lean ====
section
/-! DEFINITION. Radio commands: the slot descriptor, received and transmitted messages, the starts of batch sets, and the ports
(chapter 09, R587, R591, R592). -/
namespace Sys2Proof.Machine

/-! ### SLOT (R252, R257, R328) -/

/-- A SHARE tray without custody runs no radio work (R477). -/
def noRadioWork (s : State) : Bool := decide (s.twin.role = .share) && !s.twin.grant

/-- A slot accepted for its group. -/
def acceptSlot (ring : RingIx) (f : Fetched) (g : GroupIx) (cs : List CSection) (ws : List (W64 × W32)) (s : State) : State :=
  let e := s.sets.radioActive.groups[g]
  let x : RadioSlot :=
    { group := g, ring := ring, id := f.id, desc := f.desc, slotNo := BitVec.ofInt 64 (slotNumber s.time f.desc),
      mapEpoch := s.sets.groups[(0 : GroupIx)].epoch, entry := e, cplane := cs, weights := ws, layers := [], fetched := false,
      prbs := [], sets := slotSets e, posted := 0, txSkipped := [],
      txSent := [], cplaneSent := false, cplaneHeld := none }
  let kept := if e.kind = 2 then s.radio.kept else put s.radio.kept g (some { nprb := e.nprb, prbg := e.prbg, table := ws })
  { s with radio := { s.radio with slots := s.radio.slots ++ [x], kept := kept } }

/-- The reply of a list that cannot be read or has a fault. -/
def errorReply {α : Type} (e : Except Reply α) : List Reply :=
  match e with
  | .error r => [r]
  | .ok _ => []

/-- Of several replies that apply, the one that a completion carries (R313). -/
def firstReply : List Reply → Option Reply
  | [] => none
  | r :: rs => match firstReply rs with
    | none => some r
    | some q => if codeRank r.code ≤ codeRank q.code then some r else some q

/-- SLOT for its group: both lists are read and checked. A second descriptor for a slot in work completes with DROPPED. -/
def slotBody (ring : RingIx) (f : Fetched) (s : State) : Body :=
  match groupOfRing s ring with
  | none => illegal s
  | some g =>
    let again := (slotOf s g (BitVec.ofInt 64 (slotNumber s.time f.desc))).isSome
    let rs := errorReply (readCplane s g f.desc) ++ errorReply (readWeights s g f.desc) ++
      (if noRadioWork s then [Reply.of codeStateIllegal] else []) ++ (if again then [Reply.of codeDropped] else [])
    match firstReply rs, readCplane s g f.desc, readWeights s g f.desc with
    | none, .ok cs, .ok ws => .running (acceptSlot ring f g cs ws s)
    | r, _, _ => .done s (r.getD (Reply.of codeDropped))

def execSlot (ring : RingIx) (s : State) : Result :=
  serve (isOp opSlot) ring (fun f s => match groupOfRing s ring with
    | none => []
    | some g => slotArgs s g f.desc) (slotBody ring) s

/-! ### Reception (R240 to R244, R258, R260) -/

/-- A counter of a port. -/
def dropFrame (p : PortIx) (s : State) : State := setPort p (fun x => { x with dropFrame := satInc x.dropFrame }) s
def dropEcpri (p : PortIx) (s : State) : State := setPort p (fun x => { x with dropEcpri := satInc x.dropEcpri }) s

/-- Slots ahead of now that the header of a message names, in the cycle of 256 frames. -/
def headAhead (t : TimeUnit) (h : UHead) : Int :=
  let per := slotsPerFrame t.numerology
  let total : Int := 256 * per
  let idx : Int := h.frame * per + h.subframe * (per / 10) + h.slot
  (idx - slotNow t + total / 2) % total - total / 2

/-- SCLK from the marker of the message's OFDM symbol to now. -/
def afterMarker (t : TimeUnit) (h : UHead) : Int :=
  (cyclePos t % slotTicks t.numerology : Nat) - headAhead t h * (slotTicks t.numerology : Nat) - (symStart t.numerology h.sym : Nat)

/-- The open stream of a mapping that an eAxC ID names on a port. -/
def streamOf (m : RadioSet) (p : PortIx) (eaxc : Nat) : Option StreamIx :=
  (List.finRange 64).find? (fun i => m.streams[i].en && decide (m.streams[i].port.toNat = p.val) &&
    decide (m.streams[i].eaxcUl.toNat = eaxc))

/-- A sequence skips one or more values after the last one. -/
def seqGap (last : Option Byte) (q : Byte) : Bool :=
  match last with
  | some l => decide (q ≠ l + 1)
  | none => false

/-- The sequence of a stream's messages (Table 9-1): a gap is counted. -/
def noteSeq (i : StreamIx) (q : Byte) (s : State) : State :=
  let s1 := { s with radio := { s.radio with rxSeq := put s.radio.rxSeq i (some q) } }
  if seqGap s.radio.rxSeq[i] q then setStream i (fun c => { c with rxSeqgap := satInc c.rxSeqgap }) s1 else s1

/-- A set has not started on a tile: it waits for its PRBs, or for its tile (R30, R260, R262). -/
def setWaits (s : State) (b : BatchSet) : Bool :=
  !b.done && (!b.started || b.job.any (fun id => s.jobs.any (fun j => decide (j.id = id) && !j.started)))

/-- Sets of a group's slots two or more before slot `n` that have not started on a tile are not processed (R30, R260). -/
def dropStale (g : GroupIx) (n : W64) (s : State) : State :=
  (s.radio.slots.filter (fun x => decide (x.group = g) && decide (x.entry.kind ≠ 1) && decide (2 ≤ (n - x.slotNo).toInt))).foldl
    (fun s x => (x.sets.filter (setWaits s)).foldl (fun s b => dropSet g x.slotNo b.index (dropWork b s)) s) s

/-- The PRBs of an accepted message stored in the slot in work, those of a set that has started excepted (R258). -/
def storePrbs (g : GroupIx) (n : W64) (ant sym : Nat) (prbs : List (Nat × List Int)) (s : State) : State :=
  let fresh : List PrbData := prbs.map (fun p => { ant := ant, sym := sym, prb := p.1, vals := p.2 })
  let older := fun (q : PrbData) => !(decide (q.ant = ant) && decide (q.sym = sym) && prbs.any (fun p => decide (p.1 = q.prb)))
  setSlot g n (fun x => { x with prbs := fresh ++ x.prbs.filter older }) s

/-- The set of an OFDM symbol. -/
def setOfSym (e : GroupEntry) (sym : Nat) : Nat := sym / batchSymbols e.batchSyms.toNat

/-- The set of a symbol in a slot in work has started or has its outcome. -/
def setBegun (s : State) (g : GroupIx) (n : W64) (sym : Nat) : Bool :=
  match slotOf s g n with
  | none => false
  | some x => x.sets.any (fun b => decide (b.index = setOfSym x.entry sym) && (b.started || b.done))

/-- A set starts once everything it needs has arrived (R258). -/
def startIfArrived (g : GroupIx) (n : W64) (sym : Nat) (s : State) : State :=
  match slotOf s g n with
  | none => s
  | some x =>
    let k := setOfSym x.entry sym
    if x.entry.kind ≠ 1 ∧ setArrived s x k ∧ !setBegun s g n sym then startSet g n k s else s

/-- A well-formed message of a stream of a group, judged by its window (R244, R256, R258). -/
def placeMessage (i : StreamIx) (g : GroupIx) (m : RadioSet) (h : UHead) (prbs : List (Nat × List Int)) (s : State) : State :=
  let e := m.groups[g]
  let n : W64 := BitVec.ofInt 64 (slotNow s.time + headAhead s.time h)
  let d := afterMarker s.time h * 100
  let s0 := dropStale g n s
  if d < (e.rxOpen.toNat : Int) * 393216 then setStream i (fun c => { c with rxEarly := satInc c.rxEarly }) s0
  else if (e.rxClose.toNat : Int) * 393216 < d ∨ setBegun s0 g n h.sym then
    setStream i (fun c => { c with rxLate := satInc c.rxLate }) s0
  else startIfArrived g n h.sym (storePrbs g n m.streams[i].ant.toNat h.sym prbs
    (setStream i (fun c => { c with rxOk := satInc c.rxOk }) s0))

/-- A U-plane message of a known stream (R242). -/
def uplane (i : StreamIx) (m : RadioSet) (b : List Byte) (s : State) : State :=
  let e := m.streams[i]
  let bad := setStream i (fun c => { c with rxFormat := satInc c.rxFormat }) s
  if !uHeadOk s.time.numerology b then bad
  else if h : e.ulGroup.toNat < 16 then
    let g : GroupIx := ⟨e.ulGroup.toNat, h⟩
    match readSections e.compUl m.groups[g].nprb.toNat (b.length + 1) (b.drop 4) with
    | none => bad
    | some [] => bad
    | some prbs => placeMessage i g m (uHead b) prbs s
  else setStream i (fun c => { c with rxOk := satInc c.rxOk }) s

/-- The payload of an IQ data message on a port: its eAxC ID, sequence, and U-plane content. -/
def iqMessage (p : PortIx) (b : List Byte) (s : State) : State :=
  if b.length < 4 ∨ byteAt b 3 / 128 = 0 then dropEcpri p s
  else
    let u := b.drop 4
    let m := mapFor s (BitVec.ofInt 64 (slotNow s.time + headAhead s.time (uHead u)))
    match streamOf m p (beNat (b.take 2)) with
    | none => setPort p (fun x => { x with unmatched := satInc x.unmatched }) s
    | some i => uplane i m u (noteSeq i (b.getD 2 0) s)

/-- A fronthaul frame with EtherType of eCPRI is received on a port (R240 to R244). -/
def execUplaneMessageRx (port : PortIx) (frame : List Byte) (s : State) : Result :=
  if !portUp s port then .next s
  else match ecpriPart frame with
  | none => .next (dropFrame port s)
  | some b => match ecpriMessage b with
    | none => .next (dropEcpri port s)
    | some (ty, payload) => if ty = 0 then .next (iqMessage port payload s) else .next (dropEcpri port s)

/-- The answer to a delay-measurement message, from its measurement and its action: Response to 0, 1 and 5 with the time of
receipt, Request to 3; free compensation bytes (Table 9-1). A Request with Follow_Up is answered at its Follow_Up. -/
def delayAnswer (port : PortIx) (frame payload : List Byte) (act : Byte) (s : State) : State :=
  let cmp := drawBytes 8 s
  let body := [payload.getD 0 0, act] ++ timestamp s.time s.time.asym[port] ++ cmp.1
  let bs := (frame.drop 6).take 6 ++ (Config.portMac port).toList ++ [0xAE#8, 0xFE#8, 0x10#8, 0x05#8] ++ beBytes 2 body.length ++ body
  if mayTransmit s then sendEcpri port bs cmp.2 else s

/-- A one-way delay measurement message on a port (R241, R225). -/
def execDelayMeasurementRx (port : PortIx) (frame : List Byte) (s : State) : Result :=
  if !portUp s port then .next s
  else match ecpriPart frame with
  | none => .next (dropFrame port s)
  | some b => match ecpriMessage b with
    | none => .next (dropEcpri port s)
    | some (ty, payload) =>
      let act := byteAt payload 1
      if ty ≠ 5 then .next (dropEcpri port s)
      else if act = 0 ∨ act = 5 then .next (delayAnswer port frame payload 2 s)
      else if act = 1 then .next { s with time := { s.time with delayReqs := s.time.delayReqs + 1 } }
      else if act = 3 then .next (delayAnswer port frame payload 0 s)
      else .next (dropEcpri port s)

/-! ### Sets and windows -/

/-- RX_CLOSE of the last symbol of an uplink set: it starts with what has arrived (R258). -/
def execRxClose (group : GroupIx) (slotNo : W64) (set : Nat) (s : State) : Result :=
  match slotOf s group slotNo with
  | none => .next s
  | some x =>
    if x.entry.kind ≠ 1 ∧ reached s (setStartAt s x.entry slotNo set) ∧
        x.sets.any (fun b => decide (b.index = set) && !b.started && !b.done) then
      .next (startSet group slotNo set s)
    else .next s

/-- Bytes of a slot's layer data (R251). -/
def layerBytes (e : GroupEntry) : Nat := 14 * e.nlayer.toNat * 12 * e.nprb.toNat * 4

/-- The layer data of a PRECODE slot is in input staging (R257). -/
def execLayerFetchDone (group : GroupIx) (slotNo : W64) (s : State) : Result :=
  match slotOf s group slotNo with
  | none => .next s
  | some x =>
    if x.entry.kind ≠ 1 ∨ x.fetched then .next s
    else match readFails s (x.desc.u64 0x18) (layerBytes x.entry) with
    | some c =>
      .next (completeId x.ring x.id { Reply.of c with result := 14 } (endSlot x s))
    | none => .next (setSlot group slotNo (fun y =>
        { y with layers := hostRead s (x.desc.u64 0x18) (layerBytes x.entry), fetched := true }) s)

/-- A downlink set is due: core 1 starts it if its layer data is in place (R18, R259). -/
def execDlSetStart (group : GroupIx) (slotNo : W64) (set : Nat) (s : State) : Result :=
  match slotOf s group slotNo with
  | none => .next s
  | some x =>
    if coreRuns s 1 ∧ x.entry.kind = 1 ∧ x.fetched ∧ reached s (setStartAt s x.entry slotNo set) ∧
        x.sets.any (fun b => decide (b.index = set) && !b.started && !b.done) then
      .next (startSet group slotNo set s)
    else .next s

/-- The samples of a downlink symbol are ready. -/
def symReady (x : RadioSlot) (sym : Nat) : Bool :=
  x.sets.any (fun b => decide (b.index = setOfSym x.entry sym) && b.done && decide (b.code ≠ codeDropped) &&
    decide (b.code.toNat / 256 ≠ 0x0F))

/-- The values of a stream's PRBs of a symbol. -/
def symValues (x : RadioSlot) (ant sym : Nat) : List (List Int) :=
  (List.range x.entry.nprb.toNat).map (fun p =>
    match x.prbs.find? (fun q => decide (q.ant = ant) && decide (q.sym = sym) && decide (q.prb = p)) with
    | some q => q.vals
    | none => List.replicate 24 0)

/-- The port of a stream, if the variant has it. -/
def streamPort (e : StreamEntry) : Option PortIx := if h : e.port.toNat < 6 then some ⟨e.port.toNat, h⟩ else none

/-- One U-plane message of a stream sent, and counted (R243, R244). -/
def sendUplane (x : RadioSlot) (sym : Nat) (i : StreamIx) (p : PortIx) (s : State) (secs : List (Nat × Nat × Nat)) : State :=
  let e := (slotMap s x).streams[i]
  let seq := s.radio.txSeqDl[i]
  let msg := uMessage s.time.numerology x.desc e.compDl sym x.entry.nprb.toNat (symValues x e.ant.toNat sym) secs
  let s1 := { s with radio := { s.radio with txSeqDl := put s.radio.txSeqDl i (seq + 1) } }
  setStream i (fun c => { c with txOk := satInc c.txOk }) (sendEcpri p (ecpriFrame e 0 e.eaxcDl.toNat seq.toNat msg) s1)

/-- One stream's U-plane messages of a symbol sent, or counted as not sent (R243, R244, R25). -/
def sendSymbol (x : RadioSlot) (sym : Nat) (ready : Bool) (s : State) (i : StreamIx) : State :=
  let e := (slotMap s x).streams[i]
  match streamPort e with
  | none => s
  | some p =>
    let msgs := symMessages e.compDl x.entry.nprb.toNat x.cplane i sym
    if !portUp s p then s
    else if !ready || !mayTransmit s then setStream i (fun c => { c with txDrop := satAdd c.txDrop msgs.length }) s
    else msgs.foldl (sendUplane x sym i p) s

/-- The completion of a downlink slot (R328, R470). -/
def slotReply (x : RadioSlot) : Reply :=
  let base := pickCode (x.sets.map (fun b => b.code))
  let code := if x.txSent = [] then firstCode base codeTwinNoCustody else base
  { Reply.of code with
    result := BitVec.ofNat 32 x.txSkipped.length, stale := x.sets.any (fun b => b.stale),
    epoch := ((x.sets.map BatchSet.epoch).getLastD 0).setWidth 16 }

/-- When the U-plane window of a downlink symbol opens, in 1/100 SCLK of radio time (Table 9-8). -/
def txOpensAt (s : State) (x : RadioSlot) (sym : Nat) : Int :=
  (x.slotNo.toInt * (slotTicks s.time.numerology : Nat) + (symStart s.time.numerology sym : Nat)) * 100 -
    (x.entry.txAdvance.toNat * 393216 : Nat)

/-- When the C-plane messages of a slot go out (Table 9-8). -/
def cplaneAt (s : State) (x : RadioSlot) : Int :=
  x.slotNo.toInt * (slotTicks s.time.numerology : Nat) * 100 - (x.entry.cpAdvance.toNat * 393216 : Nat)

/-- The U-plane window of a downlink symbol opens (R259, R469); the slot completes after its last symbol. -/
def execTxWindowOpen (group : GroupIx) (slotNo : W64) (sym : Fin 14) (s : State) : Result :=
  match slotOf s group slotNo with
  | none => .next s
  | some x =>
    if x.entry.kind ≠ 1 ∨ sym.val ∈ x.txSent ∨ sym.val ∈ x.txSkipped ∨ !reached s (txOpensAt s x sym.val) then .next s
    else
      let ready := symReady x sym.val
      let s1 := (slotStreams s x).foldl (sendSymbol x sym.val ready) s
      let sent := ready && mayTransmit s
      let x1 := if sent then { x with txSent := sym.val :: x.txSent } else { x with txSkipped := sym.val :: x.txSkipped }
      if x1.txSent.length + x1.txSkipped.length = 14 then
        .next (completeId x.ring x.id (slotReply x1) (endSlot x1 (setSlot group slotNo (fun _ => x1) s1)))
      else .next (setSlot group slotNo (fun _ => x1) s1)

/-- One C-plane message sent, or counted as withheld (R256, R469). -/
def sendCplane (x : RadioSlot) (s : State) (c : CSection) : State :=
  let e := (slotMap s x).streams[c.stream]
  let down := decide (x.entry.kind = 1)
  match streamPort e with
  | none => s
  | some p =>
    if !portUp s p then s
    else if !mayTransmit s then setStream c.stream (fun r => { r with txDrop := satInc r.txDrop }) s
    else
      let o := if c.sectionType = 3 then drawBytes 5 s else ([], s)
      let s1 := o.2
      let seq := if down then s1.radio.txSeqDl[c.stream] else s1.radio.txSeqUl[c.stream]
      let s2 := if down then { s1 with radio := { s1.radio with txSeqDl := put s1.radio.txSeqDl c.stream (seq + 1) } }
                else { s1 with radio := { s1.radio with txSeqUl := put s1.radio.txSeqUl c.stream (seq + 1) } }
      let eaxc := if down then e.eaxcDl.toNat else e.eaxcUl.toNat
      let msg := cMessage down s.time.numerology x.desc (if down then e.compDl else e.compUl) x.entry.nprb.toNat c o.1
      setStream c.stream (fun r => { r with txOk := satInc r.txOk }) (sendEcpri p (ecpriFrame e 2 eaxc seq.toNat msg) s2)

/-- CP_ADVANCE before a slot: its C-plane messages go out (R256). -/
def execCplaneTx (group : GroupIx) (slotNo : W64) (s : State) : Result :=
  match slotOf s group slotNo with
  | none => .next s
  | some x =>
    if x.cplaneSent ∨ !reached s (cplaneAt s x) then .next s
    else
      let held := if mayTransmit s then none else some s.time.symbolCount
      .next (x.cplane.foldl (sendCplane x) (setSlot group slotNo (fun y => { y with cplaneSent := true, cplaneHeld := held }) s))

/-- On gaining custody, C-plane messages withheld within the last 500 us are sent where the first U-plane window of their slot
has not opened (R472): 500 us is 1,966,080 SCLK. -/
def catchUp (s : State) : State :=
  s.radio.slots.foldl (fun s x => match x.cplaneHeld with
    | none => s
    | some sc =>
      if (s.time.symbolCount - sc).toNat ≤ 1966080 ∧ x.txSent = [] ∧ x.txSkipped = [] then
        x.cplane.foldl (sendCplane x) (setSlot x.group x.slotNo (fun y => { y with cplaneHeld := none }) s)
      else s) s

/-- RX_MISSING has stood above 1 % of the requested PRBs for 100 consecutive slots (R262). -/
def execRxMissingHigh (group : GroupIx) (s : State) : Result :=
  let src := BitVec.ofNat 16 group.val
  if 100 ≤ s.radio.missRun[group] then .next (raiseAlarm false evRxMissingHigh src (event evRxMissingHigh src 0 s)) else .next s

/-- A slot of an open group has no descriptor on a STANDBY tray (R480). -/
def execSlotDescriptorDeadline (group : GroupIx) (slotNo : W64) (s : State) : Result :=
  if s.twin.role = .standby ∧ s.sets.radioActive.groups[group].en ∧ (streamsOf s.sets.radioActive group.val) ≠ [] ∧
      (slotOf s group slotNo).isNone then
    .next (event evShadowLapse (BitVec.ofNat 16 group.val) 0 s)
  else .next s

/-! ### Ports (R262, R587, R591, R592) -/

/-- A port carries an open stream of the active mapping. -/
def portCarries (s : State) (p : PortIx) : Bool :=
  s.sets.radioActive.streams.toList.any (fun e => e.en && decide (e.port.toNat = p.val))

/-- A port is down: its streams stop, PORT_DOWN and MAJOR, and a takeover request where it carries streams (R262, R31). -/
def portDown (p : PortIx) (f : Port → Port) (s : State) : State :=
  let src := BitVec.ofNat 16 p.val
  let s1 := raiseAlarm true evPortDown src (event evPortDown src 0
    (setPort p (fun x => { f x with signal := false, linkUp := false, stopped := true }) s))
  if portCarries s p then requestTakeover alPort s1 else s1

/-- A port that the variant fits. -/
def portFitted (s : State) (p : PortIx) : Bool := decide (p.val < portsFitted s.tray.variant)

def execPortSignalLoss (port : PortIx) (s : State) : Result :=
  if portFitted s port && s.radio.ports[port].signal then .next (portDown port id s) else .next s

/-- A module is inserted: powered, or left in low-power mode with PORT_DOWN where it declares more than 3.5 W (R587). -/
def execQsfpModuleInsert (port : PortIx) (supported : Bool) (s : State) : Result :=
  if !portFitted s port then .next s
  else if supported then .next (setPort port (fun x => { x with powered := true, signal := true }) s)
  else .next (portDown port (fun x => { x with powered := false }) s)

/-- The PCS of a port aligns: the port is up, and its streams resume (R591). -/
def execPcsAligned (port : PortIx) (s : State) : Result :=
  if portFitted s port && s.radio.ports[port].powered then
    .next (clearAlarm evPortDown (BitVec.ofNat 16 port.val)
      (setPort port (fun x => { x with signal := true, linkUp := true, stopped := false }) s))
  else .next s

/-- A module fault, overtemperature or over-power: the port is off (R592). -/
def execModuleFault (port : PortIx) (s : State) : Result :=
  if portFitted s port && s.radio.ports[port].powered then .next (portDown port (fun x => { x with powered := false }) s)
  else .next s

end Sys2Proof.Machine
end

