-- ==== Sys2Proof/Machine/HandOps.lean ====
section
/-! DEFINITION. The shared operations of the pair: roles, the heartbeat, custody gained and lost, handover, sequenced frames
and resynchronisation (chapter 18). -/
namespace Sys2Proof.Machine

/-- Code of a role (Table 18-5), of a pair state (Table 18-1), of a link state (Table 18-4). -/
def Role.code : Role → Nat
  | .alone => 0
  | .active => 1
  | .standby => 2
  | .share => 3

def PairState.code : PairState → Nat
  | .none => 0
  | .linked => 1
  | .resync => 2
  | .synced => 3
  | .mirrorLost => 4
  | .linkDown => 5

def LinkState.code : LinkState → Nat
  | .up => 0
  | .up1 => 1
  | .training => 2
  | .down => 3

/-- Codes of a power state (Table 15-5) and of a start phase (Table 15-1). -/
def PowerState.code : PowerState → Nat
  | .off => 0
  | .deep => 1
  | .idle => 2
  | .standby => 3
  | .run => 4

def Phase.code : Phase → Nat
  | .rom => 0
  | .verify => 1
  | .firmware => 2
  | .restore => 3
  | .lock => 4
  | .selfcheck => 5
  | .settle => 6
  | .done => 7
  | .failed => 8

/-- STAGE as heartbeats carry it (Table 18-5). -/
def Stage.code : Stage → Nat
  | .none => 0
  | .s0 => 1
  | .s1 => 2
  | _ => 3

/-! ### Roles (R27, R454, Table 15-6) -/

/-- A role taken, with the power state that goes with it: STANDBY for the STANDBY role, RUN again after it. -/
def takeRole (r : Role) (s : State) : State :=
  let ps := if r = .standby ∧ s.tray.powerState = .run then PowerState.standby
            else if r ≠ .standby ∧ s.tray.powerState = .standby then .run else s.tray.powerState
  { s with twin := { s.twin with role := r, timerOn := decide (r ≠ .alone) && s.twin.timerOn },
           tray := { s.tray with powerState := ps } }

/-- The tray leaves a pair: ALONE, resynchronisation stopped, requests withdrawn (R454, R473, R479). -/
def leavePair (s : State) : State :=
  let s1 := takeRole .alone s
  { s1 with twin := { s1.twin with
      handover := none, takeoverReq := false, refusing := false, dirty := [],
      pairState := if s1.twin.pairState = .none ∨ s1.twin.pairState = .linkDown then s1.twin.pairState else .linked },
            tray := { s1.tray with takeoverCauses := [] } }

/-- The roles of the two trays form a pair (Table 1-7). -/
def formsPair (own : Role) (twin : Nat) : Bool :=
  match own with
  | .alone => false
  | .active => decide (twin = 2)
  | .standby => decide (twin = 1)
  | .share => decide (twin = 3)

/-! ### The heartbeat (R460, Table 18-5) -/

/-- A feed is good: connected and not below 38.0 V; from S1 on none is (Table 18-8). -/
def feedGood (s : State) (k : Fin 2) : Bool :=
  s.power.feeds[k].connected && decide (3800 ≤ s.power.feeds[k].mag.toNat) &&
  (decide (s.power.stage = .none) || decide (s.power.stage = .s0))

def flagBits (bs : List Bool) : Nat := ((List.range bs.length).map (fun i => if bs.getD i false then 2 ^ i else 0)).foldl (· + ·) 0

/-- The 32 bytes of the status block, `power` the POWER_STATE it reports. -/
def heartbeat (power : Nat) (s : State) : List Byte :=
  let flags := flagBits [feedGood s 0, feedGood s 1, s.thermal.handover.toList.any (fun t => t.on), s.twin.grant,
    s.twin.takeoverReq, s.twin.refusing, decide (s.twin.pairState = .synced), s.tray.debugOn]
  leBytes 1 s.twin.role.code ++ leBytes 1 power ++ leBytes 1 s.power.stage.code ++ leBytes 1 flags ++
  leBytes 1 s.time.syncState.code.toNat ++ leBytes 1 s.tray.phase.code ++ leBytes 2 0x0201 ++
  (List.finRange 3).flatMap (fun g => leBytes 4 (s.sets.groups[g]).epoch.toNat) ++ leBytes 4 s.twin.journalAck.toNat ++
  leBytes 4 (s.twin.hbCount.toNat + 1) ++ leBytes 1 s.tray.variant.code ++
  leBytes 1 (match s.tray.shelfSlot with
    | none => 0xFF
    | some b => if b then 1 else 0) ++ leBytes 2 0

/-- One heartbeat sent, where the link carries frames. -/
def sendHeartbeat (power : Nat) (s : State) : State :=
  let s1 := { s with twin := { s.twin with hbCount := s.twin.hbCount + 1 } }
  if linkCarries s then sendFrame 0x01#8 0#8 (heartbeat power s) s1 else s1

/-- Core 1 may retrigger HOLD: it runs, heartbeats are sent, nothing holds the line low (R464, Table 15-10). -/
def mayHold (s : State) : Bool :=
  coreRuns s 1 && s.twin.hbRunning && !s.woad.forceHold &&
  (decide (s.power.stage = .none) || decide (s.power.stage = .s0) || decide (s.power.stage = .s1)) &&
  !s.twin.handover.any (fun h => h.releasing && h.passed) &&
  (match s.twin.custodyFault with
   | none => true
   | some sc => decide (3932160 ≤ (s.time.symbolCount - sc).toNat))

/-! ### Custody (R463, R464, R471 to R474) -/

/-- Seizure: the survivor is ALONE, SEIZED is posted with MAJOR, its heartbeat timer stops (R473). -/
def seize (s : State) : State :=
  let s1 := leavePair s
  raiseAlarm true evSeized 0 (event evSeized 0 0 { s1 with twin := { s1.twin with
    seized := true, timerOn := false, delayRunning := !s1.twin.twinHold } })

/-- Custody gained: REQ falls, C-plane messages that are due go out; at the end of a handover the roles exchange, after an
expiry it is a seizure. -/
def gainGrant (s : State) : State :=
  let s1 := { s with twin := { s.twin with grant := true, req := false } }
  match s.twin.handover with
  | some h =>
    if h.releasing then catchUp s1
    else catchUp (takeRole (if s.twin.role = .standby then .active else s.twin.role)
      { s1 with twin := { s1.twin with handover := none, timerOn := true } })
  | none => if s.twin.role = .standby ∨ s.twin.role = .share then catchUp (seize s1) else catchUp s1

/-- Custody lost: at the end of a handover the roles exchange; otherwise the tray has lost its place and is ALONE. -/
def loseGrant (s : State) : State :=
  let s1 := { s with twin := { s.twin with grant := false } }
  match s.twin.handover with
  | some h => if h.releasing ∧ s.twin.role = .active then takeRole .standby s1 else s1
  | none => if s.twin.role = .active ∨ s.twin.role = .share then leavePair s1 else s1

/-- The holder and with it this tray's GRANT (R463). -/
def setHolder (h : Option Bool) (s : State) : State :=
  let s1 := { s with twin := { s.twin with holder := h } }
  if h = some false ∧ !s.twin.grant then gainGrant s1
  else if h ≠ some false ∧ s.twin.grant then loseGrant s1
  else s1

/-! ### Handover (R474) -/

/-- Radio time now [SCLK]. -/
def radioNow (s : State) : Int := radioTicks s.time

/-- The group whose U-plane windows a transfer point follows: the lowest-numbered PRECODE group. -/
def precodeGroup (s : State) : Option GroupEntry :=
  s.sets.radioActive.groups.toList.find? (fun e => e.en && decide (e.kind = 1))

/-- Ends of U-plane windows in the next slots, or OFDM-symbol markers, in 1/100 SCLK of radio time. -/
def transferPoints (s : State) : List Int :=
  let num := s.time.numerology
  let base := slotNow s.time
  (List.range 4).flatMap (fun (n : Nat) => (List.range 14).map (fun (l : Nat) =>
    let m : Int := ((base + (n : Int)) * (slotTicks num : Nat) + (symStart num l : Nat)) * 100
    match precodeGroup s with
    | some e => m + ((e.txSpan.toNat : Int) - e.txAdvance.toNat) * 393216
    | none => m))

/-- The transfer point T: the first at least 100 us away (100 us is 393,216 SCLK). -/
def transferPoint (s : State) : Int :=
  let lo := radioNow s * 100 + 39321600
  match (transferPoints s).filter (fun t => decide (lo ≤ t)) with
  | t :: ts => ceilInt (ts.foldl min t)
  | [] => ceilInt lo
where
  /-- 1/100 SCLK rounded up to whole SCLK -/
  ceilInt (t : Int) : Int := (t + 99) / 100

/-- A planned handover begins on the tray that releases. -/
def beginHandover (cmd : Option Fetched) (s : State) : State :=
  let t := BitVec.ofInt 64 (transferPoint s)
  sendFrame 0x05#8 1#8 (leBytes 8 t.toNat) { s with twin := { s.twin with
    handover := some { at_ := t, releasing := true, passed := false, cmd := cmd } } }

/-! ### Frames (R457, R458) -/

/-- Sequence number `a` is at or before `b`. -/
def seqLe (a b : W32) : Bool := decide ((b - a).toNat < 0x80000000)

/-- Unacknowledged frames sent again; after the fourth replay of a frame has failed the link trains (R458). -/
def replay (s : State) : State :=
  if s.twin.unacked = [] then s
  else if 4 ≤ s.twin.replayTries then
    event evTwinLink 0 2 { s with twin := { s.twin with linkState := .training, replaying := false, replayTries := 0 } }
  else { s with twin := { s.twin with
      replaying := true, replayTries := s.twin.replayTries + 1, sent := s.twin.unacked.reverse ++ s.twin.sent,
      replays := satAdd s.twin.replays s.twin.unacked.length } }

/-- Frames up to `ackSeq` are acknowledged and leave the replay buffer (R457). -/
def releaseAcked (ackSeq : W32) (s : State) : State :=
  let left := s.twin.unacked.filter (fun f => !seqLe f.seq ackSeq)
  let tries := if left.length = s.twin.unacked.length then s.twin.replayTries else 0
  { s with twin := { s.twin with
      unacked := left, replayTries := tries, replaying := s.twin.replaying && decide (left ≠ []) } }

/-- A frame as it arrives: one whose CHECK fails is answered with a NAK (R458), one of a reserved TYPE is dropped and counted
(Table 18-3), and any other has the effect `f`. -/
def takeLinkFrame (h : RxHead) (f : State → State) (s : State) : State :=
  if !linkCarries s then s
  else if !h.checkOk then sendFrame 0x02#8 2#8 [] s
  else if h.type = 0 ∨ 7 < h.type.toNat then { s with twin := { s.twin with badFrames := satAdd s.twin.badFrames 1 } }
  else f s

/-- A sequenced frame in order: it is taken and acknowledged, else a NAK answers the gap and nothing is taken. A frame seen
before is acknowledged again. Its ACKSEQ acknowledges as that of an ACK frame does (DEDUCED from Table 18-3, log 81). -/
def takeSequenced (h : RxHead) (f : State → State) (s : State) : State :=
  if h.seq = s.twin.rxSeq + 1 then sendFrame 0x02#8 0#8 [] (f { s with twin := { s.twin with rxSeq := h.seq } })
  else if seqLe h.seq s.twin.rxSeq then sendFrame 0x02#8 0#8 [] s
  else sendFrame 0x02#8 2#8 [] s

/-- A sequenced frame received. -/
def receive (h : RxHead) (f : State → State) (s : State) : State :=
  takeLinkFrame h (fun s => takeSequenced h f (releaseAcked h.ackSeq s)) s

/-! ### Resynchronisation (R467) -/

/-- Groups that this tray mirrors. -/
def mirroredGroups (s : State) : List GroupIx := if s.twin.role = .share then [0] else List.finRange 16

/-- One group's sets, epoch, state and members sent. -/
def sendGroup (s : State) (g : GroupIx) : State :=
  let x := s.sets.groups[g]
  sendMessage 0x07#8 ([BitVec.ofNat 8 g.val, BitVec.ofNat 8 x.shadow.code] ++ leBytes 4 x.epoch.toNat ++
    leBytes 2 x.members.toNat ++ setBytes s.sets g false ++ setBytes s.sets g true) s

/-- A range of stack memory copied to the same address of the twin. -/
def sendMemory (s : State) (r : Nat × Nat) : State := sendMessage 0x04#8 (leBytes 8 r.1 ++ stackRead s r.1 r.2) s

/-- RESYNC begins; the tray that is the source sends its sets and the journal's position, then the memory that is missing:
all of it, or after LINK_DOWN or MIRROR_LOST what unacknowledged entries referenced. -/
def enterResync (whole : Bool) (s : State) : State :=
  let s1 := { s with twin := { s.twin with pairState := .resync } }
  if s.twin.role = .active ∨ (s.twin.role = .share ∧ s.twin.grant) then
    let gs := mirroredGroups s
    let s2 := gs.foldl sendGroup s1
    let s3 := sendMessage 0x07#8 (leBytes 4 s.twin.journalSeq.toNat) s2
    let mem := if whole then gs.flatMap (fun g => referenced s g false ++ referenced s g true) else s.twin.dirty
    mem.foldl sendMemory s3
  else s1

/-- The twin's SWAP_EPOCH values, and at the source its JOURNAL_ACK, match: for SHARE group 0 alone (R466, R467). -/
def mirrorMatches (s : State) : Bool :=
  let gs : List (Fin 3) := if s.twin.role = .share then [0] else List.finRange 3
  gs.all (fun g => decide (field s.twin.hbLast (8 + 4 * g.val) 4 = (s.sets.groups[g]).epoch.toNat)) &&
  (if s.twin.role = .active ∨ (s.twin.role = .share ∧ s.twin.grant) then
     decide (field s.twin.hbLast 0x14 4 = s.twin.journalSeq.toNat)
   else hbFlag s 6)

/-- A TWIN_ROLE that waits completes once its role's pair is SYNCED (Table 18-2). -/
def finishRole (s : State) : State :=
  match s.twin.roleCmd with
  | none => s
  | some (f, r) =>
    if s.twin.role = r ∧ s.twin.pairState = .synced then
      completeAny f (Reply.of codeOk) { s with twin := { s.twin with roleCmd := none } }
    else s

/-- This tray is the one that is mirrored to. -/
def isSink (s : State) : Bool :=
  decide (s.twin.role = .standby) || (decide (s.twin.role = .share) && !s.twin.grant)

/-- The members of tile groups take the images of their active and shadow entries. -/
def reloadMembers (s : State) : State :=
  { s with tiles := Vector.ofFn (fun t =>
      if s.tiles[t].group.isSome then
        reloadLatches t (entryImage s s.sets.imageActive[t]) (entryImage s s.sets.imageShadow[t]) s.tiles[t]
      else s.tiles[t]) }

/-- RESYNC ends in SYNCED when the mirror matches; the tray mirrored to has then loaded the images it was sent. -/
def trySynced (s : State) : State :=
  if s.twin.pairState = .resync ∧ mirrorMatches s then
    finishRole { (if isSink s then reloadMembers s else s) with twin := { s.twin with pairState := .synced } }
  else s

end Sys2Proof.Machine
end

