-- ==== Sys2Proof/Machine/Power.lean ====
section
/-! DEFINITION. Feeds, hold-up bank, the power cap and budget, the staged shutdown and the feed relays (chapter 14, R23, R333,
R355, R356). -/
namespace Sys2Proof.Machine

/-- The tray is on its feeds: neither OFF nor in a stage past S1. -/
def poweredOn (s : State) : Bool := decide (s.tray.powerState ≠ .off)

/-- Woad measures the feeds and firmware acts on them: not OFF. -/
def feedsServed (s : State) : Bool := poweredOn s && (decide (s.power.stage = .none) || decide (s.power.stage = .s0) ||
  decide (s.power.stage = .s1))

/-! ### The power cap and the budget -/

def powerCapBody (f : Fetched) (s : State) : Body :=
  let w := f.desc.u16 8
  if w * 65536 < capFloor s then .done s (Reply.arg 8)
  else .done (mirror none f.desc.bytes [] (applyCap { s with power := { s.power with capHost := BitVec.ofNat 16 w } }))
    (Reply.of codeOk)

/-- POWER_CAP (R333, R356, R357, R383). -/
def execPowerCap (ring : RingIx) (s : State) : Result :=
  serve (isOp opPowerCap) ring (fun f _ => [chk 8 (decide (f.desc.u16 8 < 250 ∨ 450 < f.desc.u16 8))]) powerCapBody s

/-- P of R356 [0.1 W] for busy fractions in 1/65,536 of a tile. -/
def modelPower (busy : List (TileIx × BitVec 3 × Nat)) (sepiaBusy : Bool) : Nat :=
  1900 + ceilDiv ((busy.map (fun b => min b.2.2 65536 * formatPower b.2.1.toNat * 10)).foldl (· + ·) 0) 65536 +
  (if sepiaBusy then 120 else 0)

/-- Units that SKIP takes from the account (R355, R440). -/
def skipUnits (s : State) : Nat :=
  ((List.finRange 10).map (fun t => if accounted s.tiles[t] then
    (if s.tiles[t].skip = 1 then 16384 else if s.tiles[t].skip = 2 then 32768 else 0) else 0)).foldl (· + ·) 0

/-- Units that radio groups moved to their ALT_TILE, which holds no reservation, take from the account (R355, Table 13-5). -/
def movedUnits (s : State) : Nat :=
  (s.sets.radioActive.groups.toList.map (fun e =>
    let t := radioTile s e
    if decide (t ≠ e.tile.toNat) && s.tiles.toList[t]?.any accounted then radioReserve s.time.numerology e else 0)).foldl (· + ·) 0

/-- Power that radio reservations take [0.1 W], in units of 1/65,536. -/
def radioPower (s : State) : Nat :=
  (s.sets.radioActive.groups.toList.map (fun e =>
    radioReserve s.time.numerology e * formatPower e.format.toNat * 10)).foldl (· + ·) 0

/-- Units that the power budget leaves to rings, each at the 26 W of a Q4 tile, whose format a reservation does not name
(assumption 12). -/
def budgetUnits (s : State) (sepiaBusy : Bool) : Nat :=
  ((10 * s.power.capInForce.toNat - s.sched.capExcess - 1900 - (if sepiaBusy then 120 else 0)) * 65536 - radioPower s) / 260

/-- What R355 withdraws when rings may have `units`: excess classes, then P4, then P3. -/
def withdraw (units : Nat) (excess : Bool) (s : State) : State :=
  let surplus := levelReserves s true + levelReserves s false - units
  { s with sched := { s.sched with
      excessCut := excess || decide (surplus ≠ 0), p4Cut := min surplus (levelReserves s true),
      p3Cut := min (surplus - min surplus (levelReserves s true)) (levelReserves s false) } }

/-- The measured power follows the budget: 10 ms above the cap lower it by the excess, 100 ms withdraw all excess and P4 time
with MINOR (R356, R359). -/
def measurePower (measured : Nat) (s : State) : State :=
  let cap := 10 * s.power.capInForce.toNat
  let n := if cap < measured then s.sched.overMs + 1 else 0
  let ex := if 10 ≤ n then max s.sched.capExcess (measured - cap)
            else if measured + s.sched.capExcess ≤ cap then 0 else s.sched.capExcess
  let s1 := { s with sched := { s.sched with overMs := n, capExcess := ex },
                     power := { s.power with pkgPower := BitVec.ofNat 16 measured } }
  if 100 ≤ n then raiseAlarm false alOverCap 0 s1 else if n = 0 ∧ ex = 0 then clearAlarm alOverCap 0 s1 else s1

/-- The budget of 1 ms (R355, R356). The tray's input power is measured too; no command carries its value, so it is free
(assumption 3). -/
def execPowerBudgetUpdate (busy : List (TileIx × BitVec 3 × Nat)) (sepiaBusy : Bool) (measured : Nat) (s : State) : Result :=
  if !firmwareRuns s then .next s
  else
    let p := modelPower busy sepiaBusy
    let s1 := measurePower measured { s with sched := { s.sched with powerModel := p } }
    let units := min (accountUnits s1 - skipUnits s1 - movedUnits s1) (budgetUnits s1 sepiaBusy)
    let s2 := withdraw units (decide (10 * s1.power.capInForce.toNat < p + s1.sched.capExcess)) s1
    let s3 := if 100 ≤ s2.sched.overMs then { s2 with sched := { s2.sched with
        excessCut := true, p4Cut := levelReserves s2 true } } else s2
    .next { (draw s3).2 with power := { s3.power with trayPower := (draw s3).1.setWidth 16 } }

/-! ### Feeds (Table 14-2) -/

/-- Both feeds between 38.0 V and 40.5 V for 100 ms. -/
def execFeedLow (magA magB : W16) (s : State) : Result :=
  let inRange := fun (m : W16) => decide (3800 ≤ m.toNat) && decide (m.toNat < 4050)
  if !feedsServed s || !inRange magA || !inRange magB then .next (setMags magA magB s)
  else
    let s1 := feedCond 1 .low (feedCond 0 .low (setMags magA magB s))
    .next (applyCap { s1 with power := { s1.power with feedLow := true } })

/-- A feed at or above 41.5 V for 1 s restores the host's cap. -/
def execFeedLowRestore (magA magB : W16) (s : State) : Result :=
  let s0 := setMags magA magB s
  if !s.power.feedLow || !(decide (4150 ≤ magA.toNat) || decide (4150 ≤ magB.toNat)) then .next s0
  else
    let back := fun (k : Fin 2) (m : W16) (s : State) =>
      if s.power.feeds[k].cond = .low ∧ 4050 ≤ m.toNat then feedCond k .normal s else s
    let s1 := back 1 magB (back 0 magA s0)
    .next (applyCap { s1 with power := { s1.power with feedLow := false } })

/-- The other feed. -/
def otherFeed (k : Fin 2) : Fin 2 := if k = 0 then 1 else 0

/-- One feed below 38.0 V for 1 ms while the other is normal. -/
def execFeedLost (feed : Fin 2) (mag : W16) (s : State) : Result :=
  let s1 := setMag feed mag s
  if feedsServed s ∧ mag.toNat < 3800 ∧ s.power.feeds[otherFeed feed].cond = .normal ∧ s.power.feeds[feed].connected then
    .next (feedCond feed .lost s1)
  else .next s1

/-- A lost feed has returned to the normal range. -/
def execFeedNormal (feed : Fin 2) (mag : W16) (s : State) : Result :=
  let s1 := setMag feed mag s
  let c := s.power.feeds[feed].cond
  if 4050 ≤ mag.toNat ∧ mag.toNat ≤ 5700 ∧ (c = .lost ∨ c = .transient ∨ c = .reversed) then .next (feedCond feed .normal s1)
  else .next s1

/-- Above 57.0 V for more than 10 ms, or above 60.0 V: the input stage disconnects the feed. -/
def execFeedHigh (feed : Fin 2) (mag : W16) (s : State) : Result :=
  let s1 := setMag feed mag s
  if 5700 < mag.toNat ∧ poweredOn s then
    .next (feedCond feed .high { s1 with power := { s1.power with
      feeds := upd s1.power.feeds feed (fun f => { f with connected := false }) } })
  else .next s1

/-- A disconnected feed within 40.5 V to 57.0 V for 1 s reconnects. -/
def execFeedHighReconnect (feed : Fin 2) (mag : W16) (s : State) : Result :=
  let s1 := setMag feed mag s
  if 4050 ≤ mag.toNat ∧ mag.toNat ≤ 5700 ∧ !s.power.feeds[feed].connected ∧ s.power.feeds[feed].cond = .high then
    .next (feedCond feed .normal { s1 with power := { s1.power with
      feeds := upd s1.power.feeds feed (fun f => { f with connected := true }) } })
  else .next s1

/-- Reversed polarity: the ideal diode blocks the feed. -/
def execFeedReversed (feed : Fin 2) (s : State) : Result :=
  if feedsServed s then .next (feedCond feed .reversed s) else .next s

/-- 57.0 V to 60.0 V for up to 10 ms is served and counted; the condition lasts as long as the magnitude. -/
def execFeedTransient (feed : Fin 2) (mag : W16) (s : State) : Result :=
  let s1 := setMag feed mag s
  if 5700 < mag.toNat ∧ mag.toNat ≤ 6000 ∧ feedsServed s then
    .next { s1 with power := { s1.power with
      transients := satInc s1.power.transients,
      feeds := upd s1.power.feeds feed (fun f => if f.cond = .normal then { f with cond := .transient } else f) } }
  else .next s1

/-! ### The bank (R366 to R369, R384) -/

/-- The measured capacitance; below 3.7 mF BANK_WEAK. -/
def execBankMeasure (microfarad : W16) (s : State) : Result :=
  if !firmwareRuns s then .next s
  else
    let s1 := { s with power := { s.power with bankCap := microfarad, bankWeak := decide (microfarad.toNat < 3700) } }
    if microfarad.toNat < 3700 then
      .next (raiseAlarm false evBankWeak 0 (event evBankWeak 0 (BitVec.ofNat 16 (microfarad.toNat / 10)) s1))
    else .next (clearAlarm evBankWeak 0 s1)

/-- The bank is below 70.0 V 1 s after start or return: BANK_FAIL, MAJOR and a takeover request (Table 14-8). -/
def execChargerFail (bank : W16) (s : State) : Result :=
  let s0 := { s with power := { s.power with bank := bank } }
  if bank.toNat < 7000 ∧ firmwareRuns s ∧ s.power.stage = .none ∧ !s.power.bankFail then
    let s1 := raiseAlarm true evBankFail 0 (event evBankFail 0 0 { s0 with power := { s0.power with bankFail := true } })
    .next (if twinStandsBy s then requestTakeover evBankFail s1 else s1)
  else .next s0

/-- The bank is full again (R368). -/
def execBankFull (s : State) : Result :=
  if s.power.charging then .next { s with power := { s.power with bank := 7500, charging := false } } else .next s

/-! ### Stages (R371 to R380) -/

/-- Eight samples with both feeds below 38.0 V: S0 (R371). -/
def execStageS0Warn (magA magB : W16) (s : State) : Result :=
  let s1 := setMags magA magB s
  if s.power.stage = .none ∧ poweredOn s ∧ s.tray.powerState ≠ .deep ∧ magA.toNat < 3800 ∧ magB.toNat < 3800 then
    let p := s1.power
    .next (event evPowerStage 0 1 { s1 with power := { p with
      stage := .s0, stageSC := put (Vector.replicate 5 0) 0 s.time.symbolCount, charging := false,
      feedAt := put (put p.feedAt 0 magA) 1 magB } })
  else .next s1

/-- S0 has lasted 1.0 ms: S1 (R371, R378, R425). -/
def execStageS1Shed (s : State) : Result :=
  if s.power.stage ≠ .s0 then .next s
  else
    let s1 := suspendErase true (suspendErase false (raiseAlarm true alStage 0 { s with power := { s.power with
      stage := .s1, stageSC := put s.power.stageSC 1 s.time.symbolCount } }))
    .next (if twinStandsBy s && twinPowered s then requestTakeover alStage s1 else s1)

/-- A feed at or above 40.0 V for 4 samples in S0 or S1: return to service (R372). -/
def execReturnToService (feed : Fin 2) (mag : W16) (s : State) : Result :=
  let s0 := setMag feed mag s
  if (s.power.stage = .s0 ∨ s.power.stage = .s1) ∧ 4000 ≤ mag.toNat then
    let s1 := withdrawTakeover alStage (clearAlarm alStage 0 { s0 with power := { s0.power with
      stage := .none, charging := decide (s0.power.bank.toNat < 7500) } })
    .next (event evPowerStage 0 2 (pump true (pumpFuel s1 true) (pump false (pumpFuel s1 false) s1)))
  else .next s0

/-- S1 has lasted 9.0 ms, or the bank supplies the bus below 42.0 V, which moves any stage before S2 there at once (R371,
R372). -/
def execStageS2Park (magA magB bank : W16) (s : State) : Result :=
  let onBank := decide (magA.toNat < 3750) && decide (magB.toNat < 3750)
  if !poweredOn s || decide (s.tray.powerState = .deep) || !(decide (s.power.stage = .none) || decide (s.power.stage = .s0) ||
      decide (s.power.stage = .s1)) then .next s
  else if onBank && decide (bank.toNat < 4200) then .next (enterS2 .bank magA magB bank s)
  else if s.power.stage = .s1 then .next (enterS2 .feedLoss magA magB bank s)
  else .next s

/-- Code of a reason (Table 14-6). -/
def Reason.code : Reason → Nat
  | .feedLoss => 1
  | .trip => 2
  | .bank => 3

/-- Bytes of the park journal by which JOURNAL_CRC is taken: the spec gives the contents and the header but no layout, so the
check word is free (assumption 3). -/
def shutdownRecord (s : State) : List Byte :=
  let p := s.power
  let d := (draw s).1
  let d2 := Config.freeWord (s.free + 1)
  let d3 := Config.freeWord (s.free + 2)
  let b := leBytes 4 0x44535A51 ++ leBytes 1 p.reason.code ++ leBytes 3 0 ++ leBytes 4 (p.shutdownSeq.toNat + 1) ++
    (p.stageSC.toList.take 4).flatMap (fun c => leBytes 8 c.toNat) ++ leBytes 8 d2.toNat ++
    leBytes 4 ((p.journal.map (fun j => j.todSec.toNat)).getD s.time.todSec.toNat) ++
    p.feedAt.toList.flatMap (fun m => leBytes 2 (m.toNat / 10)) ++
    leBytes 2 (p.bankAt[(0 : Fin 2)].toNat / 10) ++ leBytes 2 d3.toNat ++ leBytes 4 d.toNat ++
    leBytes 2 p.capHost.toNat ++ leBytes 2 p.capInForce.toNat ++ List.replicate 176 0
  b ++ leBytes 4 (crc32c b).toNat

/-- The page of the shutdown log that the next record takes. -/
def shutdownPage (s : State) : Nat := 0x30000 + 256 * (s.flash.shutPtr % 256)

/-- The S2 actions are complete: firmware programs the shutdown record into an erased page, unless the temperature refuses it
or the archive flash is dead; completions not yet written are lost (R375, R377, R383). The record also holds the symbol
count and the bank magnitude at S4, which are not yet known when it is programmed: they are free (assumption 3). -/
def execStageS3Commit (s : State) : Result :=
  if s.power.stage ≠ .s2 ∨ !s.power.s2done then .next s
  else
    let s1 := { s with
      power := { s.power with stage := .s3, stageSC := put s.power.stageSC 3 s.time.symbolCount },
      rings := s.rings.map (fun r => { r with waiting := [] }) }
    let s2 := if writeTempOk s false 0 && !s.flash.archDead && coreRuns s 3 then
        let s3 := flashProgram .archive (shutdownPage s) (shutdownRecord s1) s1
        { s3 with free := s3.free + 3, flash := { s3.flash with shutPtr := (s.flash.shutPtr + 1) % 256 },
                  power := { s3.power with shutdownSeq := s3.power.shutdownSeq + 1 } }
      else s1
    .next { s2 with power := { s2.power with s3done := coreRuns s 3 } }

/-- The record is programmed, or refused: S4 (R376). -/
def execStageS4Off (magA magB bank : W16) (s : State) : Result :=
  if s.power.stage = .s3 ∧ s.power.s3done then
    .next (enterS4 magA magB bank { s with tray := { s.tray with unclean := false } })
  else .next s

/-- Woad has had no report of S2 within 2.0 ms or of S3 within 3.0 ms: S4 in hardware, the journal invalid, the next start
cold and unclean (R380). -/
def execForcedS4 (magA magB bank : W16) (s : State) : Result :=
  if (s.power.stage = .s2 ∧ !s.power.s2done) ∨ (s.power.stage = .s3 ∧ !s.power.s3done) then
    .next (enterS4 magA magB bank { s with power := { s.power with journal := none }, tray := { s.tray with unclean := true } })
  else .next s

/-- A feed at or above 40.0 V for 50 ms after S4: a warm restart where Woad and the stack rail kept power and the journal's
check word matches, else a cold start (R377). -/
def execRestartQualify (feed : Fin 2) (mag : W16) (s : State) : Result :=
  let s0 := setMag feed mag s
  if s.tray.powerState ≠ .off ∨ mag.toNat < 4000 ∨ (s.woad.tripLatch ∧ s.woad.powered) then .next s0
  else match s.power.offWait with
  | .feed _ =>
    .next (beginStart (s.woad.powered && s.power.woadKept && s.mem.stackRail && s.power.journal.any (fun j => j.valid)) s0)
  | _ => .next s0

/-- A converter overcurrent or a rail out of tolerance: every rail off at once, no sequence, the next start cold (Table 14-8). -/
def execRailFault (s : State) : Result :=
  if !poweredOn s then .next s
  else
    let s1 := railsDown false (dropHold s)
    .next { s1 with
      power := { s1.power with journal := none, railFaults := s1.power.railFaults + 1, stage := .none,
                               offWait := if s.woad.tripLatch then .powerCycle else .feed false },
      tray := { s1.tray with unclean := true } }

/-! ### Feed relays (R23, R381, R382, R476) -/

/-- An opened relay recloses by itself after 2.0 s. -/
def execFeedRelayReclose (s : State) : Result :=
  .next { s with power := { s.power with relayOpen := false, twinRelayOpen := false } }

/-- A low pulse on RELAY_CMD from the twin opens this slot's feed relay: both feeds fall. -/
def execRelayCmdPulse (s : State) : Result :=
  let s1 := setMags 0 0 s
  .next { s1 with power := { s1.power with relayOpen := true } }

def relayCycleBody (_f : Fetched) (s : State) : Body :=
  if s.tray.shelfSlot.isNone ∨ s.power.stage ≠ .none then .done s (Reply.of codeStateIllegal)
  else .done { s with power := { s.power with twinRelayOpen := true } } (Reply.of codeOk)

/-- RELAY_CYCLE (R333, R382). -/
def execRelayCycle (ring : RingIx) (s : State) : Result :=
  serve (isOp opRelayCycle) ring (fun f _ => [chk 8 (decide (f.desc.u16 8 ≠ 0x5A5A))]) relayCycleBody s

end Sys2Proof.Machine
end

