-- ==== Sys2Proof/Machine/Twin.lean ====
section
/-! DEFINITION. The pair: TWIN_ROLE and HANDOVER, heartbeats, custody, takeover and the relay cycle by the twin (chapter 18). -/
namespace Sys2Proof.Machine

/-! ### TWIN_ROLE (R333, R454, R455, R461, Tables 18-2 and 23-10) -/

/-- The role of a code. -/
def Role.ofCode (c : Nat) : Role :=
  match c with
  | 1 => .active
  | 2 => .standby
  | 3 => .share
  | _ => .alone

/-- The twin reports another VARIANT or FW_REL major byte (R455), or both trays read the same slot (Table 23-10). -/
def twinMismatch (s : State) : Bool :=
  twinHeard s && (decide (hbByte s 0x1C ≠ s.tray.variant.code) || decide (hbByte s 7 ≠ 2))

def sameSlot (s : State) : Bool :=
  twinHeard s && s.tray.shelfSlot.any (fun b => decide (hbByte s 0x1D = (if b then 1 else 0)))

/-- HB_TIMEOUT is outside the limits of R461. -/
def badHbTimeout (s : State) : Bool := decide (s.twin.hbTimeout.toNat < 80) || decide (2000 < s.twin.hbTimeout.toNat)

/-- An inference job runs. -/
def inferenceRuns (s : State) : Bool :=
  s.jobs.any (fun j => match j.kind with
    | .radio _ _ _ => false
    | _ => true)

/-- Another TWIN_ROLE or a HANDOVER runs (R333). -/
def twinCmdRuns (s : State) : Bool := s.twin.roleCmd.isSome || s.twin.handover.any (fun h => h.cmd.isSome)

/-- A mismatch posts TWIN_MISMATCH; the same slot drives MAJOR too. -/
def roleMismatch (s : State) : Body :=
  let s1 := event evTwinMismatch 0 0 s
  .done (if sameSlot s then raiseAlarm true evTwinMismatch 0 s1 else s1) (Reply.arg 8)

def twinRoleBody (f : Fetched) (s : State) : Body :=
  let r := Role.ofCode (f.desc.u8 8)
  if r ≠ .alone ∧ (twinMismatch s || sameSlot s) then roleMismatch s
  else if s.tray.phase ≠ .done ∨ twinCmdRuns s then .done s (Reply.of codeStateIllegal)
  else if r = s.twin.role then .done s (Reply.of codeOk)
  else if r = .alone then .done (leavePair s) (Reply.of codeOk)
  else if s.twin.role ≠ .alone ∨ !twinHeard s then .done s (Reply.of codeStateIllegal)
  else
    let s1 := { s with twin := { s.twin with seized := false, delayRunning := false } }
    match r with
    | .active =>
      if 0 ≠ hbByte s 0 ∧ 2 ≠ hbByte s 0 then .done s (Reply.of codeStateIllegal)
      else if !s.twin.grant then .done s (Reply.of codeTwinNoCustody)
      else .done (takeRole .active s1) (Reply.of codeOk)
    | .standby =>
      if hbByte s 0 ≠ 1 ∨ s.twin.grant ∨ s.tray.powerState ≠ .run ∨ inferenceRuns s then
        .done s (Reply.of codeStateIllegal)
      else
        let s2 := takeRole .standby s1
        .running { s2 with twin := { s2.twin with roleCmd := some (f, .standby) } }
    | _ =>
      let s2 := takeRole .share s1
      .running { s2 with twin := { s2.twin with roleCmd := some (f, .share) } }

/-- TWIN_ROLE. -/
def execTwinRole (ring : RingIx) (s : State) : Result :=
  serve (isOp opTwinRole) ring (fun f s => [chk 8 (decide (3 < f.desc.u8 8)),
    chk 8 (decide (1 ≤ f.desc.u8 8) && badHbTimeout s)]) twinRoleBody s

/-- HANDOVER (R333, R474). -/
def handoverBody (f : Fetched) (s : State) : Body :=
  if twinCmdRuns s ∨ s.twin.handover.isSome ∨ s.twin.role ≠ .active ∨ s.twin.pairState ≠ .synced ∨ !linkCarries s then
    .done s (Reply.of codeStateIllegal)
  else if !s.twin.grant then .done s (Reply.of codeTwinNoCustody)
  else .running (beginHandover (some f) s)

def execHandover (ring : RingIx) (s : State) : Result := serve (isOp opHandover) ring (fun _ _ => []) handoverBody s

/-! ### Sending heartbeats, and HOLD (R460, R464) -/

/-- Madder is powered: not DEEP and not OFF. -/
def madderUp (s : State) : Bool := !(decide (s.tray.powerState = .off) || decide (s.tray.powerState = .deep))

/-- 20 us have passed: a heartbeat goes out while core 3 refreshes its block, and core 1 retriggers HOLD. -/
def execHeartbeatSend (s : State) : Result :=
  if !madderUp s || !s.twin.hbRunning then .next s
  else if !coreRuns s 3 then .next { s with twin := { s.twin with hbFresh := false } }
  else
    let s1 := sendHeartbeat s.tray.powerState.code { s with twin := { s.twin with hbFresh := true } }
    .next (if mayHold s1 then { s1 with twin := { s1.twin with hold := true } } else s1)

/-- HOLD has not been retriggered for 50 us. -/
def execHoldTimerExpiry (s : State) : Result := .next (dropHold s)

/-! ### Receiving heartbeats (R453 to R455, R461, R465 to R467, R475) -/

/-- JOURNAL_ACK of the twin: what it acknowledges completes (R280, R466). -/
def takeAck (ack : W32) (s : State) : State :=
  if s.twin.role = .active ∨ (s.twin.role = .share ∧ s.twin.grant) then
    let acked := s.twin.commitWaits.filter (fun w => seqLe w.2.2.2 ack)
    let s1 := { s with twin := { s.twin with
        journalLag := if seqLe ack s.twin.journalSeq then s.twin.journalSeq - ack else s.twin.journalLag,
        dirty := if ack = s.twin.journalSeq then [] else s.twin.dirty,
        commitWaits := s.twin.commitWaits.filter (fun w => !seqLe w.2.2.2 ack) } }
    acked.foldl (fun s w => tryFinishCommit w.2.2.1 s) s1
  else s

/-- The pair state after a heartbeat (Table 18-1): a pair that forms resynchronises, whole unless it was a pair before; a
twin that has left its role makes this tray ALONE (Table 18-2), and so does one that has seized custody (R473). -/
def pairAfter (s : State) : State :=
  let was := s.twin.pairState
  let paired := decide (was = .resync) || decide (was = .synced) || decide (was = .mirrorLost)
  if s.twin.role = .alone then { s with twin := { s.twin with pairState := .linked } }
  else if formsPair s.twin.role (hbByte s 0) then
    (match was with
     | .synced => s
     | .resync => trySynced s
     | .linkDown => enterResync false s
     | .mirrorLost => enterResync false s
     | _ => enterResync true s)
  else if hbByte s 0 = 0 ∧ (paired ∨ s.twin.role = .standby ∨ (!s.twin.grant ∧ hbFlag s 3)) then
    let s1 := leavePair s
    { s1 with twin := { s1.twin with pairState := .linked } }
  else if paired then s
  else { s with twin := { s.twin with pairState := .linked } }

/-- This tray's HANDOVER threshold is asserted (R442). -/
def ownHandover (s : State) : Bool := s.thermal.handover.toList.any (fun t => t.on)

/-- A takeover request of the twin is refused (R475). -/
def refuses (s : State) : Bool :=
  (decide (s.twin.role = .standby) && decide (s.twin.pairState ≠ .synced)) || ownHandover s ||
  decide (s.power.stage ≠ .none) || (!feedGood s 0 && !feedGood s 1) ||
  (decide (hbByte s 4 = 4) && decide (s.time.syncState ≠ .locked))

/-- The twin's heartbeat shows no ground of R475 for a refusal. -/
def twinAccepts (s : State) : Bool :=
  formsPair s.twin.role (hbByte s 0) && (hbFlag s 6 || decide (s.twin.role = .share)) && !hbFlag s 2 && twinPowered s &&
  (decide (s.time.syncState ≠ .holdOut) || decide (hbByte s 4 = 2))

/-- Requests for takeover, the twin's and this tray's (R475); a handover that runs governs. -/
def takeoverAfter (s : State) : State :=
  if s.twin.handover.isSome then s
  else
    let s1 := { s with twin := { s.twin with
      refusing := hbFlag s 4 && decide (s.twin.role ≠ .alone) && refuses s } }
    if s1.twin.takeoverReq ∧ s1.twin.grant then
      if hbFlag s 5 then
        event evTakeoverRefused 0 0 { s1 with twin := { s1.twin with takeoverReq := false, takeoverRefused := true } }
      else if twinAccepts s1 ∧ linkCarries s1 then beginHandover none s1
      else s1
    else s1

/-- A planned handover ends on the releasing tray when the twin reports custody (R474). -/
def handoverAfter (s : State) : State :=
  match s.twin.handover with
  | none => s
  | some h =>
    if h.releasing ∧ h.passed ∧ hbFlag s 3 ∧ !s.twin.grant then
      let s1 := { s with twin := { s.twin with handover := none, takeoverReq := false },
                         tray := { s.tray with takeoverCauses := [] } }
      match h.cmd with
      | some f => completeAny f (Reply.of codeOk) s1
      | none => s1
    else s

/-- The REQ that an expiry raised falls at the next valid heartbeat (Table 18-6). -/
def lowerReq (s : State) : State :=
  if (s.twin.role = .standby ∨ s.twin.role = .share) ∧ s.twin.handover = none then
    { s with twin := { s.twin with req := false } }
  else s

/-- What firmware does on a valid heartbeat. -/
def heartbeatWork (s : State) : State :=
  let s1 := takeAck (BitVec.ofNat 32 (field s.twin.hbLast 0x14 4)) (lowerReq s)
  let s2 := takeoverAfter (handoverAfter (pairAfter s1))
  { s2 with twin := { s2.twin with timerOn := decide (s2.twin.role ≠ .alone) && s2.twin.handover.isNone, delayRunning := false } }

/-- A valid heartbeat arrives. -/
def execHeartbeatRx (payload : List Byte) (s : State) : Result :=
  if !madderUp s || !linkCarries s || decide (payload.length ≠ 32) then .next s
  else
    let s1 := { s with woad := { s.woad with hbSeen := true }, twin := { s.twin with
      hbRx := satInc s.twin.hbRx, hbLast := payload, extended := false } }
    if !(firmwareRuns s && coreRuns s 3) then .next s1
    else
      let s2 := if s.tray.shelfSlot.isNone then raiseAlarm false alLink 1 s1 else s1
      .next (heartbeatWork s2)

/-- HB_TIMEOUT has passed without a heartbeat: one extension while the link replays (R462), else LINK_DOWN, and a tray that
does not hold custody requests it (R461, R465). -/
def execHeartbeatTimeout (s : State) : Result :=
  if !madderUp s || !s.twin.timerOn || s.twin.handover.isSome then .next s
  else if s.twin.replaying ∧ !s.twin.extended then .next { s with twin := { s.twin with extended := true } }
  else
    let raises := (decide (s.twin.role = .standby) || decide (s.twin.role = .share)) && !s.twin.grant
    .next { s with twin := { s.twin with pairState := .linkDown, timerOn := false, req := s.twin.req || raises } }

/-- No heartbeat for 1 s: PAIR_STATE NONE, and a paired role falls to ALONE, with MAJOR where the link is down (R453, R454,
R480). A tray that had a twin, or seized custody, watches for the relay cycle (R476). -/
def execPairNoneTimeout (s : State) : Result :=
  if !firmwareRuns s || decide (s.twin.pairState = .none) then .next s
  else
    let lost := decide (s.twin.role ≠ .alone)
    let s1 := if lost then leavePair s else s
    let s2 := if lost ∧ !linkCarries s then raiseAlarm true evTwinLink 0 s1 else s1
    .next { s2 with twin := { s2.twin with
      pairState := .none, timerOn := false, seized := s.twin.seized || lost,
      delayRunning := (s.twin.seized || lost) && !s.twin.twinHold } }

/-! ### Custody (R463 to R465, R480) -/

/-- Custody moves at this tray: firmware follows once it runs. -/
def custodyTo (h : Option Bool) (s : State) : State :=
  if firmwareRuns s then setHolder h s
  else { s with twin := { s.twin with holder := h, grant := decide (h = some false) } }

/-- The holder that the custody logic gives at its next sample, `twinReq` the other slot's REQ. -/
def nextHolder (twinReq : Bool) (s : State) : Option Bool :=
  match s.tray.shelfSlot with
  | none => s.twin.holder
  | some slotB =>
    match s.twin.holder with
    | some false => if !s.twin.hold ∧ twinReq then some true else some false
    | some true => if !s.twin.twinHold ∧ s.twin.req then some false else some true
    | none =>
      if slotB then (if twinReq then some true else if s.twin.req then some false else none)
      else (if s.twin.req then some false else if twinReq then some true else none)

/-- The custody logic samples its signals. -/
def execCustodyTransfer (twinReq : Bool) (s : State) : Result :=
  .next (custodyTo (nextHolder twinReq s) { s with twin := { s.twin with twinReq := twinReq } })

/-- GRANT rises or falls at this tray. -/
def execGrantChange (high : Bool) (s : State) : Result :=
  .next (custodyTo (if high then some false else if s.twin.holder = some false then some true else s.twin.holder) s)

/-- HOLD and REQ may not rise within 1 ms of a custody-logic fault. -/
def faultHolds (s : State) : Bool :=
  s.twin.custodyFault.any (fun sc => decide ((s.time.symbolCount - sc).toNat < 3932160))

/-- 1 s without a heartbeat that reports custody: an ALONE tray with an open stream requests it. -/
def execAloneCustodyRequest (s : State) : Result :=
  if firmwareRuns s ∧ s.twin.role = .alone ∧ streamOpen s ∧ !s.twin.grant ∧ !faultHolds s ∧ !(twinHeard s && hbFlag s 3) then
    .next { s with twin := { s.twin with req := true } }
  else .next s

/-- GRANT to both trays, or to neither while one holds custody. -/
def grantsDisagree (s : State) : Bool :=
  (s.twin.grant && twinHeard s && hbFlag s 3) ||
  (!s.twin.grant && s.twin.hold && twinHeard s && !hbFlag s 3 && s.twin.holder.isSome)

/-- A fault of the custody logic (Table 18-9). -/
def execCustodyLogicFault (s : State) : Result :=
  if !firmwareRuns s || !grantsDisagree s then .next s
  else
    let s1 := raiseAlarm true alCustody 0 (leavePair (dropHold s))
    .next { s1 with twin := { s1.twin with req := false, custodyFault := some s.time.symbolCount } }

/-! ### The transfer point, takeover, the relay cycle (R474 to R476) -/

/-- The transfer point: the releasing tray lowers HOLD, the other raises REQ. -/
def execTransferPoint (s : State) : Result :=
  match s.twin.handover with
  | none => .next s
  | some h =>
    let s1 := { s with twin := { s.twin with handover := some { h with passed := true } } }
    .next (if h.releasing then dropHold s1 else { s1 with twin := { s1.twin with req := true } })

/-- A refused request is repeated after 1 s while a cause persists. -/
def execTakeoverRepeat (s : State) : Result :=
  if s.twin.takeoverRefused ∧ s.tray.takeoverCauses ≠ [] ∧ s.twin.role ≠ .alone then
    .next { s with twin := { s.twin with takeoverReq := true, takeoverRefused := false } }
  else .next s

/-- TWIN_HOLD changes: low starts the relay-cycle delay of a tray that has lost its twin, high breaks it. -/
def execTwinHoldChange (high : Bool) (s : State) : Result :=
  let absent := decide (s.twin.pairState = .none) || decide (s.twin.pairState = .linkDown)
  .next { s with twin := { s.twin with twinHold := high, delayRunning := !high && s.twin.seized && absent } }

/-- TWIN_RELAY_DELAY has passed: the twin's relay opens for 2.0 s, deferred in a stage (R382), at most twice in 24 h, and not
without a shelf (Table 23-10). -/
def execRelayDelayExpiry (s : State) : Result :=
  if !firmwareRuns s || !s.twin.delayRunning || decide (s.twin.relayDelay = 0) || decide (s.power.stage ≠ .none) ||
      s.tray.shelfSlot.isNone then .next s
  else if 2 ≤ s.twin.relayCycles.toNat then .next (raiseAlarm true alRelayCycles 0 s)
  else .next { s with twin := { s.twin with relayCycles := s.twin.relayCycles + 1 },
                      power := { s.power with twinRelayOpen := true } }

end Sys2Proof.Machine
end

