-- ==== Sys2Proof/Machine/Flash.lean ====
section
/-! DEFINITION. Events of the flash controllers and the storage commands (R334, R410 to R434). -/
namespace Sys2Proof.Machine

/-! ### Controller events -/

/-- The array whose journal records an erase: a journal's own move is written where that journal lies (R422). -/
def journalOwner (w : FlashWork) (arr : FlashArray) : FlashArray :=
  if w.origin = .journalMove then (match arr with
    | .archive => .archive
    | .code0 => .code1
    | .code1 => .code0)
  else arr

/-- The first step of the work at the front replaced, or taken away. -/
def replaceStep (code : Bool) (st : Option FlashStep) (s : State) : State :=
  match worksOf s code with
  | [] => s
  | w :: ws => setWorks code ({ w with steps := st.toList ++ w.steps.drop 1 } :: ws) s

/-- The work at the front has failed, in a region. -/
def failFront (code : Bool) (region : Nat) (c : W16) (s : State) : State :=
  match worksOf s code with
  | [] => s
  | w :: ws => goOn code (failWork code region w c (setWorks code ws s))

/-- A program or an INTENT has been written and read back (R417, R421): `same` is the comparison. -/
def execFlashProgramDone (code same : Bool) (s : State) : Result :=
  match worksOf s code with
  | [] => .next s
  | w :: _ =>
    match phaseOf s code, w.steps with
    | .intent, .erase arr unit a tries _ :: _ =>
      let o := journalOwner w arr
      if same then
        let s1 := journal 1 o unit.code a 0 s
        .next (setPhase code .erasing (replaceStep code (some (.erase arr unit a tries (journalSeq s1 o))) (markUnit arr a s1)))
      else .next (failFront code (eraseRegion arr a) codeNvmProgramFail
        (setJournal o (journalHalf s o) (journalUsed s o + 1) s))
    | .programming, .page arr a bs :: _ =>
      if same then .next (goOn code (replaceStep code none (flashProgram arr a bs s)))
      else
        let d := drawBytes bs.length s
        .next (failFront code (eraseRegion arr a) codeNvmProgramFail (flashProgram arr a d.1 d.2))
    | _, _ => .next s

/-- An erase has ended and its margin read begins (R421); an operation of a core's flash unit ends here (R537). -/
def execFlashEraseDone (code : Bool) (s : State) : Result :=
  match worksOf s code with
  | [] => .next s
  | w :: _ =>
    match phaseOf s code, w.steps with
    | .erasing, .erase arr unit a _ _ :: _ => .next (setPhase code .marginReading (countErase arr a (flashErase arr unit a s)))
    | .erasing, .rawErase arr unit a :: _ => .next (goOn code (replaceStep code none (countErase arr a (flashErase arr unit a s))))
    | _, _ => .next s

/-- The journal's move ends: the other half is active, its first record the COMPLETE, then a CARRY of every open INTENT (R422). -/
def endMove (o : FlashArray) (unit : EraseUnit) (a : Nat) (intent : W32) (s : State) : State :=
  let opens := (openIntents (halfRecords s o (journalHalf s o))).filter (fun p => decide (p.1 ≠ intent.toNat))
  opens.foldl (fun s p => journal 4 (arrayOf p.2.arr) p.2.unit p.2.addr p.1 s)
    (journal 2 o unit.code a intent.toNat (setJournal o (!journalHalf s o) 0 s))

/-- The cells of a unit whose margin read failed hold no known values. -/
def spoilUnit (arr : FlashArray) (unit : EraseUnit) (a : Nat) (s : State) : State :=
  let d := drawBytes (unitSize unit) s
  flashPut arr a d.1 d.2

/-- A margin read has ended (R421, R422, R434). -/
def execFlashMarginReadDone (code pass : Bool) (s : State) : Result :=
  match worksOf s code with
  | [] => .next s
  | w :: _ =>
    match phaseOf s code, w.steps with
    | .marginReading, .erase arr unit a tries intent :: _ =>
      let o := journalOwner w arr
      if pass then
        let s1 := if w.origin = .journalMove then endMove o unit a intent s else journal 2 o unit.code a intent.toNat s
        .next (goOn code (replaceStep code none (clearUnit arr a s1)))
      else if tries = 0 then
        .next (setPhase code .erasing (replaceStep code (some (.erase arr unit a 1 intent)) (spoilUnit arr unit a s)))
      else
        let s1 := journal 5 o unit.code a intent.toNat (spoilUnit arr unit a s)
        .next (failFront code (eraseRegion arr a) codeNvmEraseFail
          { s1 with flash := { s1.flash with failedUnits := (arr, a) :: s1.flash.failedUnits } })
    | .marginReading, .rawMargin arr _ a :: _ =>
      if pass then .next (goOn code (replaceStep code none s))
      else .next (failFront code (eraseRegion arr a) codeNvmEraseFail s)
    | _, _ => .next s

/-- The controller of a work. -/
def FlashWork.onCode (w : FlashWork) : Bool :=
  match w.all with
  | st :: _ => decide (st.array ≠ .archive)
  | [] => false

/-- Writes queued for temperature go on once it has been 2 degrees inside its range for 10 s (R419). -/
def execTemperatureRetry (s : State) : Result :=
  let ready := s.flash.tempQueue.filter (fun w => writeTempOk s w.onCode 32)
  let s1 := { s with flash := { s.flash with tempQueue := s.flash.tempQueue.filter (fun w => !writeTempOk s w.onCode 32) } }
  .next (ready.foldl (fun s w => enqueue w.onCode w.origin w.all s) s1)

/-! ### The event archive (R415) -/

/-- Page `k` of the event archive. -/
def eventPage (k : Nat) : Nat := 0x1F00000 + 256 * (k % 65536)

/-- One archive entry of 32 bytes, with its SEQ and its check word. -/
def archiveRecord (s : State) (seq : Nat) (content : List Byte) : List Byte :=
  let b := leBytes 4 seq ++ leBytes 4 s.time.todSec.toNat ++ content ++ List.replicate (20 - content.length) 0
  b ++ leBytes 4 (crc32c b).toNat

/-- The erase that keeps 16 sectors ahead of the write pointer, where the page begins a sector. -/
def eraseAhead (page : Nat) : List FlashStep :=
  if page % 16 = 0 then
    [.erase .archive .sector4k (0x1F00000 + 4096 * ((page / 16 + 16) % 4096)) 0 0]
  else []

/-- One page of at most 8 buffered entries handed to the archive flash. -/
def flushPage (s : State) : State :=
  let es := s.flash.eventBuf.take 8
  let bs := (List.range es.length).flatMap (fun i => archiveRecord s (s.flash.eventSeq.toNat + 1 + i) (es.getD i []))
  let s1 := { s with flash := { s.flash with
    eventBuf := s.flash.eventBuf.drop 8, eventSeq := s.flash.eventSeq + BitVec.ofNat 32 es.length,
    eventPtr := (s.flash.eventPtr + 1) % 65536 } }
  enqueue false .eventArchive (.page .archive (eventPage s.flash.eventPtr) bs :: eraseAhead s.flash.eventPtr) s1

/-- Buffered events are programmed at least every 10 s (R415). -/
def execEventArchiveFlush (s : State) : Result :=
  .next ((List.range ((s.flash.eventBuf.length + 7) / 8)).foldl (fun s _ => flushPage s) s)

/-- The oscillator table is stored once in 24 h while LOCKED (R414). -/
def execOscTableStore (s : State) : Result :=
  if s.time.syncState = .locked then .next (storeOscTable s) else .next s

/-- The archive flash does not respond: what waits for it is dropped, MAJOR (R434). -/
def execArchiveNoResponse (s : State) : Result :=
  let hosts := s.flash.archWork.filterMap (fun w => match w.origin with
    | .hostCommand n id => some (n, id)
    | _ => none)
  let s0 := s.flash.archWork.foldl (fun s w => match w.origin with
    | .core k => setCore k (Core.flashDone 0x0406#32) s
    | _ => s) s
  let s1 := hosts.foldl (fun s p => reportHost p.1 p.2 codeNvmNoResponse s) s0
  .next (raiseAlarm true evNvmFault 0 { s1 with flash := { s1.flash with
    archDead := true, archWork := [], archPhase := .idle, eventBuf := [],
    tempQueue := s1.flash.tempQueue.filter (fun w => w.onCode) } })

/-! ### Storage commands (Table 12-18) -/

/-- A bank that holds a core's fetch address: the running one, or one that a core's PC lies in (R410, Table 19-5). -/
def bankFetched (s : State) (bank : Bool) : Bool :=
  decide (s.flash.runningBank = bank) ||
  s.cores.toList.any (fun c => decide (c.pc.toNat / 0x400000 = (if bank then 5 else 4)))

/-- A SELECT of a bank programmed into the journal of the other bank (R429, R430). -/
def selectBank (bank : Bool) (s : State) : State :=
  let s1 := journal 3 (mainArray bank) 0 (if bank then 1 else 0) 0 s
  { s1 with flash := { s1.flash with selectedBank := bank } }

/-- FW_UPDATE verifies its image, then erases and programs BANK (R334, R429). -/
def fwUpdateBody (n : RingIx) (f : Fetched) (s : State) : Body :=
  let d := f.desc
  let bank := decide (d.u8 8 = 1)
  if bankFetched s bank then .done s (Reply.of codeNvmSameBank)
  else match readFails s (d.u64 0x10) (d.u32 0x18) with
  | some c => .done s (Reply.of c)
  | none =>
    let b := daddrRead s (d.u64 0x10) (d.u32 0x18)
    if !imageOk 0x57465A51 Config.firmwareKey b || decide (field b 8 2 < fwCounter s) then .done s (Reply.arg 0x10)
    else
      let s1 := if s.flash.selectedBank = bank then selectBank s.flash.runningBank s else s
      let arr := mainArray bank
      .running (enqueue true (.hostCommand n f.id) (erasesFrom arr 0 b.length ++ pagesFrom arr 0 b)
        { s1 with flash := { s1.flash with fwUpdate := some { bank := bank, length := b.length, ring := n, id := f.id } } })

def execFwUpdate (ring : RingIx) (s : State) : Result :=
  serve (isOp opFwUpdate) ring (fun f s =>
    [chk 0x08 (decide (1 < f.desc.u8 8)), chk 0x10 (badDaddr s.tray.variant (f.desc.u64 0x10) 1),
     chk 0x18 (decide (f.desc.u32 0x18 = 0 ∨ 4194304 < f.desc.u32 0x18))]) (fwUpdateBody ring) s

/-- FW_ACTIVATE selects BANK, for the next restart or for a warm restart now (R334, R430). -/
def fwActivateBody (f : Fetched) (s : State) : Body :=
  let s1 := selectBank (decide (f.desc.u8 8 = 1)) s
  .done (if f.desc.u8 9 = 1 then { s1 with tray := { s1.tray with restartDue := true } } else s1) (Reply.of codeOk)

def execFwActivate (ring : RingIx) (s : State) : Result :=
  serve (isOp opFwActivate) ring (fun f _ => [chk 0x08 (decide (1 < f.desc.u8 8)), chk 0x09 (decide (1 < f.desc.u8 9))])
    fwActivateBody s

/-- ARCHIVE_READ (R334, R424). -/
def archiveReadBody (f : Fetched) (s : State) : Body :=
  let d := f.desc
  if s.flash.archDead then .done s (Reply.of codeNvmNoResponse)
  else if halfErasedIn s .archive (d.u32 8) (d.u32 0x0C) then .done s (Reply.of codeNvmHalfErased)
  else writeThen (d.u64 0x10) (flashRead s .archive (d.u32 8) (d.u32 0x0C)) (Reply.of codeOk) s

def execArchiveRead (ring : RingIx) (s : State) : Result :=
  serve (isOp opArchiveRead) ring (fun f s =>
    [chk 0x08 (decide (0x4000000 ≤ f.desc.u32 8)),
     chk 0x0C (decide (0x1000000 < f.desc.u32 0x0C ∨ 0x4000000 < f.desc.u32 8 + f.desc.u32 0x0C)),
     chk 0x10 (badDaddr s.tray.variant (f.desc.u64 0x10) 1)]) archiveReadBody s

/-- EXT_ENROLL programs the key and then its check word, once (R336, R426). -/
def extEnrollBody (n : RingIx) (f : Fetched) (s : State) : Body :=
  let d := f.desc
  if keyEnrolled s then illegal s
  else match readFails s (d.u64 0x10) 97 with
  | some c => .done s (Reply.of c)
  | none =>
    let k := daddrRead s (d.u64 0x10) 97
    .running (enqueue true (.hostCommand n f.id)
      [.page .code0 (infoBase + 0x4040) k, .page .code0 (infoBase + 0x40A4) (leBytes 4 (crc32c k).toNat)] s)

def execExtEnroll (ring : RingIx) (s : State) : Result :=
  serve (isOp opExtEnroll) ring (fun f s => [chk 0x10 (badDaddr s.tray.variant (f.desc.u64 0x10) 1)]) (extEnrollBody ring) s

end Sys2Proof.Machine
end

