-- ==== Sys2Proof/Machine/XelinOps.lean ====
section
/-! DEFINITION. A Xelin move (chapters 19, 20): values and tags, ports, guards, delay slots, stacks, the data space, traps and
core restarts. The command gives the move that stands at the core's PC (assumption 10). -/
namespace Sys2Proof.Machine

/-! ### Values and tags (R495, R498, R500) -/

def tagOf (v : W32) : Nat := v.toNat / 2 ^ 29
def payload (v : W32) : Nat := v.toNat % 2 ^ 29

/-- A value with a tag, from a TAGGED page; the bare 32 bits from a RAW one. -/
def mkTagged (tag n : Nat) : W32 := BitVec.ofNat 32 (tag % 8 * 2 ^ 29 + n % 2 ^ 29)
def mkVal (tg : Bool) (tag n : Nat) : W32 := if tg then mkTagged tag n else BitVec.ofNat 32 n

/-- Width of a number in the running mode. -/
def widthOf (tg : Bool) : Nat := if tg then 29 else 32

/-- A value as an unsigned and as a signed number of that width. -/
def unsignedIn (tg : Bool) (v : W32) : Nat := v.toNat % 2 ^ widthOf tg
def signedIn (tg : Bool) (v : W32) : Int := signedOf (widthOf tg) v.toNat

/-- The INT of a number, wrapped at the width. -/
def intVal (tg : Bool) (x : Int) : W32 := mkVal tg 0 (x % (2 ^ widthOf tg : Nat)).toNat

/-! ### Traps: what a move reports (R504, R505, Table 20-12) -/

/-- Trap causes (Table 19-7). -/
abbrev trapFetch : Nat := 0x01
abbrev trapIllegal : Nat := 0x02
abbrev trapSlot : Nat := 0x03
abbrev trapDstackOver : Nat := 0x04
abbrev trapDstackUnder : Nat := 0x05
abbrev trapRstackOver : Nat := 0x06
abbrev trapRstackUnder : Nat := 0x07
abbrev trapTag : Nat := 0x08
abbrev trapAccess : Nat := 0x09
abbrev trapWidth : Nat := 0x0A
abbrev trapAlign : Nat := 0x0B
abbrev trapWatchdog : Nat := 0x0D

/-- A trap's cause and its PORT, TAG and ADDR records. -/
structure XTrap where
  cause : Nat
  port  : Nat
  tag   : Nat
  addr  : Nat
deriving DecidableEq, Repr

/-- A trap that no tag and no address belongs to. -/
def XTrap.of (cause port : Nat) : XTrap := { cause := cause, port := port, tag := 56, addr := 0 }

/-- A trap of an access. -/
def XTrap.at_ (cause port addr : Nat) : XTrap := { cause := cause, port := port, tag := 56, addr := addr % 2 ^ 29 }

/-- Operand classes by their code in TRAP_TAG. -/
abbrev clsInt : Nat := 0
abbrev clsLogic : Nat := 1
abbrev clsPtr : Nat := 2
abbrev clsCode : Nat := 3
abbrev clsHandle : Nat := 4

/-- Whether a class accepts a tag (Table 19-3). -/
def accepts (cls tag : Nat) : Bool :=
  if cls = clsInt then decide (tag = 0)
  else if cls = clsLogic then decide (tag = 0 ∨ tag = 4)
  else if cls = clsPtr then decide (tag = 1)
  else if cls = clsCode then decide (tag = 2) else decide (tag = 3)

/-- A TAG trap at a port: the tag seen and the class required. -/
def tagTrap (port : Nat) (v : W32) (cls : Nat) : XTrap :=
  { cause := trapTag, port := port, tag := tagOf v + 8 * cls, addr := 0 }

/-- The check of a value at a port; a RAW page has none (R496, R500). -/
def checkTag (tg : Bool) (port : Nat) (v : W32) (cls : Nat) : Option XTrap :=
  if !tg || accepts cls (tagOf v) then none else some (tagTrap port v cls)

/-- The first trap of some checks. -/
def firstTrap (cs : List (Option XTrap)) : Option XTrap := cs.findSome? id

/-! ### Code space (R499, R502) -/

/-- A step that reaches the partition of an address. -/
def stepOn (arr : FlashArray) (a : Nat) (st : FlashStep) : Bool :=
  let hit := fun (arr' : FlashArray) (a' : Nat) => decide (arr' = arr) && decide (a' < infoBase) == decide (a < infoBase)
  match st with
  | .erase x _ y _ _ => hit x y
  | .page x y _ => hit x y
  | .rawErase x _ y => hit x y
  | .rawMargin _ _ _ => false

/-- A main array that the code flash controller programs or erases. -/
def mainBusy (s : State) (bank : Bool) : Bool :=
  (decide (s.flash.codePhase = .programming) || decide (s.flash.codePhase = .erasing)) &&
  (match s.flash.codeWork with
   | w :: _ => (w.steps.take 1).any (stepOn (mainArray bank) 0)
   | [] => false)

/-- A code address that is mapped for the core and lies on a page with execute permission (Table 19-5). -/
def codePage (c : Core) (k : CoreIx) (a : Nat) : Bool :=
  if h : a < 0x40000 then c.codeExec[a / 4096] else decide (k ≠ 2) && decide (0x1000000 ≤ a) && decide (a < 0x1800000)

/-- A fetch from a code address succeeds (R410, R502). -/
def fetchOk (s : State) (k : CoreIx) (a : Nat) : Bool :=
  codePage s.cores[k] k a && !(decide (0x1000000 ≤ a) && mainBusy s (decide (0x1400000 ≤ a)))

/-- Where control passes at a trap (R505): FAULT_VECTOR, 0 while nothing has set it. -/
def vectorPc (c : Core) : Nat := payload (c.faultVector.getD 0) / 4 * 4

/-- The mode of the page of the current move (R499); the first move of the fault handler runs TAGGED (R505). -/
def tagMode (c : Core) : Bool :=
  let a := c.pc.toNat
  if c.state = .faultMode ∧ vectorPc c = a then true
  else if h : a < 0x40000 then c.codeTagged[a / 4096] else Config.flashPageTagged (a / 4096)

/-! ### The word of a move (R518 to R522, Table 20-1) -/

/-- The fields of a move. -/
structure MoveWord where
  guard : BitVec 4
  dst   : Byte
  src   : MoveSrc
deriving DecidableEq, Repr

/-- A move read from its 32-bit word. -/
def decodeMove (w : W32) : MoveWord :=
  { guard := w.extractLsb' 28 4, dst := w.extractLsb' 20 8,
    src := if w.getLsbD 19 then .imm (w.extractLsb' 0 19) else .port (w.extractLsb' 0 19) }

/-- The word of a move. -/
def encodeMove (m : MoveWord) : W32 :=
  m.guard ++ m.dst ++ (match m.src with
    | .imm v => 1#1 ++ v
    | .port b => 0#1 ++ b)

/-- The word at a code address: code RAM, or the main array of a code flash bank (Table 19-5). -/
def codeWord (s : State) (k : CoreIx) (a : Nat) : W32 :=
  BitVec.ofNat 32 (leNat (if a < 0x40000 then memReadN erasedByte s.cores[k].codeRam a 4
    else flashRead s (mainArray (decide (0x1400000 ≤ a))) (a % 0x400000) 4))

/-- The move that the core's code holds at its PC. A program of an image is the runs whose commands are these (assumption 10). -/
def movesAt (s : State) (k : CoreIx) : MoveWord := decodeMove (codeWord s k s.cores[k].pc.toNat)

/-! ### Ports (Tables 20-4, 20-5) -/

/-- Operand ports. -/
def operandPort (d : Nat) : Bool :=
  decide (d = 0x00 ∨ d = 0x08 ∨ d = 0x10 ∨ d = 0x20 ∨ d = 0x28 ∨ d = 0x29 ∨ d = 0x38 ∨ d = 0x39 ∨ (0x60 ≤ d ∧ d ≤ 0x63) ∨
    d = 0x6B ∨ (0x70 ≤ d ∧ d ≤ 0x75) ∨ (0x78 ≤ d ∧ d ≤ 0x7C) ∨ d = 0x90)

/-- Trigger ports. -/
def triggerPort (d : Nat) : Bool :=
  decide ((0x09 ≤ d ∧ d ≤ 0x0C) ∨ (0x11 ≤ d ∧ d ≤ 0x1A) ∨ (0x21 ≤ d ∧ d ≤ 0x24) ∨ (0x2A ≤ d ∧ d ≤ 0x32) ∨
    (0x3A ≤ d ∧ d ≤ 0x42) ∨ (0x48 ≤ d ∧ d ≤ 0x4A) ∨ d = 0x50 ∨ d = 0x54 ∨ (0x58 ≤ d ∧ d ≤ 0x5D) ∨ (0x64 ≤ d ∧ d ≤ 0x6A) ∨
    (0x76 ≤ d ∧ d ≤ 0x77) ∨ (0x7D ≤ d ∧ d ≤ 0x81) ∨ (0x88 ≤ d ∧ d ≤ 0x8A) ∨ (0x91 ≤ d ∧ d ≤ 0x92))

/-- Destination ports that core 2 does not have. -/
def notOnCore2 (d : Nat) : Bool := decide (0x69 ≤ d ∧ d ≤ 0x81)

/-- Source ports, and those that core 2 does not have. -/
def sourcePort (p : Nat) : Bool :=
  decide (p = 0x08 ∨ p = 0x10 ∨ p = 0x20 ∨ p = 0x28 ∨ p = 0x38 ∨ p = 0x50 ∨ p = 0x51 ∨ p = 0x54 ∨ p = 0x58 ∨ p = 0x60 ∨
    p = 0x70 ∨ p = 0x78 ∨ (0x88 ≤ p ∧ p ≤ 0x8A) ∨ p = 0x90)
def sourceNotOnCore2 (p : Nat) : Bool := decide (p = 0x70 ∨ p = 0x78)

/-- Long-immediate ports take immediates alone. -/
def limmPort (d : Nat) : Bool := decide (0x08 ≤ d ∧ d ≤ 0x0C)

/-- Triggers of the branch unit. -/
def branchPort (d : Nat) : Bool := decide (0x48 ≤ d ∧ d ≤ 0x4A)

/-- The port of a reserved encoding (R520). -/
def illegalPort (k : CoreIx) (dst : Nat) (src : MoveSrc) : Option Nat :=
  if !(operandPort dst || triggerPort dst) || (decide (k = 2) && notOnCore2 dst) then some dst
  else match src with
  | .imm v => if limmPort dst && decide (65536 ≤ v.toNat) then some dst else none
  | .port b =>
    let p := b.toNat % 256
    if limmPort dst then some dst
    else if decide (256 ≤ b.toNat) || !sourcePort p || (decide (k = 2) && sourceNotOnCore2 p) then some (256 + p) else none

/-- A move names a source port. -/
def isSource (src : MoveSrc) (p : Nat) : Bool :=
  match src with
  | .imm _ => false
  | .port b => decide (b.toNat = p)

/-- Entries of a stack, four and two more in fault mode (R492, R505). -/
def dstackCap (c : Core) : Nat := if c.state = .faultMode then 68 else 64
def rstackCap (c : Core) : Nat := if c.state = .faultMode then 34 else 32

/-- The stack cause of a move, the source popped first (R493, R531). -/
def stackTrap (c : Core) (dst : Nat) (src : MoveSrc) : Option XTrap :=
  let dpop := isSource src 0x50
  let rpop := isSource src 0x54
  let ddepth := c.dstack.length - (if dpop then 1 else 0)
  let rdepth := c.rstack.length - (if rpop then 1 else 0)
  firstTrap [
    (if dst = 0x50 ∧ dstackCap c ≤ ddepth then some (XTrap.of trapDstackOver 0x50) else none),
    (if (dpop || isSource src 0x51) && c.dstack.isEmpty then
      some (XTrap.of trapDstackUnder (if dpop then 0x150 else 0x151)) else none),
    (if (dst = 0x49 ∨ dst = 0x54) ∧ rstackCap c ≤ rdepth then some (XTrap.of trapRstackOver dst) else none),
    (if rpop && c.rstack.isEmpty then some (XTrap.of trapRstackUnder 0x154)
     else if dst = 0x4A ∧ rdepth = 0 then some (XTrap.of trapRstackUnder 0x4A) else none)]

/-- The guard lets the move take effect (R519). -/
def guardHolds (c : Core) (guard : BitVec 4) : Bool :=
  c.guards.getLsbD (guard.toNat % 8) != decide (8 ≤ guard.toNat)

/-- What a move traps with before its guard is looked at: FETCH, ILLEGAL, and a branch in a delay slot (R490, R502, R520). -/
def staticTrap (s : State) (k : CoreIx) (dst : Nat) (src : MoveSrc) : Option XTrap :=
  let c := s.cores[k]
  if !fetchOk s k c.pc.toNat then some (XTrap.at_ trapFetch 0 c.pc.toNat)
  else match illegalPort k dst src with
  | some p => some (XTrap.of trapIllegal p)
  | none => if branchPort dst && c.branch.isSome then some (XTrap.of trapSlot dst) else none

/-- What a move whose guard holds traps with before it reads: a branch without room for its delay slots, and the stacks. -/
def guardedTrap (s : State) (k : CoreIx) (dst : Nat) (src : MoveSrc) : Option XTrap :=
  let c := s.cores[k]
  let a := c.pc.toNat
  if branchPort dst && !(codePage c k (a + 4) && codePage c k (a + 8)) then some (XTrap.of trapSlot dst)
  else stackTrap c dst src

/-- The array that FLS.ARRAY names, the byte address in the model's numbering, and the bytes of the partition from its first
address (R537). -/
def flsTarget (c : Core) : Option (FlashArray × Nat × Nat) :=
  let a := payload c.ops.flsAddrHi % 65536 * 65536 + payload c.ops.flsAddrLo % 65536
  let n := payload c.ops.flsArray
  if n = 0 then some (.archive, a, 0x4000000)
  else if n = 1 then some (.code0, a, infoBase)
  else if n = 2 then some (.code1, a, infoBase)
  else if n = 3 then some (.code0, infoBase + a, infoBase + 0x8000)
  else if n = 4 then some (.code1, infoBase + a, infoBase + 0x8000) else none

/-- A partition of the code flash that programs or erases is not read (R409); the archive flash suspends (R411). -/
def readWaits (s : State) (c : Core) : Bool :=
  match flsTarget c with
  | some (arr, a, _) => decide (arr ≠ .archive) &&
      (decide (s.flash.codePhase = .programming) || decide (s.flash.codePhase = .erasing)) &&
      (match s.flash.codeWork with
       | w :: _ => (w.steps.take 1).any (stepOn arr a)
       | [] => false)
  | none => false

/-- The port that a move stalls on, if it stalls: a result that is not ready, or a unit that cannot yet accept (R485, R525). -/
def stallPort (s : State) (k : CoreIx) (dst : Nat) (src : MoveSrc) : Option Nat :=
  let c := s.cores[k]
  if isSource src 0x60 && decide (c.mbx ≠ .idle) then some 0x160
  else if isSource src 0x70 && c.xfr.isSome then some 0x170
  else if isSource src 0x78 && c.fls && !c.flsPolled then some 0x178
  else if (isSource src 0x88 || isSource src 0x89 || isSource src 0x8A) && c.tmr then some 0x188
  else if decide (0x64 ≤ dst ∧ dst ≤ 0x6A) && decide (c.mbx ≠ .idle) then some dst
  else if decide (0x76 ≤ dst ∧ dst ≤ 0x77) && c.xfr.isSome then some dst
  else if decide (0x7D ≤ dst ∧ dst ≤ 0x80) && c.fls then some dst
  else if decide (0x88 ≤ dst ∧ dst ≤ 0x8A) && c.tmr then some dst
  else if decide (dst = 0x7D) && readWaits s c then some dst
  else none

/-- The value of a source, and the core after the read: a pop port takes its entry (R493, R521, Table 20-5). -/
def readSource (c : Core) (src : MoveSrc) : W32 × Core :=
  match src with
  | .imm v => (intVal (tagMode c) v.toInt, c)
  | .port b =>
    if b.toNat = 0x08 then (c.res.limm, c)
    else if b.toNat = 0x10 then (c.res.alu, c)
    else if b.toNat = 0x20 then (c.res.mul, c)
    else if b.toNat = 0x28 then (c.res.cmp, c)
    else if b.toNat = 0x38 then (c.res.lsu, c)
    else if b.toNat = 0x50 then (c.dstack.headD poison, { c with dstack := c.dstack.tail })
    else if b.toNat = 0x51 then (c.dstack.headD poison, c)
    else if b.toNat = 0x54 then (c.rstack.headD poison, { c with rstack := c.rstack.tail })
    else if b.toNat = 0x58 then (c.res.tag, c)
    else if b.toNat = 0x60 then (c.res.mbx, c)
    else if b.toNat = 0x70 then (c.res.xfr, c)
    else if b.toNat = 0x78 then (c.res.fls, c)
    else if b.toNat = 0x88 then (c.res.tmrLo, c)
    else if b.toNat = 0x89 then (c.res.tmrMid, c)
    else if b.toNat = 0x8A then (c.res.tmrHi, c)
    else (c.res.csr, c)

/-- The next move's address: past this one, or the branch target after the second delay slot (R488). -/
def nextPc (c : Core) : Core :=
  match c.branch with
  | none => { c with pc := c.pc + 4, stalled := none }
  | some (t, n) =>
    if n ≤ 1 then { c with pc := t, branch := none, stalled := none }
    else { c with pc := c.pc + 4, branch := some (t, n - 1), stalled := none }

/-- A core that is clocked and issues moves. -/
def issues (s : State) (k : CoreIx) : Bool :=
  (decide (s.cores[k].state = .running) || decide (s.cores[k].state = .faultMode)) && s.power.railsOn &&
  !(decide (s.tray.powerState = .off) || decide (s.tray.powerState = .deep))

/-! ### The outcome of a trap (R505 to R508, R515) -/

/-- The record of a trap; TRAP_SLOT is 1 or 2 in a delay slot. -/
def recordTrap (k : CoreIx) (t : XTrap) (s : State) : State :=
  setCore k (fun c =>
    let slot := match c.branch with
      | none => 0
      | some (_, n) => if n ≤ 1 then 2 else 1
    let r : TrapRecord := {
      cause := BitVec.ofNat 29 t.cause, pc := BitVec.ofNat 29 c.pc.toNat, slot := BitVec.ofNat 29 slot, port := BitVec.ofNat 29 t.port,
      tag := BitVec.ofNat 29 t.tag, addr := BitVec.ofNat 29 t.addr, ddepth := BitVec.ofNat 29 c.dstack.length,
      rdepth := BitVec.ofNat 29 c.rstack.length, sc := s.time.symbolCount }
    { c with trap := r }) s

/-- Commands whose handles a core holds complete with a code; the handles are gone. -/
def failHandles (k : CoreIx) (code : W16) (s : State) : State :=
  let hs := s.cores[k].handles
  hs.foldl (fun s h => complete h.ring h.cmd (Reply.of code) s) (setCore k (fun c => { c with handles := [] }) s)

/-- A radio set's job runs on a tile. -/
def setRuns (s : State) (b : BatchSet) : Bool :=
  match b.job with
  | some id => s.jobs.any (fun j => decide (j.id = id) && j.started)
  | none => false

/-- Radio sets of a slot number that no tile runs complete with DROPPED, and their jobs with them (R359, R507). -/
def dropRadioSlot (n : W64) (s : State) : State :=
  (s.radio.slots.filter (fun x => decide (x.slotNo = n))).foldl (fun s x =>
    (x.sets.filter (fun b => !b.done && !setRuns s b)).foldl (fun s b =>
      dropSet x.group n b.index (match b.job with
        | some id => dropJob id s
        | none => s)) s) s

/-- A characterisation step in progress is discarded and comes first again (R146, R507). -/
def discardStep (x : Tile) : Tile :=
  { x with cal := { x.cal with
      step := none, stepResults := [], demand := (x.cal.step.map (fun p => p.1)).toList ++ x.cal.demand } }

/-- The work in progress of core 0, 1 or 3 when it stops (Table 19-8, R309). -/
def stopCoreWork (k : CoreIx) (s : State) : State :=
  if k = 0 then failHandles 0 codeFwFault s
  else if k = 1 then dropRadioSlot (BitVec.ofInt 64 (slotNow s.time)) (failHandles 1 codeFwFault s)
  else { s with tiles := s.tiles.map discardStep }

/-- One submission of the extension stopped as JOB_ABORT stops a job; one that still waits leaves its ring. -/
def stopSubmission (x : Submission) (s : State) : State :=
  if x.done.isSome then s
  else match s.jobs.find? (fun j => decide (j.ring = x.ring) && decide (j.id = x.id)) with
  | some j => stopAny j codeDropped s
  | none => setRing x.ring (fun r => { r with queue := dropId x.id r.queue, dispatched := dropId x.id r.dispatched }) s

/-- The extension unloaded: core 2 halted, its submissions stopped, forwarded commands in progress complete with FW_FAULT
(R336, R515). Memories keep their contents. -/
def unloadExt (s : State) : State :=
  let s1 := s.cores[2].subs.foldl (fun s x => stopSubmission x s) s
  let waiting := s1.cores[2].routed
  let s2 := failHandles 2 codeFwFault (setCore 2 (fun c => { c with
    state := .halted, routed := [], subs := [], mbx := .idle, tmr := false, branch := none, stalled := none }) s1)
  let s3 := waiting.foldl (fun s p => complete p.1 p.2 (Reply.of codeFwFault) s) s2
  { s3 with ext := { loaded := false, version := 0 } }

/-- The event code of a trap cause (R507). -/
def trapEvent (cause : Nat) : W16 := if cause = trapTag then evTagFault else evFwFault

/-- The event of a core with its TRAP_CAUSE (Table 22-3). -/
def coreEvent (code : W16) (k : CoreIx) (s : State) : State :=
  event code (BitVec.ofNat 16 k.val) (s.cores[k].trap.cause.setWidth 16) s

/-- The core that a double fault signals (R506). -/
def partner (k : CoreIx) : CoreIx := if k = 3 then 0 else 3

/-- Units at work complete and their results are discarded (R505). -/
def dropUnits (c : Core) : Core :=
  { c with branch := none, stalled := none, mbx := .idle, tmr := false, flsDiscard := c.fls,
           xfr := c.xfr.map (fun x => { x with discard := true }) }

/-- The core halts, and its partner, where it runs, restarts it (R506). -/
def haltCore (k : CoreIx) (s : State) : State :=
  let st := if s.cores[partner k].state = .running then CoreState.restarting else .halted
  setCore k (fun c => { dropUnits c with state := st }) s

/-- A trap of a core whose record stands (R505, R506, Table 19-8). -/
def afterTrap (k : CoreIx) (cause : Nat) (halt : Bool) (s : State) : State :=
  if k = 2 then coreEvent (trapEvent cause) 2 (unloadExt s)
  else
    let s1 := setCore k (fun c => { c with postDue := some (trapEvent cause) }) (stopCoreWork k s)
    if halt || decide (s.cores[k].state = .faultMode) then haltCore k s1
    else setCore k (fun c => { dropUnits c with state := .faultMode, pc := BitVec.ofNat 32 (vectorPc c) }) s1

/-- A move traps (R505). -/
def trap (k : CoreIx) (t : XTrap) (s : State) : State := afterTrap k t.cause false (recordTrap k t s)

/-! ### One move -/

/-- What a move does with its value: the trap it meets, or the state with the operation started. `tg` is the running mode. -/
abbrev XOp := CoreIx → Bool → W32 → State → Except XTrap State

/-- A move into destination `dst` that does `op` with its value (R483 to R488, R504, R505). -/
def xmove (k : CoreIx) (guard : BitVec 4) (dst : Nat) (src : MoveSrc) (op : XOp) (s : State) : Result :=
  if !issues s k then .next s
  else match staticTrap s k dst src with
  | some t => .next (trap k t s)
  | none =>
    if !guardHolds s.cores[k] guard then .next (setCore k nextPc s)
    else match guardedTrap s k dst src with
    | some t => .next (trap k t s)
    | none =>
      match stallPort s k dst src with
      | some p => .next (setCore k (fun c => { c with stalled := some p }) s)
      | none =>
        match op k (tagMode s.cores[k]) (readSource s.cores[k] src).1 (setCore k (fun c => (readSource c src).2) s) with
        | .error t => .next (trap k t s)
        | .ok s1 => .next (setCore k nextPc s1)

/-- An operation of a unit on the core alone. -/
def onCore (f : Bool → W32 → Core → Except XTrap Core) : XOp := fun k tg v s =>
  match f tg v s.cores[k] with
  | .error t => .error t
  | .ok c => .ok (setCore k (fun _ => c) s)

/-- Checks first, then the operation. -/
def guarded {α : Type} (cs : List (Option XTrap)) (x : α) : Except XTrap α :=
  match firstTrap cs with
  | some t => .error t
  | none => .ok x

/-! ### Data space (R500, R503, R511, R529) -/

/-- Regions of the data space (Table 19-6). -/
inductive Region where
  | data | shared | exchange | control
deriving DecidableEq, Repr

def regionOf (k : CoreIx) (a : Nat) : Option Region :=
  if a < 0x20000 then some .data
  else if 0x200000 ≤ a ∧ a < 0x300000 then (if k = 2 then none else some .shared)
  else if 0x300000 ≤ a ∧ a < 0x310000 then some .exchange
  else if 0x4000000 ≤ a ∧ a < 0x8000000 then (if k = 2 then none else some .control)
  else none

/-- The page of a data address is TAGGED. -/
def dataTag (c : Core) (r : Region) (a : Nat) : Bool :=
  match r with
  | .data => if h : a < 0x20000 then c.dataTagged[a / 4096] else true
  | .shared => Config.sharedPageTagged ((a - 0x200000) / 4096)
  | .exchange => true
  | .control => false

/-- The trap of an access of `size` bytes at a trigger port (R500, Table 19-4). -/
def accessTrap (c : Core) (k : CoreIx) (tg : Bool) (port size a : Nat) : Option XTrap :=
  match regionOf k a with
  | none => some (XTrap.at_ trapAccess port a)
  | some r =>
    if tg && !dataTag c r a then some (XTrap.at_ trapAccess port a)
    else if size ≠ 4 && (tg || dataTag c r a || decide (r = .control)) then some (XTrap.at_ trapWidth port a)
    else if a % size ≠ 0 then some (XTrap.at_ trapAlign port a) else none

/-- What an unwritten byte of a core's data RAM reads as: POISON on a TAGGED page, zero on a RAW one (R503). -/
def dataDefault (pages : Vector Bool 32) (a : Nat) : Byte :=
  if h : a < 0x20000 then (if pages[a / 4096] && decide (a % 4 = 3) then 0xE0 else 0) else 0

/-- Bytes of local memory; the registers of other dies read as free values (assumption 11). -/
def localRead (k : CoreIx) (a n : Nat) (s : State) : List Byte × State :=
  match regionOf k a with
  | some .data => (memReadN (dataDefault s.cores[k].dataTagged) s.cores[k].dataRam a n, s)
  | some .shared => (memReadN zeroByte s.xshared.shared (a - 0x200000) n, s)
  | some .exchange => (memReadN zeroByte s.xshared.exchange (a - 0x300000) n, s)
  | _ => drawBytes n s

/-- Local memory written; a store into the registers of another die has no effect that the spec states. -/
def localWrite (k : CoreIx) (a : Nat) (bs : List Byte) (s : State) : State :=
  match regionOf k a with
  | some .data => setCore k (fun c => { c with dataRam := memWriteN (dataDefault c.dataTagged) c.dataRam a bs }) s
  | some .shared => { s with xshared := { s.xshared with shared := memWriteN zeroByte s.xshared.shared (a - 0x200000) bs } }
  | some .exchange => { s with xshared := { s.xshared with exchange := memWriteN zeroByte s.xshared.exchange (a - 0x300000) bs } }
  | _ => s

/-- A word-aligned range of `n` bytes inside one region of local memory that a unit can reach (R536). -/
def localRange (k : CoreIx) (a n : Nat) : Bool :=
  decide (a % 4 = 0) && (match regionOf k a with
    | some .data => decide (a + n ≤ 0x20000)
    | some .shared => decide (a + n ≤ 0x300000)
    | some .exchange => decide (a + n ≤ 0x310000)
    | _ => false)

/-- The effective address of a load or store (R529). -/
def effAddr (tg : Bool) (base off : W32) : Nat :=
  if tg then (payload base + payload off) % 2 ^ 29 else (base + off).toNat

/-! ### Core restart (R507, R508, R523) -/

/-- Code RAM reloaded from the running bank, from the image's ENTRY on (assumption 10). -/
def reloadCode (s : State) : List Host.Cell :=
  let e := leNat (flashRead s (mainArray s.flash.runningBank) 0x10 4)
  (if s.flash.runningBank then s.flash.main1 else s.flash.main0).filterMap (fun p =>
    if e ≤ p.1 ∧ p.1 < e + 0x40000 then some (p.1 - e, p.2) else none)

/-- 60 s in SCLK. -/
abbrev sclk60 : Nat := 235929600000

/-- The core as its restart leaves it. -/
def restarted (s : State) (c : Core) : Core :=
  { Core.init .running with
    codeTagged := c.codeTagged, codeExec := c.codeExec, dataTagged := c.dataTagged, codeRam := reloadCode s, trap := c.trap,
    restarts := satInc c.restarts, nextRef := c.nextRef, fls := c.fls, flsDiscard := c.fls, flsStatus := c.flsStatus,
    xfr := c.xfr.map (fun x => { x with discard := true }),
    restartsAt := s.time.symbolCount :: c.restartsAt.filter (fun t => decide ((s.time.symbolCount - t).toNat ≤ sclk60)) }

end Sys2Proof.Machine
end

