-- ==== Sys2Proof/Machine/Ext.lean ====
section
/-! DEFINITION. The extension commands, the watchdogs of the Xelin cores and of descriptors, the end of a core restart, and a missed
dispatch deadline (R301, R336, R359, R507 to R515). -/
namespace Sys2Proof.Machine

/-! ### Extension images (R510, Table 19-9) -/

/-- The body of an extension image obeys its layout. -/
def layoutOk (b : List Byte) : Bool :=
  let nc := field b 0x40 2
  let nd := field b 0x42 2
  let attr := fun (o n : Nat) => (List.range n).all (fun i => decide (byteAt b (o + i) ≤ 1))
  decide (1 ≤ nc) && decide (nc ≤ 64) && decide (nd ≤ 32) && attr 0x44 64 && attr 0x84 32 &&
  decide ((b.drop 0xA4).take 92 = List.replicate 92 0) && decide (b.length = 0x100 + (nc + nd) * 4096 + 96) &&
  decide (field b 0x10 4 = 0x100) && decide (byteAt b 0x44 = 1)

/-- Core 2 with an image loaded, at its first move (R510, R523). -/
def loadedCore (b : List Byte) (c : Core) : Core :=
  let nc := field b 0x40 2
  let nd := field b 0x42 2
  let pages : Vector Bool 32 := Vector.ofFn (fun i => decide (byteAt b (0x84 + i.val) = 1))
  { Core.init .running with
    codeTagged := Vector.ofFn (fun i => decide (byteAt b (0x44 + i.val) = 1)),
    codeExec := Vector.ofFn (fun i => decide (i.val < nc)),
    dataTagged := pages,
    codeRam := memWriteN erasedByte [] 0 ((b.drop 0x100).take (nc * 4096)),
    dataRam := memWriteN (dataDefault pages) [] 0 ((b.drop (0x100 + nc * 4096)).take (nd * 4096)),
    trap := c.trap, restarts := c.restarts, restartsAt := c.restartsAt, nextRef := c.nextRef }

/-- EXT_LOAD verifies and loads an image; EXT_COUNTER follows its ROLLBACK (R336, R428, R510, R515). -/
def extLoadBody (f : Fetched) (s : State) : Body :=
  let d := f.desc
  if !keyEnrolled s ∨ s.ext.loaded then illegal s
  else match readFails s (d.u64 0x10) (d.u32 0x18) with
  | some c => .done s (Reply.of c)
  | none =>
    let b := daddrRead s (d.u64 0x10) (d.u32 0x18)
    let rb := field b 8 2
    if !imageOk 0x58455A51 (extKey s) b || decide (rb < extCounter s) || !layoutOk b then .done s (Reply.arg 0x10)
    else
      let s1 := if extCounter s < rb then advanceCounter (infoBase + 0x4020) rb s else s
      let s2 := setCore 2 (loadedCore b) s1
      .done { s2 with ext := { loaded := true, version := BitVec.ofNat 32 (field b 6 2) },
                      xshared := { s2.xshared with exchange := [] } } (Reply.of codeOk)

def execExtLoad (ring : RingIx) (s : State) : Result :=
  serve (isOp opExtLoad) ring (fun f s =>
    [chk 0x10 (badDaddr s.tray.variant (f.desc.u64 0x10) 1),
     chk 0x18 (decide (f.desc.u32 0x18 = 0 ∨ 4194304 < f.desc.u32 0x18))]) extLoadBody s

/-- EXT_UNLOAD. -/
def execExtUnload (ring : RingIx) (s : State) : Result :=
  serve (isOp opExtUnload) ring (fun _ _ => [])
    (fun _ s => if s.ext.loaded then .done (unloadExt s) (Reply.of codeOk) else illegal s) s

/-- Opcodes that firmware forwards (R336). -/
def forwardedOp (o : Nat) : Bool := decide (o / 256 = 0x20)

/-- Commands that the extension has and has not completed (R512). -/
def forwardedNow (s : State) : Nat := s.cores[2].routed.length + s.cores[2].handles.length

/-- A command forwarded intact; at most 8 at a time, the rest wait in their rings (R336, R512). -/
def execExtensionForwardedCommand (ring : RingIx) (s : State) : Result :=
  if s.ext.loaded ∧ 8 ≤ forwardedNow s then .next s
  else serve forwardedOp ring (fun _ _ => [])
    (fun f s => if s.ext.loaded then .running (setCore 2 (fun c => { c with routed := c.routed ++ [(ring, f)] }) s)
                else illegal s) s

/-! ### Core watchdogs and restarts (R506 to R509) -/

/-- 1 ms in KCLK. -/
abbrev wdogKclk : Nat := 491520

/-- 1 ms has passed without WDOG_KICK (R509). -/
def wdogExpired (c : Core) : Bool := decide (wdogKclk ≤ (c.kclk - c.wdogAt).toNat)

/-- 1 ms without WDOG_KICK. Waiting for work on MBX.OUT after RECV does not count, and trap entry has stopped the watchdog. -/
def execCoreWatchdog (core : CoreIx) (s : State) : Result :=
  let c := s.cores[core]
  if c.state ≠ .running ∨ !issues s core ∨ (c.mbx = .receiving ∧ c.stalled = some 0x160) ∨ !wdogExpired c then .next s
  else .next (afterTrap core trapWatchdog true (recordTrap core (XTrap.of trapWatchdog 0) s))

/-- A fourth restart within 60 s (R508). -/
def countRestarts (k : CoreIx) (s : State) : State :=
  if 4 ≤ s.cores[k].restartsAt.length then
    requestTakeover alCoreRestarts (raiseAlarm true alCoreRestarts (BitVec.ofNat 16 k.val) s)
  else s

/-- Halted cores whose double fault was signalled to a core that now runs (R506). -/
def restartPartners (k : CoreIx) (s : State) : State :=
  { s with cores := Vector.ofFn (fun j =>
      if j.val ≠ 2 ∧ j ≠ k ∧ partner j = k ∧ s.cores[j].state = .halted then { s.cores[j] with state := .restarting } else s.cores[j]) }

/-- A core restart ends (R507, R523). -/
def execCoreRestartDone (core : CoreIx) (s : State) : Result :=
  if s.cores[core].state ≠ .restarting then .next s
  else
    let code := s.cores[core].postDue.getD evFwFault
    .next (countRestarts core (restartPartners core (coreEvent code core (setCore core (restarted s) s))))

/-- Core 1 missed a dispatch deadline of a slot: its sets drop, core 1 restarts (R359). -/
def execDispatchDeadlineMiss (slotNo : W64) (s : State) : Result :=
  if s.cores[1].state ≠ .running ∨ !firmwareRuns s ∨ !s.radio.slots.any (fun x => decide (x.slotNo = slotNo)) then .next s
  else
    let s1 := setCore 1 (fun c => { dropUnits c with state := .restarting, postDue := some evFwFault })
      (dropRadioSlot slotNo (failHandles 1 codeFwFault s))
    .next s1

/-! ### The watchdog of a descriptor (R301, R514) -/

/-- What waits for a descriptor of a ring in the time unit: its comparator is freed; the end of a gap that is open stays. -/
def stopArmed (n : RingIx) (id : Nat) (s : State) : State :=
  let mine := fun (e : ArmedEvent) => decide (e.ring = n) && decide (e.id = id) && (match e.action with
    | .gapEnd _ => false
    | _ => true)
  let swaps := s.time.comparators.toList.filterMap (fun c => c.bind (fun e => if mine e then (match e.action with
    | .radioSwap _ => some (0 : GroupIx)
    | .tileSwap g => some g
    | _ => none) else none))
  let s1 := { s with time := { s.time with comparators := s.time.comparators.map (fun c => match c with
    | some e => if mine e then none else some e
    | none => none) } }
  swaps.foldl (fun s g => settleShadow g s) s1

/-- What waits for it in the configuration sets: a commit stays OPEN, a held swap and a membership change are given up; where no
swap waits any more, the members' vectors go on. -/
def stopSets (n : RingIx) (id : Nat) (s : State) : State :=
  let mine := fun (p : RingIx × Nat) => decide (p = (n, id))
  let freed := (List.finRange 16).filter (fun g => decide (s.sets.groups[g].swapWaits ≠ []) &&
    s.sets.groups[g].swapWaits.all (fun p => mine (p.1, p.2.1)))
  freed.foldl (fun s g => releaseGroup g s) { s with
    sets := { s.sets with groups := s.sets.groups.map (fun g => { g with
      committing := if g.committing.any mine then none else g.committing,
      swapWaits := g.swapWaits.filter (fun p => !mine (p.1, p.2.1)),
      joining := if g.joining.any (fun p => mine (p.1, p.2.1)) then none else g.joining }) },
    twin := { s.twin with commitWaits := s.twin.commitWaits.filter (fun w => !mine (w.1, w.2.1)) } }

/-- What waits for it on tiles: a state to be reached, a trim mode to settle. -/
def stopTiles (n : RingIx) (id : Nat) (s : State) : State :=
  let tuned := fun (t : TileIx) => s.sched.tunes.any (fun p => decide (p.1 = n) && decide (p.2.1 = id) && p.2.2.getLsbD t.val)
  { s with
    tiles := Vector.ofFn (fun t =>
      let x := s.tiles[t]
      { x with control := if x.control.any (fun p => decide (p.1 = n) && decide (p.2.1 = id)) then none else x.control,
               heat := if tuned t then { x.heat with slewWant := none } else x.heat }),
    sched := { s.sched with tunes := s.sched.tunes.filter (fun p => !(decide (p.1 = n) && decide (p.2.1 = id))) } }

/-- What waits for it in the tray and the pair: a power state, a role, a handover that has not reached its transfer point. -/
def stopTray (id : Nat) (s : State) : State :=
  let mine := fun (f : Fetched) => decide (f.id = id)
  let s1 := if s.tray.powerCmd.any mine then
    { s with tray := { s.tray with powerCmd := none, goal := s.tray.powerState, deepReq := false } } else s
  { s1 with twin := { s1.twin with
      roleCmd := if s1.twin.roleCmd.any (fun p => mine p.1) then none else s1.twin.roleCmd,
      handover := if s1.twin.handover.any (fun h => h.cmd.any mine && !h.passed) then none else s1.twin.handover } }

/-- Flash steps of it that have not begun are dropped; the array ends the step it is in. -/
def stopFlash (n : RingIx) (id : Nat) (s : State) : State :=
  let mine := fun (w : FlashWork) => decide (w.origin = .hostCommand n id)
  let cut := fun (busy : Bool) (ws : List FlashWork) => (match ws with
    | w :: r => (if mine w then (if busy then [{ w with steps := w.steps.take 1 }] else []) else [w]) ++ r.filter (fun w => !mine w)
    | [] => [])
  { s with flash := { s.flash with
      archWork := cut (decide (s.flash.archPhase ≠ .idle)) s.flash.archWork,
      codeWork := cut (decide (s.flash.codePhase ≠ .idle)) s.flash.codeWork,
      tempQueue := s.flash.tempQueue.filter (fun w => !mine w),
      fwUpdate := if s.flash.fwUpdate.any (fun u => decide (u.ring = n) && decide (u.id = id)) then none else s.flash.fwUpdate } }

/-- The sets of a slot descriptor that have no outcome end with a code; its jobs stop. -/
def stopSlot (id : Nat) (code : W16) (s : State) : State :=
  (s.radio.slots.filter (fun x => decide (x.id = id))).foldl (fun s x =>
    (x.sets.filter (fun b => !b.done)).foldl (fun s b =>
      endSet x.group x.slotNo b.index (fun y => { y with code := code }) (match b.job with
        | some j => dropJob j s
        | none => s)) s) s

/-- Whether the extension has a descriptor. -/
def isForwarded (id : Nat) (s : State) : Bool :=
  s.cores[2].routed.any (fun p => decide (p.2.id = id)) || s.cores[2].handles.any (fun h => decide (h.cmd.id = id))

/-- A dispatched descriptor's watchdog expires: firmware stops the work and completes it with TIMEOUT; one of the extension
unloads it (R514). -/
def execDescriptorWatchdog (ring : RingIx) (id : Nat) (s : State) : Result :=
  match s.rings[ring].dispatched.find? (fun f => decide (f.id = id)) with
  | none => .next s
  | some f =>
    if !firmwareRuns s then .next s
    else if isForwarded id s then
      .next (coreEvent evFwFault 2 (unloadExt (complete ring f (Reply.of codeTimeout) s)))
    else
      let s1 := stopSlot id codeTimeout (stopFlash ring id (stopTray id (stopTiles ring id (stopSets ring id (stopArmed ring id s)))))
      let s2 := match s1.jobs.find? (fun j => decide (j.ring = ring) && decide (j.id = id)) with
        | some j => stopWork j codeTimeout s1
        | none => s1
      .next (complete ring f (Reply.of codeTimeout) s2)

end Sys2Proof.Machine
end

