-- ==== Sys2Proof/Machine/HostBus.lean ====
section
/-! DEFINITION. The host's accesses: doorbells, registers, the memory window, MSI-X and the endpoint's resets (chapters 11
and 21). -/
namespace Sys2Proof.Machine

/-- The host reaches the BARs: the link is up, the function is in D0 and the BARs are assigned (R543, R544). -/
def barReach (s : State) : Bool := s.host.linkUp && s.host.barsAssigned && !s.host.d3hot

/-- Registers beyond the identity, start and tray blocks are live (R549). -/
def regsLive (s : State) : Bool := barReach s && firmwareRuns s

/-- A reply of the endpoint. -/
def reply (r : HostReply) (s : State) : State := { s with out := { s.out with replies := r :: s.out.replies } }

/-- A failing doorbell write: discarded, DB_ERROR set, its event posted and vector 64 + n raised (R296, R302). -/
def doorbellError (n : RingIx) (s : State) : State :=
  raiseSq n (event evDbError (BitVec.ofNat 16 n.val) 0 (setRing n (fun r => { r with dbError := true }) s))

/-- A doorbell value that is valid: reserved bits 0, in range, and within the entries it may advance (R294, R296). -/
def doorbellOk (value range advance limit : Nat) : Bool :=
  decide (value < 8192) && decide (value < range) && decide (advance ≤ limit)

/-- Entries by which an SQ doorbell advances. -/
def sqAdvance (r : Ring) (value : Nat) : Nat := (value + r.depth - r.sqTail.toNat) % r.depth

/-- Entries that a CQ doorbell releases. -/
def cqAdvance (r : Ring) (value : Nat) : Nat := (value + 2 * r.depth - r.cqHead.toNat) % (2 * r.depth)

/-- A host write to `SQ_DB_n` (R296, Table 11-7). -/
def execSqDb (ring : RingIx) (value : W32) (s : State) : Result :=
  let r := s.rings[ring]
  if !barReach s then .next s
  else if r.state = .enabled ∧ doorbellOk value.toNat r.depth (sqAdvance r value.toNat) (r.depth - 1 - r.posted) then
    .next (setRing ring (fun r => { r with sqTail := value.setWidth 12 }) s)
  else .next (doorbellError ring s)

/-- Codes of events whose alarm lasts until they are acknowledged (Table 22-3). -/
def untilAcked : List W16 := [evUncleanShutdown, evTripHistory, evSeized]

/-- Events of CQ 0 whose entries a release of `k` entries from index `from_` covers: acknowledged (R574). -/
def acknowledge (from_ k : Nat) (s : State) : State :=
  let range := 2 * s.rings[0].depth
  let gone := s.tray.posted.filter (fun p => decide ((p.index + range - from_) % range < k))
  let kept := s.tray.posted.filter (fun p => !decide ((p.index + range - from_) % range < k))
  gone.foldl (fun s p => if p.code ∈ untilAcked then clearAlarm p.code p.source s else s)
    { s with tray := { s.tray with posted := kept } }

/-- What credit that a ring has gained lets through: completions that wait, then on CQ 0 the events kept (R297, R305). -/
def creditGained (n : RingIx) (s : State) : State :=
  let s1 := drainCq n (s.rings[n].waiting.length + 1) s
  if n = 0 then flushEvents (s1.tray.pendingEvents.length + 1) s1 else s1

/-- A host write to `CQ_DB_n` (R296, R297, R574). -/
def execCqDb (ring : RingIx) (value : W32) (s : State) : Result :=
  let r := s.rings[ring]
  if !barReach s then .next s
  else if r.state = .enabled ∧ doorbellOk value.toNat (2 * r.depth) (cqAdvance r value.toNat) r.unreleased then
    let s1 := setRing ring (fun r => { r with cqHead := value.setWidth 13 }) s
    .next (creditGained ring (if ring = 0 then acknowledge r.cqHead.toNat (cqAdvance r value.toNat) s1 else s1))
  else .next (doorbellError ring s)

/-- COAL_TIME has passed since the first counted completion of CQ n (R303). -/
def execCoalesceTimeout (ring : RingIx) (s : State) : Result :=
  if s.rings[ring].coalArmed then
    .next (raiseCq ring (setRing ring (fun r => { r with coalesced := 0, coalArmed := false }) s))
  else .next s

/-- One ring's occupancy sample (R300). -/
def sampleRing (s : State) (n : RingIx) : State :=
  let r := s.rings[n]
  let src := BitVec.ofNat 16 n.val
  if r.state = .disabled then s
  else if 3 * r.depth < 4 * r.queue.length then
    let s1 := setRing n (fun r => { r with highSamples := min 100 (r.highSamples + 1) }) s
    if 100 ≤ r.highSamples + 1 ∧ !r.overload then
      raiseSq n (event evOverloadSet src 0 (setRing n (fun r => { r with overload := true }) s1))
    else s1
  else
    let s1 := setRing n (fun r => { r with highSamples := 0 }) s
    if r.overload ∧ 4 * r.queue.length < r.depth then
      raiseSq n (event evOverloadClear src 0 (setRing n (fun r => { r with overload := false }) s1))
    else s1

/-- The 10 us sample of every ring (R300). -/
def execOccupancySample (s : State) : Result := .next ((List.finRange 64).foldl sampleRing s)

/-- A ring 0 field written while ring 0 is not DISABLED (R554). -/
def cfgError (s : State) : State := setRing 0 (fun r => { r with cfgError := true }) s

/-- Ring 0's fields are valid by Table 11-1 and R350. -/
def ringFieldsOk (sq cq depthLog coal : Nat) : Bool :=
  decide (4 ≤ depthLog) && decide (depthLog ≤ 12) && decide (1 ≤ coal) && decide (sq % 4096 = 0) && decide (cq % 4096 = 0) &&
  !(decide (sq < cq + 32 * 2 ^ depthLog) && decide (cq < sq + 64 * 2 ^ depthLog))

/-- Firmware validates ring 0 and enables it (R555). -/
def enableRing0 (s : State) : State :=
  let r := s.rings[0]
  if r.state ≠ .disabled then cfgError s
  else if ringFieldsOk r.sqBase.toNat r.cqBase.toNat r.log2Depth.toNat r.coalCount.toNat && !overReserve s r.reserve.toNat then
    flushEvents (s.tray.pendingEvents.length + 1) (setRing 0 (fun r => { r with state := .enabled, bucket := 0 }) s)
  else cfgError s

/-- A write of 1 to `RING_CTRL_0`.ENABLE (R555). -/
def execRingCtrlEnable (s : State) : Result := if regsLive s then .next (enableRing0 s) else .next s

/-- Every ring DISABLED at its reset values, with nothing fetched left (R307, R555). -/
def resetRings (s : State) : State :=
  clearAlarm evRingHalted 0 { s with rings := ringsInit, tray := { s.tray with posted := [] } }

/-- A write of 1 to `RING_CTRL_0`.RESET (R555): dispatched work runs on, and its completions find no descriptor. -/
def execRingCtrlReset (s : State) : Result := if regsLive s then .next (resetRings s) else .next s

/-- `COUNTER_CLEAR`: bits RINGS, TILES, FRONTHAUL, POWER, TWIN (R550, R553). -/
def clearCounters (bits : W32) (s : State) : State :=
  let s1 := if bits.getLsbD 0 then { s with rings := s.rings.map (fun r => { r with dropped := 0, overloaded := 0 }) } else s
  let s2 := if bits.getLsbD 1 then { s1 with tiles := s1.tiles.map (fun x =>
    let h := { x.heat with chans := x.heat.chans.map (fun c => { c with underrun := 0, overflow := 0 }) }
    let c := { x.cal with overrunCount := 0, overrunMax := 0 }
    let v := { x.conv with clip := 0, codeClamp := 0 }
    { x with lateSwap := 0, heat := h, cal := c, conv := v }) } else s1
  let s3 := if bits.getLsbD 2 then { s2 with radio := { s2.radio with
    streams := Vector.replicate 64 StreamCnt.init, groups := Vector.replicate 16 ⟨0, 0, 0⟩,
    ports := s2.radio.ports.map (fun p => { p with dropFrame := 0, dropEcpri := 0, unmatched := 0, ptpDrop := 0, esmc := 0 }) } }
    else s2
  let s4 := if bits.getLsbD 3 then { s3 with power := { s3.power with transients := 0 } } else s3
  if bits.getLsbD 4 then { s4 with twin := { s4.twin with hbRx := 0, replays := 0 } } else s4

/-- A write to `COUNTER_CLEAR` (R550). -/
def execCounterClear (bits : W32) (s : State) : Result := if regsLive s then .next (clearCounters bits s) else .next s

/-- A read of `SYMBOL_COUNT_LO` latches the rest of the time block from the same SCLK (R230, R556). -/
def latchTime (s : State) : State :=
  { s with time := { s.time with
      latchHi := (s.time.symbolCount >>> 32).setWidth 32, latchSec := s.time.todSec, latchTick := s.time.todTick,
      latchMark := timeMark s.time } }

def execSymbolCountLoRead (s : State) : Result :=
  if regsLive s then .next (reply (.data (leBytes 4 s.time.symbolCount.toNat)) (latchTime s))
  else if barReach s then .next (reply (.data (leBytes 4 0)) s)
  else .next s

/-- `HK_ROUND` takes 1 to 32 and holds from the next round on (Table 21-9). -/
def writeHkRound (value : W32) (s : State) : State :=
  if 1 ≤ value.toNat % 64 ∧ value.toNat % 64 ≤ 32 then
    { s with thermal := { s.thermal with nextRound := value.setWidth 6 } }
  else s

def execHkRoundWrite (value : W32) (s : State) : Result := if regsLive s then .next (writeHkRound value s) else .next s

/-- `TWIN_HB_TIMEOUT` takes writes while ALONE only (R562). -/
def writeHbTimeout (value : W32) (s : State) : State :=
  if s.twin.role = .alone then { s with twin := { s.twin with hbTimeout := value.setWidth 11 } } else s

def execTwinHbTimeoutWrite (value : W32) (s : State) : Result :=
  if regsLive s then .next (writeHbTimeout value s) else .next s

/-- `TWIN_RELAY_DELAY` ignores values above 600 (Table 21-11). -/
def writeRelayDelay (value : W32) (s : State) : State :=
  if value.toNat % 1024 ≤ 600 then { s with twin := { s.twin with relayDelay := value.setWidth 10 } } else s

def execTwinRelayDelayWrite (value : W32) (s : State) : Result :=
  if regsLive s then .next (writeRelayDelay value s) else .next s

/-- Pending vectors whose entry and function are unmasked are sent, lowest first (R567). -/
def sendPending (s : State) : State :=
  (List.finRange 128).foldl (fun s v =>
    if s.host.pba.getLsbD v.val && s.host.msixEnable && !s.host.msixFmask && !s.host.msixTable[v].mask then
      signalVector v { s with host := { s.host with pba := s.host.pba &&& ~~~(1#128 <<< v.val) } }
    else s) s

/-- The mask of one entry, or of the function, cleared (R567). -/
def execMsixUnmask (target : UnmaskTarget) (s : State) : Result :=
  if !s.host.linkUp then .next s
  else match target with
  | .entry v =>
    .next (sendPending { s with host := { s.host with
      msixTable := upd s.host.msixTable v (fun e => { e with mask := false }) } })
  | .function => .next (sendPending { s with host := { s.host with msixFmask := false } })

/-- A doubleword of an MSI-X entry written (R567). -/
def writeMsix (off : Nat) (value : W32) (s : State) : State :=
  if h : off / 16 < 128 then
    let f := fun (e : MsixEntry) =>
      if off % 16 = 0 then { e with addr := (e.addr &&& 0xFFFFFFFF00000000#64) ||| value.setWidth 64 }
      else if off % 16 = 4 then { e with addr := (e.addr &&& 0xFFFFFFFF#64) ||| (value.setWidth 64 <<< 32) }
      else if off % 16 = 8 then { e with data := value }
      else { e with mask := value.getLsbD 0 }
    sendPending { s with host := { s.host with msixTable := upd s.host.msixTable ⟨off / 16, h⟩ f } }
  else s

/-- A field of ring 0 that is writable while ring 0 is DISABLED (R554). -/
def writeRing0 (f : Ring → Ring) (s : State) : State :=
  if s.rings[0].state = .disabled then setRing 0 f s else cfgError s

/-- Ring block n, register `off`, written (Table 21-5). -/
def writeRingReg (n : RingIx) (off : Nat) (value : W32) (s : State) : State :=
  if off = 0x20 then setRing n (fun r => { r with sqIrqEn := value.getLsbD 0 }) s
  else if off = 0x24 then setRing n (fun r => { r with cqIrqEn := value.getLsbD 0 }) s
  else if off = 0x1C then
    setRing n (fun r => { r with
      dbError := r.dbError && !value.getLsbD 4,
      eventLost := r.eventLost && !(decide (n = 0) && value.getLsbD 6),
      cfgError := r.cfgError && !(decide (n = 0) && value.getLsbD 7) }) s
  else if n ≠ 0 then s
  else if off = 0x00 then
    writeRing0 (fun r => { r with sqBase := (r.sqBase &&& 0xFFFFFFFF00000000#64) ||| (value &&& 0xFFFFF000#32).setWidth 64 }) s
  else if off = 0x04 then
    writeRing0 (fun r => { r with sqBase := (r.sqBase &&& 0xFFFFFFFF#64) ||| (value.setWidth 64 <<< 32) }) s
  else if off = 0x08 then
    writeRing0 (fun r => { r with cqBase := (r.cqBase &&& 0xFFFFFFFF00000000#64) ||| (value &&& 0xFFFFF000#32).setWidth 64 }) s
  else if off = 0x0C then
    writeRing0 (fun r => { r with cqBase := (r.cqBase &&& 0xFFFFFFFF#64) ||| (value.setWidth 64 <<< 32) }) s
  else if off = 0x10 then
    writeRing0 (fun r => { r with log2Depth := value.setWidth 4, reserve := (value >>> 16).setWidth 16 }) s
  else if off = 0x14 then
    writeRing0 (fun r => { r with coalCount := value.setWidth 8, coalTime := (value >>> 8).setWidth 10 }) s
  else if off = 0x18 then
    if value.getLsbD 1 then resetRings s else if value.getLsbD 0 then enableRing0 s else s
  else s

/-- A doubleword of BAR0 written (R548, R551 and the blocks' tables). -/
def writeReg (off : Nat) (value : W32) (s : State) : State :=
  if 0x3F0000 ≤ off then writeMsix (off - 0x3F0000) value s
  else if off = 0x108 then clearCounters value s
  else if h : 0x10000 ≤ off ∧ off < 0x14000 then
    writeRingReg ⟨(off - 0x10000) / 0x100, by omega⟩ (off % 0x100) value s
  else if h : 0x40000 ≤ off ∧ off < 0x4A000 then
    if off % 0x1000 = 0x28 ∧ value.getLsbD 0 then
      setTile ⟨(off - 0x40000) / 0x1000, by omega⟩ (fun x => { x with heat := { x.heat with sourceConflict := false } }) s
    else s
  else if off = 0x71174 then writeHkRound value s
  else if off = 0x72004 then writeHbTimeout value s
  else if off = 0x72008 then writeRelayDelay value s
  else if off = 0x73000 ∧ value.getLsbD 3 then { s with woad := { s.woad with ruleParity := false } }
  else s

/-- A host write to BAR0: aligned, of 4 or 8 bytes; a write of 1 or 2 bytes is ignored (R548). -/
def execRegisterWrite (offset : BitVec 22) (size : Nat) (value : W64) (s : State) : Result :=
  if !regsLive s then .next s
  else if size = 4 ∧ offset.toNat % 4 = 0 then .next (writeReg offset.toNat (value.setWidth 32) s)
  else if size = 8 ∧ offset.toNat % 8 = 0 then
    .next (writeReg (offset.toNat + 4) ((value >>> 32).setWidth 32) (writeReg offset.toNat (value.setWidth 32) s))
  else .next s

/-- An uncorrectable error met through BAR4: `BAR4_ECC` and its event (R547, R569). -/
def bar4Error (stack : Nat) (s : State) : State :=
  event evMemEcc (BitVec.ofNat 16 stack) 2 { s with host := { s.host with bar4Ecc := satInc s.host.bar4Ecc } }

/-- A host read through the memory window (R545, R546, R547). -/
def execBar4Read (offset : W64) (length : Nat) (s : State) : Result :=
  let o := offset.toNat
  if !barReach s ∨ length = 0 then .next s
  else if windowSize s.tray.variant < o + length then .next (reply .unsupported s)
  else if !windowAnswers s o length then
    .next (reply .unsupported { s with host := { s.host with pcieUr := satInc s.host.pcieUr } })
  else if touchesEcc s o length then .next (reply .poisoned (bar4Error (stackOf o) s))
  else .next (reply (.data (stackRead s o length)) s)

/-- A host write through the memory window (R545, R546, R547). -/
def execBar4Write (offset : W64) (data : List Byte) (s : State) : Result :=
  let o := offset.toNat
  if !barReach s ∨ data = [] then .next s
  else if windowSize s.tray.variant < o + data.length then .next s
  else if !windowAnswers s o data.length then .next { s with host := { s.host with pcieUr := satInc s.host.pcieUr } }
  else if partlyEcc s o data.length then .next (bar4Error (stackOf o) s)
  else .next (stackWrite o data s)

/-- A poisoned write on BAR2 or BAR4 is discarded and counted; a doorbell also sets DB_ERROR (R547). -/
def execPoisonedWrite (target : PoisonTarget) (s : State) : Result :=
  if !barReach s then .next s
  else
    let s1 := { s with host := { s.host with pciePoisoned := satInc s.host.pciePoisoned } }
    match target with
    | .sqDoorbell n => .next (doorbellError n s1)
    | .cqDoorbell n => .next (doorbellError n s1)
    | .window => .next s1

/-- The endpoint's reset of R543: rings, MSI-X and BAR assignments; everything else stays. -/
def endpointReset (s : State) : State :=
  let s1 := resetRings s
  { s1 with host := { s1.host with
      msixEnable := false, msixFmask := false, msixTable := Vector.replicate 128 MsixEntry.init, pba := 0,
      barsAssigned := false, relaxed := false, d3hot := false } }

/-- A function-level reset, a hot reset or an entry into D3hot (R543). -/
def execFunctionLevelReset (kind : ResetKind) (s : State) : Result :=
  if !s.host.linkUp then .next s
  else
    let s1 := endpointReset s
    .next { s1 with host := { s1.host with d3hot := decide (kind = .d3hot) } }

/-- PERST#: the endpoint resets and retrains; a start goes on (R591, R543). -/
def execPerstAssert (s : State) : Result := .next (endpointReset s)

/-- The doublewords of configuration space that Table 21-1 gives; the spec gives no value for the others. -/
def configDword (v : Variant) (o : Nat) : Option Nat :=
  if o = 0x00 then some ((match v with | .b => 0x0128 | .m => 0x0129 | .n => 0x012A) * 65536 + 0x1F3C)
  else if o = 0x08 then some 0x120000B1
  else if o = 0x2C then some 0x00011F3C
  else none

/-- The reply to a configuration read: a free value where the spec states none (assumption 3). -/
def configRead (o : Nat) (s : State) : State :=
  match configDword s.tray.variant o with
  | some v => reply (.data (leBytes 4 v)) s
  | none => reply (.data (drawBytes 4 s).1) (drawBytes 4 s).2

/-- A configuration request: retried until configuration space is valid (R395), then answered (R542). -/
def execConfigurationRequest (access : ConfigAccess) (s : State) : Result :=
  if !s.host.linkUp then .next s
  else if !s.host.cfgValid then .next (reply .retry s)
  else match access with
  | .read o => .next (configRead o.toNat s)
  | .assignBars => .next { s with host := { s.host with barsAssigned := true } }
  | .msixControl en fm => .next (sendPending { s with host := { s.host with msixEnable := en, msixFmask := fm } })
  | .relaxedOrdering en => .next { s with host := { s.host with relaxed := en } }
  | .powerD0 => .next { s with host := { s.host with d3hot := false } }

/-- The host link is lost: rings stop fetching, MAJOR, and a takeover request (R569, R31). -/
def execHostLinkLoss (s : State) : Result :=
  if s.host.linkUp then
    .next (requestTakeover alHostLink (raiseAlarm true alHostLink 0 { s with host := { s.host with linkUp := false } }))
  else .next s

/-- The host link returns: R543 applies (R569). -/
def execHostLinkUp (s : State) : Result :=
  if s.host.linkUp then .next s
  else
    let s1 := clearAlarm alHostLink 0 (endpointReset s)
    .next { s1 with host := { s1.host with linkUp := true } }

end Sys2Proof.Machine
end

