-- ==== Sys2Proof/Machine/RingCmds.lean ====
section
/-! DEFINITION. The identity and ring commands (R317, Tables 12-3 and 12-4, R287, R306). -/
namespace Sys2Proof.Machine

/-- Working Sepia lanes. -/
def sepiaLanes (s : State) : Nat := if s.sepia.lost then 0 else 16 - popCount 16 s.sepia.retired.toNat

/-- Fields that read 0 until SELFCHECK ends (R552). -/
def afterSelfcheck (s : State) (n : Nat) : Nat := if s.tray.selfChecked then n else 0

/-- SHELF_SLOT (Table 12-4). -/
def shelfCode (s : State) : Nat :=
  match s.tray.shelfSlot with
  | none => 0xFF
  | some b => if b then 1 else 0

/-- The 128 bytes of the identity block (Table 12-4), at 0x00 of BAR0 too (R552). -/
def identityBlock (s : State) : List Byte :=
  leBytes 4 0x44495A51 ++ leBytes 1 0xB1 ++ leBytes 1 s.tray.variant.code ++ leBytes 2 0x0201 ++ leBytes 2 0x0102 ++
  leBytes 1 (shelfCode s) ++ leBytes 1 (afterSelfcheck s (sepiaLanes s)) ++ leBytes 2 (afterSelfcheck s (usableTiles s)) ++
  leBytes 1 (afterSelfcheck s (popCount 6 s.mem.stackOnline.toNat)) ++ leBytes 1 (portsFitted s.tray.variant) ++
  Config.pkgSerial.toList ++ Config.traySerial.toList ++ leBytes 4 s.flash.images[bankIx s.flash.runningBank].rollback ++
  leBytes 1 ((if keyEnrolled s then 1 else 0) + (if s.ext.loaded then 2 else 0)) ++ leBytes 3 0 ++
  leBytes 4 s.tray.restarts.toNat ++ leBytes 4 (if s.ext.loaded then s.ext.version.toNat else 0) ++ List.replicate 64 0

/-- IDENTIFY (R317). -/
def execIdentify (ring : RingIx) (s : State) : Result :=
  serve (isOp opIdentify) ring (fun f s => [chk 0x10 (badDaddr s.tray.variant (f.desc.u64 0x10) 64)])
    (fun f s => writeThen (f.desc.u64 0x10) (identityBlock s) (Reply.of codeOk) s) s

/-- The SQ and CQ regions of a ring of depth D share a byte (Table 11-1). -/
def regionsOverlap (sq cq d : Nat) : Bool := decide (sq < cq + 32 * d) && decide (cq < sq + 64 * d)

/-- Range checks of RING_CONFIG (Table 11-1, R314). -/
def ringConfigArgs (f : Fetched) (_s : State) : List (Nat × Bool) :=
  let d := f.desc
  let lg := d.u8 0x19
  let lgOk := decide (4 ≤ lg) && decide (lg ≤ 12)
  let front := decide (d.u8 0x1A = 2)
  [chk 0x08 (decide (d.u64 0x08 % 4096 ≠ 0)),
   chk 0x10 (decide (d.u64 0x10 % 4096 ≠ 0) || (lgOk && regionsOverlap (d.u64 0x08) (d.u64 0x10) (2 ^ lg))),
   chk 0x18 (decide (d.u8 0x18 < 1 ∨ 63 < d.u8 0x18)), chk 0x19 (!lgOk),
   chk 0x1A (decide (2 < d.u8 0x1A) || (front && lgOk && decide (lg < 6))),
   chk 0x1B (!front && decide (d.u8 0x1B ≠ 3 ∧ d.u8 0x1B ≠ 4)), chk 0x1E (decide (d.u8 0x1E = 0)),
   chk 0x20 (decide (1023 < d.u16 0x20)), chk 0x22 (decide (1 < d.u8 0x22))]

/-- The fields of a RING_CONFIG in a ring block. -/
def configured (d : Descriptor) (r : Ring) : Ring :=
  { r with sqBase := BitVec.ofNat 64 (d.u64 0x08), cqBase := BitVec.ofNat 64 (d.u64 0x10),
           log2Depth := BitVec.ofNat 4 (d.u8 0x19), policy := BitVec.ofNat 2 (d.u8 0x1A),
           level := BitVec.ofNat 3 (d.u8 0x1B), reserve := BitVec.ofNat 16 (d.u16 0x1C),
           coalCount := BitVec.ofNat 8 (d.u8 0x1E), coalTime := BitVec.ofNat 10 (d.u16 0x20), bucket := 0,
           state := if d.u8 0x22 = 1 then .enabled else .disabled }

/-- The ring that a ring command names. -/
def ringOf (d : Descriptor) (o : Nat) : RingIx := ⟨d.u8 o % 64, by omega⟩

def ringConfigBody (f : Fetched) (s : State) : Body :=
  let k := ringOf f.desc 0x18
  if s.rings[k].state ≠ .disabled then .done s (Reply.of codeStateIllegal)
  else if overReserve s (f.desc.u16 0x1C) then .done s (Reply.of codeOverload)
  else .done (setRing k (configured f.desc) s) (Reply.of codeOk)

/-- RING_CONFIG (R287, R350). -/
def execRingConfig (ring : RingIx) (s : State) : Result := serve (isOp opRingConfig) ring ringConfigArgs ringConfigBody s

/-- RING_RESET refuses a FRONTHAUL ring whose group is enabled, and a ring that is already being reset (R306). -/
def resetRefused (s : State) (k : RingIx) : Bool :=
  decide (s.rings[k].state = .resetting) || (decide (s.rings[k].policy = 2) && (groupOfRing s k).isSome)

def ringResetBody (f : Fetched) (s : State) : Body :=
  let k := ringOf f.desc 8
  if resetRefused s k then .done s (Reply.of codeStateIllegal)
  else
    let s1 := setRing k (fun r => { r with
      haltedReset := decide (r.state = .halted), state := .resetting, resetBy := some f }) s
    .running (completeAll k s1.rings[k].queue codeDropped s1)

/-- RING_RESET (R306). -/
def execRingReset (ring : RingIx) (s : State) : Result :=
  serve (isOp opRingReset) ring (fun f _ => [chk 8 (decide (f.desc.u8 8 < 1 ∨ 63 < f.desc.u8 8))]) ringResetBody s

/-- A ring block after a reset: DISABLED, its indices 0 and its expected phase 1 (R306). -/
def Ring.cleared (r : Ring) : Ring :=
  { r with state := .disabled, sqHead := 0, sqTail := 0, cqHead := 0, cqTail := 0, phase := true, waiting := [],
           queue := [], coalesced := 0, coalArmed := false, overload := false, highSamples := 0, fetchStalled := false,
           fetchRetried := false, haltedReset := false, resetBy := none }

/-- The last dispatched descriptor of a ring in RESETTING has completed (R306): RESULT is the index after the last entry. -/
def execRingResetDone (ring : RingIx) (s : State) : Result :=
  let r := s.rings[ring]
  match r.resetBy with
  | none => .next s
  | some f =>
    if r.state = .resetting ∧ r.dispatched = [] ∧ (r.waiting = [] ∨ r.haltedReset) then
      .next (complete 0 f (Reply.ok r.cqTail.toNat) (setRing ring Ring.cleared s))
    else .next s

end Sys2Proof.Machine
end

