-- ==== Sys2Proof/Machine/StartOps.lean ====
section
/-! DEFINITION. The shared operations of a start: journal recovery, record selection, the park journal applied, self-check
consequences (chapters 05, 15, 16). -/
namespace Sys2Proof.Machine

/-! ### Journal recovery (R423, R424, R434) -/

/-- Every erase unit of an array that firmware may erase. -/
def unitsOf (arr : FlashArray) : List Nat :=
  if arr = .archive then
    [0x10000, 0x20000] ++ (List.range 52).map (fun i => 0x30000 + 4096 * i) ++
    (List.range 320).map (fun i => 0xB00000 + 65536 * i) ++ (List.range 4096).map (fun i => 0x1F00000 + 4096 * i)
  else (List.range 128).map (fun i => 32768 * i) ++ [infoBase, infoBase + 0x2000]

/-- The INTENT for the erase of a half has no COMPLETE. -/
def halfOpen (arr : FlashArray) (half : Bool) (rs : List JRecord) : Bool :=
  let p := journalAt arr half
  rs.any (fun r => decide (r.type = 1) && decide (r.arr = p.1.code) && decide (r.addr = p.2) &&
    !rs.any (fun c => decide (c.type = 2) && decide (c.ref = r.seq)))

/-- Record places of a half in use. -/
def usedOf (s : State) (arr : FlashArray) (half : Bool) : Nat :=
  let p := journalAt arr half
  ((List.range (journalCap arr)).filter (fun i =>
    decide (flashRead s p.1 (p.2 + 32 * i) 32 ≠ List.replicate 32 0xFF#8))).foldl (fun m i => max m (i + 1)) 0

/-- The highest SEQ of a list of records. -/
def topSeq (rs : List JRecord) : Nat := (rs.map (fun r => r.seq)).foldl max 0

/-- The marks that one journal gives. -/
def journalMarks (arr : FlashArray) (h0 h1 : List JRecord) : List (FlashArray × Nat) :=
  let rs := h0 ++ h1
  let o0 := halfOpen arr false rs
  let o1 := halfOpen arr true rs
  let kept := (if o0 then [] else h0) ++ (if o1 then [] else h1)
  (if o0 then [journalAt arr false] else []) ++ (if o1 then [journalAt arr true] else []) ++
  (openIntents kept).map (fun p => (arrayOf p.2.arr, p.2.addr)) ++
  (kept.filter (fun r => decide (r.type = 5))).map (fun r => (arrayOf r.arr, r.addr))

/-- Neither half gives a valid record although something has been written in them: a blank journal is not an unreadable one. -/
def journalUnread (s : State) (arr : FlashArray) : Bool :=
  decide (halfRecords s arr false = []) && decide (halfRecords s arr true = []) &&
  (decide (0 < usedOf s arr false) || decide (0 < usedOf s arr true))

/-- One journal recovered. -/
def recoverJournal (arr : FlashArray) (s : State) : State :=
  let h0 := halfRecords s arr false
  let h1 := halfRecords s arr true
  let marks := if journalUnread s arr then (unitsOf arr).map (fun a => (arr, a)) else journalMarks arr h0 h1
  let half := decide (topSeq h0 < topSeq h1)
  let q := BitVec.ofNat 32 (max (topSeq h0) (topSeq h1))
  let s1 := marks.foldl (fun s p => markUnit p.1 p.2 s) s
  let s2 := setJournal arr half (usedOf s arr half) s1
  let s3 := setJournalSeq arr (if (journalSeq s arr).toNat < q.toNat then q else journalSeq s arr) s2
  if journalUnread s arr then
    raiseAlarm true alCalStore 0x100 { s3 with flash := { s3.flash with archUnread := s3.flash.archUnread || decide (arr = .archive) } }
  else s3

/-- Every journal recovered; journal halves and shutdown-log sectors that are half-erased are erased again at once. -/
def recoverJournals (s : State) : State :=
  let s1 := recoverJournal .code1 (recoverJournal .code0 (recoverJournal .archive
    { s with flash := { s.flash with halfErased := [], archUnread := false } }))
  let early := s1.flash.halfErased.filter (fun p =>
    if p.1 = .archive then decide (0x10000 ≤ p.2) && decide (p.2 < 0x40000) else decide (infoBase ≤ p.2))
  early.foldl (fun s p => enqueue (decide (p.1 ≠ .archive)) .reErase [.erase p.1 (unitAt p.1 p.2) p.2 0 0] s) s1

/-- Units that the journal of a code bank shows half-erased, as boot ROM reads it in VERIFY (R424). -/
def bankHalfErased (s : State) (bank : Bool) : Bool :=
  let arr := mainArray bank
  (journalMarks arr (halfRecords s arr false) (halfRecords s arr true)).any (fun p => decide (p.1 = arr) && decide (p.2 < infoBase))

/-- A bank that VERIFY accepts (R393, R424, R428). -/
def bankValid (s : State) (bank : Bool) : Bool :=
  let i := s.flash.images[bankIx bank]
  i.good && decide (fwCounter s ≤ i.rollback) && !bankHalfErased s bank

/-! ### Record selection (R119, R149, R159) -/

/-- One kind's blocks taken from a slot of the archive, or from the factory record. -/
def takeBlocks (t : TileIx) (kind : Nat) (slot : Option Nat) (s : State) : State :=
  let k := match slot with
    | some _ => kind
    | none => 3
  let a := slotAddr k t.val (slot.getD 0)
  let offs := blockOffsets (32 + 12 * (recordBlocks k).length) (recordBlocks k)
  let mine := offs.filter (fun p => decide (p.1 ∈ recordBlocks kind))
  setTile t (fun x => mine.foldl (fun x p => setBlock t p.1 (flashRead s .archive (a + p.2) (blockLen p.1)) x) x) s

/-- The highest EPOCH among the valid records of a tile: those of its two kinds, slots A and B; the factory record does not count
(DESIGN CHOICE, assumption 78: R149 does not say whether it does). -/
def topEpoch (s : State) (t : Nat) : Option Nat :=
  let es := [(1, 0), (1, 1), (2, 0), (2, 1)].filterMap (fun p : Nat × Nat =>
    if recordValid s p.1 t p.2 then some (slotEpoch s p.1 t p.2) else none)
  match es with
  | [] => none
  | e :: rest => some (rest.foldl max e)

/-- The records of a tile selected and taken, with a tile event and MINOR where a kind has no valid slot (R159, Table 5-9); an
invalid factory record that is needed makes the tile FAULTED as soon as it leaves OFF (R73, R159). -/
def selectRecords (t : TileIx) (s : State) : State :=
  let c := bestSlot s 1 t.val
  let r := bestSlot s 2 t.val
  let need := c.isNone || r.isNone
  if need && !recordValid s 3 t.val 0 then tileEvent 2 t (setTile t (fun x => { x with cal := { x.cal with factoryBad := true } }) s)
  else
    let cSeq := match c with
      | some k => slotSeq s 1 t.val k
      | none => slotSeq s 3 t.val 0
    let rBase := match r with
      | some k => slotBase s 2 t.val k
      | none => slotBase s 3 t.val 0
    let s1 := takeBlocks t 2 r (takeBlocks t 1 c s)
    let zero := fun (z : TrimZone) => { z with dzTheta := 0, dzPhi := 0 }
    let s2 := setTile t (fun x =>
      let h := if rBase ≠ cSeq then { x.heat with zones := x.heat.zones.map zero } else x.heat
      { x with
        heat := h,
        cal := { x.cal with
          epoch := BitVec.ofNat 32 (match topEpoch s t.val with
            | some e => e + 1
            | none => 0),
          degraded := need, factoryBad := false, charSeq := BitVec.ofNat 32 (match c with
            | some k => slotSeq s 1 t.val k
            | none => 0),
          runSeq := BitVec.ofNat 32 (match r with
            | some k => slotSeq s 2 t.val k
            | none => 0),
          baseSeq := BitVec.ofNat 32 cSeq } }) s1
    if need then raiseAlarm false alCalStore (BitVec.ofNat 16 t.val) (tileEvent 2 t s2) else s2

/-- A tile powered: OFF to DARK, and its laser lit for LOCK, unless its records have made it FAULTED. -/
def powerTile (t : TileIx) (s : State) : State :=
  if s.tiles[t].state ≠ .off then s
  else
    let s1 := powerDark t s
    if s1.tiles[t].state = .dark then lightTile t s1 else s1

/-- The rule set stored in the archive flash, if one is valid (R405). -/
def storedRules (s : State) : Option (Vector RuleState 16) :=
  (bestSmall s 0x52575A51 0x42000 256).map (fun k =>
    let b := flashRead s .archive (0x42000 + 0x1000 * k + 16) 256
    Vector.ofFn (fun i => RuleState.of (parseRule (b.drop (16 * i.val)))))

/-- The oscillator table and, on a cold start, the stored Woad rules (R405, R414). -/
def takeSmall (s : State) : State :=
  let osc := bestSmall s 0x544F5A51 0x40000 564
  let rules := bestSmall s 0x52575A51 0x42000 256
  let oscAt := fun k => flashRead s .archive (0x40000 + 0x1000 * k + 16) 564
  let table : Vector Int 141 := match osc with
    | some k => Vector.ofFn (fun i => signedOf 32 (field (oscAt k) (4 * i.val) 4))
    | none => Vector.ofFn (fun i => Config.factoryOsc i.val)
  let s1 := { s with
    time := { s.time with oscTable := table },
    flash := { s.flash with
      oscSeq := BitVec.ofNat 32 (match osc with
        | some k => leNat (flashRead s .archive (0x40000 + 0x1000 * k + 8) 4)
        | none => 0),
      ruleSeq := BitVec.ofNat 32 (match rules with
        | some k => leNat (flashRead s .archive (0x42000 + 0x1000 * k + 8) 4)
        | none => 0) } }
  match storedRules s with
  | some rs => if s.tray.warm then s1 else { s1 with woad := { s1.woad with rules := rs } }
  | none => s1

/-! ### The park journal applied (R279, R389, R390) -/

/-- Streams that the journal records as open, as a mask; the mapping with them held closed. -/
def heldMask (m : RadioSet) : W64 :=
  BitVec.ofNat 64 (((List.finRange 64).map (fun i => if m.streams[i].en then 2 ^ i.val else 0)).foldl (· + ·) 0)

def closeStreams (m : RadioSet) : RadioSet := { m with streams := m.streams.map (fun e => { e with en := false }) }

/-- The journal's TIME_CONFIG arguments in force. -/
def journalTime (a : TimeArgs) (t : TimeUnit) : TimeUnit :=
  { t with numerology := a.numerology, domain := a.domain, ptpPorts := a.ptpPorts, syncePort := a.syncePort,
           frameOffset := a.frameOffset, holdLimit := a.holdLimit, slewMax := a.slewMax, asym := a.asym,
           localPriority := a.localPriority }

/-- The journal applied. -/
def applyJournal (j : ParkJournal) (s : State) : State :=
  let groups : Vector SwapGroup 16 := Vector.ofFn (fun g =>
    { s.sets.groups[g] with members := j.members[g], epoch := j.epochs[g] })
  let groupOfTile := fun (t : TileIx) => (List.finRange 16).find? (fun g => decide (3 ≤ g.val) && j.members[g].getLsbD t.val)
  let s1 := { s with
    sets := { s.sets with radioActive := closeStreams j.radio, fusionActive := j.fusion, modelActive := j.models,
                          imageActive := j.images, groups := groups },
    radio := { s.radio with held := heldMask j.radio },
    tiles := Vector.ofFn (fun t => { s.tiles[t] with group := groupOfTile t }),
    time := journalTime j.time s.time,
    power := { s.power with capHost := j.cap } }
  let r := if j.role = 1 then Role.active else if j.role = 2 then .standby else if j.role = 3 then .share else .alone
  let s2 := moveBoundary s1
  applyCap { s2 with twin := { s2.twin with role := r } }

/-- The SLOT descriptors of a group with a held stream are DROPPED (R390). -/
def openHeld (s : State) : State :=
  let m := s.sets.radioActive
  let ss : Vector StreamEntry 64 := Vector.ofFn (fun i =>
    { m.streams[i] with en := m.streams[i].en || s.radio.held.getLsbD i.val })
  { s with sets := { s.sets with radioActive := { m with streams := ss } }, radio := { s.radio with held := 0 } }

/-! ### Failures of a start -/

/-- The start stops in FAILED: MAJOR, no ring runs (R393). -/
def failStart (s : State) : State :=
  raiseAlarm true alStartFailed 0 { s with
    host := { s.host with cfgValid := true }, tray := { s.tray with phase := .failed }, rings := ringsInit,
    twin := { s.twin with hbRunning := false } }

/-- The consequence of a failed self-check (Table 15-4). -/
def selfCheckFail (s : State) : SelfCheckFail → State
  | .madder => failStart s
  | .stack k =>
    raiseAlarm true evMemEcc (BitVec.ofNat 16 k.val)
      { s with mem := { s.mem with stackOnline := s.mem.stackOnline &&& ~~~(1#6 <<< k.val) } }
  | .tile t => faultTile t s
  | .kermes d =>
    let s1 := { s with kermes := upd s.kermes d (fun k => { k with lost := true }),
                       mem := { s.mem with stackOnline := s.mem.stackOnline &&& ~~~(stacksOfDie s.tray.variant d) } }
    raiseAlarm true alKermesLost (BitVec.ofNat 16 d.val) ((tilesOfDie d).foldl (fun s t => faultTile t s) s1)
  | .sepiaLane l => retireLane l s
  | .ioDie k =>
    if k = 0 then failStart s
    else
      let ports := (List.finRange 6).filter (fun p => decide (p.val / 2 = k.val) && portFitted s p)
      raiseAlarm true alIoDie (BitVec.ofNat 16 k.val) (ports.foldl (fun s p => portDown p (fun x => { x with powered := false }) s) s)

end Sys2Proof.Machine
end

