-- ==== Sys2Proof/Machine/Start.lean ====
section
/-! DEFINITION. Start-up: cold start and warm restart, the phases of Table 15-1, held streams (chapter 15). -/
namespace Sys2Proof.Machine

/-- Effects of a start that only firmware has. -/
def inPhase (p : Phase) (s : State) : Bool := decide (s.tray.phase = p) && decide (s.tray.powerState ≠ .off) &&
  decide (s.tray.powerState ≠ .deep)

/-- A cold start: a WAKE in DEEP, or a feed qualified in OFF where nothing but a power cycle is awaited (R377, R387, R393). -/
def execColdStart (s : State) : Result :=
  if s.tray.powerState = .deep then .next (beginStart false s)
  else if s.tray.powerState = .off ∧ !(s.woad.tripLatch && s.woad.powered) ∧ s.power.offWait ≠ .powerCycle ∧ s.power.offWait ≠ .none ∧
      (4000 ≤ s.power.feeds[(0 : Fin 2)].mag.toNat ∨ 4000 ≤ s.power.feeds[(1 : Fin 2)].mag.toNat) then
    .next (beginStart false s)
  else .next s

/-- A warm restart that FW_ACTIVATE, CLOCK_FAULT or a watchdog has made due (R389). -/
def execWarmRestart (s : State) : Result :=
  if s.tray.restartDue ∧ s.tray.powerState ≠ .off ∧ s.tray.powerState ≠ .deep then .next (warmReset s) else .next s

/-- Supply loss in DEEP: OFF, with no park and no record; Woad switches off and the bank bleeds (R397). -/
def execDeepSupplyLoss (s : State) : Result :=
  if s.tray.powerState ≠ .deep then .next s
  else
    let s1 := setMags 0 0 (railsDown false s)
    .next { s1 with power := { s1.power with bank := 0, journal := none, woadKept := false,
                                             offWait := if s.woad.tripLatch then .powerCycle else .feed false } }

/-! ### Phases -/

/-- ROM ends once the root PLL has locked and Woad is trimmed or samples from HCLK (R219, R222, R385). -/
def execPhaseRomEnd (s : State) : Result :=
  if inPhase .rom s && s.time.rootLock && (s.woad.trimmed || s.woad.hclkSampling) then
    .next { s with tray := { s.tray with phase := .verify } }
  else .next s

/-- The bank that VERIFY takes (R394, R430). -/
def verifiedBank (s : State) : Option Bool :=
  if bankValid s s.flash.selectedBank then some s.flash.selectedBank
  else if bankValid s (!s.flash.selectedBank) then some (!s.flash.selectedBank) else none

/-- Boot ROM verifies: FIRMWARE from the bank taken, the endpoint up and heartbeats begun, or FAILED (R393 to R395, R460). -/
def verifyEffect (s : State) : State :=
  match verifiedBank s with
  | none => failStart s
  | some b =>
    let fell := decide (b ≠ s.flash.selectedBank)
    let s1 := { s with
      host := { s.host with cfgValid := true },
      flash := { s.flash with runningBank := b },
      twin := { s.twin with hbRunning := true },
      tray := { s.tray with phase := .firmware, fallbackBank := fell } }
    let src := BitVec.ofNat 16 (if b then 1 else 0)
    if fell then raiseAlarm false evFallbackBank src (event evFallbackBank src 0 s1) else s1

def execPhaseVerify (s : State) : Result := if inPhase .verify s then .next (verifyEffect s) else .next s

/-- VERIFY has found no bank (R393). A failed self-check stops the start in PHASE_SELFCHECK. -/
def execStartFailed (s : State) : Result :=
  if inPhase .verify s && (verifiedBank s).isNone then .next (failStart s) else .next s

/-- FIRMWARE ends: ring 0 may be configured; the custody line that a forced handover held low is free again (R395). -/
def execPhaseFirmwareEnd (s : State) : Result :=
  if inPhase .firmware s then
    .next { s with tray := { s.tray with phase := .restore }, woad := { s.woad with forceHold := false } }
  else .next s

/-- Training, or the exit from self-refresh, of every stack ends (R386). -/
def execMemoryTrainingDone (s : State) : Result :=
  if inPhase .firmware s || inPhase .restore s || inPhase .lock s || inPhase .selfcheck s then
    .next { s with tray := { s.tray with memReady := true }, mem := { s.mem with selfRefresh := false } }
  else .next s

/-- RESTORE: journals recovered, records and small records taken, the park journal applied on a warm restart, tiles powered
and lit (R385, R423). -/
def restoreEffect (s : State) : State :=
  let s1 := takeSmall (recoverJournals s)
  let s2 := (List.finRange 10).foldl (fun s t => selectRecords t s) s1
  let s3 := match s.power.journal with
    | some j => if s.tray.warm && j.valid then applyJournal j s2 else s2
    | none => s2
  let s4 := (List.finRange 10).foldl (fun s t => powerTile t s) s3
  { s4 with tray := { s4.tray with phase := .lock } }

def execPhaseRestore (s : State) : Result := if inPhase .restore s then .next (restoreEffect s) else .next s

/-- A tile holds the timeline up: WARM, in it, and not yet so far. -/
def waitsFor' (s : State) (ok : Tile → Bool) : Bool :=
  (List.finRange 10).any (fun t => decide (s.tiles[t].state = .warm) && !s.tray.lateTiles.getLsbD t.val && !ok s.tiles[t])

/-- LOCK ends when every tile in the timeline is locked (R385, R388). -/
def execPhaseLockEnd (s : State) : Result :=
  if inPhase .lock s && !waitsFor' s (fun x => x.laser.locked) then
    .next { s with tray := { s.tray with phase := .selfcheck } }
  else .next s

/-- A tile has not locked within 14.0 s: its stripe failed, the next is lit, and it leaves the timeline (R78, R388). -/
def execTileLockTimeout (tile : TileIx) (s : State) : Result :=
  if inPhase .lock s && decide (s.tiles[tile].state = .warm) && !s.tiles[tile].laser.locked then
    let s1 := { s with tray := { s.tray with lateTiles := s.tray.lateTiles ||| (1#10 <<< tile.val) } }
    .next (failStripe tile s1)
  else .next s

/-- The self-checks have run, `failures` those that failed; they wait for memory training (R392, Table 15-12). -/
def selfCheckEffect (failures : List SelfCheckFail) (s : State) : State :=
  let s1 := failures.foldl selfCheckFail s
  if s1.tray.phase = .failed then s1
  else { s1 with tray := { s1.tray with phase := .settle, selfChecked := true } }

def execPhaseSelfcheck (failures : List SelfCheckFail) (s : State) : Result :=
  if inPhase .selfcheck s && s.tray.memReady then .next (selfCheckEffect failures s) else .next s

/-- A tile meets the conditions of R391. -/
def hasSettled (x : Tile) : Bool :=
  x.heat.residValid && decide (x.heat.resid.toNat < x.heat.residMax.toNat) && x.conv.windowUsed

/-- A WARM, locked tile becomes READY at the end of its settling. -/
def readyTile (t : TileIx) (s : State) : State :=
  let s1 := enterTile t .ready (reloadResident t s)
  { s1 with tray := { s1.tray with settled := s1.tray.settled ||| (1#10 <<< t.val) } }

/-- A tile of the timeline that settles now. -/
def settling (s : State) (t : TileIx) : Bool :=
  decide (s.tiles[t].state = .warm) && s.tiles[t].laser.locked && !s.tray.lateTiles.getLsbD t.val

/-- Tiles that have settled become READY. -/
def execPhaseSettle (s : State) : Result :=
  if inPhase .settle s then
    .next (((List.finRange 10).filter (fun t => settling s t && hasSettled s.tiles[t])).foldl (fun s t => readyTile t s) s)
  else .next s

/-- 4.2 s of SETTLE have passed: the tile is READY all the same, with SETTLE_LONG (R391). -/
def execSettleTimeout (tile : TileIx) (s : State) : Result :=
  if inPhase .settle s && settling s tile then
    .next (event evSettleLong (BitVec.ofNat 16 tile.val) 0 (readyTile tile s))
  else .next s

/-- The newest shutdown record: its REASON and SEQ, if its magic and check word match. -/
def lastShutdown (s : State) : Option (Nat × Nat) :=
  let b := flashRead s .archive (0x30000 + 256 * ((s.flash.shutPtr + 255) % 256)) 256
  if field b 0 4 = 0x44535A51 ∧ field b 252 4 = (crc32c (b.take 252)).toNat then some (byteAt b 4, field b 8 4) else none

/-- TRIP_HISTORY at the first DONE after a trip (R446). -/
def tripReport (s : State) : State :=
  match lastShutdown s with
  | none => s
  | some (reason, seq) =>
    let q := BitVec.ofNat 16 seq
    if reason = 2 ∧ s.tray.tripHistory ≠ some q then
      raiseAlarm false evTripHistory 0 (event evTripHistory 0 q { s with tray := { s.tray with tripHistory := some q } })
    else s

/-- UNCLEAN_SHUTDOWN after a shutdown that left no record (R380). -/
def uncleanReport (s : State) : State :=
  if s.tray.unclean then raiseAlarm false evUncleanShutdown 0 (event evUncleanShutdown 0 0 s) else s

/-- FW_COUNTER follows the running image (R428). -/
def advanceFw (s : State) : State :=
  let r := s.flash.images[bankIx s.flash.runningBank].rollback
  if fwCounter s < r ∧ !s.flash.oneTimeBad then advanceCounter (infoBase + 0x4000) r s else s

/-- Half-erased units erased again at P7, and the next sector of the shutdown log where it is not erased (R375, R424). -/
def reEraseAll (s : State) : State :=
  let sec := 0x30000 + 4096 * ((s.flash.shutPtr / 16 + 1) % 16)
  let us := s.flash.halfErased ++
    (if flashRead s .archive sec 4096 = List.replicate 4096 0xFF#8 ∨ (FlashArray.archive, sec) ∈ s.flash.halfErased then []
     else [(FlashArray.archive, sec)])
  us.foldl (fun s p => enqueue (decide (p.1 ≠ .archive)) .reErase [.erase p.1 (unitAt p.1 p.2) p.2 0 0] s) s

/-- DONE: no tile of the timeline is still WARM; RUN, or STANDBY in that role (R396). -/
def doneEffect (s : State) : State :=
  let ps := if s.twin.role = .standby then PowerState.standby else s.tray.goal
  reEraseAll (tripReport (uncleanReport (advanceFw { s with tray := { s.tray with phase := .done, powerState := ps } })))

def execPhaseDone (s : State) : Result :=
  if inPhase .settle s && !waitsFor' s (fun _ => false) then .next (doneEffect s) else .next s

/-- A phase has passed its maximum end (R408). -/
def execStartPhaseLate (s : State) : Result :=
  if s.tray.phase = .done ∨ s.tray.phase = .failed ∨ s.tray.powerState = .off ∨ s.tray.powerState = .deep then .next s
  else .next (event evStartLate (BitVec.ofNat 16 s.tray.phase.code) 0 { s with tray := { s.tray with startLate := true } })

/-! ### Held streams (R390) -/

/-- At the first slot marker at least 1 ms after LOCKED, the held streams open together. -/
def execHeldStreamsOpen (s : State) : Result :=
  if firmwareRuns s ∧ s.radio.held ≠ 0 ∧ s.time.syncState = .locked then
    .next (event evSyncState 0 (SyncState.code .locked) (clearAlarm alHeldStreams 0 (openHeld s)))
  else .next s

/-- Streams have stayed held for 60 s after DONE. -/
def execHeldStreamsTimeout (s : State) : Result :=
  if s.tray.phase = .done ∧ s.radio.held ≠ 0 then .next (raiseAlarm false alHeldStreams 0 s) else .next s

end Sys2Proof.Machine
end

