-- ==== Sys2Proof/Machine/WoadOps.lean ====
section
/-! DEFINITION. The shared operations of the Woad sentinel: rules, their actions, sampling and filters, the thermal trip, and
the way into DEEP (chapters 15, 17). -/
namespace Sys2Proof.Machine

/-! ### Rules (R402, R403) -/

def Rule.enabled (r : Rule) : Bool := r.flags.getLsbD 0
def Rule.below (r : Rule) : Bool := r.flags.getLsbD 1
def Rule.latches (r : Rule) : Bool := r.flags.getLsbD 2

/-- A rule is active in the current power state (Table 15-9); in OFF none is. -/
def ruleActive (p : PowerState) (r : Rule) : Bool :=
  r.enabled && (match p with
    | .run => r.states.getLsbD 0
    | .idle => r.states.getLsbD 1
    | .standby => r.states.getLsbD 2
    | .deep => r.states.getLsbD 3
    | .off => false)

/-- A rule of an action is set. -/
def actionSet (s : State) (action : Nat) : Bool :=
  s.woad.rules.toList.any (fun r => r.isSet && decide (r.rule.action.toNat = action))

/-- Thresholds are signed for the temperature channels. -/
def threshold (channel : Nat) (v : W16) : Int := if 3 ≤ channel ∧ channel ≤ 5 then v.toInt else v.toNat

/-- A record that SENTINEL_RULE refuses (R402). -/
def ruleBad (b : List Byte) : Bool :=
  let r := parseRule b
  let set := threshold r.channel.toNat r.setAt
  let clear := threshold r.channel.toNat r.clearAt
  decide (12 ≤ r.channel.toNat) || decide (8 ≤ r.flags.toNat) || decide (7 ≤ r.action.toNat) || decide (16 ≤ r.states.toNat) ||
  decide (field b 12 4 ≠ (crc32c (b.take 12)).toNat) || decide (r.setDwell = 0) || decide (r.clearDwell = 0) ||
  (if r.below then decide (clear < set) else decide (set < clear))

/-- The level actions follow the rules that are set: the cap of SHED (Table 15-10). -/
def applyShed (s : State) : State := applyCap { s with power := { s.power with shed := actionSet s 2 } }

def setRule (i : Fin 16) (f : RuleState → RuleState) (s : State) : State :=
  { s with woad := { s.woad with rules := upd s.woad.rules i f } }

/-! ### Actions (Table 15-10) -/

/-- FORCE_HANDOVER: custody is released, HOLD stays low until firmware clears it; firmware follows the loss. -/
def forceHandover (s : State) : State :=
  let had := s.twin.grant
  let s1 := forceRelease s
  if had && firmwareRuns s then loseGrant { s1 with twin := { s1.twin with grant := true } } else s1

/-- SHUTDOWN: DEEP is requested; a tray with custody and a STANDBY twin hands over first, a STANDBY tray leaves its role
(Tables 15-10, 15-12). -/
def requestDeep (s : State) : State :=
  if !firmwareRuns s || decide (s.tray.phase ≠ .done) || s.tray.deepReq then s
  else
    let s1 := { s with tray := { s.tray with deepReq := true } }
    if s.twin.role = .standby then leavePair s1
    else if s.twin.grant ∧ s.twin.role = .active ∧ s.twin.pairState = .synced ∧ linkCarries s ∧ s.twin.handover.isNone then
      beginHandover none s1
    else s1

/-- A rule's action fires. ALARM and NONE rest on the rule's state alone. -/
def fireRule (r : Rule) (s : State) : State :=
  match r.action.toNat with
  | 1 => if s.tray.powerState = .deep ∧ !actionSet s 3 then beginStart false s else s
  | 2 => applyShed s
  | 3 => requestDeep s
  | 6 => forceHandover s
  | _ => s

/-! ### Sampling (R399, R400, R403) -/

/-- The value of a channel now. -/
def channelRaw (s : State) (c : Nat) : W16 :=
  if c = 0 then s.power.feeds[(0 : Fin 2)].mag
  else if c = 1 then s.power.feeds[(1 : Fin 2)].mag
  else if c = 2 then s.power.bank
  else if c = 3 then s.thermal.pkgMax.1
  else if c = 4 then s.thermal.boardMax.1
  else if c = 5 then s.thermal.inletMax.1
  else if c = 6 then (if s.woad.hbSeen || twinDeep s then 1 else 0)
  else if c = 7 then (if (List.finRange 6).any (fun p => portFitted s p && s.radio.ports[p].signal) then 1 else 0)
  else if c = 9 then (if s.twin.grant then 1 else 0)
  else 0

/-- A channel's value as a number. -/
def channelInt (c : Nat) (v : W16) : Int := threshold c v

def medianOf (a b c : Int) : Int := max (min a b) (min (max a b) c)

/-- One sample of a channel: the median of three, then the filter with 8 fraction bits. -/
def sampleChan (c : Nat) (v : W16) (x : WoadChan) : WoadChan :=
  let m := medianOf (channelInt c v) (channelInt c x.raw) (channelInt c x.last1)
  { x with raw := v, last1 := x.raw, last2 := x.last1, y := x.y + (m * 256 - x.y) / (2 ^ x.shift.toNat : Nat),
           fresh := if c = 3 then x.fresh else true }

/-- One evaluation of a rule: its counts move; where it is not active it is CLEAR. The transition at the end of a dwell is the
command WOAD_RULE_SET or WOAD_RULE_CLEAR (assumption 13). -/
def evalRule (p : PowerState) (chans : Vector WoadChan 12) (x : RuleState) : RuleState :=
  if !ruleActive p x.rule then { x with isSet := false, setCount := 0, clearCount := 0 }
  else
    let c := x.rule.channel.toNat
    let y := match chans.toList[c]? with
      | some ch => ch.y / 256
      | none => 0
    let hi := threshold c x.rule.setAt
    let lo := threshold c x.rule.clearAt
    if !x.isSet then
      { x with setCount := if (if x.rule.below then y < hi else hi < y) then x.setCount + 1 else 0 }
    else if !x.rule.latches then
      { x with clearCount := if (if x.rule.below then lo < y else y < lo) then x.clearCount + 1 else 0 }
    else x

/-- One Woad sample. -/
def woadSample (s : State) : State :=
  if !s.woad.powered then s
  else
    let cs : Vector WoadChan 12 := Vector.ofFn (fun c => sampleChan c.val (channelRaw s c.val) s.woad.chans[c])
    let a := s.power.feeds[(0 : Fin 2)].mag.toNat
    let b := s.power.feeds[(1 : Fin 2)].mag.toNat
    let w := { s.woad with
      chans := cs, rules := s.woad.rules.map (evalRule s.tray.powerState cs), samples := s.woad.samples + 1, hbSeen := false,
      lowSamples := if a < 3800 ∧ b < 3800 then s.woad.lowSamples + 1 else 0,
      goodSamples := if 4000 ≤ a ∨ 4000 ≤ b then s.woad.goodSamples + 1 else 0 }
    applyShed { s with woad := w }

/-! ### The thermal trip (R379, R443, Table 17-4) -/

/-- A stage from S2 on, or no stage: whether the sequence may still enter S2. -/
def beforeS2 (s : State) : Bool :=
  decide (s.power.stage = .none) || decide (s.power.stage = .s0) || decide (s.power.stage = .s1)

/-- TRIP: the latch, heaters to code 0, MAJOR, and S2 unless the sequence is past it. -/
def tripEffect (s : State) : State :=
  let s1 := raiseAlarm true alTrip 0 { s with
    woad := { s.woad with tripLatch := true }, tiles := s.tiles.map tripHeaters }
  if s.tray.powerState = .off then { s1 with power := { s1.power with offWait := .powerCycle } }
  else if beforeS2 s then
    enterS2 .trip s.power.feeds[(0 : Fin 2)].mag s.power.feeds[(1 : Fin 2)].mag s.power.bank s1
  else s1

/-! ### DEEP (R397, R398, R406) -/

/-- WAKE rules on the heartbeat channel are armed only for a residence that begins while the tray is paired. -/
def armRules (s : State) : State :=
  if s.twin.pairState = .none ∨ s.twin.pairState = .linkDown ∨ twinDeep s then
    { s with woad := { s.woad with rules := s.woad.rules.map (fun x =>
        if x.rule.enabled && decide (x.rule.channel = 6) && decide (x.rule.action = 1) then
          { x with rule := { x.rule with flags := x.rule.flags &&& 0xFE#8 }, isSet := false, setCount := 0, clearCount := 0 }
        else x) } }
  else s

/-- The tray enters DEEP: a parting heartbeat, rules armed, custody released, no park journal, the stack rail off; descriptors
still held are lost without a completion (R307, R338). -/
def enterDeep (s : State) : State :=
  let s1 := armRules (sendHeartbeat 1 (if s.twin.role = .standby then leavePair s else s))
  let s2 := railsDown false s1
  { s2 with
    tray := { s2.tray with powerState := .deep, deepReq := false, powerCmd := none, unclean := false },
    time := { s2.time with rootLock := false },
    power := { s2.power with journal := none, charging := s.power.charging } }

end Sys2Proof.Machine
end

