-- ==== Sys2Proof/Machine/Woad.lean ====
section
/-! DEFINITION. The Woad sentinel's commands and events, POWER_STATE and DEEP, the service button (chapter 15, R576). -/
namespace Sys2Proof.Machine

/-! ### POWER_STATE and DEEP (R333, R397, R398) -/

/-- Every tile in service rests as soon as it is free. -/
def restTiles (s : State) : State :=
  let s1 := { s with tiles := s.tiles.map (fun x => if inService x || decide (x.state = .warm) || decide (x.state = .maint) then
    { x with resting := true } else x) }
  (List.finRange 10).foldl (fun s t => settleTile t s) s1

/-- Every DARK tile is lit. -/
def lightTiles (s : State) : State :=
  (List.finRange 10).foldl (fun s t => if s.tiles[t].state = .dark then lightTile t s else s) s

def powerStateBody (f : Fetched) (s : State) : Body :=
  let target := f.desc.u8 8
  if s.tray.phase ≠ .done ∨ s.tray.powerCmd.isSome ∨ s.tray.deepReq ∨ (target ≠ 0 ∧ streamOpen s) then
    .done s (Reply.of codeStateIllegal)
  else
    let s1 := { s with tray := { s.tray with powerCmd := some f } }
    if target = 0 then
      (if s.tray.powerState = .run then .done s (Reply.of codeOk)
       else .running (tryPower (lightTiles { s1 with tray := { s1.tray with goal := .run } })))
    else if target = 1 then
      (if s.tray.powerState = .idle then .done s (Reply.of codeOk)
       else .running (tryPower (restTiles { s1 with tray := { s1.tray with goal := .idle } })))
    else .running { s1 with tray := { s1.tray with deepReq := true } }

/-- POWER_STATE. -/
def execPowerState (ring : RingIx) (s : State) : Result :=
  serve (isOp opPowerState) ring (fun f _ => [chk 8 (decide (2 < f.desc.u8 8))]) powerStateBody s

/-- DEEP was requested and no inference job runs: the command completes, then the tray enters DEEP. -/
def execDeepEntry (s : State) : Result :=
  if !firmwareRuns s || !s.tray.deepReq || inferenceRuns s || s.twin.handover.isSome then .next s
  else
    let s1 := match s.tray.powerCmd with
      | some f => completeAny f (Reply.of codeOk) s
      | none => s
    .next (enterDeep s1)

/-! ### SENTINEL_RULE (R402, R403, R405) -/

/-- One rule record written: the rule is CLEAR, its counts zero and its action released; the stored set follows. -/
def writeRule (i : Fin 16) (r : Rule) (s : State) : State :=
  storeRules (applyShed (setRule i (fun _ => RuleState.of r) s))

def sentinelRuleBody (f : Fetched) (s : State) : Body :=
  let i : Fin 16 := ⟨f.desc.u8 8 % 16, by omega⟩
  match readFails s (f.desc.u64 0x10) 16 with
  | some c => .done s (Reply.of c)
  | none =>
    let b := daddrRead s (f.desc.u64 0x10) 16
    if ruleBad b then .done s (Reply.arg 0x10)
    else .done (writeRule i (parseRule b) s) (Reply.of codeOk)

/-- SENTINEL_RULE. -/
def execSentinelRule (ring : RingIx) (s : State) : Result :=
  serve (isOp opSentinelRule) ring (fun f s => [chk 8 (decide (15 < f.desc.u8 8)),
    chk 0x10 (badDaddr s.tray.variant (f.desc.u64 0x10) 1)]) sentinelRuleBody s

/-- A rule's SET_DWELL count is reached: SET, and its action fires. -/
def execWoadRuleSet (rule : Fin 16) (s : State) : Result :=
  let x := s.woad.rules[rule]
  if !s.woad.powered || x.isSet || !ruleActive s.tray.powerState x.rule then .next s
  else .next (fireRule x.rule (setRule rule (fun x => { x with isSet := true, setCount := x.rule.setDwell.toNat, clearCount := 0 }) s))

/-- Its CLEAR_DWELL count is reached: CLEAR, and its action is released; a latched rule stays. -/
def execWoadRuleClear (rule : Fin 16) (s : State) : Result :=
  let x := s.woad.rules[rule]
  if !s.woad.powered || !x.isSet || x.rule.latches then .next s
  else .next (applyShed (setRule rule (fun x => { x with isSet := false, setCount := 0, clearCount := 0 }) s))

/-- A parity error in rule memory: the factory set, then the stored set where firmware runs and one is valid; MINOR (R408). -/
def execWoadRuleParity (s : State) : Result :=
  if !s.woad.powered then .next s
  else
    let rs := match storedRules s with
      | some rs => if firmwareRuns s then rs else factoryRules
      | none => factoryRules
    .next (raiseAlarm false alRuleParity 0 (applyShed { s with woad := { s.woad with rules := rs, ruleParity := true } }))

/-! ### Fixed functions (R401) and Woad's own supply (R405, R445) -/

/-- No housekeeping round has completed in time: FORCE_HANDOVER and MAJOR; the scan's channel is not fresh (R399). -/
def execMadderLivenessTimeout (s : State) : Result :=
  if s.tray.powerState = .run ∨ s.tray.powerState = .idle ∨ s.tray.powerState = .standby then
    let s1 := raiseAlarm true alLiveness 0 (forceHandover s)
    .next { s1 with woad := { s1.woad with
      liveness := true, chans := upd s1.woad.chans (3 : Fin 12) (fun c => { c with fresh := false }) } }
  else .next s

/-- Two round values in a row at or above 115 degrees: TRIP. -/
def execThermalTrip (s : State) : Result :=
  if s.woad.powered ∧ 2 ≤ s.woad.tripRounds ∧ !s.woad.tripLatch then .next (tripEffect s) else .next s

/-- Woad's supply falls below its reset level, which it does only once the rails are off and no feed is present: the latch,
the retention memory and the rules are lost. -/
def execWoadPowerLoss (s : State) : Result :=
  if s.tray.powerState ≠ .off then .next s
  else .next { s with
    woad := { Woad.init with powered := false, samples := 0 },
    power := { s.power with journal := none, woadKept := false, shed := false,
                            offWait := if s.power.offWait = .powerCycle then .feed false else s.power.offWait } }

/-- Woad powers up with the factory rule set. -/
def execWoadPowerUp (s : State) : Result :=
  if s.woad.powered then .next s else .next { s with woad := Woad.init }

/-! ### The service button (R576) -/

/-- A short press toggles the LOC lamp. -/
def execServiceButtonPress (s : State) : Result :=
  if s.tray.powerState = .off ∨ s.tray.powerState = .deep then .next s
  else .next { s with tray := { s.tray with locLamp := !s.tray.locLamp } }

/-- The lamp has flashed for 10 min. -/
def execLocLampTimeout (s : State) : Result := .next { s with tray := { s.tray with locLamp := false } }

end Sys2Proof.Machine
end

