-- ==== Sys2Proof/Machine/Thermal.lean ====
section
/-! DEFINITION. The housekeeping round: sensors, zones, thresholds, skipping, fans, tap ratios (chapter 17, R68, R578). -/
namespace Sys2Proof.Machine

/-! ### Sensors and zones (R435 to R438, R561) -/

/-- I/O dies that a variant fits. -/
def ioDies (v : Variant) : Nat := portsFitted v / 2

/-- A zone has a die in this variant. -/
def zoneFitted (v : Variant) (z : Nat) : Bool :=
  if z < 14 then true else if z < 17 then decide (z - 14 < ioDies v) else decide (z - 17 < stacksFitted v)

/-- Housekeeping channels of a zone (Table 17-1). -/
def zoneChans (z : Nat) : List (Fin 64) :=
  (List.finRange 64).filter (fun c =>
    if z < 10 then decide (c.val / 3 = z) && decide (c.val < 30)
    else if z < 14 then decide (c.val / 2 = z + 5)
    else if z < 17 then decide (c.val = z + 24)
    else decide (c.val = z + 24))

/-- The zone of a channel. -/
def chanZone (c : Nat) : Option Nat :=
  if c < 30 then some (c / 3) else if c < 38 then some (c / 2 - 5) else if c < 47 then some (c - 24) else none

/-- A channel that carries a temperature: a sensor of a fitted die, or a board or inlet sensor. -/
def chanThermal (v : Variant) (c : Nat) : Bool :=
  match chanZone c with
  | some z => zoneFitted v z
  | none => decide (c < 53)

/-- A temperature channel after one conversion: broken on open or short, on 16 equal raw codes, or outside -40 to +140
degrees; a broken one reads +150 and stays so. -/
def readChan (stamp : W16) (r : HkReading) (x : HkChan) : HkChan :=
  let reps := if r.raw = x.raw ∧ x.repeats ≠ 0 then x.repeats + 1 else 1
  let bad := x.broken || r.open_ || decide (16 ≤ reps) || decide (r.raw.toInt < -640) || decide (2240 < r.raw.toInt)
  { x with value := if bad then 0x0960 else r.raw, stamp := stamp, raw := r.raw, repeats := reps, broken := bad }

/-- Any other channel, with its value and stamp. -/
def readPlain (stamp : W16) (r : HkReading) (x : HkChan) : HkChan := { x with value := r.raw, stamp := stamp, raw := r.raw }

/-- One reading of the round. A sensor of a die that is not fitted is not converted. -/
def takeReading (v : Variant) (stamp : W16) (cs : Vector HkChan 64) (r : HkReading) : Vector HkChan 64 :=
  if r.chan.val = 63 then cs
  else if 53 ≤ r.chan.val then upd cs r.chan (readPlain stamp r)
  else if chanThermal v r.chan.val then upd cs r.chan (readChan stamp r)
  else cs

/-- A channel as `HK_CHAN_c` shows it. -/
def chanWord (v : Variant) (x : HkChan) (c : Nat) : W16 × W16 :=
  if c < 53 ∧ !chanThermal v c then (0x8000, 0) else (x.value, x.stamp)

/-- The largest of some temperatures, with a stamp; 0x8000 for none. -/
def maxOf (stamp : W16) (vs : List W16) : W16 × W16 :=
  match vs with
  | [] => (0x8000, 0)
  | v :: rest => (rest.foldl (fun a b => if a.toInt < b.toInt then b else a) v, stamp)

def zoneMaxOf (v : Variant) (stamp : W16) (cs : Vector HkChan 64) (z : Nat) : W16 × W16 :=
  if zoneFitted v z then maxOf stamp ((zoneChans z).map (fun c => cs[c].value)) else (0x8000, 0)

def rangeMax (stamp : W16) (cs : Vector HkChan 64) (lo hi : Nat) : W16 × W16 :=
  maxOf stamp (((List.finRange 64).filter (fun c => decide (lo ≤ c.val) && decide (c.val < hi))).map (fun c => cs[c].value))

/-- The readings of the round, and the maxima written at its end. -/
def takeReadings (rs : List HkReading) (s : State) : State :=
  let v := s.tray.variant
  let stamp := (s.thermal.roundCount + 1).setWidth 16
  let cs := rs.foldl (takeReading v stamp) s.thermal.chans
  let zs : Vector (W16 × W16) 23 := Vector.ofFn (fun z => zoneMaxOf v stamp cs z.val)
  { s with
    thermal := { s.thermal with
      chans := cs, zoneMax := zs, boardMax := rangeMax stamp cs 47 51, inletMax := rangeMax stamp cs 51 53,
      pkgMax := maxOf stamp (((List.finRange 23).filter (fun z => zoneFitted v z.val)).map (fun z => zs[z].1)),
      roundCount := s.thermal.roundCount + 1, hkRound := s.thermal.nextRound },
    flash := { s.flash with boardTemp := cs[(48 : Fin 64)].value.toInt, madderTemp := zs[(13 : Fin 23)].1.toInt } }

/-- SENSOR_BROKEN of each channel that has become broken: MAJOR for a package sensor, else MINOR (Table 17-5). -/
def reportSensors (was : Vector HkChan 64) (s : State) : State :=
  ((List.finRange 64).filter (fun c => s.thermal.chans[c].broken && !was[c].broken)).foldl (fun s c =>
    let src := BitVec.ofNat 16 c.val
    raiseAlarm (decide (c.val < 47)) evSensorBroken src (event evSensorBroken src 0 s)) s

/-! ### Thresholds (R439 to R442) -/

/-- A threshold of one zone after one round: levels in 1/16 degree. -/
def stepThreshold (assert clear : Int) (v : Int) (t : Threshold) : Threshold :=
  if t.on then
    (if v ≤ clear then (if 1 ≤ t.below then { on := false, above := 0, below := 0 } else { t with below := t.below + 1 })
     else { t with below := 0 })
  else
    (if assert ≤ v then (if 1 ≤ t.above then { on := true, above := 0, below := 0 } else { t with above := t.above + 1 })
     else { t with above := 0 })

def stepZones (v : Variant) (assert clear : Int) (zs : Vector (W16 × W16) 23) (ts : Vector Threshold 23) :
    Vector Threshold 23 :=
  Vector.ofFn (fun z => if zoneFitted v z.val then stepThreshold assert clear zs[z].1.toInt ts[z] else ts[z])

/-- Events of the zones whose threshold `k` has changed. -/
def thresholdEvents (k : Nat) (was now : Vector Threshold 23) (s : State) : State :=
  (List.finRange 23).foldl (fun s z =>
    let src := BitVec.ofNat 16 z.val
    if now[z].on && !was[z].on then event evThermal src (BitVec.ofNat 16 k) s
    else if was[z].on && !now[z].on then event evThermal src (BitVec.ofNat 16 (0x8000 + k)) s
    else s) s

/-- HANDOVER: MAJOR for each zone; one takeover request for each assertion, to a twin that can take over (R442). -/
def handoverActions (was now : Vector Threshold 23) (s : State) : State :=
  let s1 := (List.finRange 23).foldl (fun s z =>
    let src := BitVec.ofNat 16 z.val
    if now[z].on then raiseAlarm true evThermal src s else clearAlarm evThermal src s) s
  let rises := (List.finRange 23).any (fun z => now[z].on && !was[z].on)
  if rises && twinStandsBy s && !hbFlag s 2 then requestTakeover evThermal s1
  else if now.toList.any (fun t => t.on) then s1 else withdrawTakeover evThermal s1

/-- The skip level of a tile after a round: 0 none, 1 one symbol in 4, 2 one in 2 (R440). -/
def skipLevel (on : Bool) (v : Int) (old : BitVec 2) : BitVec 2 :=
  if !on then 0 else if 1640 ≤ v then 2 else if v ≤ 1600 ∨ old = 0 then 1 else old

/-- The four thresholds compared with every zone maximum; CCLK follows DIVIDE at the next heater frame boundary (R441). -/
def stepThresholds (s : State) : State :=
  let v := s.tray.variant
  let t := s.thermal
  let warn := stepZones v 1520 1472 t.zoneMax t.warn
  let skip := stepZones v 1600 1552 t.zoneMax t.skip
  let divide := stepZones v 1680 1632 t.zoneMax t.divide
  let hand := stepZones v 1760 1712 t.zoneMax t.handover
  let s1 := { s with thermal := { t with
    warn := warn, skip := skip, divide := divide, handover := hand } }
  let ts : Vector Tile 10 := Vector.ofFn (fun k =>
    let z : Fin 23 := ⟨k.val, by omega⟩
    { s1.tiles[k] with skip := skipLevel skip[z].on t.zoneMax[z].1.toInt s1.tiles[k].skip })
  let s2 := { s1 with tiles := ts }
  if firmwareRuns s then
    handoverActions t.handover hand (thresholdEvents 3 t.handover hand (thresholdEvents 2 t.divide divide
      (thresholdEvents 1 t.skip skip (thresholdEvents 0 t.warn warn s2))))
  else s2

/-- Time under SKIP, in windows of 24 h; above 1 %, a tile event and MINOR (Table 17-5). -/
def countSkip (s : State) : State :=
  let now := s.time.symbolCount
  let dt := (now - s.thermal.lastRound).toNat
  let fresh := decide (339738624000000 ≤ (now - s.thermal.skipSince).toNat)
  let ks : Vector Nat 10 := Vector.ofFn (fun k =>
    (if fresh then 0 else s.thermal.skipTime[k]) + (if s.tiles[k].skip = 0 then 0 else dt))
  let s1 := { s with thermal := { s.thermal with
    skipTime := ks, skipSince := if fresh then now else s.thermal.skipSince, lastRound := now } }
  (List.finRange 10).foldl (fun s (k : TileIx) =>
    if ks[k] ≤ 3397386240000 then s
    else if ks[k] - dt ≤ 3397386240000 then raiseAlarm false alSkipTime (BitVec.ofNat 16 k.val) (tileEvent 4 k s)
    else raiseAlarm false alSkipTime (BitVec.ofNat 16 k.val) s) s1

/-! ### Fans (R447) -/

/-- The common speed [%]: 30 below 70 degrees, linear to 100 at 90, 100 while a WARN stands, a fan has failed, a board or inlet
sensor is broken (Table 17-5) or the inlet is above 45 degrees. -/
def fanTarget (s : State) : Nat :=
  let p := s.thermal.pkgMax.1.toInt
  let broken := (List.finRange 64).any (fun c => decide (47 ≤ c.val) && decide (c.val < 53) && s.thermal.chans[c].broken)
  if broken ∨ s.thermal.warn.toList.any (fun t => t.on) ∨ s.thermal.fanFailed ≠ 0 ∨ 720 < s.thermal.inletMax.1.toInt then 100
  else if p < 1120 then 30 else if 1440 ≤ p then 100 else 30 + (70 * (p - 1120) / 320).toNat

/-- A fan below half its commanded speed for 2 s (R447, Table 17-5). -/
def execFanFailure (fan : Fin 5) (s : State) : Result :=
  if !firmwareRuns s || s.thermal.fanFailed.getLsbD fan.val then .next s
  else
    let m := s.thermal.fanFailed ||| (1#5 <<< fan.val)
    let src := BitVec.ofNat 16 fan.val
    let s1 := raiseAlarm false evFanFailed src (event evFanFailed src 0
      { s with thermal := { s.thermal with fanFailed := m, fanSpeed := 100 } })
    .next (if 2 ≤ popCount 5 m.toNat then raiseAlarm true evFanFailed src s1 else s1)

/-! ### Tap ratios (R67, R68, Table 2-4) -/

/-- num/den lies more than 0.5 dB below a reference in 1/256 dB: 2,560 times its decadic logarithm is below the reference less
128. -/
def ratioFalls (num den : Nat) (ref : Int) : Bool :=
  let e := ref - 128
  if 0 ≤ e then decide (num ^ 2560 < den ^ 2560 * 10 ^ e.toNat) else decide (num ^ 2560 * 10 ^ (-e).toNat < den ^ 2560)

/-- The last code of a monitor channel (Table 3-4). -/
def monCode (x : Tile) (k : Nat) : Nat := (x.conv.mon.toList.getD k (0, 0)).1.toNat

/-- A reference ratio of block 0x0008 (Table 5-7). -/
def tapRef (t : TileIx) (x : Tile) (i : Nat) : Int := s16At (memReadN (coefDefault t) x.cal.coefs (0x0008 * 2 ^ 24 + 2 * i) 2) 0

/-- The sum of squares of the corrected samples of a port group's streams in the last closed window, and the symbols that it
covers (R92). -/
def groupSquares (x : Tile) (g : Nat) : Nat :=
  ((List.finRange 256).map (fun k => if k.val / 32 = g then x.conv.closed.streams[k].2 else 0)).sum
def windowSymbols (x : Tile) : Nat := x.conv.closed.pairs[(0 : Fin 256)].n0 + x.conv.closed.pairs[(0 : Fin 256)].n1

/-- The ratio of a row of Table 2-4 falls, for group `g` from row 3 on: row 1 by T0 and T6 together against their setpoints; row
6 against what the programmed D predicts (R67); row 8 by the mean square of the outputs in LSB^2 against the code of T5
(assumption 80). T0 and T6 take 10 times the light of the others for one code (Table 3-4). -/
def rowFalls (t : TileIx) (x : Tile) (row g : Nat) : Bool :=
  let c := monCode x
  if row = 1 then ratioFalls (c 0) x.laser.t0Set.toNat 0 && ratioFalls (c 41) x.laser.t6Set.toNat 0
  else if row = 2 then ratioFalls (c 41) (c 0) (tapRef t x 0)
  else if row = 3 then ratioFalls (c (1 + g)) (10 * c 0) (tapRef t x (1 + g))
  else if row = 6 then ratioFalls (c (25 + g)) (c (17 + g))
    (Config.predictedTap x.mesh.active.image x.cal.drift.xx g (tapRef t x (25 + g)))
  else if row = 8 then decide (0 < windowSymbols x) &&
    ratioFalls (groupSquares x g) (2 ^ 20 * windowSymbols x * c (33 + g)) (tapRef t x (41 + g))
  else ratioFalls (c (8 * (row - 3) + 1 + g)) (c (8 * (row - 4) + 1 + g)) (tapRef t x (8 * (row - 3) + 1 + g))

/-- A row of Table 2-4 applies: its ratio falls while the ratio of its second column holds. -/
def rowShows (t : TileIx) (x : Tile) (row g : Nat) : Bool :=
  rowFalls t x row g &&
  (if row = 1 then true
   else if row = 2 then (List.range 8).all (fun k => !rowFalls t x 3 k)
   else if row = 3 then !rowFalls t x 2 0
   else !rowFalls t x (row - 1) g)

/-- Rows and groups of Table 2-4. -/
def tapRows : List (Nat × Nat) := [(1, 0), (2, 0)] ++ (List.range 6).flatMap (fun r => (List.range 8).map (fun g => (r + 3, g)))

/-- Steps that a row of Table 2-4 drives, for the group whose ratio has fallen. -/
def rowSteps (row g : Nat) : List StepKind :=
  if row = 4 then [.dacTable ⟨g % 8, by omega⟩]
  else if row = 5 then (List.range 66).map (fun c => .segCol false c)
  else if row = 6 then [.segD]
  else if row = 7 then (List.range 66).map (fun c => .segCol true c)
  else ((List.finRange 128).filter (fun r => decide (r.val / 16 = g))).flatMap (fun r => [.pathTest r false, .pathTest r true])

/-- A loss located: its event and its action (Table 2-4). Row 1 plans a stripe change (R33), one of the two actions that the table
allows; a stripe that fails trips the comparators (DESIGN CHOICE, assumption 46). A receiver alarm on a tile whose test DAC is
unusable is fatal (Table 3-10). -/
def lossLocated (t : TileIx) (row g : Nat) (s : State) : State :=
  let s1 := event evLossLocated (BitVec.ofNat 16 t.val) (BitVec.ofNat 16 row) s
  if row = 1 then setTile t (fun x => { x with laser := { x.laser with changeDue := true } }) s1
  else if row = 2 ∨ row = 3 ∨ (row = 8 ∧ s.tiles[t].conv.testDacBad) then faultTile t s1
  else
    let gx : Fin 8 := ⟨g % 8, by omega⟩
    let s2 := setTile t (fun x => { x with cal := { demandSteps (rowSteps row g) x.cal with
      rxAlarm := if row = 8 then gx :: x.cal.rxAlarm else x.cal.rxAlarm } }) s1
    settleTile t (openGap t .repair s2)

/-- Rounds that each falling ratio has lasted, and the losses that have lasted three (R68); a tile out of service shows none. -/
def stepTaps (s : State) : State :=
  let old := fun (t : TileIx) (p : Nat × Nat) =>
    match s.thermal.tapLow.find? (fun e => decide (e.1 = t ∧ e.2.1 = p.1 ∧ e.2.2.1 = p.2)) with
    | some e => e.2.2.2
    | none => 0
  let now := ((List.finRange 10).filter (fun t => inService s.tiles[t])).flatMap (fun t =>
    (tapRows.filter (fun p => rowShows t s.tiles[t] p.1 p.2)).map (fun p => (t, p.1, p.2, old t p + 1)))
  (now.filter (fun e => decide (e.2.2.2 = 3))).foldl
    (fun s e => if inService s.tiles[e.1] then lossLocated e.1 e.2.1 e.2.2.1 s else s)
    { s with thermal := { s.thermal with tapLow := now } }

/-! ### The lit stripe and the trim reference (R33, R123, R161, Table 4-6) -/

/-- The bias that holds T0 at its setpoint, within 40 to 250 mA; a stripe that needs more than 230 mA is marked worn, with its
event and a seal, and a change is planned (R33, R161). -/
def biasRound (s : State) (t : TileIx) : State :=
  let x := s.tiles[t]
  if !inService x ∨ !x.laser.locked then s
  else
    let l := x.laser.lit
    let need := Config.laserBias t x.laser.t0Set.toNat (monCode x 0) x.laser.stripes[l].bias.toNat
    let bias := BitVec.ofNat 16 (min 4000 (max 640 need))
    let worn := decide (3680 < need) && decide (x.laser.stripes[l].state = .lit)
    let s1 := setTile t (fun x => { x with
      laser := { x.laser with
        stripes := upd x.laser.stripes l (fun p => { p with bias := bias, state := if worn then .worn else p.state }),
        changeDue := x.laser.changeDue || worn },
      cal := { x.cal with changed := x.cal.changed || decide (bias ≠ x.laser.stripes[l].bias) } }) s
    if worn then sealRecord 2 t (event evStripeWorn (BitVec.ofNat 16 t.val) (BitVec.ofNat 16 l.val) s1) else s1

/-- A trim thermistor outside -20 to +130 degrees, or 10 degrees from its neighbours (Table 4-6): codes of 1/16 degree from -64. -/
def thermistorBad (c : Nat → Nat) (i : Nat) : Bool :=
  let far := fun (k : Nat) => decide (160 ≤ ((c i : Int) - c k).natAbs)
  decide (c i < 704 ∨ 3104 < c i) || (if i = 0 then far 1 else if i = 1 then far 0 && far 2 else far 1)

/-- DRIFT of every zone from the three trim reference thermistors (R123), in 12 bits signed; frozen with a tile event while one is
bad (Table 4-6, assumption 76). -/
def trimRound (s : State) (t : TileIx) : State :=
  let x := s.tiles[t]
  if !holdsImage x then s
  else
    let c := fun (i : Nat) => monCode x (42 + i)
    if (List.range 3).any (thermistorBad c) then
      (if x.heat.driftFrozen then s
       else event evHeaterFault (BitVec.ofNat 16 t.val) 0 (setTile t (fun x => { x with heat := { x.heat with driftFrozen := true } }) s))
    else
      let zs : Vector TrimZone 128 := Vector.ofFn (fun z => { x.heat.zones[z] with
        drift := clampInt (-2048) 2047 (Config.trimDrift t z.val (c 0) (c 1) (c 2)) })
      setTile t (fun x => { x with
        heat := { x.heat with zones := zs, driftFrozen := false },
        cal := { x.cal with changed := x.cal.changed || decide (zs ≠ x.heat.zones) } }) s

/-! ### The round -/

/-- The contact read-back (R578). -/
def checkContacts (ok : Bool) (s : State) : State :=
  if ok then clearAlarm alContact 0 { s with thermal := { s.thermal with contactFault := false } }
  else raiseAlarm true alContact 0 (event evNvmFault 0xFF 0 { s with thermal := { s.thermal with contactFault := true } })

/-- What Woad sees of a round: its channel 3, its length, that it has completed (R399, R401, R443). Firmware frees the
custody line that a forced handover held low once no such rule is set. -/
def woadRound (s : State) : State :=
  let hot := decide (1840 ≤ s.thermal.pkgMax.1.toInt)
  let w := { s.woad with
    tripRounds := if hot then s.woad.tripRounds + 1 else 0, liveness := false, roundLen := s.thermal.hkRound,
    forceHold := s.woad.forceHold && (!firmwareRuns s || actionSet s 6 || s.woad.clockFault),
    chans := upd s.woad.chans (3 : Fin 12) (fun c => { c with fresh := true }) }
  clearAlarm alLiveness 0 { s with woad := w }

/-- A housekeeping round ends. -/
def execHousekeepingRoundEnd (readings : List HkReading) (contactOk : Bool) (s : State) : Result :=
  if !madderUp s || !s.power.railsOn then .next s
  else
    let s1 := takeReadings readings { s with tray := { s.tray with roundEvents := [] } }
    let s2 := countSkip (stepThresholds (woadRound s1))
    if !firmwareRuns s then .next s2
    else
      let s3 := reportSensors s.thermal.chans s2
      let s4 := { s3 with thermal := { s3.thermal with fanSpeed := BitVec.ofNat 7 (fanTarget s3) } }
      let s5 := checkContacts contactOk (if coreRuns s 1 then oscRound s4 else s4)
      .next (if coreRuns s 3 then stepTaps ((List.finRange 10).foldl biasRound ((List.finRange 10).foldl trimRound s5)) else s5)

/-- A tile has stood at or above 100 degrees for 50 ms: one symbol in 2 (R440). -/
def execSkipEscalation (tile : TileIx) (s : State) : Result :=
  let z : Fin 23 := ⟨tile.val, by omega⟩
  if s.tiles[tile].skip = 1 ∧ 1600 ≤ s.thermal.zoneMax[z].1.toInt then
    .next (setTile tile (fun x => { x with skip := 2 }) s)
  else .next s

end Sys2Proof.Machine
end

