-- ==== Sys2Proof/Machine/Time.lean ====
section
/-! DEFINITION. Clocks and timing input: the root PLL, the Woad oscillator check, PTP and SyncE, and the sync states
(chapter 08). -/
namespace Sys2Proof.Machine

/-- The root PLL locks: the symbol counter and time of day begin (R219, R230, R231). -/
def execRootPllLock (s : State) : Result :=
  if s.time.rootLock then .next s
  else .next { s with time := { s.time with
    rootLock := true, lockFails := 0, symbolCount := 0, todSec := gpsEpoch, todTick := 0, clockFault := false } }

/-- Loss of lock after 10 consecutive failed comparisons (R219). -/
def execRootPllUnlock (s : State) : Result :=
  if s.time.rootLock then .next { s with time := { s.time with rootLock := false, lockFails := 10 } } else .next s

/-- CLOCK_FAULT: Woad drives MAJOR and executes FORCE_HANDOVER; core 1 stops refreshing the custody-hold line, and a warm
restart is due (R223, R239). -/
def clockFaultEffect (s : State) : State :=
  let s1 := forceRelease (raiseAlarm true alClockFault 0 s)
  { s1 with
    time := { s1.time with clockFault := true, rootFaults24 := s1.time.rootFaults24 + 1 },
    woad := { s1.woad with clockFault := true },
    tray := { s1.tray with restartDue := true } }

/-- Root loss of lock has lasted 100 us, or two trimmed counts in a row were more than 1 % off (R223). -/
def execClockFault (s : State) : Result :=
  if s.woad.powered ∧ ((!s.time.rootLock ∧ 10 ≤ s.time.lockFails) ∨ 2 ≤ s.woad.badCounts) then .next (clockFaultEffect s)
  else .next s

/-- Distance of a Woad count from 122,880. -/
def countError (count : Nat) : Nat := if count ≤ 122880 then 122880 - count else count - 122880

/-- A Woad count over 1 ms while HCLK runs (R222, R223, Table 8-7). -/
def execWoadTrimCount (count : BitVec 17) (s : State) : Result :=
  if !s.time.rootLock ∨ !s.woad.powered then .next s
  else
    let e := countError count.toNat
    let s1 := { s with woad := { s.woad with hclkCount := count } }
    if s.woad.trimmed then
      if 1228800 < e * 1000 then
        let s2 := { s1 with woad := { s1.woad with badCounts := s1.woad.badCounts + 1 } }
        .next (if 2 ≤ s.woad.badCounts + 1 then clockFaultEffect s2 else s2)
      else .next { s1 with woad := { s1.woad with badCounts := 0 } }
    else if 15 * 122880 < e * 1000 then
      .next (raiseAlarm false alWoadOsc 0 { s1 with woad := { s1.woad with hclkSampling := true } })
    else .next { s1 with woad := { s1.woad with trimmed := decide (e * 10000 ≤ 5 * 122880), badCounts := 0 } }

/-- Whether a port may feed the servo (Table 8-2, TIME_CONFIG). -/
def ptpEnabled (s : State) (port : PortIx) : Bool := s.time.ptpPorts.getLsbD port.val

/-- Order of masters: the profile's data set, then localPriority of the port, then the lower port number (R227, Table 8-6). -/
def masterKey (s : State) (m : Master) : Nat :=
  (m.rank * 256 + s.time.localPriority[m.port].toNat) * 8 + m.port.val

/-- The better of two masters. -/
def betterMaster (s : State) (a b : Master) : Master := if masterKey s a ≤ masterKey s b then a else b

/-- The master that the alternate BMCA selects: a second Announce qualifies one (Table 8-8). -/
def bestMaster (s : State) : Option Master :=
  match s.time.masters.filter (fun m => decide (2 ≤ m.announces) && ptpEnabled s m.port) with
  | [] => none
  | m :: ms => some (ms.foldl (betterMaster s) m)

/-- The selection after the list of masters has changed; a first master starts ACQUIRING (Table 8-3). -/
def selectMaster (s : State) : State :=
  match bestMaster s with
  | none => s
  | some m =>
    let s1 := { s with time := { s.time with master := some m, ptpPort := some m.port } }
    if s.time.syncState = .freerun then enterSync .acquiring s1 else s1

/-- An Announce of a master on a port. -/
def noteAnnounce (port : PortIx) (identity : W64) (rank : Nat) (ms : List Master) : List Master :=
  if ms.any (fun m => decide (m.port = port) && decide (m.identity = identity)) then
    ms.map (fun m => if m.port = port ∧ m.identity = identity then { m with rank := rank, announces := m.announces + 1 } else m)
  else { port := port, identity := identity, rank := rank, announces := 1 } :: ms

/-- A word the servo has steered: the spec gives no control law, so it is free (R220, assumption 3). -/
def steer (s : State) : State :=
  if s.time.oscHeld then s
  else { (draw s).2 with time := { s.time with oscTuning := (draw s).1.setWidth 24, oscSteered := (draw s).1.setWidth 24 } }

/-- A slew of the phase offset `off` begins (R231, R232). -/
def startSlew (off : Int) (s : State) : State :=
  { s with time := { s.time with slewing := decide (off ≠ 0), slewLeft := off } }

/-- A returned master: LOCKED at the first filtered offset, then a slew; a pending takeover request is withdrawn (R232, R238). -/
def returnMaster (off : Int) (s : State) : State :=
  withdrawTakeover alHoldover (enterSync .locked (startSlew off { s with time := { s.time with holdover := none } }))

/-- A filtered offset of the selected port [ns], less the port's asymmetry correction (R224 to R232, Table 8-7, assumption 89). -/
def servoOffset (port : PortIx) (measured : Int) (s : State) : State :=
  if s.time.ptpPort ≠ some port then s
  else
    let off := measured - s.time.asym[port]
    let s1 := { s with time := { s.time with ptpOffset := off } }
    match s.time.syncState with
    | .freerun => s1
    | .acquiring => steer s1
    | .holdIn => if s.time.oscHeld then s1 else returnMaster off s1
    | .holdOut => if s.time.oscHeld then s1 else returnMaster off s1
    | .locked =>
      if off.natAbs ≤ 1000 then steer { s1 with time := { s1.time with rejects := 0 } }
      else if s.time.rejects + 1 < 16 then { s1 with time := { s1.time with rejects := s.time.rejects + 1 } }
      else event evTimeStep (BitVec.ofNat 16 port.val) 0
        (startSlew off { s1 with time := { s1.time with rejects := 0 } })

/-- A PTP message on a port (R224 to R228); the servo and the selection of masters run on core 1 (R227). -/
def ptpEffect (port : PortIx) (msg : PtpMessage) (s : State) : State :=
  match msg with
  | .other => setPort port (fun p => { p with ptpDrop := satInc p.ptpDrop }) s
  | .announce d id rank =>
    if d ≠ s.time.domain ∨ !ptpEnabled s port then s
    else
      let s1 := { s with time := { s.time with masters := noteAnnounce port id rank s.time.masters } }
      let s2 := match s.time.master with
        | some m => if m.port = port ∧ m.identity = id then
            { s1 with time := { s1.time with lastAnnounceSC := s.time.symbolCount } } else s1
        | none => { s1 with time := { s1.time with lastAnnounceSC := s.time.symbolCount } }
      selectMaster s2
  | .sync d off => if d ≠ s.time.domain ∨ !ptpEnabled s port then s else servoOffset port off s
  | .followUp d off => if d ≠ s.time.domain ∨ !ptpEnabled s port then s else servoOffset port off s
  | .delayResp d off => if d ≠ s.time.domain ∨ !ptpEnabled s port then s else servoOffset port off s

def execPtpMessageRx (port : PortIx) (msg : PtpMessage) (s : State) : Result :=
  if firmwareRuns s ∧ port.val < portsFitted s.tray.variant ∧ (coreRuns s 1 ∨ msg = .other) then .next (ptpEffect port msg s)
  else .next s

/-- Holdover begins: e0 is at least 100 ns and covers a slew still running; t runs from the last Announce (R231). -/
def startHoldover (s : State) : State :=
  let h : Holdover := { e0 := max 100 s.time.slewLeft.natAbs, startSC := s.time.lastAnnounceSC, withSyncE := s.time.synceValid }
  { s with time := { s.time with holdover := some h, slewing := false, slewLeft := 0 } }

/-- The twin's last heartbeat reports LOCKED (Table 18-5). -/
def twinLocked (s : State) : Bool := decide (s.twin.hbRx ≠ 0) && decide (byteAt s.twin.hbLast 0x04 = 2)

/-- The holdover state that the bound gives, and on entry into HOLDOVER_OUT the takeover request (R229, R231). -/
def boundState (out : Bool) (s : State) : State :=
  if out then
    let s1 := enterSync .holdOut s
    if twinLocked s && decide (s.time.syncState ≠ .holdOut) then requestTakeover alHoldover s1 else s1
  else enterSync .holdIn s

/-- The selected master is lost (R228, R231, Table 8-7). -/
def masterLost (s : State) : State :=
  let left := match s.time.master with
    | some m => s.time.masters.filter (fun x => !(decide (x.port = m.port) && decide (x.identity = m.identity)))
    | none => s.time.masters
  let s1 := { s with time := { s.time with masters := left, master := none, ptpPort := none } }
  match bestMaster s1 with
  | some _ => selectMaster s1
  | none =>
    match s.time.syncState with
    | .acquiring => enterSync .freerun s1
    | .locked => let s2 := startHoldover s1; boundState (decide (s2.time.holdLimit.toNat < holdBound s2)) s2
    | _ => s1

def execAnnounceReceiptTimeout (s : State) : Result :=
  if firmwareRuns s ∧ s.time.master.isSome then .next (masterLost s) else .next s

/-- The filtered offset has been within 50 ns for 8 s (R228): with no stream open time of day is stepped once, else slewed
(R231). -/
def execServoLocked (s : State) : Result :=
  if firmwareRuns s ∧ s.time.syncState = .acquiring ∧ s.time.master.isSome then
    let s1 := if !streamOpen s ∨ s.radio.held ≠ 0 then
        { s with time := { stepTod (-(nsTicks s.time.ptpOffset)) s.time with steppedOnce := true } }
      else startSlew s.time.ptpOffset s
    .next (enterSync .locked s1)
  else .next s

/-- The holdover bound has crossed HOLD_LIMIT: the state follows the bound (R231). -/
def execHoldoverLimitCrossed (s : State) : Result :=
  if s.time.syncState = .holdIn ∨ s.time.syncState = .holdOut then
    .next (boundState (decide (s.time.holdLimit.toNat < holdBound s)) s)
  else .next s

/-- The condition of SyncE changes; in holdover the bound reached becomes the new e0 and t restarts (R231). -/
def setSyncE (valid : Bool) (s : State) : State :=
  let s1 := { s with time := { s.time with synceValid := valid } }
  match s.time.holdover with
  | none => s1
  | some h =>
    if h.withSyncE = valid then s1
    else
      let h2 : Holdover := { e0 := holdBound s, startSC := s.time.symbolCount, withSyncE := valid }
      { s1 with time := { s1.time with holdover := some h2 } }

def execSynceLoss (s : State) : Result := .next (setSyncE false s)

/-- SyncE of the named port becomes valid (R226). -/
def execSynceValid (s : State) : Result := if s.time.syncePort.isSome then .next (setSyncE true s) else .next s

/-- The tuning word has stood at its range limit for 10 s: the servo holds it, HOLDOVER_IN_SPEC and MINOR (Table 8-7). -/
def execTuningRangeLimit (s : State) : Result :=
  if firmwareRuns s ∧ s.time.syncState = .locked then
    .next (raiseAlarm false alTuning 0
      (enterSync .holdIn (startHoldover { s with time := { s.time with oscHeld := true } })))
  else .next s

def execPhaseSlewEnd (s : State) : Result := .next { s with time := { s.time with slewing := false, slewLeft := 0 } }

/-- An ESMC message is counted and neither interpreted nor answered (R226). -/
def execEsmcMessageRx (port : PortIx) (s : State) : Result :=
  if port.val < portsFitted s.tray.variant then .next (setPort port (fun p => { p with esmc := satInc p.esmc }) s) else .next s

/-- A signed field of a descriptor. -/
def Descriptor.i32 (d : Descriptor) (o : Nat) : Int := signedOf 32 (d.u32 o)

/-- Range checks of TIME_CONFIG (R596). -/
def timeConfigArgs (f : Fetched) (s : State) : List (Nat × Bool) :=
  let d := f.desc
  let n := portsFitted s.tray.variant
  [chk 0x08 (decide (1 < d.u8 0x08)),
   chk 0x09 (decide (d.u8 0x09 < 24) || decide (43 < d.u8 0x09)),
   chk 0x0A (decide (2 ^ n ≤ d.u8 0x0A)),
   chk 0x0B (decide (d.u8 0x0B ≠ 0xFF) && decide (n ≤ d.u8 0x0B)),
   chk 0x0C (decide (39321600 ≤ (d.i32 0x0C).natAbs)),
   chk 0x10 (decide (d.u16 0x10 < 100) || decide (10000 < d.u16 0x10)),
   chk 0x12 (decide (d.u16 0x12 < 1) || decide (1000 < d.u16 0x12))] ++
  (List.range 6).map (fun p => chk (0x14 + 4 * p)
    (if p < n then decide (100000 < (d.i32 (0x14 + 4 * p)).natAbs) else decide (d.u32 (0x14 + 4 * p) ≠ 0))) ++
  (List.range 6).map (fun p => chk (0x2C + p)
    (if p < n then decide (d.u8 (0x2C + p) = 0) else decide (d.u8 (0x2C + p) ≠ 0)))

/-- The configuration of a TIME_CONFIG put in force (R224, R225, R231, R233, R234). -/
def applyTimeConfig (d : Descriptor) (s : State) : State :=
  let port : Option PortIx := if h : d.u8 0x0B < 6 then some ⟨d.u8 0x0B, h⟩ else none
  let s1 := { s with time := { s.time with
      numerology := BitVec.ofNat 3 (d.u8 0x08), domain := BitVec.ofNat 8 (d.u8 0x09),
      ptpPorts := BitVec.ofNat 8 (d.u8 0x0A), syncePort := port, frameOffset := d.i32 0x0C,
      holdLimit := BitVec.ofNat 16 (d.u16 0x10), slewMax := BitVec.ofNat 16 (d.u16 0x12),
      asym := Vector.ofFn (fun p => d.i32 (0x14 + 4 * p.val)),
      localPriority := Vector.ofFn (fun p => BitVec.ofNat 8 (d.u8 (0x2C + p.val))) } }
  let s2 := if port ≠ s.time.syncePort then setSyncE false s1 else s1
  let s3 := if s2.time.syncState = .holdIn ∨ s2.time.syncState = .holdOut then
      boundState (decide (s2.time.holdLimit.toNat < holdBound s2)) s2 else s2
  match s3.time.master with
  | some m => if ptpEnabled s3 m.port ∧ s3.time.domain = s.time.domain then s3 else masterLost s3
  | none => s3

def timeConfigBody (f : Fetched) (s : State) : Body :=
  let d := f.desc
  let numChanges := decide (BitVec.ofNat 3 (d.u8 0x08) ≠ s.time.numerology)
  if (numChanges || decide (d.i32 0x0C ≠ s.time.frameOffset)) && streamOpen s then .done s (Reply.of codeStateIllegal)
  else if numChanges && tupleArmed s then .done s (Reply.of codeStateIllegal)
  else .done (mirror none d.bytes [] (applyTimeConfig d s)) (Reply.of codeOk)

/-- TIME_CONFIG (R330, R596). -/
def execTimeConfig (ring : RingIx) (s : State) : Result := serve (isOp opTimeConfig) ring timeConfigArgs timeConfigBody s

end Sys2Proof.Machine
end

