-- ==== Sys2Proof/Machine/TwinLink.lean ====
section
/-! DEFINITION. The Seliviuk link: acknowledgement and replay, training, and the frames that mirror, copy, hand over, chain and
resynchronise (chapter 18). -/
namespace Sys2Proof.Machine

/-! ### Acknowledgement, replay and training (R457 to R459) -/

/-- An ACK or NAK frame: frames up to ACKSEQ are released; a NAK replays from the first that is left. -/
def execAckFrameRx (head : RxHead) (nak : Bool) (s : State) : Result :=
  .next (takeLinkFrame head (fun s => if nak then replay (releaseAcked head.ackSeq s) else releaseAcked head.ackSeq s) s)

/-- 2.5 us have passed without an acknowledgement. -/
def execReplayTimeout (s : State) : Result := if linkCarries s then .next (replay s) else .next s

/-- The link enters a state, with its event and alarm (Table 22-3). -/
def enterLink (l : LinkState) (s : State) : State :=
  let s1 := clearAlarm evTwinLink 0 (event evTwinLink 0 (BitVec.ofNat 16 l.code) { s with twin := { s.twin with linkState := l } })
  if l = .up1 then raiseAlarm false evTwinLink 0 s1 else s1

/-- Training ends with `lanes` lanes; three failures in a row take the link DOWN. -/
def execLinkTrainingEnd (lanes : Fin 3) (s : State) : Result :=
  if s.twin.linkState ≠ .training then .next s
  else if lanes = 0 then
    let s1 := { s with twin := { s.twin with trainFails := s.twin.trainFails + 1 } }
    .next (if 3 ≤ s1.twin.trainFails then enterLink .down s1 else s1)
  else
    .next (enterLink (if lanes = 1 then .up1 else .up) { s with twin := { s.twin with trainFails := 0, replayTries := 0 } })

/-- In DOWN for 1 s: MAJOR, and training again. -/
def execLinkTrainingRetry (s : State) : Result :=
  if s.twin.linkState ≠ .down then .next s
  else .next (raiseAlarm true evTwinLink 0 { s with twin := { s.twin with linkState := .training, trainFails := 0 } })

/-- No acknowledgement for 2 ms: commits complete, and the pair has lost its mirror (R280). -/
def execMirrorAckTimeout (s : State) : Result :=
  if s.twin.commitWaits = [] then .next s
  else
    let gs := s.twin.commitWaits.map (fun w => w.2.2.1)
    let s1 := { s with twin := { s.twin with
      commitWaits := [], pairState := if s.twin.role = .alone then s.twin.pairState else .mirrorLost } }
    let s2 := gs.foldl (fun s g => tryFinishCommit g s) s1
    .next (if s.twin.role = .alone then s2 else gs.foldl (fun s g => event evMirrorLost (BitVec.ofNat 16 g.val) 0 s) s2)

/-! ### Mirrored entries (R280, R281, R466) -/

/-- Its firmware takes sequenced frames. -/
def takesFrames (s : State) : Bool := firmwareRuns s && coreRuns s 3

/-- An id for an event or a swap that no descriptor of this tray waits for. -/
def freshId (s : State) : Nat × State := (s.nextId, { s with nextId := s.nextId + 1 })

/-- An instant of radio time as a symbol count of this tray. -/
def symbolAt (s : State) (at_ : Int) : W64 := BitVec.ofInt 64 ((s.time.symbolCount.toNat : Int) + (at_ - radioNow s))

/-- A mirrored EVENT_SET arms a comparator; what follows the descriptor is the ring, and for an absolute time the instant. -/
def mirrorEventSet (d : Descriptor) (entries : List Byte) (s : State) : State :=
  match freeComparators s with
  | [] => s
  | i :: _ =>
    let g : GroupIx := groupOf { bytes := List.replicate 8 0#8 ++ [BitVec.ofNat 8 (d.u8 9)] }
    let time := if d.u8 0x0A = 0 then EventTime.absolute (symbolAt s (field entries 1 8)) else eventTimeOf d
    let (id, s1) := freshId s
    let e : ArmedEvent := { time := time, action := if d.u8 8 = 0 then .radioSwap false else .tileSwap g,
                            ring := ⟨byteAt entries 0 % 64, by omega⟩, id := id, tag := d.tag }
    settleShadow g (setComparator i (some e) s1)

/-- A mirrored EVENT_CANCEL. -/
def mirrorEventCancel (d : Descriptor) (s : State) : State :=
  ((List.finRange 64).filter (fun i => match s.time.comparators[i] with
    | some e => cancels (d.u8 8) (BitVec.ofNat 32 (d.u32 0x0C)) e
    | none => false)).foldl cancelOne s

/-- A mirrored command takes the effect that it had at its source, which has checked it. -/
def mirrorCommand (d : Descriptor) (entries : List Byte) (s : State) : State :=
  let g := groupOf d
  let op := d.opcode
  if op = opSetOpen then
    setGroup g (fun x => { x with shadow := .opened }) { s with sets := openShadow g (decide (d.u8 9 = 0)) s.sets }
  else if op = opSetStage then { s with sets := stageAll (d.u8 9) (d.u16 0x0A) entries (d.u16 0x0C) s.sets }
  else if op = opSetCommit then
    let s1 := if g = 2 then storeCrcs s else s
    settleShadow g (if 3 ≤ g.val then loadMembers g s1 else s1)
  else if op = opSetDiscard then setGroup g (fun x => { x with shadow := .empty }) s
  else if op = opSetMember then applyMembers g (BitVec.ofNat 10 (d.u16 0x0A)) s
  else if op = opTimeConfig then applyTimeConfig d s
  else if op = opPowerCap then applyCap { s with power := { s.power with capHost := BitVec.ofNat 16 (d.u16 8) } }
  else if op = opEventSet then mirrorEventSet d entries s
  else if op = opEventCancel then mirrorEventCancel d s
  else s

/-- A mirrored swap: armed for its boundary, or applied at once where the boundary has passed, with the lag [us] reported. -/
def mirroredSwap (g : GroupIx) (at_ : W64) (s : State) : State :=
  let now := radioNow s
  let (id, s1) := freshId s
  if now < at_.toNat then
    match freeComparators s with
    | [] => s
    | i :: _ =>
      let e : ArmedEvent := { time := .absolute (symbolAt s at_.toNat),
                              action := if g = 0 then .radioSwap false else .tileSwap g, ring := 0, id := id, tag := 0 }
      settleShadow g (setComparator i (some e) s1)
  else
    let lag := BitVec.ofNat 16 (min 65535 ((now - at_.toNat).toNat * 100 / 393216))
    let s2 := if groupHeld s1 g then markHeld g (waitSwap g 0 id 0 s1)
              else doSwap g s1
    event evSwapLag (BitVec.ofNat 16 g.val) lag s2

/-- A journal entry applied, and acknowledged by JOURNAL_ACK. -/
def applyMirror (item : MirrorItem) (s : State) : State :=
  if !isSink s then s
  else
    let s1 := match item with
      | .command d es => mirrorCommand { bytes := d } es s
      | .swap g at_ => mirroredSwap g at_ s
    { s1 with twin := { s1.twin with journalAck := s1.twin.journalAck + 1 } }

/-- A MIRROR frame. -/
def execMirrorFrameRx (head : RxHead) (item : MirrorItem) (s : State) : Result :=
  if takesFrames s then .next (receive head (applyMirror item) s) else .next s

/-- A MEMCOPY frame: stack memory at the same address (R280). -/
def applyCopy (saddr : W64) (data : List Byte) (s : State) : State :=
  if isSink s && windowAnswers s saddr.toNat data.length && decide (data ≠ []) then
    trySynced (stackWrite saddr.toNat data s)
  else s

def execMemcopyFrameRx (head : RxHead) (saddr : W64) (data : List Byte) (s : State) : Result :=
  if takesFrames s then .next (receive head (applyCopy saddr data) s) else .next s

/-- A HANDOVER frame names the transfer point; the heartbeat timer stops (R474, Table 18-8). -/
def applyHandover (at_ : W64) (s : State) : State :=
  if isSink s && s.twin.handover.isNone then
    { s with twin := { s.twin with
        handover := some { at_ := at_, releasing := false, passed := false, cmd := none }, timerOn := false } }
  else s

def execHandoverFrameRx (head : RxHead) (at_ : W64) (s : State) : Result :=
  if takesFrames s then .next (receive head (applyHandover at_) s) else .next s

/-- A CHAIN frame: sums of the SHARE twin, in units of 2^-8. No command of this revision uses them (R477). -/
def applyChain (sums : List (Nat × Nat × BitVec 48)) (s : State) : State :=
  if s.twin.role = .share ∧ s.twin.pairState = .synced then
    { s with twin := { s.twin with chainSums := s.twin.chainSums ++ sums.map (fun x => (x.1, x.2.1, x.2.2.toInt)) } }
  else s

def execChainFrameRx (head : RxHead) (sums : List (Nat × Nat × BitVec 48)) (s : State) : Result :=
  if takesFrames s then .next (receive head (applyChain sums) s) else .next s

/-! ### Resynchronisation (R467) -/

/-- The shadow state of a code (Table 10-4); PENDING rests on the comparators of this tray. -/
def ShadowState.ofCode (c : BitVec 3) : ShadowState :=
  if c = 0 then .empty else if c = 1 then .opened else .staged

/-- An item of a resynchronisation applied. -/
def applyResync (item : ResyncItem) (s : State) : State :=
  if !isSink s then s
  else match item with
  | .entry g shadow kind i bs =>
    let sets := if shadow then stageEntry kind.toNat i bs s.sets
                else exchangeSets g (stageEntry kind.toNat i bs (exchangeSets g s.sets))
    let s1 := { s with sets := sets }
    trySynced (if g = 0 ∧ !shadow then moveBoundary s1 else s1)
  | .state g epoch st members =>
    let s1 := if 3 ≤ g.val ∧ s.sets.groups[g].members ≠ members then applyMembers g members s else s
    let s2 := setGroup g (fun x => { x with epoch := epoch, shadow := ShadowState.ofCode st }) s1
    trySynced (if ShadowState.ofCode st = .staged then settleShadow g s2 else s2)
  | .journal seq => trySynced { s with twin := { s.twin with journalAck := seq } }

/-- A RESYNC frame. -/
def execResyncFrameRx (head : RxHead) (item : ResyncItem) (s : State) : Result :=
  if takesFrames s then .next (receive head (applyResync item) s) else .next s

end Sys2Proof.Machine
end

