-- ==== Sys2Proof/Machine/Xelin.lean ====
section
/-! DEFINITION. Xelin moves into operand ports, and the triggers of the long-immediate, ALU, multiply, compare, branch, stack, tag,
timer and control-and-status units (chapter 20). -/
namespace Sys2Proof.Machine

/-! ### Operand ports (R484) -/

/-- A value latched in an operand port; DISCARD latches nothing. LIMM.HI takes 16 bits (R522). -/
def Operands.latch (d : Nat) (v : W32) (o : Operands) : Operands :=
  if d = 0x08 then { o with limmHi := v &&& 0xFFFF#32 }
  else if d = 0x10 then { o with aluA := v }
  else if d = 0x20 then { o with mulA := v }
  else if d = 0x28 then { o with cmpA := v }
  else if d = 0x29 then { o with cmpG := v }
  else if d = 0x38 then { o with lsuBase := v }
  else if d = 0x39 then { o with lsuData := v }
  else if d = 0x60 then { o with mbxH := v }
  else if d = 0x61 then { o with mbxResult := v }
  else if d = 0x62 then { o with mbxReshi := v }
  else if d = 0x63 then { o with mbxDetail := v }
  else if d = 0x6B then { o with mbxFlags := v }
  else if d = 0x70 then { o with xfrLocal := v }
  else if d = 0x71 then { o with xfrFar0 := v }
  else if d = 0x72 then { o with xfrFar1 := v }
  else if d = 0x73 then { o with xfrFar2 := v }
  else if d = 0x74 then { o with xfrFar3 := v }
  else if d = 0x75 then { o with xfrLen := v }
  else if d = 0x78 then { o with flsArray := v }
  else if d = 0x79 then { o with flsAddrLo := v }
  else if d = 0x7A then { o with flsAddrHi := v }
  else if d = 0x7B then { o with flsLocal := v }
  else if d = 0x7C then { o with flsLen := v }
  else if d = 0x90 then { o with csrData := v } else o

/-- A move into an operand port or DISCARD. A trigger port belongs to its own command. -/
def execMoveOperand (core : CoreIx) (guard : BitVec 4) (dst : Byte) (src : MoveSrc) (s : State) : Result :=
  if triggerPort dst.toNat then .next s
  else xmove core guard dst.toNat src (onCore (fun _ v c => .ok { c with ops := c.ops.latch dst.toNat v })) s

/-! ### Long immediates (R522) -/

/-- W from LIMM.HI and the immediate, with a tag; from a RAW page T_INT keeps all of W, the others clear its top bits. -/
def limm (tag : Nat) (tg : Bool) (v : W32) (c : Core) : Core :=
  let w := c.ops.limmHi.toNat * 65536 + v.toNat % 65536
  { c with res := { c.res with limm := if tg then mkTagged tag w else if tag = 0 then BitVec.ofNat 32 w else mkTagged 0 w } }

def execLimmTInt (core : CoreIx) (guard : BitVec 4) (src : MoveSrc) (s : State) : Result :=
  xmove core guard 0x09 src (onCore (fun tg v c => .ok (limm 0 tg v c))) s
def execLimmTPtr (core : CoreIx) (guard : BitVec 4) (src : MoveSrc) (s : State) : Result :=
  xmove core guard 0x0A src (onCore (fun tg v c => .ok (limm 1 tg v c))) s
def execLimmTCode (core : CoreIx) (guard : BitVec 4) (src : MoveSrc) (s : State) : Result :=
  xmove core guard 0x0B src (onCore (fun tg v c => .ok (limm 2 tg v c))) s
def execLimmTBits (core : CoreIx) (guard : BitVec 4) (src : MoveSrc) (s : State) : Result :=
  xmove core guard 0x0C src (onCore (fun tg v c => .ok (limm 4 tg v c))) s

/-! ### ALU (R527, Table 20-7) -/

/-- An arithmetic operation of A and B, both INT. -/
def aluInt (port : Nat) (f : Bool → W32 → W32 → W32) (tg : Bool) (v : W32) (c : Core) : Except XTrap Core :=
  guarded [checkTag tg 0x10 c.ops.aluA clsInt, checkTag tg port v clsInt]
    { c with res := { c.res with alu := f tg c.ops.aluA v } }

/-- A logic operation of A and B, each INT or BITS; the result takes the tag of A. -/
def aluLogic (port : Nat) (f : W32 → W32 → W32) (tg : Bool) (v : W32) (c : Core) : Except XTrap Core :=
  let a := c.ops.aluA
  guarded [checkTag tg 0x10 a clsLogic, checkTag tg port v clsLogic]
    { c with res := { c.res with alu := mkVal tg (tagOf a) (f a v).toNat } }

/-- A signed sum or difference, wrapped. -/
def aluAdd (tg : Bool) (a b : W32) : W32 := intVal tg (signedIn tg a + signedIn tg b)
def aluSub (tg : Bool) (a b : W32) : W32 := intVal tg (signedIn tg a - signedIn tg b)

/-- A shift count inside 0 to width - 1. -/
def shiftOk (tg : Bool) (b : W32) : Bool := decide (0 ≤ signedIn tg b) && decide (signedIn tg b < widthOf tg)

/-- Shifts; any other count gives 0, or the sign for SAR. -/
def aluShl (tg : Bool) (a b : W32) : W32 :=
  if shiftOk tg b then intVal tg (unsignedIn tg a * 2 ^ (unsignedIn tg b) : Nat) else 0
def aluShr (tg : Bool) (a b : W32) : W32 :=
  if shiftOk tg b then intVal tg (unsignedIn tg a / 2 ^ (unsignedIn tg b) : Nat) else 0
def aluSar (tg : Bool) (a b : W32) : W32 :=
  if shiftOk tg b then intVal tg (signedIn tg a / (2 ^ (unsignedIn tg b) : Nat))
  else if signedIn tg a < 0 then intVal tg (-1) else 0

def execAluAdd (core : CoreIx) (guard : BitVec 4) (src : MoveSrc) (s : State) : Result :=
  xmove core guard 0x11 src (onCore (aluInt 0x11 aluAdd)) s
def execAluSub (core : CoreIx) (guard : BitVec 4) (src : MoveSrc) (s : State) : Result :=
  xmove core guard 0x12 src (onCore (aluInt 0x12 aluSub)) s
def execAluNeg (core : CoreIx) (guard : BitVec 4) (src : MoveSrc) (s : State) : Result :=
  xmove core guard 0x13 src (onCore (fun tg v c => guarded [checkTag tg 0x13 v clsInt]
    { c with res := { c.res with alu := intVal tg (-signedIn tg v) } })) s
def execAluAnd (core : CoreIx) (guard : BitVec 4) (src : MoveSrc) (s : State) : Result :=
  xmove core guard 0x14 src (onCore (aluLogic 0x14 (· &&& ·))) s
def execAluOr (core : CoreIx) (guard : BitVec 4) (src : MoveSrc) (s : State) : Result :=
  xmove core guard 0x15 src (onCore (aluLogic 0x15 (· ||| ·))) s
def execAluXor (core : CoreIx) (guard : BitVec 4) (src : MoveSrc) (s : State) : Result :=
  xmove core guard 0x16 src (onCore (aluLogic 0x16 (· ^^^ ·))) s
def execAluNot (core : CoreIx) (guard : BitVec 4) (src : MoveSrc) (s : State) : Result :=
  xmove core guard 0x17 src (onCore (fun tg v c => guarded [checkTag tg 0x17 v clsLogic]
    { c with res := { c.res with alu := mkVal tg (tagOf v) (~~~v).toNat } })) s
def execAluShl (core : CoreIx) (guard : BitVec 4) (src : MoveSrc) (s : State) : Result :=
  xmove core guard 0x18 src (onCore (aluInt 0x18 aluShl)) s
def execAluShr (core : CoreIx) (guard : BitVec 4) (src : MoveSrc) (s : State) : Result :=
  xmove core guard 0x19 src (onCore (aluInt 0x19 aluShr)) s
def execAluSar (core : CoreIx) (guard : BitVec 4) (src : MoveSrc) (s : State) : Result :=
  xmove core guard 0x1A src (onCore (aluInt 0x1A aluSar)) s

/-! ### Multiply (R527) -/

/-- An operation of the multiply unit on A and B, both INT. -/
def mulInt (port : Nat) (f : Bool → W32 → W32 → W32) (tg : Bool) (v : W32) (c : Core) : Except XTrap Core :=
  guarded [checkTag tg 0x20 c.ops.mulA clsInt, checkTag tg port v clsInt]
    { c with res := { c.res with mul := f tg c.ops.mulA v } }

/-- The low half and the high half of the signed product. -/
def mulLow (tg : Bool) (a b : W32) : W32 := intVal tg (signedIn tg a * signedIn tg b)
def mulHigh (tg : Bool) (a b : W32) : W32 := intVal tg (signedIn tg a * signedIn tg b / (2 ^ widthOf tg : Nat))

/-- Quotient toward zero and remainder with the sign of A; POISON for B = 0. -/
def mulDiv (tg : Bool) (a b : W32) : W32 :=
  if signedIn tg b = 0 then poison else intVal tg ((signedIn tg a).tdiv (signedIn tg b))
def mulMod (tg : Bool) (a b : W32) : W32 :=
  if signedIn tg b = 0 then poison else intVal tg ((signedIn tg a).tmod (signedIn tg b))

def execMulMul (core : CoreIx) (guard : BitVec 4) (src : MoveSrc) (s : State) : Result :=
  xmove core guard 0x21 src (onCore (mulInt 0x21 mulLow)) s
def execMulMulh (core : CoreIx) (guard : BitVec 4) (src : MoveSrc) (s : State) : Result :=
  xmove core guard 0x22 src (onCore (mulInt 0x22 mulHigh)) s
def execMulDiv (core : CoreIx) (guard : BitVec 4) (src : MoveSrc) (s : State) : Result :=
  xmove core guard 0x23 src (onCore (mulInt 0x23 mulDiv)) s
def execMulMod (core : CoreIx) (guard : BitVec 4) (src : MoveSrc) (s : State) : Result :=
  xmove core guard 0x24 src (onCore (mulInt 0x24 mulMod)) s

/-! ### Compare (R528, Table 20-8) -/

/-- G[n] set to an outcome; G0 always reads 1. -/
def setGuard (n : Nat) (b : Bool) (g : Byte) : Byte :=
  if n = 0 then g else if b then g ||| (1#8 <<< n) else g &&& ~~~(1#8 <<< n)

/-- A compare of A and B into CMP.OUT and the guard that CMP.G names. -/
def cmpOp (port : Nat) (f : Bool → W32 → W32 → Bool) (tg : Bool) (v : W32) (c : Core) : Except XTrap Core :=
  let r := f tg c.ops.cmpA v
  guarded [checkTag tg 0x28 c.ops.cmpA clsInt, checkTag tg 0x29 c.ops.cmpG clsInt, checkTag tg port v clsInt]
    { c with res := { c.res with cmp := if r then 1 else 0 }, guards := setGuard (c.ops.cmpG.toNat % 8) r c.guards }

/-- The tests. -/
def cmpEq (tg : Bool) (a b : W32) : Bool := decide (unsignedIn tg a = unsignedIn tg b)
def cmpNe (tg : Bool) (a b : W32) : Bool := decide (unsignedIn tg a ≠ unsignedIn tg b)
def cmpLt (tg : Bool) (a b : W32) : Bool := decide (signedIn tg a < signedIn tg b)
def cmpLe (tg : Bool) (a b : W32) : Bool := decide (signedIn tg a ≤ signedIn tg b)
def cmpLtu (tg : Bool) (a b : W32) : Bool := decide (unsignedIn tg a < unsignedIn tg b)
def cmpLeu (tg : Bool) (a b : W32) : Bool := decide (unsignedIn tg a ≤ unsignedIn tg b)
def cmpCarry (tg : Bool) (a b : W32) : Bool := decide (2 ^ widthOf tg ≤ unsignedIn tg a + unsignedIn tg b)
def cmpOvf (tg : Bool) (a b : W32) : Bool :=
  let x := signedIn tg a + signedIn tg b
  decide (x < -(2 ^ (widthOf tg - 1) : Nat)) || decide ((2 ^ (widthOf tg - 1) : Nat) ≤ x)
def cmpBit (tg : Bool) (a b : W32) : Bool := shiftOk tg b && (unsignedIn tg a).testBit (unsignedIn tg b)

def execCmpEq (core : CoreIx) (guard : BitVec 4) (src : MoveSrc) (s : State) : Result :=
  xmove core guard 0x2A src (onCore (cmpOp 0x2A cmpEq)) s
def execCmpNe (core : CoreIx) (guard : BitVec 4) (src : MoveSrc) (s : State) : Result :=
  xmove core guard 0x2B src (onCore (cmpOp 0x2B cmpNe)) s
def execCmpLt (core : CoreIx) (guard : BitVec 4) (src : MoveSrc) (s : State) : Result :=
  xmove core guard 0x2C src (onCore (cmpOp 0x2C cmpLt)) s
def execCmpLe (core : CoreIx) (guard : BitVec 4) (src : MoveSrc) (s : State) : Result :=
  xmove core guard 0x2D src (onCore (cmpOp 0x2D cmpLe)) s
def execCmpLtu (core : CoreIx) (guard : BitVec 4) (src : MoveSrc) (s : State) : Result :=
  xmove core guard 0x2E src (onCore (cmpOp 0x2E cmpLtu)) s
def execCmpLeu (core : CoreIx) (guard : BitVec 4) (src : MoveSrc) (s : State) : Result :=
  xmove core guard 0x2F src (onCore (cmpOp 0x2F cmpLeu)) s
def execCmpCarry (core : CoreIx) (guard : BitVec 4) (src : MoveSrc) (s : State) : Result :=
  xmove core guard 0x30 src (onCore (cmpOp 0x30 cmpCarry)) s
def execCmpOvf (core : CoreIx) (guard : BitVec 4) (src : MoveSrc) (s : State) : Result :=
  xmove core guard 0x31 src (onCore (cmpOp 0x31 cmpOvf)) s
def execCmpBit (core : CoreIx) (guard : BitVec 4) (src : MoveSrc) (s : State) : Result :=
  xmove core guard 0x32 src (onCore (cmpOp 0x32 cmpBit)) s

/-! ### Branches (R488, R489, R530) -/

/-- A branch to a target, bits 1 and 0 ignored: this move and two delay slots come first. -/
def branchTo (a : Nat) (c : Core) : Core := { c with branch := some (BitVec.ofNat 32 (a / 4 * 4), 3) }

def execBrJump (core : CoreIx) (guard : BitVec 4) (src : MoveSrc) (s : State) : Result :=
  xmove core guard 0x48 src (onCore (fun tg v c => guarded [checkTag tg 0x48 v clsCode]
    (branchTo (unsignedIn tg v) c))) s
def execBrCall (core : CoreIx) (guard : BitVec 4) (src : MoveSrc) (s : State) : Result :=
  xmove core guard 0x49 src (onCore (fun tg v c => guarded [checkTag tg 0x49 v clsCode]
    { branchTo (unsignedIn tg v) c with rstack := mkTagged 2 (c.pc.toNat + 12) :: c.rstack })) s
def execBrReturn (core : CoreIx) (guard : BitVec 4) (src : MoveSrc) (s : State) : Result :=
  xmove core guard 0x4A src (onCore (fun tg _ c => guarded [checkTag tg 0x4A (c.rstack.headD poison) clsCode]
    { branchTo (payload (c.rstack.headD poison)) c with rstack := c.rstack.tail })) s

/-! ### Stacks (R493, R494, R531) -/

def execDstkPush (core : CoreIx) (guard : BitVec 4) (src : MoveSrc) (s : State) : Result :=
  xmove core guard 0x50 src (onCore (fun _ v c => .ok { c with dstack := v :: c.dstack })) s
def execRstkPush (core : CoreIx) (guard : BitVec 4) (src : MoveSrc) (s : State) : Result :=
  xmove core guard 0x54 src (onCore (fun tg v c => guarded [checkTag tg 0x54 v clsCode]
    { c with rstack := v :: c.rstack })) s

/-! ### Tags (R497, R532, Table 20-10) -/

/-- A result of the tag unit. -/
def tagOut (v : W32) (c : Core) : Core := { c with res := { c.res with tag := v } }

def execTagGettag (core : CoreIx) (guard : BitVec 4) (src : MoveSrc) (s : State) : Result :=
  xmove core guard 0x58 src (onCore (fun _ v c => .ok (tagOut (BitVec.ofNat 32 (tagOf v)) c))) s
def execTagToint (core : CoreIx) (guard : BitVec 4) (src : MoveSrc) (s : State) : Result :=
  xmove core guard 0x59 src (onCore (fun tg v c => .ok (tagOut (intVal tg (signedOf 29 v.toNat)) c))) s
def execTagTobits (core : CoreIx) (guard : BitVec 4) (src : MoveSrc) (s : State) : Result :=
  xmove core guard 0x5A src (onCore (fun _ v c => .ok (tagOut (mkTagged 4 v.toNat) c))) s
/-- WRAP_INT: INT where the 32-bit integer fits, else TAG. -/
def execTagWrapInt (core : CoreIx) (guard : BitVec 4) (src : MoveSrc) (s : State) : Result :=
  xmove core guard 0x5B src (onCore (fun _ v c =>
    if -(2 ^ 28 : Int) ≤ v.toInt ∧ v.toInt ≤ 2 ^ 28 - 1 then .ok (tagOut (mkTagged 0 v.toNat) c)
    else .error (tagTrap 0x5B v clsInt))) s
/-- PTR and CODE are made from RAW pages alone. -/
def execTagToptr (core : CoreIx) (guard : BitVec 4) (src : MoveSrc) (s : State) : Result :=
  xmove core guard 0x5C src (onCore (fun tg v c =>
    if tg then .error (tagTrap 0x5C v 7) else .ok (tagOut (mkTagged 1 v.toNat) c))) s
def execTagTocode (core : CoreIx) (guard : BitVec 4) (src : MoveSrc) (s : State) : Result :=
  xmove core guard 0x5D src (onCore (fun tg v c =>
    if tg then .error (tagTrap 0x5D v 7) else .ok (tagOut (mkTagged 2 v.toNat) c))) s

/-! ### Timer (R538) -/

/-- A 64-bit count in TMR.LO, MID and HI. -/
def sampled (x : W64) (c : Core) : Core :=
  { c with res := { c.res with
      tmrLo := BitVec.ofNat 32 (x.toNat % 2 ^ 28), tmrMid := BitVec.ofNat 32 (x.toNat / 2 ^ 28 % 2 ^ 28),
      tmrHi := BitVec.ofNat 32 (x.toNat / 2 ^ 56) } }

def execTmrSampleSc (core : CoreIx) (guard : BitVec 4) (src : MoveSrc) (s : State) : Result :=
  xmove core guard 0x88 src (fun k _ _ s => .ok (setCore k (sampled s.time.symbolCount) s)) s
def execTmrSampleKc (core : CoreIx) (guard : BitVec 4) (src : MoveSrc) (s : State) : Result :=
  xmove core guard 0x89 src (onCore (fun _ _ c => .ok (sampled c.kclk c))) s
/-- A delay starts; its end is TMR_DELAY_DONE. -/
def execTmrDelay (core : CoreIx) (guard : BitVec 4) (src : MoveSrc) (s : State) : Result :=
  xmove core guard 0x8A src (onCore (fun tg v c => guarded [checkTag tg 0x8A v clsInt]
    { c with tmr := true, tmrEnd := c.kclk + BitVec.ofNat 64 (unsignedIn tg v) })) s
/-- The delay ends when its KCLK have passed. -/
def execTmrDelayDone (core : CoreIx) (s : State) : Result :=
  if s.cores[core].tmr ∧ issues s core ∧ s.cores[core].tmrEnd.toNat ≤ s.cores[core].kclk.toNat then
    .next (setCore core (fun c => { sampled 0 c with tmr := false }) s)
  else .next s

/-! ### Control and status (R539, Table 20-12) -/

/-- The value of a control and status register. -/
def csrValue (k : CoreIx) (tg : Bool) (n : Nat) (c : Core) : W32 :=
  let t := c.trap
  if n = 0x00 then mkVal tg 0 k.val
  else if n = 0x01 then (if tg then 1 else 0)
  else if n = 0x02 then (if c.state = .faultMode then 1 else 0)
  else if n = 0x03 then mkVal tg 0 c.dstack.length
  else if n = 0x04 then mkVal tg 0 c.rstack.length
  else if n = 0x05 then (if k = 2 then 0 else mkVal tg 2 (payload (c.faultVector.getD 0)))
  else if n = 0x10 then mkVal tg 0 t.cause.toNat
  else if n = 0x11 then mkVal tg 2 t.pc.toNat
  else if n = 0x12 then mkVal tg 0 t.slot.toNat
  else if n = 0x13 then mkVal tg 0 t.port.toNat
  else if n = 0x14 then mkVal tg 0 t.tag.toNat
  else if n = 0x15 then mkVal tg 4 t.addr.toNat
  else if n = 0x16 then mkVal tg 0 t.ddepth.toNat
  else if n = 0x17 then mkVal tg 0 t.rdepth.toNat
  else poison

/-- A write of CSR.DATA to a register: FAULT_VECTOR once, WDOG_KICK, and RESTART in fault mode (R507). -/
def csrWrite (k : CoreIx) (n : Nat) (c : Core) : Core :=
  if n = 0x05 ∧ k ≠ 2 ∧ c.faultVector = none then { c with faultVector := some c.ops.csrData }
  else if n = 0x06 then { c with wdogAt := c.kclk }
  else if n = 0x07 ∧ k ≠ 2 ∧ c.state = .faultMode ∧ c.ops.csrData = 1 then { c with state := .restarting }
  else c

/-- A register that is written only: what a read of it delivers is not stated (Table 20-12). -/
def csrWriteOnly (n : Nat) : Bool := decide (n = 0x06 ∨ n = 0x07)

/-- A control and status register delivered in CSR.OUT; a free value for a write-only one. -/
def csrDeliver (k : CoreIx) (tg : Bool) (v : W32) (s : State) : State :=
  let n := unsignedIn tg v
  let put := fun (x : W32) (s : State) => setCore k (fun c => { c with res := { c.res with csr := x } }) s
  if csrWriteOnly n then put ((draw s).1.setWidth 32) (draw s).2 else put (csrValue k tg n s.cores[k]) s

def execCsrRead (core : CoreIx) (guard : BitVec 4) (src : MoveSrc) (s : State) : Result :=
  xmove core guard 0x91 src (fun k tg v s => .ok (csrDeliver k tg v s)) s
def execCsrWrite (core : CoreIx) (guard : BitVec 4) (src : MoveSrc) (s : State) : Result :=
  xmove core guard 0x92 src (onCore (fun tg v c => .ok (csrWrite core (unsignedIn tg v) c))) s

end Sys2Proof.Machine
end

