-- ==== Sys2Proof/Machine/XelinIo.lean ====
section
/-! DEFINITION. The Xelin units that reach memory, rings and flash: load and store, mailbox, transfer and flash (R526, R529, R533 to
R537). -/
namespace Sys2Proof.Machine

/-! ### Load and store (R529, Table 20-9) -/

/-- LSU.OUT. -/
def lsuOut (k : CoreIx) (v : W32) (s : State) : State := setCore k (fun c => { c with res := { c.res with lsu := v } }) s

/-- A load of `size` bytes; `ext` makes the 32-bit value. -/
def lsuLoad (port size : Nat) (ext : Nat → W32) : XOp := fun k tg v s =>
  let c := s.cores[k]
  let a := effAddr tg c.ops.lsuBase v
  let r := localRead k a size s
  guarded [checkTag tg 0x38 c.ops.lsuBase clsPtr, checkTag tg port v clsInt, accessTrap c k tg port size a]
    (lsuOut k (ext (leNat r.1)) r.2)

/-- A store of the low `size` bytes of LSU.DATA. -/
def lsuStore (port size : Nat) : XOp := fun k tg v s =>
  let c := s.cores[k]
  let a := effAddr tg c.ops.lsuBase v
  guarded [checkTag tg 0x38 c.ops.lsuBase clsPtr, checkTag tg port v clsInt, accessTrap c k tg port size a]
    (lsuOut k (mkVal tg 1 a) (localWrite k a (leBytes size c.ops.lsuData.toNat) s))

def execLsuLdw (core : CoreIx) (guard : BitVec 4) (src : MoveSrc) (s : State) : Result :=
  xmove core guard 0x3A src (lsuLoad 0x3A 4 (fun n => BitVec.ofNat 32 n)) s
def execLsuStw (core : CoreIx) (guard : BitVec 4) (src : MoveSrc) (s : State) : Result :=
  xmove core guard 0x3B src (lsuStore 0x3B 4) s
def execLsuLdb (core : CoreIx) (guard : BitVec 4) (src : MoveSrc) (s : State) : Result :=
  xmove core guard 0x3C src (lsuLoad 0x3C 1 (fun n => BitVec.ofInt 32 (signedOf 8 n))) s
def execLsuLdbu (core : CoreIx) (guard : BitVec 4) (src : MoveSrc) (s : State) : Result :=
  xmove core guard 0x3D src (lsuLoad 0x3D 1 (fun n => BitVec.ofNat 32 n)) s
def execLsuLdh (core : CoreIx) (guard : BitVec 4) (src : MoveSrc) (s : State) : Result :=
  xmove core guard 0x3E src (lsuLoad 0x3E 2 (fun n => BitVec.ofInt 32 (signedOf 16 n))) s
def execLsuLdhu (core : CoreIx) (guard : BitVec 4) (src : MoveSrc) (s : State) : Result :=
  xmove core guard 0x3F src (lsuLoad 0x3F 2 (fun n => BitVec.ofNat 32 n)) s
def execLsuStb (core : CoreIx) (guard : BitVec 4) (src : MoveSrc) (s : State) : Result :=
  xmove core guard 0x40 src (lsuStore 0x40 1) s
def execLsuSth (core : CoreIx) (guard : BitVec 4) (src : MoveSrc) (s : State) : Result :=
  xmove core guard 0x41 src (lsuStore 0x41 2) s
/-- LEA: the address alone, without mapping or alignment checks. -/
def execLsuLea (core : CoreIx) (guard : BitVec 4) (src : MoveSrc) (s : State) : Result :=
  xmove core guard 0x42 src (onCore (fun tg v c =>
    guarded [checkTag tg 0x38 c.ops.lsuBase clsPtr, checkTag tg 0x42 v clsInt]
      { c with res := { c.res with lsu := mkVal tg 1 (effAddr tg c.ops.lsuBase v) } })) s

/-! ### Mailbox unit (R512, R513, R533, R534, Table 20-11) -/

/-- MBX.OUT. -/
def mbxOut (k : CoreIx) (v : W32) (s : State) : State := setCore k (fun c => { c with res := { c.res with mbx := v } }) s

/-- The extension may not trigger the mailbox unit from a RAW page (R511). -/
def mbxRaw (k : CoreIx) (tg : Bool) (port : Nat) : Option XTrap :=
  if k = 2 ∧ !tg then some (XTrap.of trapAccess port) else none

/-- A valid command handle, and a valid submission handle: the command that it belongs to is not completed (R534). -/
def handleOf (c : Core) (v : W32) : Option CmdHandle := c.handles.find? (fun h => decide (h.ref.toNat = payload v))
def submissionOf (c : Core) (v : W32) : Option Submission :=
  c.subs.find? (fun x => decide (x.ref.toNat = payload v) && c.handles.any (fun h => decide (h.ref = x.parent)))

/-- The check of a handle at a port: its tag, and that it is valid (R512). -/
def checkHandle (tg : Bool) (port : Nat) (v : W32) (valid : Bool) : Option XTrap :=
  if (tg && decide (tagOf v ≠ 3)) || !valid then some (tagTrap port v clsHandle) else none

/-- A command handed to a core: its HANDLE in MBX.OUT. -/
def handOver (k : CoreIx) (n : RingIx) (f : Fetched) (s : State) : State :=
  setCore k (fun c =>
    let ref := BitVec.ofNat 29 c.nextRef
    let h : CmdHandle := { ref := ref, ring := n, cmd := f }
    { c with handles := c.handles ++ [h], nextRef := c.nextRef + 1, res := { c.res with mbx := mkTagged 3 ref.toNat } }) s

/-- The command that the mailbox engine routes to core 0 or 1 next: the oldest that waits on the rings of jobs and commands, or
on the FRONTHAUL rings (R18, assumption 10). -/
def nextRouted (s : State) (k : CoreIx) : Option (RingIx × Fetched) :=
  let cs := (List.finRange 64).filterMap (fun n =>
    if k ≠ 3 ∧ (decide (s.rings[n].policy = 2) = decide (k = 1)) then (nextFor (fun _ => true) n s).map (fun f => (n, f)) else none)
  match least (cs.map (fun p => p.2.id)) with
  | some id => cs.find? (fun p => decide (p.2.id = id))
  | none => none

def execMbxRecv (core : CoreIx) (guard : BitVec 4) (src : MoveSrc) (s : State) : Result :=
  xmove core guard 0x64 src (fun k tg _ s => guarded [mbxRaw k tg 0x64] (setCore k (fun c => { c with mbx := .receiving }) s)) s

/-- A command arrives for a waiting RECV: on core 2 the next forwarded one. -/
def execMbxRecvDelivery (core : CoreIx) (s : State) : Result :=
  if s.cores[core].mbx ≠ .receiving ∨ !issues s core then .next s
  else
    let idle := fun (s : State) => setCore core (fun c => { c with mbx := .idle }) s
    if core = 2 then
      match s.cores[core].routed with
      | [] => .next s
      | (n, f) :: r => .next (handOver core n f (idle (setCore core (fun c => { c with routed := r }) s)))
    else if !firmwareRuns s then .next s
    else match nextRouted s core with
    | none => .next s
    | some (n, f) => .next (handOver core n f (idle (dispatch n f s)))

/-- A 16-bit field of a descriptor, or of a completion entry; POISON for an odd or out-of-range offset. -/
def argField (bs : List Byte) (o : Int) : W32 :=
  if 0 ≤ o ∧ o + 2 ≤ bs.length ∧ o % 2 = 0 then BitVec.ofNat 32 (field bs o.toNat 2) else poison

def execMbxArg16 (core : CoreIx) (guard : BitVec 4) (src : MoveSrc) (s : State) : Result :=
  xmove core guard 0x65 src (fun k tg v s =>
    let c := s.cores[k]
    let hv := c.ops.mbxH
    let cmd := handleOf c hv
    let sub := submissionOf c hv
    let val := match cmd, sub with
      | some h, _ => argField h.cmd.desc.bytes (signedIn tg v)
      | none, some x => (match x.done with
        | some e => argField (entryBytes s.rings[x.ring] e) (signedIn tg v)
        | none => poison)
      | none, none => poison
    guarded [mbxRaw k tg 0x65, checkHandle tg 0x60 hv (cmd.isSome || sub.isSome), checkTag tg 0x65 v clsInt] (mbxOut k val s)) s

/-- The completion that MBX.COMPLETE writes; core 2's carries STALE 0, EPOCH 0 and MORE 0. -/
def mbxReply (k : CoreIx) (v : W32) (o : Operands) : Reply :=
  let fl := if k = 2 then 0 else payload o.mbxFlags
  { code := v.setWidth 16, result := BitVec.ofNat 32 (payload o.mbxReshi % 8 * 2 ^ 29 + payload o.mbxResult),
    detail := o.mbxDetail.setWidth 16, epoch := BitVec.ofNat 16 fl, stale := fl.testBit 16, more := fl.testBit 17 }

/-- The status classes that firmware alone writes (R512). -/
def forbiddenStatus (v : W32) : Bool := decide (v.toNat / 256 % 256 = 0x08) || decide (v.toNat / 256 % 256 = 0x0F)

def execMbxComplete (core : CoreIx) (guard : BitVec 4) (src : MoveSrc) (s : State) : Result :=
  xmove core guard 0x66 src (fun k tg v s =>
    let c := s.cores[k]
    let o := c.ops
    let h := handleOf c o.mbxH
    let checks := [mbxRaw k tg 0x66, checkHandle tg 0x60 o.mbxH h.isSome, checkTag tg 0x61 o.mbxResult clsLogic, checkTag tg 0x62 o.mbxReshi clsInt,
      checkTag tg 0x63 o.mbxDetail clsInt, checkTag tg 0x66 v clsInt,
      (if k = 2 ∧ tg ∧ forbiddenStatus v then some (tagTrap 0x66 v 5) else none)]
    match h with
    | none => guarded checks s
    | some h =>
      guarded checks (complete h.ring h.cmd (mbxReply k v o) (mbxOut k 0 (setCore k (fun c => { c with
        handles := c.handles.filter (fun x => decide (x.ref ≠ h.ref)),
        subs := c.subs.filter (fun x => decide (x.parent ≠ h.ref) || x.done.isNone) }) s)))) s

/-- Commands that the extension may submit (R513). -/
def maySubmit (op : Nat) : Bool :=
  decide (op = opMatmul ∨ op = opResident ∨ op = opReduce ∨ op = opTree ∨ op = opJobAbort ∨ op = opIdentify ∨ op = opSetRead ∨
    op = opCoefRead)

/-- A descriptor submitted under a command, at its ring (R513, R534). -/
def submit (k : CoreIx) (h : CmdHandle) (d : Descriptor) (s : State) : State :=
  let c := s.cores[k]
  let busy := (c.subs.filter (fun x => decide (x.parent = h.ref) && x.done.isNone)).length
  let x : Submission := { ref := BitVec.ofNat 29 c.nextRef, parent := h.ref, ring := h.ring, id := s.nextId, done := none }
  let add := fun (x : Submission) (s : State) => setCore k (fun c => { c with
    subs := c.subs ++ [x], nextRef := c.nextRef + 1, res := { c.res with mbx := mkTagged 3 x.ref.toNat } }) s
  let refuse := fun (code : W16) =>
    add { x with done := some ((Reply.of code).entry d) } { s with nextId := s.nextId + 1 }
  if k = 2 ∧ !maySubmit d.opcode then refuse codeStateIllegal
  else if k = 2 ∧ 16 ≤ busy then refuse codeOverload
  else admitOne h.ring 0 (add x s) d

def execMbxSubmit (core : CoreIx) (guard : BitVec 4) (src : MoveSrc) (s : State) : Result :=
  xmove core guard 0x67 src (fun k tg v s =>
    let c := s.cores[k]
    let h := handleOf c c.ops.mbxH
    let a := unsignedIn tg v
    let checks := [mbxRaw k tg 0x67, checkHandle tg 0x60 c.ops.mbxH h.isSome, checkTag tg 0x67 v clsPtr,
      (if 0x20000 < a + 64 then some (XTrap.at_ trapAccess 0x67 a) else none),
      (if a % 64 ≠ 0 then some (XTrap.at_ trapAlign 0x67 a) else none)]
    match h with
    | none => guarded checks s
    | some h => guarded checks (submit k h { bytes := (localRead k a 64 s).1 } s)) s

def execMbxWait (core : CoreIx) (guard : BitVec 4) (src : MoveSrc) (s : State) : Result :=
  xmove core guard 0x68 src (fun k tg v s =>
    guarded [mbxRaw k tg 0x68, checkHandle tg 0x68 v (submissionOf s.cores[k] v).isSome]
      (setCore k (fun c => { c with mbx := .waiting (BitVec.ofNat 29 (payload v)) }) s)) s

/-- The submission that a WAIT waits for has completed. -/
def execMbxWaitDone (core : CoreIx) (s : State) : Result :=
  match s.cores[core].mbx with
  | .waiting ref =>
    (match (s.cores[core].subs.find? (fun x => decide (x.ref = ref))).bind (fun x => x.done) with
     | some e => if issues s core then .next (mbxOut core (e.status.setWidth 32) (setCore core (fun c => { c with mbx := .idle }) s))
                 else .next s
     | none => .next s)
  | _ => .next s

def execMbxEvent (core : CoreIx) (guard : BitVec 4) (src : MoveSrc) (s : State) : Result :=
  xmove core guard 0x69 src (fun k tg v s =>
    let d := s.cores[k].ops.mbxDetail
    guarded [checkTag tg 0x63 d clsInt, checkTag tg 0x69 v clsInt] (mbxOut k 0 (event (v.setWidth 16) (d.setWidth 16) 0 s))) s

/-- FETCH takes the oldest descriptor of a ring, or answers -1. -/
def execMbxFetch (core : CoreIx) (guard : BitVec 4) (src : MoveSrc) (s : State) : Result :=
  xmove core guard 0x6A src (fun k tg v s =>
    let n := unsignedIn tg v
    let got := if h : n < 64 then (nextFor (fun _ => true) ⟨n, h⟩ s).map (fun f => ((⟨n, h⟩ : RingIx), f)) else none
    guarded [checkTag tg 0x6A v clsInt] (match got with
      | some (r, f) => handOver k r f (dispatch r f s)
      | none => mbxOut k (intVal tg (-1)) s)) s

/-! ### Transfer unit (R536) -/

/-- A word of an address operand: the payload from a TAGGED page. -/
def xaddr (tg : Bool) (v : W32) : Nat := if tg then payload v else v.toNat

/-- The far address of FAR3 to FAR0. -/
def farAddr (o : Operands) : Nat :=
  o.xfrFar3.toNat % 65536 * 2 ^ 48 + o.xfrFar2.toNat % 65536 * 2 ^ 32 + o.xfrFar1.toNat % 65536 * 65536 + o.xfrFar0.toNat % 65536

/-- A DADDR whose range leaves the memory window (R311). -/
def farBad (s : State) (a n : Nat) : Bool :=
  badDaddr s.tray.variant a 1 || (daddrIsStack a && decide (windowSize s.tray.variant < daddrOff a + n))

/-- A transfer starts, or ends at once with ARG_RANGE. -/
def xfrStart (write : Bool) : XOp := fun k tg _ s =>
  let o := s.cores[k].ops
  let a := xaddr tg o.xfrLocal
  let n := xaddr tg o.xfrLen
  let ok := decide (4 ≤ n) && decide (n ≤ 65536) && decide (n % 4 = 0) && localRange k a n && !farBad s (farAddr o) n
  let x : Transfer := { write := write, localAddr := a, far := BitVec.ofNat 64 (farAddr o), len := n, discard := false }
  guarded [checkTag tg 0x70 o.xfrLocal clsPtr]
    (setCore k (fun c => if ok then { c with xfr := some x } else { c with res := { c.res with xfr := codeArgRange.setWidth 32 } }) s)

def execXfrRead (core : CoreIx) (guard : BitVec 4) (src : MoveSrc) (s : State) : Result :=
  xmove core guard 0x76 src (xfrStart false) s
def execXfrWrite (core : CoreIx) (guard : BitVec 4) (src : MoveSrc) (s : State) : Result :=
  xmove core guard 0x77 src (xfrStart true) s

/-- XFR.OUT at the end of a transfer, unless its result is discarded (R505). -/
def xfrEnd (k : CoreIx) (discard : Bool) (code : W16) (s : State) : State :=
  setCore k (fun c => { c with xfr := none, res := { c.res with xfr := if discard then c.res.xfr else code.setWidth 32 } }) s

/-- A transfer ends; one that fails leaves local memory as it was (R541). -/
def execXfrDone (core : CoreIx) (failed : Bool) (s : State) : Result :=
  match s.cores[core].xfr with
  | none => .next s
  | some x =>
    if failed then .next (xfrEnd core x.discard codeIntTransfer s)
    else if x.write then
      let r := localRead core x.localAddr x.len s
      .next (xfrEnd core x.discard ((writeFails s x.far.toNat x.len).getD codeOk) (daddrWrite x.far.toNat r.1 s))
    else match readFails s x.far.toNat x.len with
    | some c => .next (xfrEnd core x.discard c s)
    | none => .next (xfrEnd core x.discard codeOk (localWrite core x.localAddr (daddrRead s x.far.toNat x.len) s))

/-! ### Flash unit (R410, R412, R418, R426, R537) -/

/-- An operation that starts nothing: FLS.OUT at once. -/
def flsStatus (k : CoreIx) (code : W16) (s : State) : State :=
  setCore k (fun c => { c with flsStatus := code.setWidth 32, res := { c.res with fls := code.setWidth 32 } }) s

/-- An operation handed to the controller of its array. -/
def flsRun (k : CoreIx) (st : FlashStep) (s : State) : State :=
  enqueue (decide (st.array ≠ .archive)) (.core k) [st]
    (setCore k (fun c => { c with fls := true, flsPolled := false, flsDiscard := false }) s)

/-- The bank holds the fetch address of the requesting core, or its main array that of any core (R410). -/
def flsSameBank (s : State) (k : CoreIx) (arr : FlashArray) (a : Nat) : Bool :=
  let bank := if arr = .code0 then 4 else 5
  decide (arr ≠ .archive) && (decide (s.cores[k].pc.toNat / 0x400000 = bank) ||
    (decide (a < infoBase) && s.cores.toList.any (fun c => decide (c.pc.toNat / 0x400000 = bank))))

/-- Bytes that are write-protected (R412, Table 16-1). -/
def flsProtected (arr : FlashArray) (a n : Nat) : Bool :=
  if arr = .archive then decide (a < 0x10000) || (decide (a < 0xB00000) && decide (0x100000 < a + n))
  else decide (infoBase + 0x5000 < a + n)

/-- The erase unit that starts at an address; LEN selects it in the archive flash. The one-time region has none (R426). -/
def flsUnit (arr : FlashArray) (a len : Nat) : Option EraseUnit :=
  let u : Option EraseUnit :=
    if arr = .archive then (if len = 4096 then some .sector4k else if len = 65536 then some .block64k else none)
    else if a < infoBase then some .codeSector else if a < infoBase + 0x4000 then some .codeJournal else none
  u.bind (fun u => if (a % infoBase) % unitSize u = 0 then some u else none)

/-- Bytes of the program unit of an address; a word of the one-time region of bank 0 (Table 16-1). -/
def programUnit (arr : FlashArray) (a : Nat) : Nat :=
  if arr = .archive ∨ a < infoBase then 256
  else if a < infoBase + 0x4000 then 32
  else if arr = .code0 ∧ a < infoBase + 0x5000 then 4 else 0

/-- The status of a failed check of a program or an erase, if one fails. -/
def flsRefused (s : State) (k : CoreIx) (arr : FlashArray) (a n : Nat) : Option W16 :=
  if flsProtected arr a n then some codeArgRange
  else if flsSameBank s k arr a then some codeNvmSameBank
  else if !writeTempOk s (decide (arr ≠ .archive)) 0 then some codeNvmTemp
  else if arr = .archive ∧ s.flash.archDead then some codeNvmNoResponse else none

def flsReadOp : XOp := fun k tg _ s =>
  let o := s.cores[k].ops
  let a := xaddr tg o.flsLocal
  let n := xaddr tg o.flsLen
  guarded [checkTag tg 0x7B o.flsLocal clsPtr] (match flsTarget s.cores[k] with
    | none => flsStatus k codeArgRange s
    | some (arr, f, e) =>
      if n = 0 ∨ e < f + n ∨ !localRange k a n then flsStatus k codeArgRange s
      else if arr = .archive ∧ s.flash.archDead then flsStatus k codeNvmNoResponse s
      else flsStatus k codeOk (localWrite k a (flashRead s arr f n) s))

def flsProgramOp : XOp := fun k tg _ s =>
  let o := s.cores[k].ops
  let a := xaddr tg o.flsLocal
  let n := xaddr tg o.flsLen
  guarded [checkTag tg 0x7B o.flsLocal clsPtr] (match flsTarget s.cores[k] with
    | none => flsStatus k codeArgRange s
    | some (arr, f, e) =>
      let u := programUnit arr f
      if n < 4 ∨ u < f % max u 1 + n ∨ e < f + n ∨ !localRange k a n then flsStatus k codeArgRange s
      else match flsRefused s k arr f n with
      | some c => flsStatus k c s
      | none => flsRun k (.page arr f (localRead k a n s).1) s)

def flsEraseOp : XOp := fun k tg _ s =>
  match flsTarget s.cores[k] with
  | none => .ok (flsStatus k codeArgRange s)
  | some (arr, f, e) =>
    match flsUnit arr f (xaddr tg s.cores[k].ops.flsLen) with
    | none => .ok (flsStatus k codeArgRange s)
    | some u =>
      if e < f + unitSize u then .ok (flsStatus k codeArgRange s)
      else match flsRefused s k arr f (unitSize u) with
      | some c => .ok (flsStatus k c s)
      | none => .ok (flsRun k (.rawErase arr u f) s)

def flsMarginOp : XOp := fun k tg _ s =>
  match flsTarget s.cores[k] with
  | none => .ok (flsStatus k codeArgRange s)
  | some (arr, f, e) =>
    match flsUnit arr f (xaddr tg s.cores[k].ops.flsLen) with
    | none => .ok (flsStatus k codeArgRange s)
    | some u =>
      if e < f + unitSize u then .ok (flsStatus k codeArgRange s)
      else if arr = .archive ∧ s.flash.archDead then .ok (flsStatus k codeNvmNoResponse s)
      else .ok (flsRun k (.rawMargin arr u f) s)

def execFlsRead (core : CoreIx) (guard : BitVec 4) (src : MoveSrc) (s : State) : Result :=
  xmove core guard 0x7D src flsReadOp s
def execFlsProgram (core : CoreIx) (guard : BitVec 4) (src : MoveSrc) (s : State) : Result :=
  xmove core guard 0x7E src flsProgramOp s
def execFlsErase (core : CoreIx) (guard : BitVec 4) (src : MoveSrc) (s : State) : Result :=
  xmove core guard 0x7F src flsEraseOp s
def execFlsMargin (core : CoreIx) (guard : BitVec 4) (src : MoveSrc) (s : State) : Result :=
  xmove core guard 0x80 src flsMarginOp s
/-- POLL: -1 while an operation runs, else the status of the last one. -/
def execFlsPoll (core : CoreIx) (guard : BitVec 4) (src : MoveSrc) (s : State) : Result :=
  xmove core guard 0x81 src (onCore (fun tg _ c =>
    if c.fls then .ok { c with flsPolled := true, res := { c.res with fls := intVal tg (-1) } }
    else .ok { c with res := { c.res with fls := c.flsStatus } })) s

end Sys2Proof.Machine
end

