-- ==== Sys2Proof/Machine/Dispatch.lean ====
section
/-! DEFINITION. One arm per command: what each command does to everything but the queue. -/
namespace Sys2Proof.Machine

/-- The effect of a command on everything but the queue. -/
def exec (i : Instr) (s : State) : Host.Outcome State Fault Refusal :=
  match i with
  | .sqDb ring value => Sys2Proof.Machine.execSqDb ring value s
  | .cqDb ring value => Sys2Proof.Machine.execCqDb ring value s
  | .descriptorFetch ring => Sys2Proof.Machine.execDescriptorFetch ring s
  | .fetchFailure ring => Sys2Proof.Machine.execFetchFailure ring s
  | .completionWriteFailure ring => Sys2Proof.Machine.execCompletionWriteFailure ring s
  | .descriptorWatchdog ring id => Sys2Proof.Machine.execDescriptorWatchdog ring id s
  | .occupancySample => Sys2Proof.Machine.execOccupancySample s
  | .coalesceTimeout ring => Sys2Proof.Machine.execCoalesceTimeout ring s
  | .ringCtrlEnable => Sys2Proof.Machine.execRingCtrlEnable s
  | .ringCtrlReset => Sys2Proof.Machine.execRingCtrlReset s
  | .counterClear bits => Sys2Proof.Machine.execCounterClear bits s
  | .symbolCountLoRead => Sys2Proof.Machine.execSymbolCountLoRead s
  | .hkRoundWrite value => Sys2Proof.Machine.execHkRoundWrite value s
  | .twinHbTimeoutWrite value => Sys2Proof.Machine.execTwinHbTimeoutWrite value s
  | .twinRelayDelayWrite value => Sys2Proof.Machine.execTwinRelayDelayWrite value s
  | .msixUnmask target => Sys2Proof.Machine.execMsixUnmask target s
  | .registerWrite offset size value => Sys2Proof.Machine.execRegisterWrite offset size value s
  | .bar4Read offset length => Sys2Proof.Machine.execBar4Read offset length s
  | .bar4Write offset data => Sys2Proof.Machine.execBar4Write offset data s
  | .poisonedWrite target => Sys2Proof.Machine.execPoisonedWrite target s
  | .functionLevelReset kind => Sys2Proof.Machine.execFunctionLevelReset kind s
  | .perstAssert => Sys2Proof.Machine.execPerstAssert s
  | .configurationRequest access => Sys2Proof.Machine.execConfigurationRequest access s
  | .hostLinkLoss => Sys2Proof.Machine.execHostLinkLoss s
  | .identify ring => Sys2Proof.Machine.execIdentify ring s
  | .ringConfig ring => Sys2Proof.Machine.execRingConfig ring s
  | .ringReset ring => Sys2Proof.Machine.execRingReset ring s
  | .ringResetDone ring => Sys2Proof.Machine.execRingResetDone ring s
  | .setOpen ring => Sys2Proof.Machine.execSetOpen ring s
  | .setStage ring => Sys2Proof.Machine.execSetStage ring s
  | .setCommit ring => Sys2Proof.Machine.execSetCommit ring s
  | .setDiscard ring => Sys2Proof.Machine.execSetDiscard ring s
  | .setSwap ring => Sys2Proof.Machine.execSetSwap ring s
  | .setRead ring => Sys2Proof.Machine.execSetRead ring s
  | .setMember ring => Sys2Proof.Machine.execSetMember ring s
  | .decompose ring => Sys2Proof.Machine.execDecompose ring s
  | .imageRead ring => Sys2Proof.Machine.execImageRead ring s
  | .modelCheck ring => Sys2Proof.Machine.execModelCheck ring s
  | .matmul ring => Sys2Proof.Machine.execMatmul ring s
  | .resident ring => Sys2Proof.Machine.execResident ring s
  | .reduce ring => Sys2Proof.Machine.execReduce ring s
  | .tree ring => Sys2Proof.Machine.execTree ring s
  | .jobAbort ring => Sys2Proof.Machine.execJobAbort ring s
  | .slot ring => Sys2Proof.Machine.execSlot ring s
  | .eventSet ring => Sys2Proof.Machine.execEventSet ring s
  | .eventCancel ring => Sys2Proof.Machine.execEventCancel ring s
  | .gapDeclare ring => Sys2Proof.Machine.execGapDeclare ring s
  | .timeConfig ring => Sys2Proof.Machine.execTimeConfig ring s
  | .coefRead ring => Sys2Proof.Machine.execCoefRead ring s
  | .recordRead ring => Sys2Proof.Machine.execRecordRead ring s
  | .calTune ring => Sys2Proof.Machine.execCalTune ring s
  | .charRequest ring => Sys2Proof.Machine.execCharRequest ring s
  | .tileControl ring => Sys2Proof.Machine.execTileControl ring s
  | .tileTransitionDone tile => Sys2Proof.Machine.execTileTransitionDone tile s
  | .powerState ring => Sys2Proof.Machine.execPowerState ring s
  | .deepEntry => Sys2Proof.Machine.execDeepEntry s
  | .powerCap ring => Sys2Proof.Machine.execPowerCap ring s
  | .twinRole ring => Sys2Proof.Machine.execTwinRole ring s
  | .handover ring => Sys2Proof.Machine.execHandover ring s
  | .relayCycle ring => Sys2Proof.Machine.execRelayCycle ring s
  | .sentinelRule ring => Sys2Proof.Machine.execSentinelRule ring s
  | .fwUpdate ring => Sys2Proof.Machine.execFwUpdate ring s
  | .fwActivate ring => Sys2Proof.Machine.execFwActivate ring s
  | .archiveRead ring => Sys2Proof.Machine.execArchiveRead ring s
  | .extEnroll ring => Sys2Proof.Machine.execExtEnroll ring s
  | .extLoad ring => Sys2Proof.Machine.execExtLoad ring s
  | .extUnload ring => Sys2Proof.Machine.execExtUnload ring s
  | .extensionForwardedCommand ring => Sys2Proof.Machine.execExtensionForwardedCommand ring s
  | .debugChallenge ring => Sys2Proof.Machine.execDebugChallenge ring s
  | .debugUnlock ring => Sys2Proof.Machine.execDebugUnlock ring s
  | .debugLock ring => Sys2Proof.Machine.execDebugLock ring s
  | .accRead ring => Sys2Proof.Machine.execAccRead ring s
  | .accWrite ring => Sys2Proof.Machine.execAccWrite ring s
  | .vecRaw ring => Sys2Proof.Machine.execVecRaw ring s
  | .coefWrite ring => Sys2Proof.Machine.execCoefWrite ring s
  | .rootPllLock => Sys2Proof.Machine.execRootPllLock s
  | .rootPllUnlock => Sys2Proof.Machine.execRootPllUnlock s
  | .clockFault => Sys2Proof.Machine.execClockFault s
  | .woadTrimCount count => Sys2Proof.Machine.execWoadTrimCount count s
  | .ptpMessageRx port msg => Sys2Proof.Machine.execPtpMessageRx port msg s
  | .announceReceiptTimeout => Sys2Proof.Machine.execAnnounceReceiptTimeout s
  | .servoLocked => Sys2Proof.Machine.execServoLocked s
  | .holdoverLimitCrossed => Sys2Proof.Machine.execHoldoverLimitCrossed s
  | .synceLoss => Sys2Proof.Machine.execSynceLoss s
  | .tuningRangeLimit => Sys2Proof.Machine.execTuningRangeLimit s
  | .phaseSlewEnd => Sys2Proof.Machine.execPhaseSlewEnd s
  | .eventRadioSwap cmp => Sys2Proof.Machine.execEventRadioSwap cmp s
  | .eventTileSwap cmp => Sys2Proof.Machine.execEventTileSwap cmp s
  | .eventGapStart cmp => Sys2Proof.Machine.execEventGapStart cmp s
  | .eventGapEnd cmp => Sys2Proof.Machine.execEventGapEnd cmp s
  | .eventNotify cmp => Sys2Proof.Machine.execEventNotify cmp s
  | .uplaneMessageRx port frame => Sys2Proof.Machine.execUplaneMessageRx port frame s
  | .delayMeasurementRx port frame => Sys2Proof.Machine.execDelayMeasurementRx port frame s
  | .esmcMessageRx port => Sys2Proof.Machine.execEsmcMessageRx port s
  | .portSignalLoss port => Sys2Proof.Machine.execPortSignalLoss port s
  | .qsfpModuleInsert port supported => Sys2Proof.Machine.execQsfpModuleInsert port supported s
  | .rxClose group slotNo set => Sys2Proof.Machine.execRxClose group slotNo set s
  | .dlSetStart group slotNo set => Sys2Proof.Machine.execDlSetStart group slotNo set s
  | .txWindowOpen group slotNo sym => Sys2Proof.Machine.execTxWindowOpen group slotNo sym s
  | .cplaneTx group slotNo => Sys2Proof.Machine.execCplaneTx group slotNo s
  | .layerFetchDone group slotNo => Sys2Proof.Machine.execLayerFetchDone group slotNo s
  | .rxMissingHigh group => Sys2Proof.Machine.execRxMissingHigh group s
  | .segmentDispatch tile job row col first count => Sys2Proof.Machine.execSegmentDispatch tile job row col first count s
  | .segmentEnd tile => Sys2Proof.Machine.execSegmentEnd tile s
  | .shadowLoadDone tile => Sys2Proof.Machine.execShadowLoadDone tile s
  | .latchParityError tile latch => Sys2Proof.Machine.execLatchParityError tile latch s
  | .segmapReloadTimer tile => Sys2Proof.Machine.execSegmapReloadTimer tile s
  | .sampleFold tile job row col pass raw odd => Sys2Proof.Machine.execSampleFold tile job row col pass raw odd s
  | .jobOutputDone job => Sys2Proof.Machine.execJobOutputDone job s
  | .chainReceive job => Sys2Proof.Machine.execChainReceive job s
  | .atomicAdd addr value => Sys2Proof.Machine.execAtomicAdd addr value s
  | .atomicAckTimeout stack => Sys2Proof.Machine.execAtomicAckTimeout stack s
  | .scratchpadEccError die bank double job => Sys2Proof.Machine.execScratchpadEccError die bank double job s
  | .interKermesLinkError job => Sys2Proof.Machine.execInterKermesLinkError job s
  | .memoryEccError stack unit double offline job => Sys2Proof.Machine.execMemoryEccError stack unit double offline job s
  | .treeRecordArrival job => Sys2Proof.Machine.execTreeRecordArrival job s
  | .sepiaWaveEnd job => Sys2Proof.Machine.execSepiaWaveEnd job s
  | .sepiaLaneParity lane job => Sys2Proof.Machine.execSepiaLaneParity lane job s
  | .sepiaKatTimer failing => Sys2Proof.Machine.execSepiaKatTimer failing s
  | .lightLossTrip tile => Sys2Proof.Machine.execLightLossTrip tile s
  | .stripeLockAcquired lock => Sys2Proof.Machine.execStripeLockAcquired lock s
  | .stripeLockLost lock => Sys2Proof.Machine.execStripeLockLost lock s
  | .stripeLockTimeout tile => Sys2Proof.Machine.execStripeLockTimeout tile s
  | .maintRestoreDone tile => Sys2Proof.Machine.execMaintRestoreDone tile s
  | .collectorWindowClose tile rest => Sys2Proof.Machine.execCollectorWindowClose tile rest s
  | .monitorRoundEnd tile convs errors meanSq => Sys2Proof.Machine.execMonitorRoundEnd tile convs errors meanSq s
  | .heaterFrame tile activity writes => Sys2Proof.Machine.execHeaterFrame tile activity writes s
  | .heaterControlFault tile cause => Sys2Proof.Machine.execHeaterControlFault tile cause s
  | .heaterOvercurrent tile => Sys2Proof.Machine.execHeaterOvercurrent tile s
  | .driftWindowClose tile => Sys2Proof.Machine.execDriftWindowClose tile s
  | .routinePassStart tile => Sys2Proof.Machine.execRoutinePassStart tile s
  | .idleGapOpen tile => Sys2Proof.Machine.execIdleGapOpen tile s
  | .charUnitEnd tile data lateNs => Sys2Proof.Machine.execCharUnitEnd tile data lateNs s
  | .charStarved tile => Sys2Proof.Machine.execCharStarved tile s
  | .runningSealTimer tile => Sys2Proof.Machine.execRunningSealTimer tile s
  | .powerBudgetUpdate busy sepiaBusy measured => Sys2Proof.Machine.execPowerBudgetUpdate busy sepiaBusy measured s
  | .arbiterHoldTimeout tile job => Sys2Proof.Machine.execArbiterHoldTimeout tile job s
  | .dispatchDeadlineMiss slotNo => Sys2Proof.Machine.execDispatchDeadlineMiss slotNo s
  | .feedLow magA magB => Sys2Proof.Machine.execFeedLow magA magB s
  | .feedLowRestore magA magB => Sys2Proof.Machine.execFeedLowRestore magA magB s
  | .feedLost feed mag => Sys2Proof.Machine.execFeedLost feed mag s
  | .feedHigh feed mag => Sys2Proof.Machine.execFeedHigh feed mag s
  | .feedHighReconnect feed mag => Sys2Proof.Machine.execFeedHighReconnect feed mag s
  | .feedReversed feed => Sys2Proof.Machine.execFeedReversed feed s
  | .stageS0Warn magA magB => Sys2Proof.Machine.execStageS0Warn magA magB s
  | .stageS1Shed => Sys2Proof.Machine.execStageS1Shed s
  | .stageS2Park magA magB bank => Sys2Proof.Machine.execStageS2Park magA magB bank s
  | .stageS3Commit => Sys2Proof.Machine.execStageS3Commit s
  | .stageS4Off magA magB bank => Sys2Proof.Machine.execStageS4Off magA magB bank s
  | .returnToService feed mag => Sys2Proof.Machine.execReturnToService feed mag s
  | .forcedS4 magA magB bank => Sys2Proof.Machine.execForcedS4 magA magB bank s
  | .restartQualify feed mag => Sys2Proof.Machine.execRestartQualify feed mag s
  | .bankMeasure microfarad => Sys2Proof.Machine.execBankMeasure microfarad s
  | .chargerFail bank => Sys2Proof.Machine.execChargerFail bank s
  | .railFault => Sys2Proof.Machine.execRailFault s
  | .feedRelayReclose => Sys2Proof.Machine.execFeedRelayReclose s
  | .relayCmdPulse => Sys2Proof.Machine.execRelayCmdPulse s
  | .coldStart => Sys2Proof.Machine.execColdStart s
  | .warmRestart => Sys2Proof.Machine.execWarmRestart s
  | .phaseRomEnd => Sys2Proof.Machine.execPhaseRomEnd s
  | .phaseVerify => Sys2Proof.Machine.execPhaseVerify s
  | .phaseFirmwareEnd => Sys2Proof.Machine.execPhaseFirmwareEnd s
  | .phaseRestore => Sys2Proof.Machine.execPhaseRestore s
  | .phaseLockEnd => Sys2Proof.Machine.execPhaseLockEnd s
  | .phaseSelfcheck failures => Sys2Proof.Machine.execPhaseSelfcheck failures s
  | .phaseSettle => Sys2Proof.Machine.execPhaseSettle s
  | .phaseDone => Sys2Proof.Machine.execPhaseDone s
  | .startFailed => Sys2Proof.Machine.execStartFailed s
  | .memoryTrainingDone => Sys2Proof.Machine.execMemoryTrainingDone s
  | .tileLockTimeout tile => Sys2Proof.Machine.execTileLockTimeout tile s
  | .settleTimeout tile => Sys2Proof.Machine.execSettleTimeout tile s
  | .heldStreamsOpen => Sys2Proof.Machine.execHeldStreamsOpen s
  | .heldStreamsTimeout => Sys2Proof.Machine.execHeldStreamsTimeout s
  | .startPhaseLate => Sys2Proof.Machine.execStartPhaseLate s
  | .woadPowerUp => Sys2Proof.Machine.execWoadPowerUp s
  | .woadRuleSet rule => Sys2Proof.Machine.execWoadRuleSet rule s
  | .woadRuleClear rule => Sys2Proof.Machine.execWoadRuleClear rule s
  | .madderLivenessTimeout => Sys2Proof.Machine.execMadderLivenessTimeout s
  | .thermalTrip => Sys2Proof.Machine.execThermalTrip s
  | .serviceButtonPress => Sys2Proof.Machine.execServiceButtonPress s
  | .locLampTimeout => Sys2Proof.Machine.execLocLampTimeout s
  | .housekeepingRoundEnd readings contactOk => Sys2Proof.Machine.execHousekeepingRoundEnd readings contactOk s
  | .skipEscalation tile => Sys2Proof.Machine.execSkipEscalation tile s
  | .fanFailure fan => Sys2Proof.Machine.execFanFailure fan s
  | .flashEraseDone code => Sys2Proof.Machine.execFlashEraseDone code s
  | .flashProgramDone code same => Sys2Proof.Machine.execFlashProgramDone code same s
  | .flashMarginReadDone code pass => Sys2Proof.Machine.execFlashMarginReadDone code pass s
  | .temperatureRetry => Sys2Proof.Machine.execTemperatureRetry s
  | .eventArchiveFlush => Sys2Proof.Machine.execEventArchiveFlush s
  | .oscTableStore => Sys2Proof.Machine.execOscTableStore s
  | .archiveNoResponse => Sys2Proof.Machine.execArchiveNoResponse s
  | .heartbeatSend => Sys2Proof.Machine.execHeartbeatSend s
  | .heartbeatRx payload => Sys2Proof.Machine.execHeartbeatRx payload s
  | .heartbeatTimeout => Sys2Proof.Machine.execHeartbeatTimeout s
  | .holdTimerExpiry => Sys2Proof.Machine.execHoldTimerExpiry s
  | .custodyTransfer twinReq => Sys2Proof.Machine.execCustodyTransfer twinReq s
  | .grantChange high => Sys2Proof.Machine.execGrantChange high s
  | .ackFrameRx head nak => Sys2Proof.Machine.execAckFrameRx head nak s
  | .replayTimeout => Sys2Proof.Machine.execReplayTimeout s
  | .mirrorFrameRx head item => Sys2Proof.Machine.execMirrorFrameRx head item s
  | .memcopyFrameRx head saddr data => Sys2Proof.Machine.execMemcopyFrameRx head saddr data s
  | .handoverFrameRx head at_ => Sys2Proof.Machine.execHandoverFrameRx head at_ s
  | .chainFrameRx head sums => Sys2Proof.Machine.execChainFrameRx head sums s
  | .resyncFrameRx head item => Sys2Proof.Machine.execResyncFrameRx head item s
  | .linkTrainingEnd lanes => Sys2Proof.Machine.execLinkTrainingEnd lanes s
  | .linkTrainingRetry => Sys2Proof.Machine.execLinkTrainingRetry s
  | .mirrorAckTimeout => Sys2Proof.Machine.execMirrorAckTimeout s
  | .pairNoneTimeout => Sys2Proof.Machine.execPairNoneTimeout s
  | .transferPoint => Sys2Proof.Machine.execTransferPoint s
  | .takeoverRepeat => Sys2Proof.Machine.execTakeoverRepeat s
  | .relayDelayExpiry => Sys2Proof.Machine.execRelayDelayExpiry s
  | .aloneCustodyRequest => Sys2Proof.Machine.execAloneCustodyRequest s
  | .custodyLogicFault => Sys2Proof.Machine.execCustodyLogicFault s
  | .moveOperand core guard dst src => Sys2Proof.Machine.execMoveOperand core guard dst src s
  | .limmTInt core guard src => Sys2Proof.Machine.execLimmTInt core guard src s
  | .limmTPtr core guard src => Sys2Proof.Machine.execLimmTPtr core guard src s
  | .limmTCode core guard src => Sys2Proof.Machine.execLimmTCode core guard src s
  | .limmTBits core guard src => Sys2Proof.Machine.execLimmTBits core guard src s
  | .aluAdd core guard src => Sys2Proof.Machine.execAluAdd core guard src s
  | .aluSub core guard src => Sys2Proof.Machine.execAluSub core guard src s
  | .aluNeg core guard src => Sys2Proof.Machine.execAluNeg core guard src s
  | .aluAnd core guard src => Sys2Proof.Machine.execAluAnd core guard src s
  | .aluOr core guard src => Sys2Proof.Machine.execAluOr core guard src s
  | .aluXor core guard src => Sys2Proof.Machine.execAluXor core guard src s
  | .aluNot core guard src => Sys2Proof.Machine.execAluNot core guard src s
  | .aluShl core guard src => Sys2Proof.Machine.execAluShl core guard src s
  | .aluShr core guard src => Sys2Proof.Machine.execAluShr core guard src s
  | .aluSar core guard src => Sys2Proof.Machine.execAluSar core guard src s
  | .mulMul core guard src => Sys2Proof.Machine.execMulMul core guard src s
  | .mulMulh core guard src => Sys2Proof.Machine.execMulMulh core guard src s
  | .mulDiv core guard src => Sys2Proof.Machine.execMulDiv core guard src s
  | .mulMod core guard src => Sys2Proof.Machine.execMulMod core guard src s
  | .cmpEq core guard src => Sys2Proof.Machine.execCmpEq core guard src s
  | .cmpNe core guard src => Sys2Proof.Machine.execCmpNe core guard src s
  | .cmpLt core guard src => Sys2Proof.Machine.execCmpLt core guard src s
  | .cmpLe core guard src => Sys2Proof.Machine.execCmpLe core guard src s
  | .cmpLtu core guard src => Sys2Proof.Machine.execCmpLtu core guard src s
  | .cmpLeu core guard src => Sys2Proof.Machine.execCmpLeu core guard src s
  | .cmpCarry core guard src => Sys2Proof.Machine.execCmpCarry core guard src s
  | .cmpOvf core guard src => Sys2Proof.Machine.execCmpOvf core guard src s
  | .cmpBit core guard src => Sys2Proof.Machine.execCmpBit core guard src s
  | .lsuLdw core guard src => Sys2Proof.Machine.execLsuLdw core guard src s
  | .lsuLdb core guard src => Sys2Proof.Machine.execLsuLdb core guard src s
  | .lsuLdbu core guard src => Sys2Proof.Machine.execLsuLdbu core guard src s
  | .lsuLdh core guard src => Sys2Proof.Machine.execLsuLdh core guard src s
  | .lsuLdhu core guard src => Sys2Proof.Machine.execLsuLdhu core guard src s
  | .lsuStw core guard src => Sys2Proof.Machine.execLsuStw core guard src s
  | .lsuStb core guard src => Sys2Proof.Machine.execLsuStb core guard src s
  | .lsuSth core guard src => Sys2Proof.Machine.execLsuSth core guard src s
  | .lsuLea core guard src => Sys2Proof.Machine.execLsuLea core guard src s
  | .brJump core guard src => Sys2Proof.Machine.execBrJump core guard src s
  | .brCall core guard src => Sys2Proof.Machine.execBrCall core guard src s
  | .brReturn core guard src => Sys2Proof.Machine.execBrReturn core guard src s
  | .dstkPush core guard src => Sys2Proof.Machine.execDstkPush core guard src s
  | .rstkPush core guard src => Sys2Proof.Machine.execRstkPush core guard src s
  | .tagGettag core guard src => Sys2Proof.Machine.execTagGettag core guard src s
  | .tagToint core guard src => Sys2Proof.Machine.execTagToint core guard src s
  | .tagTobits core guard src => Sys2Proof.Machine.execTagTobits core guard src s
  | .tagWrapInt core guard src => Sys2Proof.Machine.execTagWrapInt core guard src s
  | .tagToptr core guard src => Sys2Proof.Machine.execTagToptr core guard src s
  | .tagTocode core guard src => Sys2Proof.Machine.execTagTocode core guard src s
  | .mbxRecv core guard src => Sys2Proof.Machine.execMbxRecv core guard src s
  | .mbxRecvDelivery core => Sys2Proof.Machine.execMbxRecvDelivery core s
  | .mbxArg16 core guard src => Sys2Proof.Machine.execMbxArg16 core guard src s
  | .mbxComplete core guard src => Sys2Proof.Machine.execMbxComplete core guard src s
  | .mbxSubmit core guard src => Sys2Proof.Machine.execMbxSubmit core guard src s
  | .mbxWait core guard src => Sys2Proof.Machine.execMbxWait core guard src s
  | .mbxWaitDone core => Sys2Proof.Machine.execMbxWaitDone core s
  | .mbxEvent core guard src => Sys2Proof.Machine.execMbxEvent core guard src s
  | .mbxFetch core guard src => Sys2Proof.Machine.execMbxFetch core guard src s
  | .xfrRead core guard src => Sys2Proof.Machine.execXfrRead core guard src s
  | .xfrWrite core guard src => Sys2Proof.Machine.execXfrWrite core guard src s
  | .xfrDone core failed => Sys2Proof.Machine.execXfrDone core failed s
  | .flsRead core guard src => Sys2Proof.Machine.execFlsRead core guard src s
  | .flsProgram core guard src => Sys2Proof.Machine.execFlsProgram core guard src s
  | .flsErase core guard src => Sys2Proof.Machine.execFlsErase core guard src s
  | .flsMargin core guard src => Sys2Proof.Machine.execFlsMargin core guard src s
  | .flsPoll core guard src => Sys2Proof.Machine.execFlsPoll core guard src s
  | .tmrSampleSc core guard src => Sys2Proof.Machine.execTmrSampleSc core guard src s
  | .tmrSampleKc core guard src => Sys2Proof.Machine.execTmrSampleKc core guard src s
  | .tmrDelay core guard src => Sys2Proof.Machine.execTmrDelay core guard src s
  | .tmrDelayDone core => Sys2Proof.Machine.execTmrDelayDone core s
  | .csrRead core guard src => Sys2Proof.Machine.execCsrRead core guard src s
  | .csrWrite core guard src => Sys2Proof.Machine.execCsrWrite core guard src s
  | .coreWatchdog core => Sys2Proof.Machine.execCoreWatchdog core s
  | .coreRestartDone core => Sys2Proof.Machine.execCoreRestartDone core s
  | .woadPowerLoss => Sys2Proof.Machine.execWoadPowerLoss s
  | .deepSupplyLoss => Sys2Proof.Machine.execDeepSupplyLoss s
  | .kermesDieFailure die => Sys2Proof.Machine.execKermesDieFailure die s
  | .synceValid => Sys2Proof.Machine.execSynceValid s
  | .feedNormal feed mag => Sys2Proof.Machine.execFeedNormal feed mag s
  | .feedTransient feed mag => Sys2Proof.Machine.execFeedTransient feed mag s
  | .twinHoldChange high => Sys2Proof.Machine.execTwinHoldChange high s
  | .slotDescriptorDeadline group slotNo => Sys2Proof.Machine.execSlotDescriptorDeadline group slotNo s
  | .fetchProgressWatchdog => Sys2Proof.Machine.execFetchProgressWatchdog s
  | .bankFull => Sys2Proof.Machine.execBankFull s
  | .debugChallengeExpiry => Sys2Proof.Machine.execDebugChallengeExpiry s
  | .pcsAligned port => Sys2Proof.Machine.execPcsAligned port s
  | .moduleFault port => Sys2Proof.Machine.execModuleFault port s
  | .hostLinkUp => Sys2Proof.Machine.execHostLinkUp s
  | .woadRuleParity => Sys2Proof.Machine.execWoadRuleParity s

end Sys2Proof.Machine
end

