-- ==== Sys2Proof/Machine/Sclk.lean ====
section
/-! DEFINITION. The order of the things that fall on one SCLK (R593, R237): how a command enters the queue of its SCLK. -/
namespace Sys2Proof.Machine

/-- Where a command of one SCLK stands in the order of R593: a time-unit event by its action of Table 8-5 and its comparator,
then the hardware boundaries, then a host read, which sees the state after both, then Woad's rules, then firmware actions, then
host writes. What comes from outside (a frame, a pin, a sensor) is taken with the firmware actions that serve it, and Woad's rules
before them (DESIGN CHOICE, log 82). -/
def sclkKey : Instr → Nat
  | .eventRadioSwap i => i.val
  | .eventTileSwap i => 64 + i.val
  | .eventGapEnd i => 128 + i.val
  | .eventGapStart i => 192 + i.val
  | .eventNotify i => 256 + i.val
  | .sampleFold .. | .segmentEnd .. | .shadowLoadDone .. | .heaterFrame .. => 320
  | .bar4Read .. | .symbolCountLoRead => 321
  | .sqDb .. | .cqDb .. | .ringCtrlEnable | .ringCtrlReset | .counterClear .. | .hkRoundWrite .. | .twinHbTimeoutWrite ..
  | .twinRelayDelayWrite .. | .msixUnmask .. | .registerWrite .. | .bar4Write .. | .poisonedWrite ..
  | .configurationRequest .. => 324
  | .woadRuleSet _ => 322
  | _ => 323

/-- Order of the actions that fire in one Woad sample (R404): FORCE_HANDOVER, SHUTDOWN, SHED, ALARM, WAKE. -/
def actionRank (action : Nat) : Nat :=
  if action = 6 then 0 else if action = 3 then 1 else if action = 2 then 2 else if action = 1 then 4 else 3

/-- Rules that come to be SET on one SCLK stand by their actions. -/
def arriveKey (s : State) (c : Instr) : Nat :=
  8 * sclkKey c + (match c with
    | .woadRuleSet r => actionRank s.woad.rules[r].rule.action.toNat
    | _ => 0)

/-- A command put into the queue of its SCLK: after all that do not come later. -/
def insertSclk (s : State) (c : Instr) : List Instr → List Instr
  | [] => [c]
  | d :: q => if arriveKey s c < arriveKey s d then c :: d :: q else d :: insertSclk s c q

/-- A command arrives. The clock advances only on an empty queue, so all that waits falls on one SCLK: a host write takes effect
after the rest, and hardware and firmware see it from the next SCLK. -/
def arrive (c : Instr) (s : State) : State := { s with pending := insertSclk s c s.pending }

/-- A queue stands in the order of R593. -/
def SclkOrdered (q : List Instr) : Prop := q.Pairwise (fun a b => sclkKey a ≤ sclkKey b)

end Sys2Proof.Machine
end

