-- ==== Sys2Proof/Machine/Tick.lean ====
section
/-! DEFINITION. What one SCLK tick does while no command waits (assumption 2). -/
namespace Sys2Proof.Machine

/-- SCLK ticks in a second (R217). -/
abbrev sclkPerSecond : Nat := 3932160000

/-- RING_RATE of every ring rolls over at the end of a second (R553). -/
def rollRates (s : State) : State :=
  { s with rings := s.rings.map (fun r => { r with rate := r.rateNow, rateNow := 0 }) }

/-- The phase offset left of a slew after one more second at PHASE_SLEW_MAX (R231). -/
def slewOn (s : State) : State :=
  let left := if 0 ≤ s.time.slewLeft then max 0 (s.time.slewLeft - s.time.slewMax.toNat)
    else min 0 (s.time.slewLeft + s.time.slewMax.toNat)
  { s with time := { s.time with slewLeft := left } }

/-- Time of day one tick on (R231). -/
def tickTod (s : State) : State :=
  if s.time.todTick.toNat + 1 = sclkPerSecond then
    rollRates (slewOn { s with time := { s.time with todTick := 0, todSec := s.time.todSec + 1 } })
  else { s with time := { s.time with todTick := s.time.todTick + 1 } }

/-- The watchdog of a core counts: not in fault mode, and not while a move stalls on MBX.OUT after RECV (R509, R535). -/
def wdogCounts (c : Core) : Bool := decide (c.state = .running) && !(decide (c.mbx = .receiving) && decide (c.stalled = some 0x160))

/-- One KCLK of a core. -/
def kclkOn (c : Core) : Core :=
  { c with kclk := c.kclk + 1, wdogAt := if wdogCounts c then c.wdogAt else c.wdogAt + 1 }

/-- The Xelin cycle counters advance once in 8 SCLK (R538, Table 8-1). -/
def tickKclk (s : State) : State :=
  if s.time.symbolCount.toNat % 8 = 0 then { s with cores := s.cores.map kclkOn } else s

/-- The frame counters of the heater drives run on CCLK: once in 4 SCLK, in 8 under DIVIDE, where Umber is powered (R112, R129). -/
def tickHeaters (s : State) : State :=
  if s.time.symbolCount.toNat % (if s.thermal.divideOn then 8 else 4) = 0 then
    { s with tiles := s.tiles.map (fun x =>
        if x.state = .off then x else { x with heat := { x.heat with counter := x.heat.counter + 1 } }) }
  else s

/-- Every ring's bucket one SCLK on (R348). -/
def tickBuckets (s : State) : State := { s with rings := s.rings.map (gainBucket s) }

/-- Woad samples its channels every 125 us: 491,520 SCLK (R399). -/
def tickWoad (s : State) : State := if s.time.symbolCount.toNat % 491520 = 0 then woadSample s else s

/-- One SCLK tick: nothing counts until the root PLL has locked (R219, R230). -/
def tick (s : State) : State :=
  if s.time.rootLock then
    tickWoad (tickBuckets (tickHeaters (tickKclk (tickTod { s with time := { s.time with symbolCount := s.time.symbolCount + 1 } }))))
  else s

end Sys2Proof.Machine
end

