-- ==== Sys2Proof/Machine/Registers.lean ====
section
/-! DEFINITION. What BAR0 reads (chapter 21, R548 to R567): every register as a function of the state. No command of the table reads
one but SYMBOL_COUNT_LO, whose read latches. -/
namespace Sys2Proof.Machine

/-- A flag as a number, at a bit. -/
def bitAt (k : Nat) (b : Bool) : Nat := if b then 2 ^ k else 0

/-- Low and high half of a pair. -/
def loOf (n : Nat) : Nat := n % 2 ^ 32
def hiOf (n : Nat) : Nat := n / 2 ^ 32 % 2 ^ 32

/-- `START_STATUS` (Table 21-4). -/
def startStatus (s : State) : Nat :=
  s.tray.phase.code + bitAt 4 s.tray.memReady + bitAt 5 s.tray.fallbackBank + bitAt 6 s.tray.unclean + bitAt 7 s.tray.warm +
  bitAt 8 s.tray.startLate

/-- STAGE of `TRAY_STATUS`: S0 and S1 alone can be read. -/
def stageBits (p : Stage) : Nat :=
  match p with
  | .s0 => 1
  | .s1 => 2
  | _ => 0

/-- `TRAY_STATUS` (Table 21-4). -/
def trayStatus (s : State) : Nat :=
  s.tray.powerState.code + bitAt 3 s.tray.debugOn + bitAt 4 (majorOpen s) + bitAt 5 (minorOpen s) +
  stageBits s.power.stage * 64 + bitAt 8 (noAdmit s)

/-- STATE of a ring (Table 11-2). -/
def RingState.code : RingState → Nat
  | .disabled => 0
  | .enabled => 1
  | .resetting => 2
  | .halted => 3

/-- A register of a ring block (Table 21-5). -/
def ringReg (r : Ring) (off : Nat) : Nat :=
  if off = 0x00 then loOf r.sqBase.toNat
  else if off = 0x04 then hiOf r.sqBase.toNat
  else if off = 0x08 then loOf r.cqBase.toNat
  else if off = 0x0C then hiOf r.cqBase.toNat
  else if off = 0x10 then r.log2Depth.toNat + r.policy.toNat * 16 + r.level.toNat * 64 + r.reserve.toNat * 65536
  else if off = 0x14 then r.coalCount.toNat + r.coalTime.toNat * 256
  else if off = 0x18 then bitAt 0 (decide (r.state ≠ .disabled))
  else if off = 0x1C then
    r.state.code + bitAt 3 r.overload + bitAt 4 r.dbError + bitAt 5 (decide (r.state = .halted)) + bitAt 6 r.eventLost +
    bitAt 7 r.cfgError
  else if off = 0x20 then bitAt 0 r.sqIrqEn
  else if off = 0x24 then bitAt 0 r.cqIrqEn
  else if off = 0x28 then r.sqTail.toNat
  else if off = 0x2C then r.sqHead.toNat
  else if off = 0x30 then r.cqHead.toNat
  else if off = 0x34 then r.cqTail.toNat + bitAt 13 r.phase
  else if off = 0x38 then r.queue.length % 8192 + r.dispatched.length % 8192 * 65536
  else if off = 0x3C then loOf r.lastCost.toNat
  else if off = 0x40 then hiOf r.lastCost.toNat
  else if off = 0x44 then r.rate.toNat
  else if off = 0x48 then (BitVec.ofInt 32 (r.bucket / 65536)).toNat
  else if off = 0x4C then r.dropped.toNat
  else if off = 0x50 then r.overloaded.toNat else 0

/-- A register of the time block (Table 21-6); the five latched ones return what the last read of `SYMBOL_COUNT_LO` latched. -/
def timeReg (s : State) (off : Nat) : Nat :=
  let t := s.time
  if off = 0x00 then loOf t.symbolCount.toNat
  else if off = 0x04 then t.latchHi.toNat
  else if off = 0x08 then loOf t.latchSec.toNat
  else if off = 0x0C then hiOf t.latchSec.toNat
  else if off = 0x10 then t.latchTick.toNat
  else if off = 0x14 then t.latchMark.toNat
  else if off = 0x18 then
    t.syncState.code.toNat + bitAt 3 t.slewing + bitAt 4 t.synceValid + (match t.ptpPort with
      | some p => p.val
      | none => 7) * 32 + bitAt 8 t.rootLock + bitAt 9 t.clockFault
  else if off = 0x1C then holdBound s % 2 ^ 32
  else if off = 0x20 then (BitVec.ofInt 32 t.ptpOffset).toNat
  else if off = 0x24 then t.oscTuning.toNat
  else if off = 0x28 then (freeComparators s).length else 0

/-- A register of a tile block (Table 21-7). -/
def tileReg (x : Tile) (off : Nat) : Nat :=
  if off = 0x000 then
    x.state.code.toNat + bitAt 3 x.heat.slew + bitAt 4 x.cal.degraded + bitAt 5 x.conv.scanIdle + bitAt 6 x.heat.residValid +
    x.skip.toNat * 128 + x.laser.lit.val * 512 +
    ((List.finRange 4).map (fun k => bitAt (11 + k.val) (decide (x.laser.stripes[k].state = .failed)))).foldl (· + ·) 0 +
    (match x.group with
     | some g => g.val
     | none => 0) * 32768 + bitAt 19 x.conv.testDacBad + bitAt 20 x.cal.starved +
    (x.cal.retiredV.length + x.cal.retiredU.length) % 8 * 2097152
  else if off = 0x004 then x.cal.epoch.toNat
  else if off = 0x008 then x.heat.resid.toNat + x.heat.peak.toNat * 256 + x.heat.residMax.toNat * 65536
  else if off = 0x00C then x.lateSwap.toNat
  else if off = 0x010 then x.conv.clip.toNat
  else if off = 0x014 then x.conv.codeClamp.toNat
  else if off = 0x018 then x.cal.overrunCount.toNat
  else if off = 0x01C then x.cal.overrunMax.toNat
  else if off = 0x020 then loOf x.conv.scanMask.toNat
  else if off = 0x024 then hiOf x.conv.scanMask.toNat
  else if off = 0x028 then bitAt 0 x.heat.sourceConflict + bitAt 1 x.heat.controlFault + bitAt 2 x.heat.overcurrent
  else if h : 0x100 ≤ off ∧ off < 0x200 then
    let m := x.conv.mon[(off - 0x100) / 4]
    m.1.toNat + m.2.toNat * 65536
  else if h : 0x200 ≤ off ∧ off < 0x288 then
    ((List.finRange 4).map (fun k => (x.heat.chans[(off - 0x200) / 4 * 4 + k.val]).attr.toNat * 256 ^ k.val)).foldl (· + ·) 0
  else if h : 0x300 ≤ off ∧ off < 0x520 then
    let c := x.heat.chans[(off - 0x300) / 4]
    c.underrun.toNat + c.overflow.toNat * 65536
  else 0

/-- `SWAP_STATUS_g` and `SWAP_EPOCH_g` (R558). -/
def swapReg (s : State) (g : GroupIx) (off : Nat) : Nat :=
  let x := s.sets.groups[g]
  if off = 0 then x.shadow.code + bitAt 3 (inUse s g) + (if g.val < 3 then 0 else x.members.toNat) * 65536
  else if off = 4 then x.epoch.toNat else 0

/-- The fronthaul block (R559). -/
def radioReg (s : State) (off : Nat) : Nat :=
  if h : off < 0x800 then
    let c := s.radio.streams[off / 0x20]
    let i := off % 0x20 / 4
    (if i = 0 then c.rxOk else if i = 1 then c.rxEarly else if i = 2 then c.rxLate else if i = 3 then c.rxMissing
     else if i = 4 then c.rxFormat else if i = 5 then c.rxSeqgap else if i = 6 then c.txOk else c.txDrop).toNat
  else if h : 0x1000 ≤ off ∧ off < 0x10C0 then
    let p : PortIx := ⟨(off - 0x1000) / 0x20, by omega⟩
    let x := s.radio.ports[p]
    if portsFitted s.tray.variant ≤ p.val then 0
    else if off % 0x20 = 0x00 then
      bitAt 0 x.signal + bitAt 1 x.linkUp + bitAt 2 (s.time.ptpPorts.getLsbD p.val) + bitAt 3 (decide (s.time.ptpPort = some p)) +
      bitAt 4 (decide (s.time.syncePort = some p) && s.time.synceValid)
    else if off % 0x20 = 0x04 then x.dropFrame.toNat
    else if off % 0x20 = 0x08 then x.dropEcpri.toNat
    else if off % 0x20 = 0x0C then x.unmatched.toNat
    else if off % 0x20 = 0x10 then x.ptpDrop.toNat
    else if off % 0x20 = 0x14 then x.esmc.toNat else 0
  else if h : 0x2000 ≤ off ∧ off < 0x2100 then
    let c := s.radio.groups[(off - 0x2000) / 0x10]
    if off % 0x10 = 0 then c.precisionMiss.toNat
    else if off % 0x10 = 4 then c.slotDropped.toNat
    else if off % 0x10 = 8 then c.lateDesc.toNat else 0
  else 0

/-- The power block (Table 21-8). -/
def powerReg (s : State) (off : Nat) : Nat :=
  let p := s.power
  let feed := fun (k : Fin 2) => p.feeds[k].mag.toNat + (p.feeds[k].cond.code).toNat * 65536
  if off = 0x00 then feed 0
  else if off = 0x04 then feed 1
  else if off = 0x08 then p.bank.toNat + bitAt 16 p.charging + bitAt 17 p.bankWeak + bitAt 18 p.bankFail
  else if off = 0x0C then p.bankCap.toNat
  else if off = 0x10 then p.pkgPower.toNat
  else if off = 0x14 then p.trayPower.toNat
  else if off = 0x18 then p.capHost.toNat + p.capInForce.toNat * 65536
  else if off = 0x1C then p.transients.toNat else 0

/-- Tiles under SKIP as a mask. -/
def skipTiles (s : State) : Nat :=
  ((List.finRange 10).map (fun t => bitAt t.val (decide (s.tiles[t].skip ≠ 0)))).foldl (· + ·) 0

/-- Broken sensors as a mask (Table 21-9). -/
def brokenMask (s : State) : Nat :=
  ((List.finRange 64).map (fun c => bitAt c.val s.thermal.chans[c].broken)).foldl (· + ·) 0

/-- The thermal block (Table 21-9). -/
def thermalReg (s : State) (off : Nat) : Nat :=
  let t := s.thermal
  let word := fun (p : W16 × W16) => p.1.toNat + p.2.toNat * 65536
  let any := fun (v : Vector Threshold 23) => v.toList.any (fun x => x.on)
  if h : off < 0x100 then word (chanWord s.tray.variant t.chans[off / 4] (off / 4))
  else if h : off < 0x15C then word t.zoneMax[(off - 0x100) / 4]
  else if off = 0x160 then word t.boardMax
  else if off = 0x164 then word t.inletMax
  else if off = 0x168 then word t.pkgMax
  else if off = 0x170 then
    bitAt 0 (any t.warn) + bitAt 1 (any t.skip) + bitAt 2 (any t.divide) + bitAt 3 (any t.handover) + skipTiles s * 65536
  else if off = 0x174 then t.nextRound.toNat
  else if off = 0x178 then t.roundCount.toNat
  else if off = 0x17C then t.fanSpeed.toNat + t.fanFailed.toNat * 256
  else if off = 0x180 then loOf (brokenMask s)
  else if off = 0x184 then hiOf (brokenMask s) else 0

/-- The twin block (Table 21-11). -/
def twinReg (s : State) (off : Nat) : Nat :=
  let t := s.twin
  if off = 0x00 then
    t.role.code + t.pairState.code * 4 + t.linkState.code * 32 + bitAt 8 t.replaying + bitAt 9 t.grant + bitAt 10 t.hold +
    bitAt 11 t.req + bitAt 12 t.takeoverReq + bitAt 13 t.takeoverRefused + bitAt 14 s.tray.shelfSlot.isSome + bitAt 15 t.twinHold
  else if off = 0x04 then t.hbTimeout.toNat
  else if off = 0x08 then t.relayDelay.toNat
  else if off = 0x0C then t.hbRx.toNat
  else if off = 0x10 then t.replays.toNat
  else if off = 0x14 then t.journalLag.toNat
  else if off = 0x18 then t.relayCycles.toNat
  else if 0x20 ≤ off ∧ off < 0x40 then field t.hbLast (off - 0x20) 4 else 0

/-- The sentinel block (Table 21-12). -/
def woadReg (s : State) (off : Nat) : Nat :=
  let w := s.woad
  if off = 0x00 then bitAt 0 w.clockFault + bitAt 1 w.trimmed + bitAt 2 w.hclkSampling + bitAt 3 w.ruleParity
  else if off = 0x04 then ((List.finRange 16).map (fun r => bitAt r.val w.rules[r].isSet)).foldl (· + ·) 0
  else if off = 0x08 then w.samples.toNat
  else if off = 0x0C then w.hclkCount.toNat
  else if h : 0x10 ≤ off ∧ off < 0x40 then
    let c := w.chans[(off - 0x10) / 4]
    (BitVec.ofInt 16 (c.y / 256)).toNat + bitAt 16 c.fresh
  else if h : 0x40 ≤ off ∧ off < 0x140 then
    field (ruleBytes (w.rules[(off - 0x40) / 0x10]).rule) (off % 0x10) 4
  else 0

/-- The storage block (Table 21-13). -/
def storageReg (s : State) (off : Nat) : Nat :=
  if off = 0x00 then
    bitAt 0 s.flash.runningBank + bitAt 1 s.flash.selectedBank + bitAt 2 (keyEnrolled s) + min 255 s.flash.halfErased.length * 256 +
    min 255 s.flash.tempQueue.length * 65536
  else if off = 0x04 then fwCounter s
  else if off = 0x08 then extCounter s
  else if off = 0x0C then s.flash.eventSeq.toNat
  else if 0x10 ≤ off ∧ off < 0x30 then eraseMax s ((off - 0x10) / 4) else 0

/-- STATE of a core (Table 21-14). -/
def CoreState.code : CoreState → Nat
  | .running => 0
  | .faultMode => 1
  | .halted => 2
  | .restarting => 3

/-- A core's trap record (Table 21-14). -/
def coreReg (c : Core) (off : Nat) : Nat :=
  let t := c.trap
  if off = 0x00 then t.cause.toNat
  else if off = 0x04 then t.pc.toNat
  else if off = 0x08 then t.slot.toNat
  else if off = 0x0C then t.port.toNat
  else if off = 0x10 then t.tag.toNat
  else if off = 0x14 then t.addr.toNat
  else if off = 0x18 then t.ddepth.toNat
  else if off = 0x1C then t.rdepth.toNat
  else if off = 0x20 then loOf t.sc.toNat
  else if off = 0x24 then hiOf t.sc.toNat
  else if off = 0x28 then c.restarts.toNat
  else if off = 0x2C then c.state.code else 0

/-- The MSI-X table and its pending bits (R567). -/
def msixReg (s : State) (off : Nat) : Nat :=
  if h : off < 0x800 then
    let e := s.host.msixTable[off / 16]
    if off % 16 = 0 then loOf e.addr.toNat
    else if off % 16 = 4 then hiOf e.addr.toNat
    else if off % 16 = 8 then e.data.toNat else bitAt 0 e.mask
  else if 0x8000 ≤ off ∧ off < 0x8010 then s.host.pba.toNat / 2 ^ (8 * (off - 0x8000)) % 2 ^ 32 else 0

/-- Registers that hold their values before the FIRMWARE phase ends (R549). -/
def earlyReg (s : State) (off : Nat) : Nat :=
  if off < 0x80 then field (identityBlock s) off 4
  else if off = 0x100 then startStatus s
  else if off = 0x104 then trayStatus s else 0

/-- The doubleword of BAR0 at an offset that is a multiple of 4 (R548, R549, R551). -/
def readReg (s : State) (off : Nat) : Nat :=
  if off < 0x80 ∨ off = 0x100 ∨ off = 0x104 then earlyReg s off
  else if !firmwareRuns s then 0
  else if off = 0x10C then s.host.pciePoisoned.toNat
  else if off = 0x110 then s.host.pcieUr.toNat
  else if off = 0x114 then s.host.bar4Ecc.toNat
  else if h : 0x10000 ≤ off ∧ off < 0x14000 then ringReg s.rings[(off - 0x10000) / 0x100] (off % 0x100)
  else if 0x30000 ≤ off ∧ off < 0x30100 then timeReg s (off - 0x30000)
  else if h : 0x40000 ≤ off ∧ off < 0x4A000 then tileReg s.tiles[(off - 0x40000) / 0x1000] (off % 0x1000)
  else if h : 0x50000 ≤ off ∧ off < 0x50100 then swapReg s ⟨(off - 0x50000) / 0x10, by omega⟩ (off % 0x10)
  else if 0x60000 ≤ off ∧ off < 0x62100 then radioReg s (off - 0x60000)
  else if 0x70000 ≤ off ∧ off < 0x70100 then powerReg s (off - 0x70000)
  else if 0x71000 ≤ off ∧ off < 0x71200 then thermalReg s (off - 0x71000)
  else if 0x72000 ≤ off ∧ off < 0x72100 then twinReg s (off - 0x72000)
  else if 0x73000 ≤ off ∧ off < 0x73140 then woadReg s (off - 0x73000)
  else if 0x74000 ≤ off ∧ off < 0x74100 then storageReg s (off - 0x74000)
  else if h : 0x75000 ≤ off ∧ off < 0x75100 then coreReg s.cores[(off - 0x75000) / 0x40] (off % 0x40)
  else if off = 0x76000 then
    bitAt 0 s.tray.debugOn + bitAt 1 s.tray.challenge.isSome + s.tray.failedUnlocks.toNat * 256
  else if 0x3F0000 ≤ off then msixReg s (off - 0x3F0000) else 0

/-- The bytes of an aligned read of BAR0 of 1, 2, 4 or 8 bytes (R548). -/
def barRead (s : State) (off n : Nat) : List Byte :=
  (List.range n).map (fun i => BitVec.ofNat 8 (readReg s ((off + i) / 4 * 4) / 256 ^ ((off + i) % 4)))

end Sys2Proof.Machine
end

