-- ==== Sys2Proof/Safety.lean ====
section
/-! DEFINITION. What a safe run and a good machine are, and the terms in which claims say that a command takes effect: a
descriptor that firmware accepts, and a move that a core issues. -/
namespace Sys2Proof.Machine

/-- A step answers a next state. -/
def stepGoes (s : State) : Prop := ∃ t, step s = .next t

/-- The first `k` steps from `s` answer next states. -/
def runsFor : Nat → State → Prop
  | 0, _ => True
  | k + 1, s => ∃ t, step s = .next t ∧ runsFor k t

/-- The canonical form of the memories of each unit. -/
def MemSys.wf (m : MemSys) : Prop := Memory.wf zeroByte m.hostMem = true ∧ Memory.wf zeroByte m.stackMem = true

def Flash.wf (f : Flash) : Prop :=
  Memory.wf archDefault f.archive = true ∧ Memory.wf erasedByte f.main0 = true ∧ Memory.wf erasedByte f.main1 = true ∧
  Memory.wf erasedByte f.info0 = true ∧ Memory.wf erasedByte f.info1 = true

def XShared.wf (x : XShared) : Prop := Memory.wf zeroByte x.shared = true ∧ Memory.wf zeroByte x.exchange = true

/-- A well-formed core: its local memories are canonical, G0 reads as 1 (R487), the PC and a branch target lie on words
(R483), and the stacks hold no more than R492 and R505 give them. -/
structure Core.wf (c : Core) : Prop where
  code : Memory.wf erasedByte c.codeRam = true
  data : Memory.wf (dataDefault c.dataTagged) c.dataRam = true
  g0   : c.guards.getLsbD 0 = true
  pc   : c.pc.toNat % 4 = 0
  target : ∀ p, c.branch = some p → p.1.toNat % 4 = 0
  dstack : c.dstack.length ≤ 68
  rstack : c.rstack.length ≤ 34
  drun : c.state = .running → c.dstack.length ≤ 64
  rrun : c.state = .running → c.rstack.length ≤ 32

/-- Every core of a bank is well formed. -/
def coresWf (v : Vector Core 4) : Prop := ∀ k : CoreIx, v[k].wf

/-- A good machine. -/
structure State.good (s : State) : Prop where
  mem : s.mem.wf
  flash : s.flash.wf
  cores : coresWf s.cores
  xshared : s.xshared.wf

/-- Firmware serves descriptor `f` of ring `n` next for opcode `op`, its row is `i`, its reserved bytes are 0 and the tray's
state and role allow it (R10, R298, R310, R312). Its arguments are for a claim to put in range. -/
structure Accepted (op : Nat) (n : RingIx) (f : Fetched) (i : CmdInfo) (s : State) : Prop where
  runs  : firmwareServes s = true
  next  : nextFor (isOp op) n s = some f
  info  : cmdInfo f.desc.opcode = some i
  clean : ∀ o < 64, 8 ≤ o → inFields i.fields o = false → f.desc.u8 o = 0
  legal : legalityCode i.legal s.tray.powerState (decide (s.twin.role = .standby)) s.tray.debugOn = none

/-- No check of a list fails. -/
def allPass (cs : List (Nat × Bool)) : Prop := ∀ c ∈ cs, c.2 = false

/-- Core `k` issues a move into `dst` whose guard holds, which meets no trap before its operation and does not stall (R485,
R490, R493, R502, R519, R520). -/
structure Issued (k : CoreIx) (guard : BitVec 4) (dst : Nat) (src : MoveSrc) (s : State) : Prop where
  clocked : issues s k = true
  fetched : staticTrap s k dst src = none
  guarded : guardHolds s.cores[k] guard = true
  roomy   : guardedTrap s k dst src = none
  ready   : stallPort s k dst src = none

/-- The value that a move's source gives on core `k`, and the page mode that it runs in. -/
def moveValue (s : State) (k : CoreIx) (src : MoveSrc) : W32 := (readSource s.cores[k] src).1
def runsTagged (s : State) (k : CoreIx) : Bool := tagMode s.cores[k]

/-- State `s` after a move of core `k` that changes its core by `f` between the read of its source and the PC's advance. -/
def moved (k : CoreIx) (src : MoveSrc) (f : Core → Core) (s : State) : State :=
  setCore k (fun c => nextPc (f (readSource c src).2)) s

/-- The Vrelmahan commands that firmware serves from a ring: the opcode and the ring of each. -/
def servedBy (c : Instr) : Option (Nat × RingIx) :=
  match c with
  | .identify ring => some (opIdentify, ring)
  | .ringConfig ring => some (opRingConfig, ring)
  | .ringReset ring => some (opRingReset, ring)
  | .setOpen ring => some (opSetOpen, ring)
  | .setStage ring => some (opSetStage, ring)
  | .setCommit ring => some (opSetCommit, ring)
  | .setDiscard ring => some (opSetDiscard, ring)
  | .setSwap ring => some (opSetSwap, ring)
  | .setRead ring => some (opSetRead, ring)
  | .setMember ring => some (opSetMember, ring)
  | .decompose ring => some (opDecompose, ring)
  | .imageRead ring => some (opImageRead, ring)
  | .modelCheck ring => some (opModelCheck, ring)
  | .matmul ring => some (opMatmul, ring)
  | .resident ring => some (opResident, ring)
  | .reduce ring => some (opReduce, ring)
  | .tree ring => some (opTree, ring)
  | .jobAbort ring => some (opJobAbort, ring)
  | .slot ring => some (opSlot, ring)
  | .eventSet ring => some (opEventSet, ring)
  | .eventCancel ring => some (opEventCancel, ring)
  | .gapDeclare ring => some (opGapDeclare, ring)
  | .timeConfig ring => some (opTimeConfig, ring)
  | .coefRead ring => some (opCoefRead, ring)
  | .recordRead ring => some (opRecordRead, ring)
  | .calTune ring => some (opCalTune, ring)
  | .charRequest ring => some (opCharRequest, ring)
  | .tileControl ring => some (opTileControl, ring)
  | .powerState ring => some (opPowerState, ring)
  | .powerCap ring => some (opPowerCap, ring)
  | .twinRole ring => some (opTwinRole, ring)
  | .handover ring => some (opHandover, ring)
  | .relayCycle ring => some (opRelayCycle, ring)
  | .sentinelRule ring => some (opSentinelRule, ring)
  | .fwUpdate ring => some (opFwUpdate, ring)
  | .fwActivate ring => some (opFwActivate, ring)
  | .archiveRead ring => some (opArchiveRead, ring)
  | .extEnroll ring => some (opExtEnroll, ring)
  | .extLoad ring => some (opExtLoad, ring)
  | .extUnload ring => some (opExtUnload, ring)
  | .debugChallenge ring => some (opDebugChallenge, ring)
  | .debugUnlock ring => some (opDebugUnlock, ring)
  | .debugLock ring => some (opDebugLock, ring)
  | .accRead ring => some (opAccRead, ring)
  | .accWrite ring => some (opAccWrite, ring)
  | .vecRaw ring => some (opVecRaw, ring)
  | .coefWrite ring => some (opCoefWrite, ring)
  | _ => none

/-- The moves of the Xelin cores: core, guard, destination port and source of each. A move into a trigger port is the command of
that trigger alone. -/
def moveOf (c : Instr) : Option (CoreIx × BitVec 4 × Nat × MoveSrc) :=
  match c with
  | .moveOperand k g d src => if triggerPort d.toNat then none else some (k, g, d.toNat, src)
  | .limmTInt k g src => some (k, g, 0x09, src)
  | .limmTPtr k g src => some (k, g, 0x0A, src)
  | .limmTCode k g src => some (k, g, 0x0B, src)
  | .limmTBits k g src => some (k, g, 0x0C, src)
  | .aluAdd k g src => some (k, g, 0x11, src)
  | .aluSub k g src => some (k, g, 0x12, src)
  | .aluNeg k g src => some (k, g, 0x13, src)
  | .aluAnd k g src => some (k, g, 0x14, src)
  | .aluOr k g src => some (k, g, 0x15, src)
  | .aluXor k g src => some (k, g, 0x16, src)
  | .aluNot k g src => some (k, g, 0x17, src)
  | .aluShl k g src => some (k, g, 0x18, src)
  | .aluShr k g src => some (k, g, 0x19, src)
  | .aluSar k g src => some (k, g, 0x1A, src)
  | .mulMul k g src => some (k, g, 0x21, src)
  | .mulMulh k g src => some (k, g, 0x22, src)
  | .mulDiv k g src => some (k, g, 0x23, src)
  | .mulMod k g src => some (k, g, 0x24, src)
  | .cmpEq k g src => some (k, g, 0x2A, src)
  | .cmpNe k g src => some (k, g, 0x2B, src)
  | .cmpLt k g src => some (k, g, 0x2C, src)
  | .cmpLe k g src => some (k, g, 0x2D, src)
  | .cmpLtu k g src => some (k, g, 0x2E, src)
  | .cmpLeu k g src => some (k, g, 0x2F, src)
  | .cmpCarry k g src => some (k, g, 0x30, src)
  | .cmpOvf k g src => some (k, g, 0x31, src)
  | .cmpBit k g src => some (k, g, 0x32, src)
  | .brJump k g src => some (k, g, 0x48, src)
  | .brCall k g src => some (k, g, 0x49, src)
  | .brReturn k g src => some (k, g, 0x4A, src)
  | .dstkPush k g src => some (k, g, 0x50, src)
  | .rstkPush k g src => some (k, g, 0x54, src)
  | .tagGettag k g src => some (k, g, 0x58, src)
  | .tagToint k g src => some (k, g, 0x59, src)
  | .tagTobits k g src => some (k, g, 0x5A, src)
  | .tagWrapInt k g src => some (k, g, 0x5B, src)
  | .tagToptr k g src => some (k, g, 0x5C, src)
  | .tagTocode k g src => some (k, g, 0x5D, src)
  | .tmrSampleSc k g src => some (k, g, 0x88, src)
  | .tmrSampleKc k g src => some (k, g, 0x89, src)
  | .tmrDelay k g src => some (k, g, 0x8A, src)
  | .csrRead k g src => some (k, g, 0x91, src)
  | .csrWrite k g src => some (k, g, 0x92, src)
  | .lsuLdw k g src => some (k, g, 0x3A, src)
  | .lsuStw k g src => some (k, g, 0x3B, src)
  | .lsuLdb k g src => some (k, g, 0x3C, src)
  | .lsuLdbu k g src => some (k, g, 0x3D, src)
  | .lsuLdh k g src => some (k, g, 0x3E, src)
  | .lsuLdhu k g src => some (k, g, 0x3F, src)
  | .lsuStb k g src => some (k, g, 0x40, src)
  | .lsuSth k g src => some (k, g, 0x41, src)
  | .lsuLea k g src => some (k, g, 0x42, src)
  | .mbxRecv k g src => some (k, g, 0x64, src)
  | .mbxArg16 k g src => some (k, g, 0x65, src)
  | .mbxComplete k g src => some (k, g, 0x66, src)
  | .mbxSubmit k g src => some (k, g, 0x67, src)
  | .mbxWait k g src => some (k, g, 0x68, src)
  | .mbxEvent k g src => some (k, g, 0x69, src)
  | .mbxFetch k g src => some (k, g, 0x6A, src)
  | .xfrRead k g src => some (k, g, 0x76, src)
  | .xfrWrite k g src => some (k, g, 0x77, src)
  | .flsRead k g src => some (k, g, 0x7D, src)
  | .flsProgram k g src => some (k, g, 0x7E, src)
  | .flsErase k g src => some (k, g, 0x7F, src)
  | .flsMargin k g src => some (k, g, 0x80, src)
  | .flsPoll k g src => some (k, g, 0x81, src)
  | _ => none

end Sys2Proof.Machine
end

