-- ==== Sys2Proof/Certificates/Slice0/Obligations.lean ====
section
/-! DEFINITION. The statements for the provers. Each docstring says what the statement claims, the rules of spec/ that it
comes from, and the entries of the assumption log (notes/assumptions) that the model rests on there. -/
open Sys2Proof Sys2Proof.Machine

/-- The commands of the configuration sets take effect. Accepted, with arguments in range and the group in the state the
command needs (u is the state with the descriptor in progress): SET_OPEN makes the shadow OPEN with the copy or the
empty entries asked for; SET_STAGE writes the entries read at its address into the shadow; SET_COMMIT validates,
stores the check words of models, begins the members' shadow loads, mirrors, and stays in progress until the shadow is
STAGED; SET_DISCARD makes the shadow EMPTY; SET_SWAP of a group other than 0 exchanges active and shadow and completes
with OK, or waits in its order for members whose load is not complete or whose pass runs; of group 0 it arms the swap for
the next slot marker; the end of a shadow load lets a waiting commit or swap of the group go on, exchanges the latches of
a tile whose maps were reloaded and of a segment that waits for its image, and counts the symbols held; in MAINT the load
is kept for the restore; SET_READ writes the entries and reports EPOCH and the
shadow's state; SET_MEMBER takes the new members as joining until none of them runs a job. Drawn from: R265, R268,
R270, R272, R318, R319. The model's own choices that it rests on: log entries 8, 18, 19. -/
def Obligations.ConfigurationSetCommandsTakeEffect : Prop :=
  (∀ (n : RingIx) (f : Fetched) (i : CmdInfo) (s u : State), Accepted opSetOpen n f i s → u = dispatch n f s →
    f.desc.u8 8 ≤ 15 → f.desc.u8 9 ≤ 1 → u.sets.groups[groupOf f.desc].shadow ≠ .pending → committing u (groupOf f.desc) = false →
    inUse u (groupOf f.desc) = false →
    exec (.setOpen n) s = .next (complete n f (Reply.of codeOk) (mirror (some (groupOf f.desc).val) f.desc.bytes []
      (setGroup (groupOf f.desc) (fun x => { x with shadow := .opened })
        { u with sets := openShadow (groupOf f.desc) (decide (f.desc.u8 9 = 0)) u.sets })))) ∧
  (∀ (n : RingIx) (f : Fetched) (i : CmdInfo) (s u : State), Accepted opSetStage n f i s → u = dispatch n f s →
    allPass (setStageArgs f u) → u.sets.groups[groupOf f.desc].shadow = .opened → committing u (groupOf f.desc) = false →
    inUse u (groupOf f.desc) = false → readFails u (f.desc.u64 0x10) (f.desc.u16 0x0C * entrySize (f.desc.u8 9)) = none →
    stagedReserved (f.desc.u8 9) (f.desc.u16 0x0A)
      (daddrRead u (f.desc.u64 0x10) (f.desc.u16 0x0C * entrySize (f.desc.u8 9))) (f.desc.u16 0x0C) = none →
    ∃ bs, bs = daddrRead u (f.desc.u64 0x10) (f.desc.u16 0x0C * entrySize (f.desc.u8 9)) ∧
      exec (.setStage n) s = .next (complete n f (Reply.of codeOk) (mirror (some (groupOf f.desc).val) f.desc.bytes bs
        { u with sets := stageAll (f.desc.u8 9) (f.desc.u16 0x0A) bs (f.desc.u16 0x0C) u.sets }))) ∧
  (∀ (n : RingIx) (f : Fetched) (i : CmdInfo) (s u : State), Accepted opSetCommit n f i s → u = dispatch n f s →
    f.desc.u8 8 ≤ 15 → u.sets.groups[groupOf f.desc].shadow = .opened → committing u (groupOf f.desc) = false →
    commitFault u (groupOf f.desc) = none →
    ∃ s1 s2 s3 s4, s1 = (if groupOf f.desc = 2 then storeCrcs u else u) ∧
      s2 = (if 3 ≤ (groupOf f.desc).val then loadMembers (groupOf f.desc) s1 else s1) ∧
      s3 = mirrorReferenced (groupOf f.desc) (mirror (some (groupOf f.desc).val) f.desc.bytes [] s2) ∧
      s4 = (if mirrors u (some (groupOf f.desc).val) then { s3 with twin := { s3.twin with
        commitWaits := s3.twin.commitWaits ++ [(n, f.id, groupOf f.desc, s3.twin.journalSeq)] } } else s3) ∧
      exec (.setCommit n) s = .next (tryFinishCommit (groupOf f.desc)
        (setGroup (groupOf f.desc) (fun x => { x with committing := some (n, f.id) }) s4))) ∧
  (∀ (n : RingIx) (f : Fetched) (i : CmdInfo) (s u : State), Accepted opSetDiscard n f i s → u = dispatch n f s →
    f.desc.u8 8 ≤ 15 → u.sets.groups[groupOf f.desc].shadow ≠ .pending → committing u (groupOf f.desc) = false →
    inUse u (groupOf f.desc) = false →
    exec (.setDiscard n) s = .next (complete n f (Reply.of codeOk) (mirror (some (groupOf f.desc).val) f.desc.bytes []
      (setGroup (groupOf f.desc) (fun x => { x with shadow := .empty }) u)))) ∧
  (∀ (n : RingIx) (f : Fetched) (i : CmdInfo) (s u : State), Accepted opSetSwap n f i s → u = dispatch n f s →
    f.desc.u8 8 ≤ 15 → (u.sets.groups[groupOf f.desc].shadow = .staged ∨ u.sets.groups[groupOf f.desc].shadow = .pending) →
    committing u (groupOf f.desc) = false →
    (groupOf f.desc ≠ 0 → groupHeld u (groupOf f.desc) = false →
      exec (.setSwap n) s = .next (complete n f (Reply.of codeOk) (doSwap (groupOf f.desc)
        (mirrorSwap (groupOf f.desc) (boundaryTime u u.time.symbolCount.toNat) u)))) ∧
    (groupOf f.desc ≠ 0 → groupHeld u (groupOf f.desc) = true →
      exec (.setSwap n) s = .next (mirrorSwap (groupOf f.desc) (boundaryTime u u.time.symbolCount.toNat)
        (markHeld (groupOf f.desc) (waitSwap (groupOf f.desc) n f.id 0 u)))) ∧
    (∀ c cs, groupOf f.desc = 0 → freeComparators u = c :: cs →
      exec (.setSwap n) s = .next (mirrorSwap 0 (boundaryTime u (nextMarker u)) (settleShadow 0 (setComparator c
        (some { time := .absolute (BitVec.ofNat 64 (nextMarker u)), action := .radioSwap true, ring := n, id := f.id,
                tag := f.desc.tag }) u))))) ∧
  (∀ (n : RingIx) (f : Fetched) (i : CmdInfo) (s u : State), Accepted opSetRead n f i s → u = dispatch n f s →
    f.desc.u8 8 ≤ 15 → f.desc.u8 9 ≤ 1 → badDaddr u.tray.variant (f.desc.u64 0x10) 64 = false →
    committing u (groupOf f.desc) = false →
    writeFails u (f.desc.u64 0x10) (setBytes u.sets (groupOf f.desc) (decide (f.desc.u8 9 = 1))).length = none →
    exec (.setRead n) s = .next (complete n f
      (Reply.okDetail u.sets.groups[groupOf f.desc].epoch.toNat u.sets.groups[groupOf f.desc].shadow.code)
      (daddrWrite (f.desc.u64 0x10) (setBytes u.sets (groupOf f.desc) (decide (f.desc.u8 9 = 1))) u))) ∧
  (∀ (n : RingIx) (f : Fetched) (i : CmdInfo) (s u : State), Accepted opSetMember n f i s → u = dispatch n f s →
    3 ≤ f.desc.u8 8 → f.desc.u8 8 ≤ 15 → f.desc.u16 0x0A < 1024 → u.sets.groups[groupOf f.desc].shadow = .empty →
    committing u (groupOf f.desc) = false → u.sets.groups[groupOf f.desc].joining = none →
    (∀ t : TileIx, u.sets.groups[groupOf f.desc].members.getLsbD t.val = true → residentRuns u t = false) →
    (∀ t : TileIx, (BitVec.ofNat 10 (f.desc.u16 0x0A)).getLsbD t.val = true →
      u.sets.groups[groupOf f.desc].members.getLsbD t.val = false → u.tiles[t].group = none ∧ joinsGroup u t = false ∧
      ∀ e ∈ u.sets.radioActive.groups.toList, e.en = true → e.tile.toNat ≠ t.val ∧ e.altTile.toNat ≠ t.val) →
    exec (.setMember n) s = .next (tryJoin (groupOf f.desc) (mirror (some (groupOf f.desc).val) f.desc.bytes []
      (setGroup (groupOf f.desc) (fun x => { x with joining := some (n, f.id, BitVec.ofNat 10 (f.desc.u16 0x0A)) }) u)))) ∧
  (∀ (t : TileIx) (l : ShadowLoad) (s u : State), s.tiles[t].mesh.load = some l → u = setTile t (endLoad t) s →
    (s.tiles[t].state = .maint → exec (.shadowLoadDone t) s = .next s) ∧
    (∀ g, s.tiles[t].state ≠ .maint → l.use = .commit → s.tiles[t].group = some g →
      exec (.shadowLoadDone t) s = .next (trySwap g (tryFinishCommit g u))) ∧
    (s.tiles[t].state ≠ .maint → l.use = .reload → midPass u.tiles[t] = false →
      exec (.shadowLoadDone t) s = .next (setTile t takeSwap u)) ∧
    (∀ id, s.tiles[t].state ≠ .maint → l.use = .batch id → u.tiles[t].job = some id → segmentWaits u t = true →
      exec (.shadowLoadDone t) s = .next (beginSegment t
        (setTile t (fun x => takeSwap (releaseVectors u.time.symbolCount l.hidden x)) u))))

/-- The extension is loaded, served and unloaded; watchdogs stop what overran. EXT_LOAD of a valid signed image starts
core 2 with the image's code and data and records the extension; EXT_UNLOAD of a loaded one stops it. A forwarded
command goes to core 2 intact, at most eight at a time. A running core other than 2 that does not kick its watchdog
has the trap recorded with cause 0x0D and is treated as in a double fault; core 2 is unloaded. A core whose restart
ends runs again and posts its event. A slot whose dispatch deadline core 1 missed loses its radio sets and core 1
restarts. A descriptor whose watchdog expires with none of its work left completes with TIMEOUT. Drawn from: R336,
R506, R507, R508, R509, R514, R359. The model's own choices that it rests on: log entries 7, 56, 58, 59. -/
def Obligations.ExtensionAndCoreServices : Prop :=
  (∀ (n : RingIx) (f : Fetched) (i : CmdInfo) (s u : State), Accepted opExtLoad n f i s → u = dispatch n f s →
    badDaddr u.tray.variant (f.desc.u64 0x10) 1 = false → 0 < f.desc.u32 0x18 → f.desc.u32 0x18 ≤ 4194304 →
    keyEnrolled u = true → u.ext.loaded = false → readFails u (f.desc.u64 0x10) (f.desc.u32 0x18) = none →
    imageOk 0x58455A51 (extKey u) (daddrRead u (f.desc.u64 0x10) (f.desc.u32 0x18)) = true →
    field (daddrRead u (f.desc.u64 0x10) (f.desc.u32 0x18)) 8 2 = extCounter u →
    layoutOk (daddrRead u (f.desc.u64 0x10) (f.desc.u32 0x18)) = true →
    ∃ b w, b = daddrRead u (f.desc.u64 0x10) (f.desc.u32 0x18) ∧ w = setCore 2 (loadedCore b) u ∧
      exec (.extLoad n) s = .next (complete n f (Reply.of codeOk) { w with
        ext := { loaded := true, version := BitVec.ofNat 32 (field b 6 2) }, xshared := { w.xshared with exchange := [] } })) ∧
  (∀ (n : RingIx) (f : Fetched) (i : CmdInfo) (s u : State), Accepted opExtUnload n f i s → u = dispatch n f s →
    u.ext.loaded = true → exec (.extUnload n) s = .next (complete n f (Reply.of codeOk) (unloadExt u))) ∧
  (∀ (n : RingIx) (f : Fetched) (i : CmdInfo) (s u : State), firmwareServes s = true → nextFor forwardedOp n s = some f →
    cmdInfo f.desc.opcode = some i → allPass (reservedChecks i f.desc) → u = dispatch n f s →
    legalityCode i.legal u.tray.powerState (decide (u.twin.role = .standby)) u.tray.debugOn = none →
    s.ext.loaded = true → forwardedNow s < 8 →
    exec (.extensionForwardedCommand n) s = .next (setCore 2 (fun c => { c with routed := c.routed ++ [(n, f)] }) u)) ∧
  (∀ (k : CoreIx) (s : State), s.cores[k].state = .running → issues s k = true → s.cores[k].mbx ≠ .receiving →
    wdogExpired s.cores[k] = true → exec (.coreWatchdog k) s = .next (afterTrap k trapWatchdog true (recordTrap k (XTrap.of trapWatchdog 0) s))) ∧
  (∀ (k : CoreIx) (s : State), s.cores[k].state = .restarting → exec (.coreRestartDone k) s =
    .next (countRestarts k (restartPartners k (coreEvent (s.cores[k].postDue.getD evFwFault) k (setCore k (restarted s) s))))) ∧
  (∀ (x : W64) (s : State), s.cores[(1 : CoreIx)].state = .running → firmwareRuns s = true →
    (∃ y ∈ s.radio.slots, y.slotNo = x) → ∃ t, exec (.dispatchDeadlineMiss x) s = .next t ∧
    t.cores[(1 : CoreIx)].state = .restarting ∧ t.cores[(1 : CoreIx)].postDue = some evFwFault) ∧
  (∀ (n : RingIx) (id : Nat) (f : Fetched) (s : State), firmwareRuns s = true →
    s.rings[n].dispatched.find? (fun g => decide (g.id = id)) = some f → isForwarded id s = true →
    exec (.descriptorWatchdog n id) s = .next (coreEvent evFwFault 2 (unloadExt (complete n f (Reply.of codeTimeout) s)))) ∧
  (∀ (n : RingIx) (id : Nat) (f : Fetched) (s : State), firmwareRuns s = true →
    s.rings[n].dispatched.find? (fun g => decide (g.id = id)) = some f → isForwarded id s = false →
    ∃ u v, u = stopSlot id codeTimeout (stopFlash n id (stopTray id (stopTiles n id (stopSets n id (stopArmed n id s))))) ∧
      v = (match u.jobs.find? (fun j => decide (j.ring = n) && decide (j.id = id)) with
        | some j => stopWork j codeTimeout u
        | none => u) ∧
      exec (.descriptorWatchdog n id) s = .next (complete n f (Reply.of codeTimeout) v))

/-- A step runs the command at the front of the queue, and on an empty queue one SCLK passes. For every command c, rest of
the queue cs and state s: a step of s with the queue c :: cs is exec of c on s with the queue cs. A step of s with an
empty queue is a next state, one SCLK tick of s (the model's choice, log entry 2). The model's own choices that it
rests on: log entry 2. -/
def Obligations.StepTakesTheFrontCommand : Prop :=
  (∀ (c : Instr) (cs : List Instr) (s : State), step { s with pending := c :: cs } = exec c { s with pending := cs }) ∧
  (∀ s : State, s.pending = [] → step s = .next (tick s))

/-- Every command answers a next state on every state, and leaves the queue of waiting commands as it was. For every
command c and every state s, exec c s is a next state t and t's queue of waiting commands is that of s: no command of
the block faults or is refused, whatever its operands and whatever the state, and a command's effect is on everything
but the queue. The model's own choices that it rests on: log entries 1, 2. -/
def Obligations.NoCommandStopsOrTouchesTheQueue : Prop :=
  ∀ (c : Instr) (s : State), ∃ t, exec c s = .next t ∧ t.pending = s.pending

/-- Every step keeps a good machine: canonical memories and well-formed Xelin cores. A machine is good where every
addressed memory (host memory, the memory stacks, the flash arrays, shared and exchange RAM, each core's code and data
RAM) has its canonical form, and each Xelin core has G0 reading 1, its PC and a branch target on a word, and stacks no
deeper than 64 and 32 entries (68 and 34 outside the running state). For every good state s, a step of s that answers
next t gives a good t, and it has taken at most the front command off the queue. The model's own choices that it rests
on: log entry 4. -/
def Obligations.EveryStepKeepsAGoodMachine : Prop :=
  ∀ s t : State, s.good → step s = .next t → t.good ∧ t.pending = s.pending.tail

/-- The state after reset is a good machine with an empty queue. State.reset is a good machine in the sense of
EveryStepKeepsAGoodMachine, and no command waits in it. Memory contents after power-on are the model's choice (log
entry 4). The model's own choices that it rests on: log entries 4, 5. -/
def Obligations.ResetIsAGoodMachine : Prop :=
  State.reset.good ∧ State.reset.pending = []

/-- A package write of bytes to a good machine reads back, and every other byte of the stacks and of host memory reads as
before. On a good machine, a write of the bytes bs at a DADDR a that does not fail makes the bytes at a read bs; every
byte outside the written range, in the memory the address names and in the other one, reads as before; and a write
that fails changes neither memory. The model's own choices that it rests on: log entry 4. -/
def Obligations.MemoryReadsBackWhatWasWritten : Prop :=
  (∀ (s : State) (a : Nat) (bs : List Byte), s.good → writeFails s a bs.length = none →
    daddrRead (daddrWrite a bs s) a bs.length = bs ∧
    (daddrIsStack a = true →
      (daddrWrite a bs s).mem.hostMem = s.mem.hostMem ∧
      ∀ x, x < daddrOff a ∨ daddrOff a + bs.length ≤ x →
        memRead zeroByte (daddrWrite a bs s).mem.stackMem x = memRead zeroByte s.mem.stackMem x) ∧
    (daddrIsStack a = false →
      (daddrWrite a bs s).mem.stackMem = s.mem.stackMem ∧
      ∀ x, x < a ∨ a + bs.length ≤ x →
        memRead zeroByte (daddrWrite a bs s).mem.hostMem x = memRead zeroByte s.mem.hostMem x)) ∧
  (∀ (s : State) (a : Nat) (bs : List Byte) (c : W16), writeFails s a bs.length = some c →
    (daddrWrite a bs s).mem = s.mem)

/-- A valid doorbell write moves SQ_TAIL or CQ_HEAD; a CQ write lets through what has waited for credit. With the BARs
reachable and the ring ENABLED: a value below D that advances the tail over free entries makes SQ_TAIL that value and
changes nothing else. A value below 2 x D that releases at most the entries written makes CQ_HEAD that value; on ring
0 the released event entries are acknowledged, and then the entries that wait for credit are written. Drawn from:
R294, R296. -/
def Obligations.DoorbellWritesMoveTheIndices : Prop :=
  (∀ (ring : RingIx) (value : W32) (s : State), barReach s = true → s.rings[ring].state = .enabled →
    value.toNat < 8192 → value.toNat < s.rings[ring].depth →
    sqAdvance s.rings[ring] value.toNat ≤ s.rings[ring].depth - 1 - s.rings[ring].posted →
    exec (.sqDb ring value) s = .next (setRing ring (fun r => { r with sqTail := value.setWidth 12 }) s)) ∧
  (∀ (ring : RingIx) (value : W32) (s : State), barReach s = true → s.rings[ring].state = .enabled →
    value.toNat < 8192 → value.toNat < 2 * s.rings[ring].depth →
    cqAdvance s.rings[ring] value.toNat ≤ s.rings[ring].unreleased →
    exec (.cqDb ring value) s = .next (creditGained ring
      (if ring = 0 then
        acknowledge s.rings[ring].cqHead.toNat (cqAdvance s.rings[ring] value.toNat)
          (setRing ring (fun r => { r with cqHead := value.setWidth 13 }) s)
       else setRing ring (fun r => { r with cqHead := value.setWidth 13 }) s)))

/-- A doorbell write that fails a check, and a poisoned write, are discarded and reported. With the BARs reachable: a
doorbell of a ring that is not ENABLED, or whose value has a reserved bit, is out of range or passes the entries it
may, is discarded: DB_ERROR is set, event DB_ERROR with the ring as its source is posted and vector 64 + n is raised.
A poisoned write adds 1 to PCIE_POISONED and is discarded; on a doorbell it is reported in the same way, on the window
nothing else changes. -/
def Obligations.BadDoorbellsAndPoisonedWritesAreDiscarded : Prop :=
  (∀ (ring : RingIx) (value : W32) (s : State), barReach s = true →
    (s.rings[ring].state ≠ .enabled ∨ doorbellOk value.toNat s.rings[ring].depth (sqAdvance s.rings[ring] value.toNat)
      (s.rings[ring].depth - 1 - s.rings[ring].posted) = false) →
    exec (.sqDb ring value) s = .next (raiseSq ring (event evDbError (BitVec.ofNat 16 ring.val) 0
      (setRing ring (fun r => { r with dbError := true }) s)))) ∧
  (∀ (ring : RingIx) (value : W32) (s : State), barReach s = true →
    (s.rings[ring].state ≠ .enabled ∨ doorbellOk value.toNat (2 * s.rings[ring].depth)
      (cqAdvance s.rings[ring] value.toNat) s.rings[ring].unreleased = false) →
    exec (.cqDb ring value) s = .next (raiseSq ring (event evDbError (BitVec.ofNat 16 ring.val) 0
      (setRing ring (fun r => { r with dbError := true }) s)))) ∧
  (∀ s : State, barReach s = true →
    exec (.poisonedWrite .window) s = .next { s with host := { s.host with pciePoisoned := satInc s.host.pciePoisoned } }) ∧
  (∀ (ring : RingIx) (s : State), barReach s = true →
    exec (.poisonedWrite (.sqDoorbell ring)) s =
      .next (doorbellError ring { s with host := { s.host with pciePoisoned := satInc s.host.pciePoisoned } }) ∧
    exec (.poisonedWrite (.cqDoorbell ring)) s =
      .next (doorbellError ring { s with host := { s.host with pciePoisoned := satInc s.host.pciePoisoned } }))

/-- A doorbell write fails for a reserved bit, an index out of range or too large an advance; it is discarded and
reported. On an ENABLED ring with the BARs reachable: an SQ doorbell write fails exactly when a bit above 12 is set,
its index is not below D, or it advances the tail by more than D - 1 less the posted entries; a CQ one when a bit
above 12 is set, its index is not below 2D, or it advances the head by more than the unreleased entries. A failing
write sets DB_ERROR and posts the event DB_ERROR with the ring as its source, and with SQ interrupts enabled raises
vector 64 + n; the ring keeps its indices and stays ENABLED. Rule: R296. -/
def Obligations.FailingDoorbellWritesAreDiscarded : Prop :=
  (∀ (ring : RingIx) (value : W32) (s : State), barReach s = true → s.rings[ring].state = .enabled →
    (8192 ≤ value.toNat ∨ s.rings[ring].depth ≤ value.toNat ∨
      s.rings[ring].depth - 1 - s.rings[ring].posted < sqAdvance s.rings[ring] value.toNat) →
    exec (.sqDb ring value) s = .next (raiseSq ring (event evDbError (BitVec.ofNat 16 ring.val) 0
      (setRing ring (fun r => { r with dbError := true }) s)))) ∧
  (∀ (ring : RingIx) (value : W32) (s : State), barReach s = true → s.rings[ring].state = .enabled →
    (8192 ≤ value.toNat ∨ 2 * s.rings[ring].depth ≤ value.toNat ∨
      s.rings[ring].unreleased < cqAdvance s.rings[ring] value.toNat) →
    exec (.cqDb ring value) s = .next (raiseSq ring (event evDbError (BitVec.ofNat 16 ring.val) 0
      (setRing ring (fun r => { r with dbError := true }) s)))) ∧
  (∀ (ring : RingIx) (value : W32) (s : State), barReach s = true → s.rings[ring].state = .enabled →
    ¬(8192 ≤ value.toNat ∨ s.rings[ring].depth ≤ value.toNat ∨
      s.rings[ring].depth - 1 - s.rings[ring].posted < sqAdvance s.rings[ring] value.toNat) →
    exec (.sqDb ring value) s = .next (setRing ring (fun r => { r with sqTail := value.setWidth 12 }) s)) ∧
  (∀ (ring : RingIx) (s : State),
    (setRing ring (fun r => { r with dbError := true }) s).rings[ring] = { s.rings[ring] with dbError := true } ∧
    ∀ n : RingIx, n ≠ ring → (setRing ring (fun r => { r with dbError := true }) s).rings[n] = s.rings[n])

/-- Writes of the writable registers of BAR0 change what the register map gives them. With the registers live: HK_ROUND
takes a value of 1 to 32, from the next round; TWIN_HB_TIMEOUT takes a write while ALONE; TWIN_RELAY_DELAY takes up to
600; COUNTER_CLEAR clears the counters its bits name; RING_CTRL_0.RESET returns every ring to its reset values;
RING_CTRL_0.ENABLE with valid fields and enough reservation left enables ring 0, and the events kept are written. A
write of 4 bytes writes one aligned doubleword, one of 8 bytes two. Drawn from: R550, R562, R436. The model's own
choices that it rests on: log entry 60. -/
def Obligations.HostRegisterWritesTakeEffect : Prop :=
  (∀ (v : W32) (s : State), regsLive s = true → 1 ≤ v.toNat % 64 → v.toNat % 64 ≤ 32 →
    exec (.hkRoundWrite v) s = .next { s with thermal := { s.thermal with nextRound := v.setWidth 6 } }) ∧
  (∀ (v : W32) (s : State), regsLive s = true → s.twin.role = .alone →
    exec (.twinHbTimeoutWrite v) s = .next { s with twin := { s.twin with hbTimeout := v.setWidth 11 } }) ∧
  (∀ (v : W32) (s : State), regsLive s = true → v.toNat % 1024 ≤ 600 →
    exec (.twinRelayDelayWrite v) s = .next { s with twin := { s.twin with relayDelay := v.setWidth 10 } }) ∧
  (∀ (bits : W32) (s : State), regsLive s = true → ∃ t, exec (.counterClear bits) s = .next t ∧
    t.rings = (if bits.getLsbD 0 then s.rings.map (fun r => { r with dropped := 0, overloaded := 0 }) else s.rings) ∧
    t.tiles = (if bits.getLsbD 1 then s.tiles.map (fun x => { x with
      lateSwap := 0, cal := { x.cal with overrunCount := 0, overrunMax := 0 }, conv := { x.conv with clip := 0, codeClamp := 0 },
      heat := { x.heat with chans := x.heat.chans.map (fun c => { c with underrun := 0, overflow := 0 }) } }) else s.tiles) ∧
    t.radio = (if bits.getLsbD 2 then { s.radio with
      streams := Vector.replicate 64 StreamCnt.init, groups := Vector.replicate 16 ⟨0, 0, 0⟩,
      ports := s.radio.ports.map (fun p => { p with dropFrame := 0, dropEcpri := 0, unmatched := 0, ptpDrop := 0, esmc := 0 }) }
      else s.radio) ∧
    t.power = (if bits.getLsbD 3 then { s.power with transients := 0 } else s.power) ∧
    t.twin = (if bits.getLsbD 4 then { s.twin with hbRx := 0, replays := 0 } else s.twin) ∧
    t.host = s.host ∧ t.sets = s.sets ∧
    t.mem = s.mem ∧ t.flash = s.flash ∧ t.cores = s.cores ∧ t.time = s.time ∧ t.jobs = s.jobs) ∧
  (∀ s : State, regsLive s = true → ∃ t, exec .ringCtrlReset s = .next t ∧ t.rings = ringsInit ∧ t.tray.posted = [] ∧
    t.mem = s.mem ∧ t.jobs = s.jobs ∧ t.time = s.time) ∧
  (∀ s : State, regsLive s = true → s.rings[(0 : RingIx)].state = .disabled →
    ringFieldsOk s.rings[(0 : RingIx)].sqBase.toNat s.rings[(0 : RingIx)].cqBase.toNat s.rings[(0 : RingIx)].log2Depth.toNat
      s.rings[(0 : RingIx)].coalCount.toNat = true →
    overReserve s s.rings[(0 : RingIx)].reserve.toNat = false →
    exec .ringCtrlEnable s = .next (flushEvents (s.tray.pendingEvents.length + 1)
      (setRing 0 (fun r => { r with state := .enabled, bucket := 0 }) s))) ∧
  (∀ (o : BitVec 22) (v : W64) (s : State), regsLive s = true → o.toNat % 4 = 0 →
    exec (.registerWrite o 4 v) s = .next (writeReg o.toNat (v.setWidth 32) s)) ∧
  (∀ (o : BitVec 22) (v : W64) (s : State), regsLive s = true → o.toNat % 8 = 0 →
    exec (.registerWrite o 8 v) s =
      .next (writeReg (o.toNat + 4) ((v >>> 32).setWidth 32) (writeReg o.toNat (v.setWidth 32) s)))

/-- A read of SYMBOL_COUNT_LO answers the low word and latches the rest of the time block. With the registers live, a read
of SYMBOL_COUNT_LO answers the 4 low bytes of the SCLK count; the high word, the seconds, the tick and the time mark
of the same SCLK are latched; nothing else changes. Drawn from: R556. -/
def Obligations.SymbolCountReadLatchesTheTimeBlock : Prop :=
  ∀ s : State, regsLive s = true → exec .symbolCountLoRead s = .next { s with
    time := { s.time with
      latchHi := (s.time.symbolCount >>> 32).setWidth 32, latchSec := s.time.todSec, latchTick := s.time.todTick,
      latchMark := timeMark s.time },
    out := { s.out with replies := .data (leBytes 4 s.time.symbolCount.toNat) :: s.out.replies } }

/-- Resets of the endpoint, configuration requests, unmasking and the loss and return of the host link. An endpoint reset
(function-level or hot reset, entry into D3hot, PERST#, return of the link) returns every ring, MSI-X and the BAR
assignments to their reset values, keeps memory, jobs and tiles, and leaves D3hot set only by an entry into it. A
configuration request is retried until configuration space is valid, then takes effect. Unmasking an entry or the
function sends what is pending. Loss of the link raises the MAJOR alarm and asks for a takeover; its return clears the
alarm. Drawn from: R542, R543, R567, R569, R395. -/
def Obligations.EndpointResetsAndLinkEvents : Prop :=
  (∀ (k : ResetKind) (s : State), s.host.linkUp = true → ∃ t, exec (.functionLevelReset k) s = .next t ∧
    t.rings = ringsInit ∧ t.host.msixEnable = false ∧ t.host.pba = 0 ∧ t.host.barsAssigned = false ∧
    (t.host.d3hot = true ↔ k = .d3hot) ∧ t.mem = s.mem ∧ t.jobs = s.jobs ∧ t.tiles = s.tiles ∧ t.sets = s.sets) ∧
  (∀ s : State, ∃ t, exec .perstAssert s = .next t ∧ t.rings = ringsInit ∧ t.host.msixEnable = false ∧
    t.host.pba = 0 ∧ t.host.barsAssigned = false ∧ t.host.d3hot = false ∧ t.mem = s.mem ∧ t.jobs = s.jobs ∧ t.tiles = s.tiles) ∧
  (∀ (a : ConfigAccess) (s : State), s.host.linkUp = true → s.host.cfgValid = false →
    exec (.configurationRequest a) s = .next { s with out := { s.out with replies := .retry :: s.out.replies } }) ∧
  (∀ s : State, s.host.linkUp = true → s.host.cfgValid = true →
    exec (.configurationRequest .assignBars) s = .next { s with host := { s.host with barsAssigned := true } } ∧
    exec (.configurationRequest .powerD0) s = .next { s with host := { s.host with d3hot := false } } ∧
    (∀ en, exec (.configurationRequest (.relaxedOrdering en)) s = .next { s with host := { s.host with relaxed := en } }) ∧
    (∀ en fm, exec (.configurationRequest (.msixControl en fm)) s =
      .next (sendPending { s with host := { s.host with msixEnable := en, msixFmask := fm } })) ∧
    (∀ o, exec (.configurationRequest (.read o)) s = .next (configRead o.toNat s))) ∧
  (∀ s : State, s.host.linkUp = true →
    (∀ v, exec (.msixUnmask (.entry v)) s = .next (sendPending { s with host := { s.host with
      msixTable := upd s.host.msixTable v (fun e => { e with mask := false }) } })) ∧
    exec (.msixUnmask .function) s = .next (sendPending { s with host := { s.host with msixFmask := false } })) ∧
  (∀ s : State, s.host.linkUp = true → exec .hostLinkLoss s =
    .next (requestTakeover alHostLink (raiseAlarm true alHostLink 0 { s with host := { s.host with linkUp := false } }))) ∧
  (∀ s : State, s.host.linkUp = false → ∃ t, exec .hostLinkUp s = .next t ∧ t.host.linkUp = true ∧ t.rings = ringsInit ∧
    t.host.barsAssigned = false ∧ (∀ a ∈ t.tray.alarms, a.code ≠ alHostLink ∨ a.source ≠ 0) ∧ t.mem = s.mem ∧ t.jobs = s.jobs)

/-- Host reads and writes through the memory window reach the memory stacks. With the BARs reachable, a range inside the
window and stacks that answer: a read of a range that touches no unit with an uncorrectable error answers its bytes,
one that touches such a unit is poisoned, adds to BAR4_ECC and posts the event MEM_ECC; a write that covers such units
whole writes the bytes, one that covers a unit in part is discarded with the same report. Past the window a read is
answered Unsupported Request and a write has no effect; stacks that do not answer also add to PCIE_UR. Drawn from:
R545, R546, R547. The model's own choices that it rests on: log entries 4, 60. -/
def Obligations.WindowReadsAndWrites : Prop :=
  ∀ (o : W64) (s : State), barReach s = true →
    (∀ n, n ≠ 0 → o.toNat + n ≤ windowSize s.tray.variant → windowAnswers s o.toNat n = true →
      (touchesEcc s o.toNat n = false → exec (.bar4Read o n) s =
        .next { s with out := { s.out with replies := .data (stackRead s o.toNat n) :: s.out.replies } }) ∧
      (touchesEcc s o.toNat n = true →
        exec (.bar4Read o n) s = .next (reply .poisoned (bar4Error (stackOf o.toNat) s)))) ∧
    (∀ bs, bs ≠ [] → o.toNat + bs.length ≤ windowSize s.tray.variant → windowAnswers s o.toNat bs.length = true →
      (partlyEcc s o.toNat bs.length = false → exec (.bar4Write o bs) s = .next (stackWrite o.toNat bs s)) ∧
      (partlyEcc s o.toNat bs.length = true → exec (.bar4Write o bs) s = .next (bar4Error (stackOf o.toNat) s))) ∧
    (∀ n, n ≠ 0 → windowSize s.tray.variant < o.toNat + n → exec (.bar4Read o n) s =
      .next { s with out := { s.out with replies := .unsupported :: s.out.replies } }) ∧
    (∀ bs, bs ≠ [] → windowSize s.tray.variant < o.toNat + bs.length → exec (.bar4Write o bs) s = .next s) ∧
    (∀ n, n ≠ 0 → o.toNat + n ≤ windowSize s.tray.variant → windowAnswers s o.toNat n = false →
      exec (.bar4Read o n) s = .next { s with
        host := { s.host with pcieUr := satInc s.host.pcieUr },
        out := { s.out with replies := .unsupported :: s.out.replies } })

/-- Occupancy samples, interrupt moderation and the watchdog of the mailbox engine. The occupancy sample looks at every
ring in turn: more than 3/4 of the depth queued for the hundredth sample sets OVERLOAD, posts its event and raises
vector 64 + n; less than 1/4 queued clears OVERLOAD. When COAL_TIME has passed since a counted completion the count
returns to 0 and vector n is raised. Without progress of the engine a MAJOR alarm and a takeover request are raised
and a warm restart is due. Drawn from: R300, R303, R309. The model's own choices that it rests on: log entries 1, 16. -/
def Obligations.RingSamplesAndModeration : Prop :=
  (∀ s : State, exec .occupancySample s = .next ((List.finRange 64).foldl sampleRing s)) ∧
  (∀ (n : RingIx) (s : State), s.rings[n].state ≠ .disabled → 3 * s.rings[n].depth < 4 * s.rings[n].queue.length →
    100 ≤ s.rings[n].highSamples + 1 → s.rings[n].overload = false →
    sampleRing s n = raiseSq n (event evOverloadSet (BitVec.ofNat 16 n.val) 0
      (setRing n (fun r => { r with highSamples := min 100 (r.highSamples + 1), overload := true }) s))) ∧
  (∀ (n : RingIx) (s : State), s.rings[n].state ≠ .disabled → 4 * s.rings[n].queue.length < s.rings[n].depth →
    s.rings[n].overload = true →
    sampleRing s n = raiseSq n (event evOverloadClear (BitVec.ofNat 16 n.val) 0
      (setRing n (fun r => { r with highSamples := 0, overload := false }) s))) ∧
  (∀ (n : RingIx) (s : State), s.rings[n].coalArmed = true → exec (.coalesceTimeout n) s =
    .next (raiseCq n (setRing n (fun r => { r with coalesced := 0, coalArmed := false }) s))) ∧
  (∀ s t : State, firmwareRuns s = true → t = requestTakeover alFetchHang (raiseAlarm true alFetchHang 0 s) →
    exec .fetchProgressWatchdog s = .next { t with tray := { t.tray with restartDue := true } })

/-- A descriptor fetch moves the head and admits what it read; failing rings halt. The engine reads from a ring that it
may fetch from as many posted descriptors as eight, the postings and the credit allow: SQ_HEAD moves past them and
each is admitted in order. With no credit it notes that it has stopped. A failed fetch is retried once; the second
completes every queued descriptor with INT_RING_HALTED and halts the ring. A failed completion write halts the ring
and loses what was queued and what waited. Drawn from: R297, R298, R301, R309. The model's own choices that it rests
on: log entries 8, 14, 15. -/
def Obligations.FetchAndRingFailures : Prop :=
  (∀ (n : RingIx) (s : State), fetches s n = true → 0 < fetchCount s.rings[n] (fetchResv s n) →
    exec (.descriptorFetch n) s = .next (fetchRead n (fetchCount s.rings[n] (fetchResv s n)) (fetchResv s n) s)) ∧
  (∀ (n : RingIx) (s : State), fetches s n = true → fetchCount s.rings[n] (fetchResv s n) = 0 →
    exec (.descriptorFetch n) s = .next (setRing n (fun r => { r with fetchStalled := true }) s)) ∧
  (∀ (r : Ring) (resv : Nat), fetchCount r resv ≤ 8 ∧ fetchCount r resv ≤ r.posted ∧
    r.unreleased + r.owed + fetchCount r resv * resv ≤ max (2 * r.depth - 1) (r.unreleased + r.owed)) ∧
  (∀ (n : RingIx) (s : State), s.rings[n].state = .enabled → s.rings[n].fetchRetried = false →
    exec (.fetchFailure n) s = .next (setRing n (fun r => { r with fetchRetried := true }) s)) ∧
  (∀ (n : RingIx) (s : State), s.rings[n].state = .enabled → s.rings[n].fetchRetried = true →
    exec (.fetchFailure n) s = .next (haltRing n codeIntRingHalted (completeAll n s.rings[n].queue codeIntRingHalted
      (setRing n (fun r => { r with fetchRetried := false }) s)))) ∧
  (∀ (n : RingIx) (s : State), s.rings[n].state = .enabled ∨ s.rings[n].state = .resetting →
    exec (.completionWriteFailure n) s = .next (haltRing n codeIntTransfer
      (setRing n (fun r => { r with queue := [], waiting := [] }) s)))

/-- IDENTIFY, RING_CONFIG, RING_RESET and the end of a ring reset take effect. Accepted with their arguments in range:
IDENTIFY writes the 128 bytes of the identity block at its address and completes with OK. RING_CONFIG of a DISABLED
ring within the reservation left writes the ring's fields and state and completes with OK. RING_RESET makes the ring
RESETTING and completes what it had queued with DROPPED. When nothing dispatched is left, the ring returns to DISABLED
with its indices at 0 and the RING_RESET completes with the CQ index as its RESULT. Drawn from: R317, R287, R306. The
model's own choices that it rests on: log entries 7, 8, 15. -/
def Obligations.IdentityAndRingCommands : Prop :=
  (∀ (n : RingIx) (f : Fetched) (i : CmdInfo) (s : State), Accepted opIdentify n f i s →
    badDaddr s.tray.variant (f.desc.u64 0x10) 64 = false → writeFails s (f.desc.u64 0x10) 128 = none →
    exec (.identify n) s = .next (complete n f (Reply.of codeOk)
      (daddrWrite (f.desc.u64 0x10) (identityBlock (dispatch n f s)) (dispatch n f s)))) ∧
  (∀ s : State, (identityBlock s).length = 128) ∧
  (∀ (n : RingIx) (f : Fetched) (i : CmdInfo) (s : State), Accepted opRingConfig n f i s →
    allPass (ringConfigArgs f (dispatch n f s)) → (dispatch n f s).rings[ringOf f.desc 0x18].state = .disabled →
    overReserve (dispatch n f s) (f.desc.u16 0x1C) = false →
    exec (.ringConfig n) s = .next (complete n f (Reply.of codeOk)
      (setRing (ringOf f.desc 0x18) (configured f.desc) (dispatch n f s)))) ∧
  (∀ (n : RingIx) (f : Fetched) (i : CmdInfo) (s : State), Accepted opRingReset n f i s →
    1 ≤ f.desc.u8 8 → f.desc.u8 8 ≤ 63 → resetRefused (dispatch n f s) (ringOf f.desc 8) = false →
    ∃ t, exec (.ringReset n) s = .next (completeAll (ringOf f.desc 8) t.rings[ringOf f.desc 8].queue codeDropped t) ∧
      t = setRing (ringOf f.desc 8) (fun r => { r with
        haltedReset := decide (r.state = .halted), state := .resetting, resetBy := some f }) (dispatch n f s)) ∧
  (∀ (n : RingIx) (f : Fetched) (s : State), s.rings[n].resetBy = some f → s.rings[n].state = .resetting →
    s.rings[n].dispatched = [] → s.rings[n].waiting = [] →
    exec (.ringResetDone n) s = .next (complete 0 f (Reply.ok s.rings[n].cqTail.toNat) (setRing n Ring.cleared s)))

/-- MATMUL and RESIDENT are accepted as jobs, and JOB_ABORT ends the jobs of a TAG. Accepted with its arguments in range,
a readable job table without a fault, an input stride that holds a vector, a fusion entry that suits the job, room for
one vector in the partial-sum region of each die it may use, a tile that is not FAULTED and no thermal stop, MATMUL
becomes a job of its ring and stays in progress; so does RESIDENT on a tile of a group with an image of its own.
JOB_ABORT ends with DROPPED what is queued and what is dispatched under the TAG on its ring, and answers how many
those were. Drawn from: R322, R323, R324, R326, R167. The model's own choices that it rests on: log entries 8, 16, 20. -/
def Obligations.MatrixJobsAreAcceptedAndAborted : Prop :=
  (∀ (n : RingIx) (f : Fetched) (i : CmdInfo) (s u : State) (h : TableHead) (p : JobParams) (e : FusionEntry),
    Accepted opMatmul n f i s → u = dispatch n f s → allPass (matmulArgs f u) →
    readFails u (2 ^ 63 + f.desc.u64 0x28) 64 = none →
    headFault u (decide (8 ≤ f.desc.u8 8)) (stackRead u (f.desc.u64 0x28) 64) = none →
    h = tableHead (stackRead u (f.desc.u64 0x28) 64) →
    readFails u (2 ^ 63 + f.desc.u64 0x28 + 64) (16 * (h.rowBlk * h.colBlk)) = none →
    (∀ k, k < h.rowBlk * h.colBlk →
      blockEntryFault u.tray.variant (stackRead u (f.desc.u64 0x28 + 64 + 16 * k) 16) = none) →
    p = matrixParams f.desc false h.nrows h.ncols h.mask h.stats
      ((List.range (h.rowBlk * h.colBlk)).map (fun k =>
        BitVec.ofNat 32 (field (stackRead u (f.desc.u64 0x28 + 64 + 16 * k) 16) 8 4)))
      ((List.range (h.rowBlk * h.colBlk)).map (fun k =>
        BitVec.ofNat 64 (field (stackRead u (f.desc.u64 0x28 + 64 + 16 * k) 16) 0 8))) →
    packedBytes (f.desc.u8 0x0F) p.elems ≤ p.inStride → fusionNamed u f.desc = some e →
    fusionJobFault e (atomicNamed f.desc) p.outStride p.comps = none →
    psumFit u (diesOf (poolOf u p.tileMask)) p ≠ 0 →
    (∃ t ∈ poolOf u p.tileMask, u.tiles[t].state ≠ .faulted) → noAdmit u = false →
    (atomicNamed f.desc && atomicStackBad u (f.desc.u64 0x30)) = false →
    exec (.matmul n) s = .next (acceptMatrix n f .matmul p e (psumFit u (diesOf (poolOf u p.tileMask)) p)
      (diesOf (poolOf u p.tileMask)) u)) ∧
  (∀ (n : RingIx) (f : Fetched) (i : CmdInfo) (s u : State) (t : TileIx) (p : JobParams) (e : FusionEntry),
    Accepted opResident n f i s → u = dispatch n f s → allPass (residentArgs f u) → f.desc.u8 9 = t.val →
    p = matrixParams f.desc true (f.desc.u8 0x0B + 1) (f.desc.u8 0x0A + 1) 0 (f.desc.u64 0x28) [] [] →
    fusionNamed u f.desc = some e → fusionJobFault e false p.outStride p.comps = none →
    psumFit u [engineOf t] p ≠ 0 → u.tiles[t].group ≠ none → u.sets.imageActive[t] ≠ none →
    u.tiles[t].state ≠ .faulted → noAdmit u = false →
    exec (.resident n) s = .next (acceptMatrix n f (.resident t) p e (psumFit u [engineOf t] p) [engineOf t] u)) ∧
  (∀ (n : RingIx) (f : Fetched) (e : FusionEntry) (kind : JobKind) (p : JobParams) (per : Nat) (ds : List (Fin 2)) (s : State),
    ∃ j, (acceptMatrix n f kind p e per ds s).jobs = s.jobs ++ [j] ∧ j.id = f.id ∧ j.ring = n ∧ j.params = p ∧
      j.kind = kind ∧ j.fusion = some e ∧ j.segments = [] ∧
      (acceptMatrix n f kind p e per ds s).tiles = s.tiles ∧ (acceptMatrix n f kind p e per ds s).mem = s.mem) ∧
  (∀ (n : RingIx) (f : Fetched) (i : CmdInfo) (s u : State) (q : List Fetched) (js : List Job),
    Accepted opJobAbort n f i s → u = dispatch n f s → 1 ≤ f.desc.u8 8 → f.desc.u8 8 ≤ 63 →
    u.rings[abortRing f.desc].policy ≠ 2 →
    q = u.rings[abortRing f.desc].queue.filter (fun x => jobOp x.desc.opcode &&
      decide (x.desc.tag = BitVec.ofNat 32 (f.desc.u32 0x0C)) && abortReaches n f (abortRing f.desc) u x.id) →
    js = u.jobs.filter (fun j => decide (j.ring = abortRing f.desc) &&
      decide (j.desc.tag = BitVec.ofNat 32 (f.desc.u32 0x0C)) && jobOp j.desc.opcode && abortReaches n f (abortRing f.desc) u j.id) →
    exec (.jobAbort n) s = .next (complete n f (Reply.ok (q.length + js.length))
      (js.foldl (fun s j => stopAny j codeDropped s) (completeAll (abortRing f.desc) q codeDropped u))))

/-- Segments are dispatched and end, samples fold, engines chain and controllers add. A dispatchable segment of a job
whose fusion entry stands, whose precision check passes, whose inputs can be read and whose block exponents are at
most E starts on its tile: a free tile is SERVING with the job, behind a running segment the job is noted as the next.
At the end of a segment whose residual holds the segment leaves its job and the tile is free at the boundary; of a batch
whose peak fails a job that is no radio set ends with PRECISION_UNMET; a segment that still waits for its image goes on.
The raw samples of the next pass of a block are corrected, summed and rounded, and fold in column order, those of a raw
run go to memory as they are. Engine B adds engine A's values once. An atomic add adds into its aligned word of a stack. Drawn from: R343, R347, R170, R178, R180,
R181, R125. The model's own choices that it rests on: log entries 21, 23. -/
def Obligations.SegmentsAndPassesOfAJob : Prop :=
  (∀ (t : TileIx) (job row col first count : Nat) (s : State) (j k : Job), jobOf s job = some j →
    dispatchable s j t row col first count = true → bindFusion s j = .ok k →
    precisionFails s t j.params.format.toNat (freshBatch j t row col) = false →
    inputFails s j row col first count = none → expFails s j row col first count = false →
    exec (.segmentDispatch t job row col first count) s = .next (startSegment k t row col first count false s) ∧
    (s.tiles[t].job = none → (startSegment k t row col first count false s).tiles[t].state = .serving ∧
      (startSegment k t row col first count false s).tiles[t].job = some k.id) ∧
    (∀ id, s.tiles[t].job = some id → preempts s k s.tiles[t] = false →
      (startSegment k t row col first count false s).tiles[t].job = some id ∧
      (startSegment k t row col first count false s).tiles[t].next = some k.id)) ∧
  (∀ (t : TileIx) (s : State) (j : Job) (g : Segment) (b : BlockRun), s.tiles[t].job.bind (jobOf s) = some j →
    j.segments.find? (fun g => decide (g.tile = t)) = some g → b = blockRun j g.row g.col →
    (g.begun = false → exec (.segmentEnd t) s = .next s) ∧
    (g.begun = true → (b.bad || peakFails j s.tiles[t]) = false →
      exec (.segmentEnd t) s = .next (segmentOver t (setJob j.id (fun _ => setRun { b with bad := false }
        { j with segments := j.segments.erase g,
                 peak := if j.peak.toNat < s.tiles[t].heat.peak.toNat then s.tiles[t].heat.peak else j.peak }) s))) ∧
    (g.begun = true → (b.bad || peakFails j s.tiles[t]) = true → g.first + g.count = openPasses s j g.row →
      j.isRadio = false → ∃ k, k = setRun { b with bad := true } { j with
        segments := j.segments.erase g, precision := true,
        peak := if j.peak.toNat < s.tiles[t].heat.peak.toNat then s.tiles[t].heat.peak else j.peak } ∧
      exec (.segmentEnd t) s =
        .next (segmentOver t (stopJob k codePrecisionUnmet 0 (checkEvent t true (setJob j.id (fun _ => k) s)))))) ∧
  (∀ (t : TileIx) (job row col pass : Nat) (raw : List (List Byte)) (odd : Bool) (s u : State) (j : Job) (v : Staged),
    jobOf s job = some j → passArrives s j t row col pass = true → stagedOf j row col pass = some v →
    u = setTile t (passSeen j v raw odd) s → ∃ xs k,
    xs = (detectPass s.tiles[t].conv (passSymbols j.params.format.toNat) odd raw).1 ∧
    k = setRun { blockRun j row col with got := (blockRun j row col).got + 1 } { j with staged := j.staged.erase v } ∧
    ((∀ r, j.kind ≠ .vecRaw r) → exec (.sampleFold t job row col pass raw odd) s =
      .next (atPassBoundary t (setJob job (fun _ => drainHeld s (j.held.length + 1) { k with
        held := j.held ++ [{ engine := engineOf t, row := row, col := col, pass := pass, samples := xs, e := v.e,
                             scale := (blockScales s j row col).1 }] }) u))) ∧
    (∀ r, j.kind = .vecRaw r → exec (.sampleFold t job row col pass raw odd) s =
      .next (atPassBoundary t (rawPass j t v xs (setJob job (fun _ => { k with passesDone := j.passesDone + 1 }) u))))) ∧
  (∀ (job : Nat) (s : State) (j : Job), jobOf s job = some j → crossesEngines j = true → j.chained = false →
    j.params.combine = 0 → allArrived s j = true →
    exec (.chainReceive job) s = .next (setJob job (fun _ => addChain j) s)) ∧
  (∀ (a : W64) (v : W32) (s : State), a.toNat % 4 = 0 → a.toNat < windowSize s.tray.variant →
    s.sched.atomicBad.getLsbD (stackOf a.toNat) = false →
    exec (.atomicAdd a v) s = .next (atomicInto a.toNat (f32 v.toNat) s))

/-- REDUCE, DECOMPOSE and IMAGE_READ take effect. Accepted with arguments in range: REDUCE without a thermal stop, on a
half that works and into a stack whose atomic unit works, becomes a job that has started; DECOMPOSE of a readable
target of finite elements pads it to 128 x 128, writes the 40,960-byte image of a factorisation, which the spec leaves to
a free choice (log entry 3), and answers s, the largest singular value in binary32; of a zero matrix it writes the zero
image and answers 0; IMAGE_READ of a tile that is neither OFF nor FAULTED writes the
40,960 bytes of its active or shadow image. Drawn from: R320, R321, R325, R184, R54, R55, R56. The model's own
choices that it rests on: log entries 3, 7, 24, 25, 66. -/
def Obligations.ReductionsAndMatrixHelpers : Prop :=
  (∀ (n : RingIx) (f : Fetched) (i : CmdInfo) (s u : State), Accepted opReduce n f i s → u = dispatch n f s → allPass (reduceArgs f u) → noAdmit u = false → u.kermes[dieOf u (f.desc.u64 0x10)].lost = false →
    (decide (f.desc.u8 0x0A / 4 % 4 = 1) && atomicStackBad u (f.desc.u64 0x20)) = false →
    ∃ j, exec (.reduce n) s = .next { u with jobs := u.jobs ++ [j] } ∧ j.id = f.id ∧ j.ring = n ∧ j.desc = f.desc ∧
      j.kind = .reduce ∧ j.started = true ∧ j.startSC = u.time.symbolCount) ∧
  (∀ (n : RingIx) (f : Fetched) (i : CmdInfo) (s u : State), Accepted opDecompose n f i s → u = dispatch n f s →
    f.desc.u8 8 ≤ 1 → f.desc.u8 0x0A ≤ 127 → f.desc.u8 0x0B ≤ 127 → f.desc.u8 0x0B + 1 ≤ f.desc.u32 0x0C →
    badDaddr u.tray.variant (f.desc.u64 0x10) 4 = false → badSaddr u.tray.variant (f.desc.u64 0x18) 64 = false →
    decompFails u f.desc = none →
    (∀ r ∈ decompRows u f.desc, ∀ p ∈ r, p.1.isFinite = true ∧ p.2.isFinite = true) →
    (zeroRows (decompRows u f.desc) = true →
      writeFails u (2 ^ 63 + f.desc.u64 0x18) (imageBytes []).length = none →
      exec (.decompose n) s = .next (complete n f (Reply.ok 0)
        (daddrWrite (2 ^ 63 + f.desc.u64 0x18) (imageBytes []) u))) ∧
    (∀ im sc, zeroRows (decompRows u f.desc) = false → Config.decompose (paddedWords (decompRows u f.desc)) = some im →
      sc = BitVec.ofNat 32 (binary32.encode (largestSingular (decompRows u f.desc))) →
      writeFails u (2 ^ 63 + f.desc.u64 0x18) (imageBytes im).length = none →
      exec (.decompose n) s = .next (complete n f (Reply.ok sc.toNat)
        (daddrWrite (2 ^ 63 + f.desc.u64 0x18) (imageBytes im) u))) ∧
    (zeroRows (decompRows u f.desc) = false → Config.decompose (paddedWords (decompRows u f.desc)) = none →
      exec (.decompose n) s = .next (complete n f (Reply.of codeIntDecompose) u))) ∧
  (∀ (n : RingIx) (f : Fetched) (i : CmdInfo) (s u : State), Accepted opImageRead n f i s → u = dispatch n f s →
    f.desc.u8 8 ≤ 9 → f.desc.u8 9 ≤ 1 → badDaddr u.tray.variant (f.desc.u64 0x10) 64 = false →
    ∀ t : TileIx, t.val = f.desc.u8 8 → u.tiles[t].state ≠ .off → u.tiles[t].state ≠ .faulted →
    (f.desc.u8 9 = 0 → writeFails u (f.desc.u64 0x10) (imageBytes u.tiles[t].mesh.active.image).length = none →
      exec (.imageRead n) s = .next (complete n f (Reply.of codeOk)
        (daddrWrite (f.desc.u64 0x10) (imageBytes u.tiles[t].mesh.active.image) u))) ∧
    (f.desc.u8 9 = 1 → writeFails u (f.desc.u64 0x10) (imageBytes u.tiles[t].mesh.shadow.image).length = none →
      exec (.imageRead n) s = .next (complete n f (Reply.of codeOk)
        (daddrWrite (f.desc.u64 0x10) (imageBytes u.tiles[t].mesh.shadow.image) u)))) ∧
  (∀ im : Image, (imageBytes im).length = 40960)

/-- The output stage at JOB_OUTPUT_DONE, and the failures of Kermes, of the stacks and of the arbiter. At JOB_OUTPUT_DONE
a job whose passes have all arrived and whose segments have ended ends: a matrix job through the output stage of its
fusion entry, one sub-batch of its vectors after another, a radio set with its outcome, a REDUCE with its reductions, a raw run with OK. An atomic unit, a
scratchpad bank, the link between the dies, a stack, a die and a held unit fail with the counters, flags and alarms
written here, and the work that depends on them ends. Drawn from: R181, R184, R187, R194, R31, R359. The model's own
choices that it rests on: log entries 22, 23, 26. -/
def Obligations.OutputsAndFailuresOfKermes : Prop :=
  (∀ (job : Nat) (s : State) (j : Job), jobOf s job = some j →
    (j.kind = .reduce → exec (.jobOutputDone job) s = .next (runReduce j s)) ∧
    (∀ t, j.kind = .vecRaw t → allArrived s j = true → j.segments = [] →
      exec (.jobOutputDone job) s = .next (finishJob j [codeOk] 0 s)) ∧
    (∀ g x k, j.kind = .radio g x k → allArrived s j = true → j.segments = [] →
      exec (.jobOutputDone job) s = .next (outputRadio j g x k s)) ∧
    (∀ e, (j.kind = .matmul ∨ ∃ t, j.kind = .resident t) → j.fusion = some e → matrixReady s j = true →
      exec (.jobOutputDone job) s = .next (outputMatrix j e s)) ∧
    (∀ e, tablesFail s j.params e = none → outputFails s j.params e = none →
      ∃ x, x = (List.range (subEnd j - j.vecDone)).foldl (fun x i =>
          if j.params.combine = 1 then atomicVector e (j.vecDone + i) x
          else outVector e (userTab s e) (j.vecDone + i) x) (j, s) ∧
        (j.params.nvec ≤ subEnd j → outputMatrix j e s = finishJob x.1 [codeOk] 0 x.2) ∧
        (subEnd j < j.params.nvec → outputMatrix j e s = nextSubBatch x.1 x.2))) ∧
  (∀ (k : Fin 6) (s : State), ∃ t u, exec (.atomicAckTimeout k) s =
      .next ((s.jobs.filter (fun j => addsInto j k.val)).foldl (fun s j => stopWork j codeIntAtomic s) t) ∧
    t = raiseAlarm false alAtomic (BitVec.ofNat 16 k.val) u ∧
    u = { s with sched := { s.sched with atomicBad := s.sched.atomicBad ||| (1#6 <<< k.val) } }) ∧
  (∀ (d : Fin 2) (b : Fin 64) (job : Option Nat) (s : State), b ∉ s.kermes[d].retired →
    (exec (.scratchpadEccError d b false job) s =
      .next { s with kermes := upd s.kermes d (fun k => { k with singleErrs := satInc k.singleErrs }) }) ∧
    (∃ u, u = { s with kermes := upd s.kermes d (fun k =>
          { k with bankEvents := (b, s.time.symbolCount) :: k.bankEvents.filter (fun p => decide (p.1 ≠ b)) }) } ∧
      (eventWithin s.kermes[d].bankEvents b s.time.symbolCount = false →
        exec (.scratchpadEccError d b true job) s = .next (stopId job codeIntMemoryEcc u)) ∧
      (eventWithin s.kermes[d].bankEvents b s.time.symbolCount = true →
        exec (.scratchpadEccError d b true job) s = .next (retireBank d b (stopId job codeIntMemoryEcc u))))) ∧
  (∀ (job : Nat) (s : State) (j : Job), jobOf s job = some j → crossesEngines j = true → j.params.combine = 0 →
    exec (.interKermesLinkError job) s = .next (stopWork j codeIntLink
      (raiseAlarm false alLink 0 { s with sched := { s.sched with interKermesBad := true } }))) ∧
  (∀ (k : Fin 6) (unit : Nat) (s : State), k.val < stacksFitted s.tray.variant →
    ∃ u, u = { s with sched := { s.sched with stackEvents := satInc s.sched.stackEvents } } ∧
      (exec (.memoryEccError k unit false false none) s = .next (raiseAlarm false evMemEcc (BitVec.ofNat 16 k.val)
        (event evMemEcc (BitVec.ofNat 16 k.val) 1 u))) ∧
      (∀ job, stackOf (32 * unit) = k.val → ∃ v,
        v = raiseAlarm false evMemEcc (BitVec.ofNat 16 k.val) (event evMemEcc (BitVec.ofNat 16 k.val) 2 u) ∧
        exec (.memoryEccError k unit true false job) s = .next (stopId job codeIntMemoryEcc
          { v with mem := { v.mem with eccUnits := insertUnit unit v.mem.eccUnits } }))) ∧
  (∀ (k : Fin 6) (s : State), k.val < stacksFitted s.tray.variant → ∀ unit dbl job, ∃ w,
    exec (.memoryEccError k unit dbl true job) s = .next (raiseAlarm true evMemEcc (BitVec.ofNat 16 k.val) w) ∧
    w.mem.stackOnline.getLsbD k.val = false) ∧
  (∀ (d : Fin 2) (s : State), s.kermes[d].lost = false → ∃ u v,
    u = (s.jobs.filter (usesDie s d)).foldl (fun s j => stopWork j codeIntHalfLost s) s ∧
    v = { u with kermes := upd u.kermes d (fun k => { k with lost := true }),
                 mem := { u.mem with stackOnline := u.mem.stackOnline &&& ~~~(stacksOfDie u.tray.variant d) } } ∧
    exec (.kermesDieFailure d) s = .next (requestTakeover alKermesLost (raiseAlarm true alKermesLost (BitVec.ofNat 16 d.val)
      ((tilesOfDie d).foldl (fun s t => faultTile t s) v)))) ∧
  (∀ (t : Option TileIx) (job : Nat) (s : State), exec (.arbiterHoldTimeout t (some job)) s =
    .next (raiseAlarm false alHold 0 (stopId (some job) codeIntUnitCut
      { s with sched := { s.sched with holdErrs := satInc s.sched.holdErrs, holdEvents := s.sched.holdEvents + 1 } }))) ∧
  (∀ (t : TileIx) (s : State), exec (.arbiterHoldTimeout (some t) none) s =
    .next (raiseAlarm false alHold 0 (stopId s.tiles[t].job codeIntUnitCut
      { s with sched := { s.sched with holdErrs := satInc s.sched.holdErrs, holdEvents := s.sched.holdEvents + 1 } })))

/-- MODEL_CHECK, TREE, the records and ends of waves, and the lanes of Sepia take effect. Accepted: MODEL_CHECK of a
readable model without a fault answers its check word; TREE of a named slot becomes a job. The first record of a wave
plans it, and each record that can be read and whose header fits adds its leaves. At the end of a wave its outputs are
written; after the last wave the job completes with OK or FEATURE_NAN. A lane parity error is counted, the wave is run
again, and after a second in 24 h the lane is retired; one of the front-stage tables runs the wave again once, the next
ends the job; known-answer tests between jobs retire the lanes that fail.
Drawn from: R196, R197, R203, R205, R214, R216, R321. The model's own choices that it rests on: log entry 27. -/
def Obligations.TreeJobsRunWaveByWave : Prop :=
  (∀ (n : RingIx) (f : Fetched) (i : CmdInfo) (s u : State), Accepted opModelCheck n f i s → u = dispatch n f s →
    badSaddr u.tray.variant (f.desc.u64 0x10) 64 = false → modelReadFails u (f.desc.u64 0x10) = none →
    modelFault u (f.desc.u64 0x10) = none →
    exec (.modelCheck n) s = .next (complete n f (Reply.ok (modelCrc u (f.desc.u64 0x10)).toNat) u)) ∧
  (∀ (n : RingIx) (f : Fetched) (i : CmdInfo) (s u : State), Accepted opTree n f i s → u = dispatch n f s → allPass (treeArgs f u) → ∀ m, slotNamed u f.desc = some m → noAdmit u = false →
    sepiaRejects u = false → u.kermes[foldDie u (modelAt u m.desc.toNat)].lost = false →
    ∃ j, exec (.tree n) s = .next { u with jobs := u.jobs ++ [j] } ∧ j.id = f.id ∧ j.ring = n ∧ j.desc = f.desc ∧
      j.kind = .tree ∧ j.model = some m ∧ j.params.nvec = f.desc.u32 0x0C) ∧
  (∀ (job : Nat) (s : State) (j k : Job) (m : ModelSlot) (mo : Model), jobOf s job = some j → j.kind = .tree →
    bindModel s j = some k → k.model = some m → mo = modelAt s m.desc.toNat →
    (k.tree.planned = true → exec (.treeRecordArrival job) s = .next (recordArrives k mo s)) ∧
    (k.tree.planned = false → waveSize s k mo ≠ 0 → samplesFail s k mo (waveSize s k mo) = none →
      exec (.treeRecordArrival job) s = .next (recordArrives (planWave s k mo (waveSize s k mo)) mo s))) ∧
  (∀ (j : Job) (mo : Model) (s : State), j.tree.nextTree < mo.ntrees →
    readFails s (2 ^ 63 + (mo.addr + mo.treesOff + j.tree.nextOff)) 64 = none →
    headerFail s mo (mo.addr + mo.treesOff + j.tree.nextOff) j.tree.nextTree = none →
    readFails s (2 ^ 63 + (mo.addr + mo.treesOff + j.tree.nextOff))
      (leNat (stackRead s (mo.addr + mo.treesOff + j.tree.nextOff) 4)) = none →
    recordArrives j mo s = setJob j.id (fun _ => foldLeaves s mo (mo.addr + mo.treesOff + j.tree.nextOff) j) s) ∧
  (∀ (job : Nat) (s : State) (j k : Job) (m : ModelSlot) (mo : Model), jobOf s job = some j → j.model = some m →
    mo = modelAt s m.desc.toNat → j.tree.planned = true → mo.ntrees ≤ j.tree.nextTree → waveCrc s mo j.tree.crcRun = m.crc →
    waveWriteFails s j mo = none → k = nextWave s j mo →
    (k.samplesDone < j.params.nvec → exec (.sepiaWaveEnd job) s = .next (setJob job (fun _ => k) (writeWave j mo s))) ∧
    (j.params.nvec ≤ k.samplesDone → exec (.sepiaWaveEnd job) s = .next (finishJob k
      [if statusCount k 1 + statusCount k 2 = 0 then codeOk else codeFeatureNan] 0
      (setJob job (fun _ => k) (writeWave j mo s))))) ∧
  (∀ (l : Fin 16) (job : Option Nat) (s u v : State), s.sepia.retired.getLsbD l.val = false →
    u = { s with sepia := { s.sepia with
      parityErrs := satInc s.sepia.parityErrs, laneEvents := (l, s.time.symbolCount) :: s.sepia.laneEvents.filter (fun p => decide (p.1 ≠ l)) } } →
    v = (match job with
      | none => u
      | some k => setJob k (fun j => if j.kind = .tree ∧ j.tree.planned then rerunWave j else j) u) →
    (eventWithin s.sepia.laneEvents l s.time.symbolCount = false → exec (.sepiaLaneParity (some l) job) s = .next v) ∧
    (eventWithin s.sepia.laneEvents l s.time.symbolCount = true →
      exec (.sepiaLaneParity (some l) job) s = .next (retireLane l v))) ∧
  (∀ (job : Nat) (j : Job) (s u : State), jobOf s job = some j → j.kind = .tree → j.tree.planned = true →
    u = { s with sepia := { s.sepia with parityErrs := satInc s.sepia.parityErrs } } →
    (j.tree.tableRerun = false → exec (.sepiaLaneParity none (some job)) s = .next (setJob j.id (fun k =>
      { rerunWave k with tree := { (rerunWave k).tree with tableRerun := true } }) u)) ∧
    (j.tree.tableRerun = true → exec (.sepiaLaneParity none (some job)) s = .next (endTree j codeIntSepia u))) ∧
  (∀ (bad : BitVec 16) (s : State), s.sepia.lost = false → (∀ j ∈ s.jobs, j.kind = .tree → j.tree.planned = false) →
    exec (.sepiaKatTimer bad) s = .next ((List.finRange 16).foldl (fun s l => if bad.getLsbD l.val then retireLane l s else s)
      { s with sepia := { s.sepia with katRuns := s.sepia.katRuns + 1 } }))

/-- SLOT is accepted for its group, and received messages are placed, counted or answered. Accepted on the ring of a radio
group, with arguments in range and C-plane and weight lists that can be read, SLOT becomes a slot in work and stays in
progress; by the model's choice (assumption 29) a second one for a slot in work completes with DROPPED. A frame on a
port that is up is counted where it is no frame for eCPRI, where its eCPRI header is not accepted, and where its eAxC
ID names no open stream; a well-formed message of a stream is judged by its window: early and late ones are counted,
one in time is counted as received, stored, and starts the set it completes. A delay measurement request is answered.
Drawn from: R240, R241, R242, R244, R252, R257, R258, R260, R328. The model's own choices that it rests on: log
entries 9, 28, 30, 31. -/
def Obligations.SlotsAndReceivedMessages : Prop :=
  (∀ (n : RingIx) (f : Fetched) (i : CmdInfo) (s u : State) (g : GroupIx) (cs : List CSection) (ws : List (W64 × W32)),
    Accepted opSlot n f i s → u = dispatch n f s → groupOfRing u n = some g → allPass (slotArgs u g f.desc) →
    noRadioWork u = false → readCplane u g f.desc = .ok cs → readWeights u g f.desc = .ok ws →
    (slotOf u g (BitVec.ofInt 64 (slotNumber u.time f.desc)) = none →
    exec (.slot n) s = .next (acceptSlot n f g cs ws u) ∧
    ∃ x, (acceptSlot n f g cs ws u).radio.slots = u.radio.slots ++ [x] ∧ x.group = g ∧ x.ring = n ∧ x.id = f.id ∧
      x.cplane = cs ∧ x.slotNo = BitVec.ofInt 64 (slotNumber u.time f.desc) ∧ x.posted = 0) ∧
    (slotOf u g (BitVec.ofInt 64 (slotNumber u.time f.desc)) ≠ none →
      exec (.slot n) s = .next (complete n f (Reply.of codeDropped) u))) ∧
  (∀ (p : PortIx) (fr : List Byte) (s : State), portUp s p = true →
    (ecpriPart fr = none → exec (.uplaneMessageRx p fr) s = .next (setPort p (fun x => { x with dropFrame := satInc x.dropFrame }) s)) ∧
    (∀ b, ecpriPart fr = some b →
      (ecpriMessage b = none →
        exec (.uplaneMessageRx p fr) s = .next (setPort p (fun x => { x with dropEcpri := satInc x.dropEcpri }) s)) ∧
      (∀ ty m, ecpriMessage b = some (ty, m) → ty ≠ 0 →
        exec (.uplaneMessageRx p fr) s = .next (setPort p (fun x => { x with dropEcpri := satInc x.dropEcpri }) s)) ∧
      (∀ m, ecpriMessage b = some (0, m) → exec (.uplaneMessageRx p fr) s = .next (iqMessage p m s)))) ∧
  (∀ (p : PortIx) (m : List Byte) (s : State) (r : RadioSet), 4 ≤ m.length → 128 ≤ byteAt m 3 →
    r = mapFor s (BitVec.ofInt 64 (slotNow s.time + headAhead s.time (uHead (m.drop 4)))) →
    (streamOf r p (beNat (m.take 2)) = none → iqMessage p m s = setPort p (fun x => { x with unmatched := satInc x.unmatched }) s) ∧
    (∀ i, streamOf r p (beNat (m.take 2)) = some i → iqMessage p m s = uplane i r (m.drop 4) (noteSeq i (m.getD 2 0) s))) ∧
  (∀ (i : StreamIx) (r : RadioSet) (b : List Byte) (s : State) (g : GroupIx) (x : Nat × List Int) (ps : List (Nat × List Int)),
    uHeadOk s.time.numerology b = true → r.streams[i].ulGroup.toNat = g.val →
    readSections r.streams[i].compUl r.groups[g].nprb.toNat (b.length + 1) (b.drop 4) = some (x :: ps) →
    uplane i r b s = placeMessage i g r (uHead b) (x :: ps) s) ∧
  (∀ (i : StreamIx) (g : GroupIx) (r : RadioSet) (h : UHead) (ps : List (Nat × List Int)) (s u : State) (n : W64) (d : Int),
    n = BitVec.ofInt 64 (slotNow s.time + headAhead s.time h) → d = afterMarker s.time h * 100 → u = dropStale g n s →
    (d < (r.groups[g].rxOpen.toNat : Int) * 393216 →
      placeMessage i g r h ps s = setStream i (fun c => { c with rxEarly := satInc c.rxEarly }) u) ∧
    ((r.groups[g].rxOpen.toNat : Int) * 393216 ≤ d →
      (r.groups[g].rxClose.toNat : Int) * 393216 < d ∨ setBegun u g n h.sym = true →
      placeMessage i g r h ps s = setStream i (fun c => { c with rxLate := satInc c.rxLate }) u) ∧
    ((r.groups[g].rxOpen.toNat : Int) * 393216 ≤ d → d ≤ (r.groups[g].rxClose.toNat : Int) * 393216 →
      setBegun u g n h.sym = false →
      placeMessage i g r h ps s = startIfArrived g n h.sym (storePrbs g n r.streams[i].ant.toNat h.sym ps
        (setStream i (fun c => { c with rxOk := satInc c.rxOk }) u)))) ∧
  (∀ (p : PortIx) (fr b m : List Byte) (s : State), portUp s p = true → ecpriPart fr = some b → ecpriMessage b = some (5, m) →
    (byteAt m 1 = 0 ∨ byteAt m 1 = 5 → exec (.delayMeasurementRx p fr) s = .next (delayAnswer p fr m 2 s)) ∧
    (byteAt m 1 = 3 → exec (.delayMeasurementRx p fr) s = .next (delayAnswer p fr m 0 s)) ∧
    (byteAt m 1 = 1 → exec (.delayMeasurementRx p fr) s =
      .next { s with time := { s.time with delayReqs := s.time.delayReqs + 1 } }))

/-- Sets start at their times, symbols and C-plane messages go out, and ports go down and come up. Once RX_CLOSE of its
last symbol has come an uplink set that has not started starts with what has arrived; layer data that can be read is put
in place; with core 1 running a downlink set whose data is in place starts when it is due. When the window of a symbol opens its messages are sent, or counted as
not sent, and the slot completes after its fourteenth symbol. CP_ADVANCE before a slot its C-plane messages go out. A
port that loses its signal or whose module faults goes down, one that takes a good module has its signal, one that
aligns comes up and clears its alarm. Drawn from: R256, R257, R258, R259, R262, R587, R591, R592, R469, R480. The
model's own choices that it rests on: log entries 1, 28, 29, 30. -/
def Obligations.RadioSetsWindowsAndPorts : Prop :=
  (∀ (g : GroupIx) (n : W64) (k : Nat) (s : State) (x : RadioSlot), slotOf s g n = some x →
    (∃ b ∈ x.sets, b.index = k ∧ b.started = false ∧ b.done = false) →
    reached s (setStartAt s x.entry n k) = true →
    (x.entry.kind ≠ 1 → exec (.rxClose g n k) s = .next (startSet g n k s)) ∧
    (x.entry.kind = 1 → x.fetched = true → coreRuns s 1 = true → exec (.dlSetStart g n k) s = .next (startSet g n k s))) ∧
  (∀ (g : GroupIx) (n : W64) (s : State) (x : RadioSlot), slotOf s g n = some x → x.entry.kind = 1 → x.fetched = false →
    readFails s (x.desc.u64 0x18) (layerBytes x.entry) = none →
    exec (.layerFetchDone g n) s = .next (setSlot g n (fun y =>
      { y with layers := hostRead s (x.desc.u64 0x18) (layerBytes x.entry), fetched := true }) s)) ∧
  (∀ (g : GroupIx) (n : W64) (k : Fin 14) (s : State) (x y : RadioSlot) (u : State), slotOf s g n = some x →
    x.entry.kind = 1 → k.val ∉ x.txSent → k.val ∉ x.txSkipped → reached s (txOpensAt s x k.val) = true →
    u = (slotStreams s x).foldl (sendSymbol x k.val (symReady x k.val)) s →
    y = (if symReady x k.val && mayTransmit s then { x with txSent := k.val :: x.txSent }
         else { x with txSkipped := k.val :: x.txSkipped }) →
    (y.txSent.length + y.txSkipped.length ≠ 14 → exec (.txWindowOpen g n k) s = .next (setSlot g n (fun _ => y) u)) ∧
    (y.txSent.length + y.txSkipped.length = 14 → exec (.txWindowOpen g n k) s =
      .next (completeId x.ring x.id (slotReply y) (endSlot y (setSlot g n (fun _ => y) u))))) ∧
  (∀ (x : RadioSlot) (k : Nat) (i : StreamIx) (s : State) (p : PortIx) (ms : List (List (Nat × Nat × Nat))),
    streamPort (slotMap s x).streams[i] = some p → portUp s p = true →
    ms = symMessages (slotMap s x).streams[i].compDl x.entry.nprb.toNat x.cplane i k →
    (∀ (b : Bool), b = false ∨ mayTransmit s = false →
      sendSymbol x k b s i = setStream i (fun c => { c with txDrop := satAdd c.txDrop ms.length }) s) ∧
    (mayTransmit s = true → sendSymbol x k true s i = ms.foldl (sendUplane x k i p) s)) ∧
  (∀ (g : GroupIx) (n : W64) (s : State) (x : RadioSlot), slotOf s g n = some x → x.cplaneSent = false →
    reached s (cplaneAt s x) = true → exec (.cplaneTx g n) s = .next (x.cplane.foldl (sendCplane x) (setSlot g n (fun y =>
      { y with cplaneSent := true, cplaneHeld := if mayTransmit s then none else some s.time.symbolCount }) s))) ∧
  (∀ (g : GroupIx) (s : State), 100 ≤ s.radio.missRun[g] → exec (.rxMissingHigh g) s =
    .next (raiseAlarm false evRxMissingHigh (BitVec.ofNat 16 g.val) (event evRxMissingHigh (BitVec.ofNat 16 g.val) 0 s))) ∧
  (∀ (g : GroupIx) (n : W64) (s : State), s.twin.role = .standby → s.sets.radioActive.groups[g].en = true →
    streamsOf s.sets.radioActive g.val ≠ [] → slotOf s g n = none →
    exec (.slotDescriptorDeadline g n) s = .next (event evShadowLapse (BitVec.ofNat 16 g.val) 0 s)) ∧
  (∀ (p : PortIx) (s : State), portFitted s p = true →
    (s.radio.ports[p].signal = true → exec (.portSignalLoss p) s = .next (portDown p id s)) ∧
    (exec (.qsfpModuleInsert p true) s = .next (setPort p (fun x => { x with powered := true, signal := true }) s)) ∧
    (exec (.qsfpModuleInsert p false) s = .next (portDown p (fun x => { x with powered := false }) s)) ∧
    (s.radio.ports[p].powered = true → exec (.pcsAligned p) s = .next (clearAlarm evPortDown (BitVec.ofNat 16 p.val)
      (setPort p (fun x => { x with signal := true, linkUp := true, stopped := false }) s))) ∧
    (s.radio.ports[p].powered = true → exec (.moduleFault p) s = .next (portDown p (fun x => { x with powered := false }) s)))

/-- EVENT_SET, GAP_DECLARE and EVENT_CANCEL take effect, and armed events fire. Accepted with arguments in range:
EVENT_SET arms the lowest free comparator and stays in progress, its shadow PENDING where it swaps; GAP_DECLARE takes
two comparators; EVENT_CANCEL cancels every armed command of its ring and TAG with DROPPED, a gap that has started
ending then, and answers how many. When a comparator fires: a swap of a STAGED set takes place at once and completes
with the comparator number, a gap opens on its tiles with its end armed, the end of a gap completes with its steps and
overruns, and NOTIFY completes with the comparator number. Drawn from: R236, R237, R329, R330, R273, R274. The model's
own choices that it rests on: log entries 1, 34. -/
def Obligations.ScheduledEventsArmFireAndCancel : Prop :=
  (∀ (n : RingIx) (f : Fetched) (i : CmdInfo) (s u : State), Accepted opEventSet n f i s → u = dispatch n f s → allPass (eventSetArgs f u) → tupleRefused f.desc u = false → ∀ c rest, freeComparators u = c :: rest →
    (f.desc.u8 8 = 4 → exec (.eventSet n) s = .next (setComparator c (some
      { time := eventTimeOf f.desc, action := .notify, ring := n, id := f.id, tag := f.desc.tag }) u)) ∧
    (f.desc.u8 8 = 0 → u.sets.groups[(0 : GroupIx)].shadow = .staged → committing u 0 = false → ∃ e,
      e = ({ time := eventTimeOf f.desc, action := .radioSwap false, ring := n, id := f.id, tag := f.desc.tag } : ArmedEvent) ∧
      exec (.eventSet n) s = .next (mirror (some 0) f.desc.bytes (eventBytes u n e) (settleShadow 0 (setComparator c (some e) u)))) ∧
    (∀ g : GroupIx, f.desc.u8 8 = 1 → f.desc.u8 9 = g.val → u.sets.groups[g].shadow = .staged → committing u g = false → ∃ e,
      e = ({ time := eventTimeOf f.desc, action := .tileSwap g, ring := n, id := f.id, tag := f.desc.tag } : ArmedEvent) ∧
      exec (.eventSet n) s = .next (mirror (some g.val) f.desc.bytes (eventBytes u n e)
        (settleShadow g (setComparator c (some e) u))))) ∧
  (∀ (n : RingIx) (f : Fetched) (i : CmdInfo) (s u : State), Accepted opGapDeclare n f i s → u = dispatch n f s → f.desc.u16 8 < 1024 → 5 ≤ f.desc.u32 0x24 → f.desc.u32 0x24 ≤ 100000 →
    allPass (eventTimeChecks f.desc u.time) → tupleRefused f.desc u = false →
    ∀ c d rest, freeComparators u = c :: d :: rest → ∃ e,
      e = ({ time := eventTimeOf f.desc, action := .gapStart (BitVec.ofNat 10 (f.desc.u16 8)) (BitVec.ofNat 32 (f.desc.u32 0x24)) d,
             ring := n, id := f.id, tag := f.desc.tag } : ArmedEvent) ∧
      exec (.gapDeclare n) s = .next (setComparator d (some { e with action := .reserved }) (setComparator c (some e) u))) ∧
  (∀ (n : RingIx) (f : Fetched) (i : CmdInfo) (s u : State), Accepted opEventCancel n f i s → u = dispatch n f s → f.desc.u8 8 ≤ 63 → ∀ hits,
    hits = (List.finRange 64).filter (fun k => match u.time.comparators[k] with
      | some e => cancels (f.desc.u8 8) (BitVec.ofNat 32 (f.desc.u32 0x0C)) e
      | none => false) →
    (∀ k ∈ hits, ∀ e, u.time.comparators[k] = some e → e.action = .notify) →
    exec (.eventCancel n) s = .next (complete n f (Reply.ok hits.length) (hits.foldl cancelOne u))) ∧
  (∀ (c : Fin 64) (e : ArmedEvent) (s : State), s.time.comparators[c] = some e → e.action = .notify →
    cancelOne s c = completeId e.ring e.id (Reply.of codeDropped) (setComparator c none s) ∧
    exec (.eventNotify c) s = .next (completeId e.ring e.id (Reply.ok c.val) (setComparator c none s))) ∧
  (∀ (c : Fin 64) (e : ArmedEvent) (b : Bool) (s : State), s.time.comparators[c] = some e → e.action = .radioSwap b →
    s.sets.groups[(0 : GroupIx)].shadow ≠ .empty → s.sets.groups[(0 : GroupIx)].shadow ≠ .opened →
    radioSwapForbidden (setComparator c none s) = false →
    exec (.eventRadioSwap c) s = .next (completeId e.ring e.id (Reply.ok (if b then 0 else c.val)) (doSwap 0 (setComparator c none s)))) ∧
  (∀ (c : Fin 64) (e : ArmedEvent) (g : GroupIx) (s : State), s.time.comparators[c] = some e → e.action = .tileSwap g →
    s.sets.groups[g].shadow ≠ .empty → s.sets.groups[g].shadow ≠ .opened →
    (groupHeld (setComparator c none s) g = false →
      exec (.eventTileSwap c) s = .next (completeId e.ring e.id (Reply.ok c.val) (doSwap g (setComparator c none s)))) ∧
    (groupHeld (setComparator c none s) g = true →
      exec (.eventTileSwap c) s = .next (markHeld g (settleShadow g
        (waitSwap g e.ring e.id c.val (setComparator c none s)))))) ∧
  (∀ (c d : Fin 64) (e : ArmedEvent) (ts : BitVec 10) (dur : W32) (s : State), s.time.comparators[c] = some e →
    e.action = .gapStart ts dur d →
    exec (.eventGapStart c) s = .next ((tilesOf ts).foldl (fun s t => openDeclared t s)
      (setComparator d (some { e with time := .absolute (BitVec.ofNat 64 (firedAt s e + dur.toNat * 393216 / 100)),
                                      action := .gapEnd ts }) (setComparator c none s)))) ∧
  (∀ (c : Fin 64) (e : ArmedEvent) (ts : BitVec 10) (s : State), s.time.comparators[c] = some e → e.action = .gapEnd ts → ∃ t r,
    exec (.eventGapEnd c) s = .next (completeId e.ring e.id r t) ∧
    cancelOne s c = completeId e.ring e.id { r with code := codeDropped } t ∧
    r = Reply.okDetail (((tilesOf ts).map (fun t => (gapCounts s.tiles[t]).1)).foldl (· + ·) 0)
          (((tilesOf ts).map (fun t => (gapCounts s.tiles[t]).2)).foldl (· + ·) 0) ∧
    t.time.comparators[c] = none ∧ ∀ x : TileIx, t.tiles[x] = if ts.getLsbD x.val then endGap s.tiles[x] else s.tiles[x])

/-- Clocks lock and fault, timing messages are counted or used, and sync states change. The root PLL locks and the symbol
counter begins; ten failed comparisons unlock it; a clock fault sets its flags, is counted and makes a restart due.
Woad trims its oscillator by a count within 15 %, and two counts in a row more than 1 % off are a clock fault. A PTP
message of the domain on an enabled port is, with core 1 running, an Announce, noted and selected by the best master, or
an offset for the servo, less the port's asymmetry correction; others are counted. A lost master, a settled servo, a bound that crosses its limit, SyncE and a tuning word at
its limit change the sync state. Accepted, TIME_CONFIG puts its fields in force. Drawn from: R219, R223, R226, R228,
R229, R231, R232, R330. The model's own choices that it rests on: log entries 1, 32, 33. -/
def Obligations.ClocksAndTimingInput : Prop :=
  (∀ s : State, s.time.rootLock = false → exec .rootPllLock s = .next { s with time := { s.time with
    rootLock := true, lockFails := 0, symbolCount := 0, todSec := gpsEpoch, todTick := 0, clockFault := false } }) ∧
  (∀ s : State, s.time.rootLock = true →
    exec .rootPllUnlock s = .next { s with time := { s.time with rootLock := false, lockFails := 10 } }) ∧
  (∀ s : State, s.woad.powered = true → (s.time.rootLock = false ∧ 10 ≤ s.time.lockFails) ∨ 2 ≤ s.woad.badCounts → ∃ t, exec .clockFault s = .next t ∧ t.time.clockFault = true ∧
    t.woad.clockFault = true ∧ t.tray.restartDue = true ∧ t.time.rootFaults24 = s.time.rootFaults24 + 1 ∧
    (∃ a ∈ t.tray.alarms, a.major = true ∧ a.code = alClockFault) ∧ t.mem = s.mem ∧ t.rings = s.rings ∧ t.jobs = s.jobs) ∧
  (∀ (c : BitVec 17) (s u : State), s.time.rootLock = true → s.woad.powered = true →
    u = { s with woad := { s.woad with hclkCount := c } } →
    (s.woad.trimmed = false → countError c.toNat * 1000 ≤ 15 * 122880 → exec (.woadTrimCount c) s = .next { u with
      woad := { u.woad with trimmed := decide (countError c.toNat * 10000 ≤ 5 * 122880), badCounts := 0 } }) ∧
    (s.woad.trimmed = false → 15 * 122880 < countError c.toNat * 1000 → exec (.woadTrimCount c) s =
      .next (raiseAlarm false alWoadOsc 0 { u with woad := { u.woad with hclkSampling := true } })) ∧
    (s.woad.trimmed = true → countError c.toNat * 1000 ≤ 1228800 →
      exec (.woadTrimCount c) s = .next { u with woad := { u.woad with badCounts := 0 } }) ∧
    (s.woad.trimmed = true → 1228800 < countError c.toNat * 1000 → s.woad.badCounts = 0 →
      exec (.woadTrimCount c) s = .next { u with woad := { u.woad with badCounts := 1 } }) ∧
    (s.woad.trimmed = true → 1228800 < countError c.toNat * 1000 → s.woad.badCounts = 1 →
      exec (.woadTrimCount c) s = .next (clockFaultEffect { u with woad := { u.woad with badCounts := 2 } }))) ∧
  (∀ (p : PortIx) (s : State), firmwareRuns s = true → p.val < portsFitted s.tray.variant →
    (exec (.ptpMessageRx p .other) s = .next (setPort p (fun x => { x with ptpDrop := satInc x.ptpDrop }) s)) ∧
    (ptpEnabled s p = true → coreRuns s 1 = true →
      (∀ off, exec (.ptpMessageRx p (.sync s.time.domain off)) s = .next (servoOffset p off s) ∧
        exec (.ptpMessageRx p (.followUp s.time.domain off)) s = .next (servoOffset p off s) ∧
        exec (.ptpMessageRx p (.delayResp s.time.domain off)) s = .next (servoOffset p off s)) ∧
      (∀ id rank, s.time.master = none → exec (.ptpMessageRx p (.announce s.time.domain id rank)) s =
        .next (selectMaster { s with time := { s.time with
          masters := noteAnnounce p id rank s.time.masters, lastAnnounceSC := s.time.symbolCount } })))) ∧
  (∀ (p : PortIx) (m off : Int) (s : State), s.time.ptpPort = some p → s.time.syncState = .locked →
    off = m - s.time.asym[p] →
    (1000 < off.natAbs → s.time.rejects + 1 < 16 →
      servoOffset p m s = { s with time := { s.time with ptpOffset := off, rejects := s.time.rejects + 1 } }) ∧
    (1000 < off.natAbs → 16 ≤ s.time.rejects + 1 →
      servoOffset p m s = event evTimeStep (BitVec.ofNat 16 p.val) 0
        (startSlew off { s with time := { s.time with ptpOffset := off, rejects := 0 } }))) ∧
  (∀ (m : Master) (s : State), firmwareRuns s = true → s.time.master = some m →
    exec .announceReceiptTimeout s = .next (masterLost s)) ∧
  (∀ (m : Master) (s : State), firmwareRuns s = true → s.time.syncState = .acquiring → s.time.master = some m →
    (streamOpen s = true → s.radio.held = 0 →
      exec .servoLocked s = .next (enterSync .locked (startSlew s.time.ptpOffset s))) ∧
    (streamOpen s = false → exec .servoLocked s = .next (enterSync .locked { s with
      time := { stepTod (-(nsTicks s.time.ptpOffset)) s.time with steppedOnce := true } }))) ∧
  (∀ s : State, s.time.syncState = .holdIn ∨ s.time.syncState = .holdOut → exec .holdoverLimitCrossed s =
    .next (boundState (decide (s.time.holdLimit.toNat < holdBound s)) s)) ∧
  (∀ s : State, exec .synceLoss s = .next (setSyncE false s) ∧
    (s.time.syncePort ≠ none → exec .synceValid s = .next (setSyncE true s))) ∧
  (∀ s : State, firmwareRuns s = true → s.time.syncState = .locked → exec .tuningRangeLimit s = .next (raiseAlarm false alTuning 0
    (enterSync .holdIn (startHoldover { s with time := { s.time with oscHeld := true } })))) ∧
  (∀ s : State, exec .phaseSlewEnd s = .next { s with time := { s.time with slewing := false, slewLeft := 0 } }) ∧
  (∀ (p : PortIx) (s : State), p.val < portsFitted s.tray.variant →
    exec (.esmcMessageRx p) s = .next (setPort p (fun x => { x with esmc := satInc x.esmc }) s)) ∧
  (∀ (n : RingIx) (f : Fetched) (i : CmdInfo) (s u : State), Accepted opTimeConfig n f i s → u = dispatch n f s → allPass (timeConfigArgs f u) →
    BitVec.ofNat 3 (f.desc.u8 8) = u.time.numerology → f.desc.i32 0x0C = u.time.frameOffset ∨ streamOpen u = false →
    exec (.timeConfig n) s = .next (complete n f (Reply.of codeOk) (mirror none f.desc.bytes [] (applyTimeConfig f.desc u)))) ∧
  (∀ (n : RingIx) (f : Fetched) (i : CmdInfo) (s u : State), Accepted opTimeConfig n f i s → u = dispatch n f s → allPass (timeConfigArgs f u) → streamOpen u = false → tupleArmed u = false →
    exec (.timeConfig n) s = .next (complete n f (Reply.of codeOk) (mirror none f.desc.bytes [] (applyTimeConfig f.desc u))))

/-- Tiles change state, lasers lock, fail and change stripe, and latches are reloaded. Accepted for a tile with no
transition in progress, TILE_CONTROL begins its action and completes when the tile reaches its state. A stripe that
comes within 20 pm locks and takes a WARM tile to READY once it has settled; one more than 50 pm off loses its lock and
sends its tile to MAINT between batches; one that does not lock in time, or whose light is lost, has failed and the next
one lights or the tile is FAULTED. A timed transition and a restore end in the state that they lead to. A latch parity
error loads the latch set again with the image it held; a segment-map update begins a load of that image. Drawn from:
R33, R34, R35, R36, R72, R73, R75, R76, R77, R78, R332. The model's own choices that it rests on: log entries 1, 35, 70,
71. -/
def Obligations.TilesLasersAndLatches : Prop :=
  (∀ (n : RingIx) (f : Fetched) (i : CmdInfo) (s u : State), Accepted opTileControl n f i s → u = dispatch n f s → f.desc.u8 8 ≤ 9 → ∀ t : TileIx, t.val = f.desc.u8 8 → u.tiles[t].moving = none → u.tiles[t].control = none →
    (f.desc.u8 9 = 0 → u.tiles[t].state = .off → exec (.tileControl n) s = .next (setTile t (fun x =>
      { x with control := some (n, f.id, .dark), moving := some .dark }) u)) ∧
    (f.desc.u8 9 = 1 → u.tiles[t].state = .dark → exec (.tileControl n) s =
      .next (lightTile t (setTile t (fun x => { x with control := some (n, f.id, .ready) }) u))) ∧
    (f.desc.u8 9 = 2 → inService u.tiles[t] = true → soleRadioTile u t = false → exec (.tileControl n) s =
      .next (settleTile t (setTile t (fun x => { x with resting := true, control := some (n, f.id, .dark) }) u))) ∧
    (f.desc.u8 9 = 3 → u.tiles[t].state = .dark → exec (.tileControl n) s = .next (setTile t (fun x =>
      { x with control := some (n, f.id, .off), moving := some .off }) u))) ∧
  (∀ (t : TileIx) (o : Int) (s u : State), s.tiles[t].laser.locked = false →
    inService s.tiles[t] = true ∨ s.tiles[t].state = .warm ∨ s.tiles[t].state = .maint →
    u = changeLocked t (setTile t (fun x => { x with laser := { x.laser with locked := true, timedOut := false, offsetPm := o } }) s) →
    (o.natAbs ≤ 20 → s.tiles[t].state = .warm → s.tray.phase = .done ∨ s.tray.lateTiles.getLsbD t.val = true →
      exec (.stripeLockAcquired ⟨t, o⟩) s = .next (tryPower (finishControl t (enterTile t .ready (reloadResident t u))))) ∧
    (o.natAbs ≤ 20 → s.tiles[t].state ≠ .warm → exec (.stripeLockAcquired ⟨t, o⟩) s = .next u) ∧
    (20 < o.natAbs → exec (.stripeLockAcquired ⟨t, o⟩) s =
      .next (setTile t (fun x => { x with laser := { x.laser with offsetPm := o } }) s))) ∧
  (∀ (t : TileIx) (o : Int) (s : State), s.tiles[t].laser.locked = true →
    (o.natAbs ≤ 50 → exec (.stripeLockLost ⟨t, o⟩) s =
      .next (setTile t (fun x => { x with laser := { x.laser with offsetPm := o } }) s)) ∧
    (50 < o.natAbs → exec (.stripeLockLost ⟨t, o⟩) s = .next (settleTile t (setTile t (fun x =>
      { x with laser := { x.laser with offsetPm := o, locked := false, timedOut := false } }) s)))) ∧
  (∀ (t : TileIx) (s : State), s.tiles[t].laser.locked = false →
    (s.tiles[t].state = .warm ∨ s.tiles[t].state = .maint → exec (.stripeLockTimeout t) s = .next (failStripe t s)) ∧
    (inService s.tiles[t] = true → exec (.stripeLockTimeout t) s =
      .next (setTile t (fun x => { x with laser := { x.laser with timedOut := true } }) s))) ∧
  (∀ (t : TileIx) (s : State), inService s.tiles[t] = true ∨ s.tiles[t].state = .maint →
    exec (.lightLossTrip t) s = .next (failStripe t (enterMaint t (setTile t abandonStep (stopStale t s))))) ∧
  (∀ (t : TileIx) (s : State), nextStripe s.tiles[t].laser = none → ∃ u, failStripe t s = faultTile t u ∧
    u.tiles[t].laser.stripes[s.tiles[t].laser.lit].state = .failed) ∧
  (∀ (t : TileIx) (k : Fin 4) (s : State), nextStripe s.tiles[t].laser = some k →
    failStripe t s = raiseAlarm false evStripeChanged (BitVec.ofNat 16 t.val)
      (openGap t .repair (setTile t (lightStripe k .failed) s)) ∧
    (lightStripe k .failed s.tiles[t]).laser.lit = k ∧ (k ≠ s.tiles[t].laser.lit → (lightStripe k .failed s.tiles[t]).laser.stripes[k] = litStripe s.tiles[t].laser.stripes[k]) ∧
    (lightStripe k .failed s.tiles[t]).laser.locked = false) ∧
  (∀ (t : TileIx) (s u : State), u = setTile t (fun x => { x with moving := none }) s →
    (s.tiles[t].moving = some .dark → s.tiles[t].state = .off →
      exec (.tileTransitionDone t) s = .next (tryPower (finishControl t (powerDark t u)))) ∧
    (s.tiles[t].moving = some .dark → s.tiles[t].state = .ready → exec (.tileTransitionDone t) s =
      .next (tryPower (finishControl t (enterTile t .dark (setTile t darkenTile u))))) ∧
    (s.tiles[t].moving = some .off → s.tiles[t].state = .dark → exec (.tileTransitionDone t) s =
      .next (tryPower (finishControl t (enterTile t .off u))))) ∧
  (∀ (t : TileIx) (k : Nat) (s : State), holdsImage s.tiles[t] = true → k < s.tiles[t].mesh.active.sel.length → ∃ v,
    v.tiles[t].mesh.parityErrs = s.tiles[t].mesh.parityErrs + 1 ∧ v.tiles[t].mesh.shadow = s.tiles[t].mesh.shadow ∧
    v.tiles[t].mesh.active.image = s.tiles[t].mesh.active.image ∧ v.jobs = s.jobs ∧
    ((Latch.flip k s.tiles[t].mesh.active).parityOk = false → v.tiles[t].mesh.active =
      { loadedLatch t s.tiles[t] s.tiles[t].mesh.active.image with complete := s.tiles[t].mesh.active.complete }) ∧
    (s.tiles[t].job = none → exec (.latchParityError t ⟨true, k⟩) s = .next v) ∧
    (∀ id, s.tiles[t].job = some id → exec (.latchParityError t ⟨true, k⟩) s =
      .next (setJob id (fun j => { j with stale := true, epoch := (outputPort s.tiles[t]).epoch }) v))) ∧
  (∀ (t : TileIx) (k : Nat) (s : State), holdsImage s.tiles[t] = true → k < s.tiles[t].mesh.shadow.sel.length → ∃ v,
    v.tiles[t].mesh.parityErrs = s.tiles[t].mesh.parityErrs + 1 ∧ v.tiles[t].mesh.active = s.tiles[t].mesh.active ∧
    v.tiles[t].mesh.parityRetries = s.tiles[t].mesh.parityRetries + 1 ∧
    v.tiles[t].mesh.shadow.image = s.tiles[t].mesh.shadow.image ∧ v.jobs = s.jobs ∧
    ((Latch.flip k s.tiles[t].mesh.shadow).parityOk = false → v.tiles[t].mesh.shadow =
      { loadedLatch t s.tiles[t] s.tiles[t].mesh.shadow.image with complete := s.tiles[t].mesh.shadow.complete }) ∧
    (s.tiles[t].mesh.parityRetries = 0 ∨ holdsStaged s t = false → exec (.latchParityError t ⟨false, k⟩) s = .next v) ∧
    (1 ≤ s.tiles[t].mesh.parityRetries → holdsStaged s t = true →
      exec (.latchParityError t ⟨false, k⟩) s = .next (faultTile t v))) ∧
  (∀ (t : TileIx) (s : State), inService s.tiles[t] = true → shadowFree s t = true →
    s.tiles[t].mesh.active.mapRev ≠ s.tiles[t].mesh.mapRev → exec (.segmapReloadTimer t) s =
      .next (setTile t (beginLoad (newLoad s.tiles[t].mesh.active.image .reload 6 true)) s)) ∧
  (∀ (t : TileIx) (s : State), s.tiles[t].state = .maint → s.tiles[t].cal.step = none → s.tiles[t].heat.overcurrent = false →
    (s.tiles[t].laser.locked = true → repairGoesOn s.tiles[t].cal = false → exec (.maintRestoreDone t) s =
      .next (settleTile t (tryPower (finishControl t (groupGoesOn t (enterTile t .ready (clearDegraded t (endChange t
        (sealOwed t (setTile t (fun x => { restoreTile t x with cal := closeGap (restoreTile t x).cal }) s)))))))))) ∧
    (s.tiles[t].laser.locked = true → repairGoesOn s.tiles[t].cal = true →
      exec (.maintRestoreDone t) s = .next (beginStep t s)) ∧
    (s.tiles[t].laser.locked = false → s.tiles[t].laser.timedOut = true →
      exec (.maintRestoreDone t) s = .next (failStripe t s)))

/-- Calibration windows, rounds, frames, passes and units have their effects. A usable collector window moves the
coefficients of its pairs, a target out of range opens a repair, an unusable one changes none. A monitor round stores
its results, steps the feedback terms and the residual. A PWM frame gives each channel its next code and takes those of
the trim loop and of firmware. Control faults and overcurrent force the heaters and the tile state. A usable drift
window is fitted and the next one opens. Passes start, gaps open on idle tiles for a planned stripe change or a step,
units go on, end their step or are discarded, a starved pass raises its event, a changed running record is sealed. Drawn
from: R33, R93, R112, R115, R117, R120, R121, R122, R124, R127, R133, R135, R136, R140, R142, R144, R146, R148, R161,
R331, R337. The model's own choices that it rests on: log entries 36, 37, 38, 67, 69, 72, 73, 74, 75, 76. -/
def Obligations.CalibrationAndHeaters : Prop :=
  (∀ (t : TileIx) (rest : List PairMoments) (ss : List (Fin 256 × Int × Nat)) (s : State) (n : Nat) (c b : Convert) (y : Tile),
    n = 2 ^ (s.tiles[t].cal.windowN - 1) → c = turnWindow (decide (s.tiles[t].state = .maint)) rest ss s.tiles[t].conv →
    b = shadowBase { c with windowUsed := true } →
    y = (List.finRange 256).foldl (classOne n c.closed) { s.tiles[t] with conv := b } →
    (inService s.tiles[t] = true → s.tiles[t].conv.windowMaint = false →
      s.tiles[t].conv.windowClips < 2 ^ (s.tiles[t].cal.windowN - 10) → ∃ u,
      u = setTile t (fun _ => { y with conv := if s.tiles[t].job = none then passBoundary y.conv else y.conv }) s ∧
      (adcSuspect n c.closed b.pairsNext = false → exec (.collectorWindowClose t ⟨rest, ss⟩) s = .next u) ∧
      (adcSuspect n c.closed b.pairsNext = true → exec (.collectorWindowClose t ⟨rest, ss⟩) s =
        .next (settleTile t (openGap t .repair (raiseAlarm false alAdc (BitVec.ofNat 16 t.val) u))))) ∧
    (2 ^ (s.tiles[t].cal.windowN - 10) ≤ s.tiles[t].conv.windowClips ∨ s.tiles[t].conv.windowMaint = true →
      exec (.collectorWindowClose t ⟨rest, ss⟩) s = .next (setTile t (fun x => { x with conv := c }) s) ∧
      c.pairs = s.tiles[t].conv.pairs ∧ c.pairsNext = s.tiles[t].conv.pairsNext ∧ c.windowClips = 0)) ∧
  (∀ (t : TileIx) (cs : List (Fin 64 × Conversions)) (tia : List (Fin 128 × Conversions × Conversions))
      (es : List (Fin 16 × Int)) (m : Nat) (s : State) (c : Convert), s.tiles[t].state ≠ .off → s.tiles[t].conv.scanIdle = false →
    c = roundEnd cs tia s.tiles[t].conv → ∃ x, x.conv.mon = c.mon ∧ x.conv.scanMask = c.scanMask ∧ x.conv.round = c.round ∧
      x.heat = loopRound es m s.tiles[t].conv.scanMask c.scanMask s.tiles[t].heat ∧
      (monitorBad c s.tiles[t].conv.scanMask = false → x.conv.monBad = 0 ∧
        exec (.monitorRoundEnd t ⟨cs, tia⟩ es m) s = .next (finishTunes (setTile t (fun _ => x) s))) ∧
      (monitorBad c s.tiles[t].conv.scanMask = true → s.tiles[t].conv.monBad = 0 →
        exec (.monitorRoundEnd t ⟨cs, tia⟩ es m) s = .next (finishTunes (setTile t (fun _ => x) s))) ∧
      (monitorBad c s.tiles[t].conv.scanMask = true → 1 ≤ s.tiles[t].conv.monBad →
        exec (.monitorRoundEnd t ⟨cs, tia⟩ es m) s = .next (faultTile t (finishTunes (setTile t (fun _ => x) s))))) ∧
  (∀ (t : TileIx) (act : List (Fin 128 × Nat)) (ws : List (Fin 136 × BitVec 12)) (s : State), s.tiles[t].state ≠ .off → ∃ h,
    h = ws.foldl firmwareCode ((List.finRange 128).foldl (driveZone (divideAsserted s) act)
      (rampFrame act (takeFrame (frameMode s.tiles[t])))) ∧
    exec (.heaterFrame t act ws) s = .next ((List.finRange 128).foldl (zoneAlarm t) (finishTunes (setTile t (fun x =>
      { x with heat := h }) { s with thermal := { s.thermal with divideOn := divideAsserted s } })))) ∧
  (∀ (t : TileIx) (s : State), s.tiles[t].state ≠ .off →
    (exec (.heaterControlFault t .networkLost) s = .next (raiseAlarm true alHeater (BitVec.ofNat 16 t.val) (setTile t controlFault s))) ∧
    ((s.tiles[t].heat.chans.toList.any (fun c => decide (240 ≤ c.starved))) = true → exec (.heaterControlFault t .underrun) s =
      .next (raiseAlarm false alHeater (BitVec.ofNat 16 t.val) (faultTile t (event evHeaterFault (BitVec.ofNat 16 t.val) 0 s)))) ∧
    (s.tiles[t].state = .faulted → exec (.heaterControlFault t .tileFaulted) s = .next (setTile t controlFault s))) ∧
  (∀ (t : TileIx) (s u : State), s.tiles[t].state ≠ .off →
    u = raiseAlarm false alHeater (BitVec.ofNat 16 t.val) (event evHeaterFault (BitVec.ofNat 16 t.val) 0 (setTile t (fun x =>
      { zeroHeaters x with
        heat := { (zeroHeaters x).heat with overcurrent := true, overAt := some s.time.symbolCount },
        maintDue := decide (x.state ≠ .maint) && decide (x.state ≠ .faulted) }) s)) →
    (∀ c : Fin 136, u.tiles[t].heat.chans[c].code = 0 ∧ u.tiles[t].heat.chans[c].queue = []) ∧
    (s.tiles[t].heat.overAt = none → exec (.heaterOvercurrent t) s = .next (settleTile t u)) ∧
    (∀ x, s.tiles[t].heat.overAt = some x → (s.time.symbolCount - x).toNat ≤ 3932160000 →
      exec (.heaterOvercurrent t) s = .next (faultTile t u)) ∧
    (∀ x, s.tiles[t].heat.overAt = some x → 3932160000 < (s.time.symbolCount - x).toNat →
      exec (.heaterOvercurrent t) s = .next (settleTile t u))) ∧
  (∀ (t : TileIx) (s : State) (w : DriftWindow), w = s.tiles[t].cal.drift → 2 ^ s.tiles[t].cal.driftWindow ≤ w.sampled →
    (inService s.tiles[t] = true → w.mixed = false → w.maint = false → w.residBad = false →
      exec (.driftWindowClose t) s = .next (setTile t (fun x => { x with cal := { x.cal with drift := freshWindow s.tiles[t] } })
        (driftFitted t s))) ∧
    (inService s.tiles[t] = false ∨ w.mixed = true ∨ w.maint = true ∨ w.residBad = true →
      exec (.driftWindowClose t) s = .next (setTile t (fun x => { x with cal := { x.cal with drift := freshWindow s.tiles[t] } }) s)) ∧
    (∀ vs, s.tiles[t].cal.driftBad < 10 → Config.driftFit s.tiles[t].mesh.active.image w.xx w.yy w.yy1 = (true, vs) →
      driftFitted t s = moveZones t vs (setTile t (fun x => { x with cal := { x.cal with driftBad := 0 } }) s))) ∧
  (∀ (t : TileIx) (s : State), s.tiles[t].cal.passOpen = false →
    exec (.routinePassStart t) s = .next (setTile t (fun x => { x with cal := startPass x.cal }) s)) ∧
  (∀ (t : TileIx) (s : State), s.tiles[t].state = .ready → s.tiles[t].job = none → s.tiles[t].next = none →
    s.tiles[t].moving = none → s.tiles[t].cal.gap = none → planned s t 5 = false →
    (∀ k, changeNow s t = some k → exec (.idleGapOpen t) s =
      .next (enterMaint t (openGap t .repair (setTile t (lightStripe k .worn) s)))) ∧
    (∀ u, changeNow s t = none → gapUsable s t .idle = true →
      u = beginStep t (openGap t .idle (setTile t (fun x => { x with cal := passIfDegraded x.cal }) s)) →
      u.tiles[t].cal.step ≠ none → exec (.idleGapOpen t) s = .next u)) ∧
  (∀ (t : TileIx) (k : StepKind) (n : Nat) (d : CharData) (late : Nat) (s : State) (got : List (Nat × Nat × Byte)) (ps : List PathPoint),
    s.tiles[t].cal.step = some (k, n) → got = s.tiles[t].cal.stepResults ++ unitResults t k d s.tiles[t] →
    ps = s.tiles[t].cal.stepPoints ++ unitPoints d →
    (2 ≤ n → gapOver s t = false → exec (.charUnitEnd t d late) s = .next (noteStill t d (setTile t (fun x => { x with cal := { x.cal with
        step := some (k, n - 1), stepResults := got, stepPoints := ps } }) s))) ∧
    (2 ≤ n → gapOver s t = true → exec (.charUnitEnd t d late) s = .next (setTile t (fun x =>
      { abandonStep x with cal := overrun late (abandonStep x).cal }) s)) ∧
    (n ≤ 1 → gapOver s t = false → exec (.charUnitEnd t d late) s =
      .next (beginStep t (stepDone t k d ps (withResults t [] s.tiles[t]) (withResults t got s.tiles[t])
        (noteStill t d (setTile t (keepStep none got) s))))) ∧
    (keepStep none got s.tiles[t]).cal.results = s.tiles[t].cal.results ++ got) ∧
  (∀ (t : TileIx) (s : State), s.tiles[t].cal.passOpen = true → exec (.charStarved t) s =
    .next (raiseAlarm false evCharStarved (BitVec.ofNat 16 t.val) (event evCharStarved (BitVec.ofNat 16 t.val) 0
      (setTile t (fun x => { x with cal := { x.cal with starved := true } }) s)))) ∧
  (∀ (t : TileIx) (s : State), s.tiles[t].cal.changed = true →
    exec (.runningSealTimer t) s = .next (clearDegraded t (sealRecord 2 t s)))

/-- COEF_READ, RECORD_READ, CAL_TUNE, CHAR_REQUEST and COEF_WRITE take effect. Accepted with arguments in range: COEF_READ
writes the bytes of the block in force and answers CAL_EPOCH; RECORD_READ of a readable archive writes the stored
bytes and answers how many and whether the record is valid; CAL_TUNE of a tile that is not FAULTED changes the fields
it names and stays in progress until each has taken effect, but one that sets SLEW on a tile that a radio group names
is STATE_ILLEGAL; CHAR_REQUEST queues a routine pass; COEF_WRITE of a valid running block, or on a tile that does not
run, writes it at once, the drift offsets with an update of Umber's maps; of the interleave block it writes the shadow
registers, in force at the next pass boundary; and of another block it takes the tile through MAINT. Drawn from: R155, R331, R337, R87, R94, R127, R351. The model's own choices that it rests on: log entries 8,
35, 36. -/
def Obligations.CalibrationCommandsTakeEffect : Prop :=
  (∀ (n : RingIx) (f : Fetched) (i : CmdInfo) (s u : State), Accepted opCoefRead n f i s → u = dispatch n f s → f.desc.u8 8 ≤ 9 → blockLen (f.desc.u16 0x0A) ≠ 0 → badDaddr u.tray.variant (f.desc.u64 0x10) 64 = false →
    ∀ t : TileIx, t.val = f.desc.u8 8 → writeFails u (f.desc.u64 0x10) (blockBytes t u.tiles[t] (f.desc.u16 0x0A)).length = none →
    exec (.coefRead n) s = .next (complete n f (Reply.ok u.tiles[t].cal.epoch.toNat)
      (daddrWrite (f.desc.u64 0x10) (blockBytes t u.tiles[t] (f.desc.u16 0x0A)) u))) ∧
  (∀ (n : RingIx) (f : Fetched) (i : CmdInfo) (s u : State), Accepted opRecordRead n f i s → u = dispatch n f s → f.desc.u8 8 ≤ 9 → 1 ≤ f.desc.u8 9 → f.desc.u8 9 ≤ 2 → f.desc.u8 0x0A ≤ 2 →
    badDaddr u.tray.variant (f.desc.u64 0x10) 1 = false → u.flash.archDead = false →
    ∀ (t : TileIx) (kind k : Nat) (bs : List Byte), t.val = f.desc.u8 8 →
    kind = (if f.desc.u8 0x0A = 2 then 3 else f.desc.u8 9) → k = min (f.desc.u32 0x18) (recordLen' kind) →
    bs = flashRead u .archive (slotAddr kind t.val (f.desc.u8 0x0A)) k → writeFails u (f.desc.u64 0x10) bs.length = none →
    exec (.recordRead n) s = .next (complete n f
      (Reply.okDetail k (if kind = 3 ∨ recordValid u kind t.val (f.desc.u8 0x0A) = true then 1 else 0))
      (daddrWrite (f.desc.u64 0x10) bs u))) ∧
  (∀ (n : RingIx) (f : Fetched) (i : CmdInfo) (s u : State), Accepted opCalTune n f i s → u = dispatch n f s → allPass (calTuneArgs f u) → f.desc.u8 8 ≠ 0xFF → ∀ t : TileIx, t.val = f.desc.u8 8 → u.tiles[t].state ≠ .faulted →
    ((f.desc.u8 9).testBit 5 = false ∨ f.desc.u8 0x10 = 0 ∨ radioNames u t = false →
      exec (.calTune n) s = .next (finishTunes { setTile t (tuneTile f.desc) u with
        sched := { u.sched with tunes := u.sched.tunes ++ [(n, f.id, 1#10 <<< t.val)] } })) ∧
    ((f.desc.u8 9).testBit 5 = true → f.desc.u8 0x10 = 1 → radioNames u t = true →
      exec (.calTune n) s = .next (complete n f (Reply.of codeStateIllegal) u))) ∧
  (∀ (n : RingIx) (f : Fetched) (i : CmdInfo) (s u : State) (m : BitVec 10), Accepted opCalTune n f i s → u = dispatch n f s →
    allPass (calTuneArgs f u) → f.desc.u8 8 = 0xFF → (∀ t : TileIx, m.getLsbD t.val = decide (u.tiles[t].state ≠ .faulted)) →
    (f.desc.u8 9).testBit 5 = false ∨ f.desc.u8 0x10 = 0 ∨ (∀ t ∈ tilesOf m, radioNames u t = false) → ∃ v,
    v = (tilesOf m).foldl (fun s t => setTile t (tuneTile f.desc) s) u ∧ exec (.calTune n) s = .next (finishTunes { v with
      sched := { v.sched with tunes := v.sched.tunes ++ [(n, f.id, m)] } })) ∧
  (∀ (n : RingIx) (f : Fetched) (i : CmdInfo) (s u : State), Accepted opCharRequest n f i s → u = dispatch n f s → f.desc.u8 8 ≤ 9 → ∀ t : TileIx, t.val = f.desc.u8 8 →
    exec (.charRequest n) s = .next (complete n f (Reply.ok routineSteps.length)
      (setTile t (fun x => { x with cal := startPass x.cal }) u))) ∧
  (∀ (n : RingIx) (f : Fetched) (i : CmdInfo) (s u : State), Accepted opCoefWrite n f i s → u = dispatch n f s → f.desc.u8 8 ≤ 9 → blockLen (f.desc.u16 0x0A) ≠ 0 → badDaddr u.tray.variant (f.desc.u64 0x10) 1 = false →
    ∀ (t : TileIx) (k : Nat) (bs : List Byte), t.val = f.desc.u8 8 → k = f.desc.u16 0x0A → u.tiles[t].state ≠ .faulted →
    readFails u (f.desc.u64 0x10) (blockLen k) = none → bs = daddrRead u (f.desc.u64 0x10) (blockLen k) → badCoef k bs = false →
    (k ≠ 0x0101 → k ≠ 0x0102 → k ∈ runBlocks ∨ (inService u.tiles[t] = false ∧ u.tiles[t].state ≠ .maint) →
      exec (.coefWrite n) s = .next (complete n f (Reply.of codeOk) (setTile t (setBlock t k bs) u))) ∧
    (k = 0x0102 → exec (.coefWrite n) s = .next (complete n f (Reply.of codeOk) (setTile t (fun x =>
      { setBlock t k bs x with mesh := mapUpdate (setBlock t k bs x).heat (setBlock t k bs x).mesh }) u))) ∧
    (k = 0x0101 → exec (.coefWrite n) s = .next (complete n f (Reply.of codeOk)
      (setTile t (writeShadow (Vector.ofFn (fun i => parsePair (bs.drop (10 * i.val)))) (shadowBase u.tiles[t].conv).streamsNext) u))) ∧
    (k ∉ runBlocks → inService u.tiles[t] = true ∨ u.tiles[t].state = .maint → ∃ v, exec (.coefWrite n) s = .next (settleTile t v) ∧
      v.tiles[t].maintDue = true ∧ v.tiles[t].control = some (n, f.id, .ready)))

/-- POWER_STATE and SENTINEL_RULE take effect, and Woad acts on its rules, on liveness and on temperature. Accepted with
no transition in progress, POWER_STATE to a lower state needs no open stream and begins it, to RUN it lights the dark
tiles; to the state in force it completes at once. DEEP is entered once no inference job runs. SENTINEL_RULE of a
readable valid record writes its rule and releases the old one. An active rule that reaches its count is SET and its
action fires; a rule that does not latch is cleared; a parity error restores a rule set. A missed round, two rounds at
115 degrees, the loss of its supply and the service button act as written here. Drawn from: R333, R397, R398, R401,
R402, R403, R405, R408, R445, R576. The model's own choices that it rests on: log entries 13, 43, 44. -/
def Obligations.WoadSentinelAndPowerStates : Prop :=
  (∀ (n : RingIx) (f : Fetched) (i : CmdInfo) (s u : State), Accepted opPowerState n f i s → u = dispatch n f s → f.desc.u8 8 ≤ 2 → u.tray.phase = .done → u.tray.powerCmd = none → u.tray.deepReq = false →
    (f.desc.u8 8 = 0 → u.tray.powerState = .run → exec (.powerState n) s = .next (complete n f (Reply.of codeOk) u)) ∧
    (f.desc.u8 8 = 0 → u.tray.powerState ≠ .run → exec (.powerState n) s = .next (tryPower (lightTiles
      { u with tray := { u.tray with powerCmd := some f, goal := .run } }))) ∧
    (f.desc.u8 8 = 1 → streamOpen u = false → u.tray.powerState ≠ .idle → exec (.powerState n) s = .next (tryPower (restTiles
      { u with tray := { u.tray with powerCmd := some f, goal := .idle } }))) ∧
    (f.desc.u8 8 = 2 → streamOpen u = false → exec (.powerState n) s =
      .next { u with tray := { u.tray with powerCmd := some f, deepReq := true } })) ∧
  (∀ (s : State) (f : Fetched), firmwareRuns s = true → s.tray.deepReq = true → inferenceRuns s = false → s.twin.handover = none →
    s.tray.powerCmd = some f → exec .deepEntry s = .next (enterDeep (completeAny f (Reply.of codeOk) s))) ∧
  (∀ (n : RingIx) (f : Fetched) (i : CmdInfo) (s u : State), Accepted opSentinelRule n f i s → u = dispatch n f s → f.desc.u8 8 ≤ 15 → badDaddr u.tray.variant (f.desc.u64 0x10) 1 = false →
    ∀ k : Fin 16, k.val = f.desc.u8 8 → readFails u (f.desc.u64 0x10) 16 = none → ruleBad (daddrRead u (f.desc.u64 0x10) 16) = false →
    exec (.sentinelRule n) s = .next (complete n f (Reply.of codeOk)
      (writeRule k (parseRule (daddrRead u (f.desc.u64 0x10) 16)) u))) ∧
  (∀ (k : Fin 16) (s : State), s.woad.powered = true → s.woad.rules[k].isSet = false → ruleActive s.tray.powerState s.woad.rules[k].rule = true →
    exec (.woadRuleSet k) s = .next (fireRule s.woad.rules[k].rule (setRule k (fun x =>
      { x with isSet := true, setCount := x.rule.setDwell.toNat, clearCount := 0 }) s))) ∧
  (∀ (k : Fin 16) (s : State), s.woad.powered = true → s.woad.rules[k].isSet = true → s.woad.rules[k].rule.latches = false →
    exec (.woadRuleClear k) s = .next (applyShed (setRule k (fun x =>
      { x with isSet := false, setCount := 0, clearCount := 0 }) s))) ∧
  (∀ s : State, s.woad.powered = true → ∃ rs, exec .woadRuleParity s =
      .next (raiseAlarm false alRuleParity 0 (applyShed { s with woad := { s.woad with rules := rs, ruleParity := true } })) ∧
    (storedRules s = none ∨ firmwareRuns s = false → rs = factoryRules) ∧
    (∀ q, storedRules s = some q → firmwareRuns s = true → rs = q)) ∧
  (∀ s : State, s.tray.powerState = .run ∨ s.tray.powerState = .idle ∨ s.tray.powerState = .standby →
    ∃ t u, exec .madderLivenessTimeout s = .next t ∧ u = raiseAlarm true alLiveness 0 (forceHandover s) ∧
      t = { u with woad := { u.woad with
        liveness := true, chans := upd u.woad.chans (3 : Fin 12) (fun c => { c with fresh := false }) } }) ∧
  (∀ s : State, s.woad.powered = true → 2 ≤ s.woad.tripRounds → s.woad.tripLatch = false →
    exec .thermalTrip s = .next (tripEffect s)) ∧
  (∀ s : State, s.tray.powerState = .off → ∃ t, exec .woadPowerLoss s = .next t ∧ t.woad.powered = false ∧
    t.woad.tripLatch = false ∧ t.power.journal = none ∧ t.power.woadKept = false ∧ t.woad.rules = Woad.init.rules ∧
    t.mem = s.mem ∧ t.flash = s.flash ∧ t.rings = s.rings) ∧
  (∀ s : State, s.woad.powered = false → exec .woadPowerUp s = .next { s with woad := Woad.init }) ∧
  (∀ s : State, s.tray.powerState ≠ .off → s.tray.powerState ≠ .deep →
    exec .serviceButtonPress s = .next { s with tray := { s.tray with locLamp := !s.tray.locLamp } }) ∧
  (∀ s : State, exec .locLampTimeout s = .next { s with tray := { s.tray with locLamp := false } })

/-- Debug mode: the challenge, the unlock and the lock, accumulators read and written, raw vectors. Accepted:
DEBUG_CHALLENGE writes a fresh 48-byte challenge and keeps it until it expires or is used; DEBUG_UNLOCK with no stream
open and a signature that holds for the challenge enters debug mode, and one that does not hold is counted and
answered DEBUG_LOCKED; DEBUG_LOCK leaves debug mode. ACC_READ of a job writes the accumulators asked for, ACC_WRITE
replaces them, VEC_RAW on a tile of a group becomes a job. Drawn from: R192, R337, R566. The model's own choices that
it rests on: log entries 7, 8, 25. -/
def Obligations.DebugModeTakesEffect : Prop :=
  (∀ (n : RingIx) (f : Fetched) (i : CmdInfo) (s u : State), Accepted opDebugChallenge n f i s → u = dispatch n f s → badDaddr u.tray.variant (f.desc.u64 0x10) 1 = false →
    writeFails { u with free := u.free + 1, tray := { u.tray with challenge := some (challengeBlock u) } } (f.desc.u64 0x10)
      (challengeBlock u).length = none →
    exec (.debugChallenge n) s = .next (complete n f (Reply.of codeOk) (daddrWrite (f.desc.u64 0x10) (challengeBlock u)
      { u with free := u.free + 1, tray := { u.tray with challenge := some (challengeBlock u) } }))) ∧
  (∀ s : State, exec .debugChallengeExpiry s = .next { s with tray := { s.tray with challenge := none } }) ∧
  (∀ (n : RingIx) (f : Fetched) (i : CmdInfo) (s u : State), Accepted opDebugUnlock n f i s → u = dispatch n f s → badDaddr u.tray.variant (f.desc.u64 0x10) 1 = false → streamOpen u = false →
    readFails u (f.desc.u64 0x10) 96 = none →
    (∀ c, u.tray.challenge = some c → Config.signatureOk Config.debugKey c (daddrRead u (f.desc.u64 0x10) 96) = true →
      exec (.debugUnlock n) s = .next (complete n f (Reply.of codeOk)
        { u with tray := { u.tray with debugOn := true, challenge := none } })) ∧
    (∀ c, u.tray.challenge = some c → Config.signatureOk Config.debugKey c (daddrRead u (f.desc.u64 0x10) 96) = false →
      exec (.debugUnlock n) s = .next (complete n f (Reply.of codeDebugLocked)
        { u with tray := { u.tray with failedUnlocks := satInc8 u.tray.failedUnlocks } })) ∧
    (u.tray.challenge = none → exec (.debugUnlock n) s = .next (complete n f (Reply.of codeDebugLocked)
        { u with tray := { u.tray with failedUnlocks := satInc8 u.tray.failedUnlocks } }))) ∧
  (∀ (n : RingIx) (f : Fetched) (i : CmdInfo) (s u : State), Accepted opDebugLock n f i s → u = dispatch n f s → exec (.debugLock n) s =
    .next (complete n f (Reply.of codeOk) { u with tray := { u.tray with debugOn := false } })) ∧
  (∀ (n : RingIx) (f : Fetched) (i : CmdInfo) (s u : State), Accepted opAccRead n f i s → u = dispatch n f s → allPass (accArgs f u) → ∀ (j : Job) (bs : List Byte), accJob u f.desc = some j →
    bs = (List.range (f.desc.u32 0x14)).flatMap (fun k => leBytes (accBytes (f.desc.u8 0x0A))
      (BitVec.ofInt 64 (accValue (f.desc.u8 0x0A) (accAt u j f.desc k))).toNat) →
    writeFails u (f.desc.u64 0x18) bs.length = none →
    exec (.accRead n) s = .next (complete n f (Reply.of codeOk) (daddrWrite (f.desc.u64 0x18) bs u))) ∧
  (∀ (n : RingIx) (f : Fetched) (i : CmdInfo) (s u : State), Accepted opAccWrite n f i s → u = dispatch n f s → allPass (accArgs f u) → ∀ (j : Job) (bs : List Byte), accJob u f.desc = some j →
    readFails u (f.desc.u64 0x18) (accBytes (f.desc.u8 0x0A) * f.desc.u32 0x14) = none →
    bs = daddrRead u (f.desc.u64 0x18) (accBytes (f.desc.u8 0x0A) * f.desc.u32 0x14) →
    exec (.accWrite n) s = .next (complete n f (Reply.of codeOk) (setJob j.id (fun _ =>
      (List.range (f.desc.u32 0x14)).foldl (fun k x => setAcc (setForm (f.desc.u8 0x0A)
        (field bs (accBytes (f.desc.u8 0x0A) * x) (accBytes (f.desc.u8 0x0A))) (accAt u k f.desc x)) k) j) u))) ∧
  (∀ (n : RingIx) (f : Fetched) (i : CmdInfo) (s u : State), Accepted opVecRaw n f i s → u = dispatch n f s → f.desc.u8 8 ≤ 9 → badDaddr u.tray.variant (f.desc.u64 0x10) 1 = false →
    badDaddr u.tray.variant (f.desc.u64 0x18) 1 = false → ∀ t : TileIx, t.val = f.desc.u8 8 → u.tiles[t].group ≠ none →
    u.tiles[t].state ≠ .faulted →
    ∃ j, exec (.vecRaw n) s = .next { u with jobs := u.jobs ++ [j] } ∧ j.id = f.id ∧ j.ring = n ∧ j.kind = .vecRaw t ∧
      j.params.nvec = f.desc.u32 0x0C)

/-- The power cap and budget, the conditions of the feeds, the hold-up bank and the feed relays. Accepted, POWER_CAP of
250 to 450 W at or above the floor puts the cap in force, and RELAY_CYCLE in a shelf with no stage running opens the
relay of the twin's slot. Every millisecond the budget takes the measured power and withdraws what exceeds it. Each
feed condition is entered and left at its magnitudes, the bank reports weak, failed and full, and relays open on a
pulse and reclose. Drawn from: R23, R333, R355, R356, R357, R359, R362, R366, R368, R382. The model's own choices that
it rests on: log entries 12, 42. -/
def Obligations.FeedsCapAndBudget : Prop :=
  (∀ (n : RingIx) (f : Fetched) (i : CmdInfo) (s u : State), Accepted opPowerCap n f i s → u = dispatch n f s → 250 ≤ f.desc.u16 8 → f.desc.u16 8 ≤ 450 → capFloor u ≤ f.desc.u16 8 * 65536 →
    exec (.powerCap n) s = .next (complete n f (Reply.of codeOk) (mirror none f.desc.bytes []
      (applyCap { u with power := { u.power with capHost := BitVec.ofNat 16 (f.desc.u16 8) } })))) ∧
  (∀ (n : RingIx) (f : Fetched) (i : CmdInfo) (s u : State), Accepted opRelayCycle n f i s → u = dispatch n f s → f.desc.u16 8 = 0x5A5A → u.tray.shelfSlot ≠ none → u.power.stage = .none →
    exec (.relayCycle n) s = .next (complete n f (Reply.of codeOk) { u with power := { u.power with twinRelayOpen := true } })) ∧
  (∀ (busy : List (TileIx × BitVec 3 × Nat)) (sep : Bool) (m : Nat) (s : State), firmwareRuns s = true → ∃ u v,
    u = measurePower m { s with sched := { s.sched with powerModel := modelPower busy sep } } ∧
    v = withdraw (min (accountUnits u - skipUnits u - movedUnits u) (budgetUnits u sep))
      (decide (10 * u.power.capInForce.toNat < modelPower busy sep + u.sched.capExcess)) u ∧
    ∃ t, exec (.powerBudgetUpdate busy sep m) s = .next t ∧ t.power.pkgPower = BitVec.ofNat 16 m ∧
      (v.sched.overMs < 100 → t.sched = v.sched) ∧
      (100 ≤ v.sched.overMs → t.sched.excessCut = true ∧ t.sched.p4Cut = levelReserves v true)) ∧
  (∀ (a b : W16) (s : State), feedsServed s = true → 3800 ≤ a.toNat → a.toNat < 4050 → 3800 ≤ b.toNat → b.toNat < 4050 → ∃ u,
    u = feedCond 1 .low (feedCond 0 .low (setMags a b s)) ∧
    exec (.feedLow a b) s = .next (applyCap { u with power := { u.power with feedLow := true } })) ∧
  (∀ (a b : W16) (s : State), s.power.feedLow = true → 4150 ≤ a.toNat ∨ 4150 ≤ b.toNat → ∃ x y z : State, x = setMags a b s ∧
    y = (if x.power.feeds[(0 : Fin 2)].cond = .low ∧ 4050 ≤ a.toNat then feedCond 0 .normal x else x) ∧
    z = (if y.power.feeds[(1 : Fin 2)].cond = .low ∧ 4050 ≤ b.toNat then feedCond 1 .normal y else y) ∧
    exec (.feedLowRestore a b) s = .next (applyCap { z with power := { z.power with feedLow := false } })) ∧
  (∀ x : State, x.power.feedLow = false → x.power.shed = false → (applyCap x).power.capInForce = x.power.capHost) ∧
  (∀ (k : Fin 2) (m : W16) (s : State), feedsServed s = true → m.toNat < 3800 → s.power.feeds[otherFeed k].cond = .normal →
    s.power.feeds[k].connected = true → exec (.feedLost k m) s = .next (feedCond k .lost (setMag k m s))) ∧
  (∀ (k : Fin 2) (m : W16) (s : State), 4050 ≤ m.toNat → m.toNat ≤ 5700 →
    (s.power.feeds[k].cond = .lost ∨ s.power.feeds[k].cond = .transient ∨ s.power.feeds[k].cond = .reversed →
      exec (.feedNormal k m) s = .next (feedCond k .normal (setMag k m s))) ∧
    (s.power.feeds[k].cond = .high → s.power.feeds[k].connected = false → ∃ u, u = setMag k m s ∧
      exec (.feedHighReconnect k m) s = .next (feedCond k .normal { u with power := { u.power with
        feeds := upd u.power.feeds k (fun f => { f with connected := true }) } }))) ∧
  (∀ (k : Fin 2) (m : W16) (s : State), 5700 < m.toNat →
    (poweredOn s = true → ∃ u, u = setMag k m s ∧
      exec (.feedHigh k m) s = .next (feedCond k .high { u with power := { u.power with
        feeds := upd u.power.feeds k (fun f => { f with connected := false }) } })) ∧
    (m.toNat ≤ 6000 → feedsServed s = true → ∃ t, exec (.feedTransient k m) s = .next t ∧
      t.power.transients = satInc s.power.transients ∧ t.power.feeds[k].mag = m ∧ t.power.feeds[k].cond ≠ .normal)) ∧
  (∀ (k : Fin 2) (s : State), feedsServed s = true → exec (.feedReversed k) s = .next (feedCond k .reversed s)) ∧
  (∀ (c : W16) (s u : State), firmwareRuns s = true →
    u = { s with power := { s.power with bankCap := c, bankWeak := decide (c.toNat < 3700) } } →
    (c.toNat < 3700 → exec (.bankMeasure c) s =
      .next (raiseAlarm false evBankWeak 0 (event evBankWeak 0 (BitVec.ofNat 16 (c.toNat / 10)) u))) ∧
    (3700 ≤ c.toNat → exec (.bankMeasure c) s = .next (clearAlarm evBankWeak 0 u))) ∧
  (∀ (b : W16) (s : State), b.toNat < 7000 → firmwareRuns s = true → s.power.stage = .none → s.power.bankFail = false → ∃ u,
    u = raiseAlarm true evBankFail 0 (event evBankFail 0 0 { s with power := { s.power with bank := b, bankFail := true } }) ∧
    (twinStandsBy s = true → exec (.chargerFail b) s = .next (requestTakeover evBankFail u)) ∧
    (twinStandsBy s = false → exec (.chargerFail b) s = .next u)) ∧
  (∀ s : State, s.power.charging = true →
    exec .bankFull s = .next { s with power := { s.power with bank := 7500, charging := false } }) ∧
  (∀ s : State, exec .feedRelayReclose s = .next { s with power := { s.power with relayOpen := false, twinRelayOpen := false } }) ∧
  (∀ s : State, ∃ t, exec .relayCmdPulse s = .next t ∧ t.power.relayOpen = true ∧
    t.power.feeds[(0 : Fin 2)].mag = 0 ∧ t.power.feeds[(1 : Fin 2)].mag = 0)

/-- The stages of a shutdown, the return to service and the restart. Both feeds below 38.0 V enter S0; S0 becomes S1, with
MAJOR and erases suspended, and S1 becomes S2, as does any earlier stage when the bank carries the bus below 42.0 V:
HOLD falls and, while core 3 runs firmware, the park actions are done and the journal is kept. S3 programs the
shutdown record and S4 turns the rails off; without a report S4 is forced and the journal is void. A feed at 40.0 V
returns S0 and S1 to service, and after S4 starts the tray. A rail fault turns every rail off at once. Drawn from:
R371, R372, R373, R375, R376, R377, R378, R380. The model's own choices that it rests on: log entries 1, 42, 43. -/
def Obligations.ShutdownStagesAndRestarts : Prop :=
  (∀ (a b : W16) (s : State), s.power.stage = .none → poweredOn s = true → s.tray.powerState ≠ .deep → a.toNat < 3800 → b.toNat < 3800 →
    ∃ u, exec (.stageS0Warn a b) s = .next (event evPowerStage 0 1 u) ∧ u.power.stage = .s0 ∧
      u.power.stageSC[0] = s.time.symbolCount ∧ u.power.feedAt[0] = a ∧ u.power.feedAt[1] = b ∧ u.power.charging = false) ∧
  (∀ s : State, s.power.stage = .s0 → ∃ u, u = suspendErase true (suspendErase false (raiseAlarm true alStage 0 { s with
      power := { s.power with stage := .s1, stageSC := put s.power.stageSC 1 s.time.symbolCount } })) ∧
    (twinStandsBy s = true → twinPowered s = true → exec .stageS1Shed s = .next (requestTakeover alStage u)) ∧
    (twinStandsBy s = false → exec .stageS1Shed s = .next u)) ∧
  (∀ (k : Fin 2) (m : W16) (s : State), s.power.stage = .s0 ∨ s.power.stage = .s1 → 4000 ≤ m.toNat → ∃ u v,
    exec (.returnToService k m) s = .next (event evPowerStage 0 2 v) ∧
    v = pump true (pumpFuel u true) (pump false (pumpFuel u false) u) ∧ u.power.stage = .none ∧
    (∀ x ∈ u.tray.alarms, x.code = alStage → x.source ≠ 0)) ∧
  (∀ (a b v : W16) (s : State), poweredOn s = true → s.tray.powerState ≠ .deep →
    (s.power.stage = .none ∨ s.power.stage = .s0 ∨ s.power.stage = .s1 → a.toNat < 3750 → b.toNat < 3750 → v.toNat < 4200 →
      exec (.stageS2Park a b v) s = .next (enterS2 .bank a b v s)) ∧
    (s.power.stage = .s1 → 4200 ≤ v.toNat → exec (.stageS2Park a b v) s = .next (enterS2 .feedLoss a b v s))) ∧
  (∀ (r : Reason) (a b v : W16) (s : State), s.cores[(3 : CoreIx)].state ≠ .running → ∃ u, u = enterS2 r a b v s ∧
    u.power.stage = .s2 ∧ u.power.reason = r ∧ u.power.s2done = false ∧ u.twin.hold = false) ∧
  (∀ s : State, s.power.stage = .s2 → s.power.s2done = true → ∃ t, exec .stageS3Commit s = .next t ∧ t.power.stage = .s3 ∧
    t.power.s3done = coreRuns s 3 ∧ (∀ n : RingIx, t.rings[n].waiting = []) ∧
    (writeTempOk s false 0 = true → s.flash.archDead = false → coreRuns s 3 = true →
      t.power.shutdownSeq = s.power.shutdownSeq + 1)) ∧
  (∀ (a b v : W16) (s : State), s.power.stage = .s3 → s.power.s3done = true →
    exec (.stageS4Off a b v) s = .next (enterS4 a b v { s with tray := { s.tray with unclean := false } })) ∧
  (∀ (a b v : W16) (s : State), (s.power.stage = .s2 ∧ s.power.s2done = false) ∨ (s.power.stage = .s3 ∧ s.power.s3done = false) →
    exec (.forcedS4 a b v) s = .next (enterS4 a b v
      { s with power := { s.power with journal := none }, tray := { s.tray with unclean := true } })) ∧
  (∀ (a b v : W16) (s : State), (enterS4 a b v s).power.stage = .s4 ∧ (enterS4 a b v s).tray.powerState = .off ∧
    (enterS4 a b v s).power.railsOn = false ∧ (enterS4 a b v s).jobs = [] ∧ (enterS4 a b v s).rings = ringsInit ∧
    (enterS4 a b v s).twin.hold = false ∧ (enterS4 a b v s).flash.archive = s.flash.archive ∧
    (feedPresent a b = true → (enterS4 a b v s).mem.stackMem = s.mem.stackMem) ∧
    (feedPresent a b = false → (enterS4 a b v s).mem.stackMem = [])) ∧
  (∀ (k : Fin 2) (m : W16) (s : State) (x : Bool), s.tray.powerState = .off → 4000 ≤ m.toNat → s.woad.tripLatch = false →
    s.power.offWait = .feed x → exec (.restartQualify k m) s = .next (beginStart
      (s.woad.powered && s.power.woadKept && s.mem.stackRail && s.power.journal.any (fun j => j.valid)) (setMag k m s))) ∧
  (∀ s : State, poweredOn s = true → ∃ t, exec .railFault s = .next t ∧ t.power.railsOn = false ∧ t.power.journal = none ∧
    t.power.railFaults = s.power.railFaults + 1 ∧ t.power.stage = .none ∧ t.tray.unclean = true ∧ t.tray.powerState = .off)

/-- Programs, erases and margin reads end, and the storage commands take effect. A program that reads back as written ends
its step, and an INTENT begins its erase; an erase that ends is counted and its margin read begins; a margin read that
passes journals the COMPLETE, one that fails is tried once more. Queued writes go on at a good temperature, buffered
events are programmed, an archive that does not respond drops what waits for it. Accepted: FW_UPDATE of the bank not
in use and with an image that verifies erases and programs it, FW_ACTIVATE selects a bank, ARCHIVE_READ writes the
stored bytes, EXT_ENROLL programs a key once. Drawn from: R334, R336, R410, R415, R417, R419, R421, R424, R429, R430,
R434. The model's own choices that it rests on: log entries 7, 39, 40, 41. -/
def Obligations.FlashControllersAndStorageCommands : Prop :=
  (∀ (c : Bool) (s : State) (w : FlashWork) (ws : List FlashWork) (arr : FlashArray) (bs : List Byte) (a : Nat) (r : List FlashStep),
    worksOf s c = w :: ws → phaseOf s c = .programming → w.steps = .page arr a bs :: r →
    exec (.flashProgramDone c true) s = .next (goOn c (replaceStep c none (flashProgram arr a bs s)))) ∧
  (∀ (c : Bool) (s u : State) (w : FlashWork) (ws : List FlashWork) (arr o : FlashArray) (unit : EraseUnit) (a k : Nat) (q : W32)
    (r : List FlashStep), worksOf s c = w :: ws → w.steps = .erase arr unit a k q :: r → o = journalOwner w arr →
    u = journal 1 o unit.code a 0 s →
    (phaseOf s c = .intent → exec (.flashProgramDone c true) s = .next (setPhase c .erasing
      (replaceStep c (some (.erase arr unit a k (journalSeq u o))) (markUnit arr a u)))) ∧
    (phaseOf s c = .erasing → exec (.flashEraseDone c) s =
      .next (setPhase c .marginReading (countErase arr a (flashErase arr unit a s)))) ∧
    (phaseOf s c = .marginReading → w.origin ≠ .journalMove → exec (.flashMarginReadDone c true) s =
      .next (goOn c (replaceStep c none (clearUnit arr a (journal 2 o unit.code a q.toNat s))))) ∧
    (phaseOf s c = .marginReading → k = 0 → exec (.flashMarginReadDone c false) s =
      .next (setPhase c .erasing (replaceStep c (some (.erase arr unit a 1 q)) (spoilUnit arr unit a s))))) ∧
  (∀ s : State, exec .temperatureRetry s = .next ((s.flash.tempQueue.filter (fun w => writeTempOk s w.onCode 32)).foldl
    (fun s w => enqueue w.onCode w.origin w.all s) { s with flash := { s.flash with
      tempQueue := s.flash.tempQueue.filter (fun w => !writeTempOk s w.onCode 32) } })) ∧
  (∀ s : State, exec .eventArchiveFlush s =
    .next ((List.range ((s.flash.eventBuf.length + 7) / 8)).foldl (fun s _ => flushPage s) s)) ∧
  (∀ s : State, s.time.syncState = .locked → exec .oscTableStore s = .next (storeOscTable s)) ∧
  (∀ s : State, ∃ u t : State, exec .archiveNoResponse s = .next (raiseAlarm true evNvmFault 0 t) ∧ t = { u with flash := { u.flash with
    archDead := true, archWork := [], archPhase := .idle, eventBuf := [], tempQueue := u.flash.tempQueue.filter (fun w => w.onCode) } }) ∧
  (∀ (n : RingIx) (f : Fetched) (i : CmdInfo) (s u : State), Accepted opFwUpdate n f i s → u = dispatch n f s → f.desc.u8 8 ≤ 1 → badDaddr u.tray.variant (f.desc.u64 0x10) 1 = false → 0 < f.desc.u32 0x18 →
    f.desc.u32 0x18 ≤ 4194304 → ∀ (bank : Bool) (b : List Byte), bank = decide (f.desc.u8 8 = 1) → bankFetched u bank = false →
    readFails u (f.desc.u64 0x10) (f.desc.u32 0x18) = none → b = daddrRead u (f.desc.u64 0x10) (f.desc.u32 0x18) →
    imageOk 0x57465A51 Config.firmwareKey b = true → fwCounter u ≤ field b 8 2 → ∃ w,
    w = (if u.flash.selectedBank = bank then selectBank u.flash.runningBank u else u) ∧
    exec (.fwUpdate n) s = .next (enqueue true (.hostCommand n f.id)
      (erasesFrom (mainArray bank) 0 b.length ++ pagesFrom (mainArray bank) 0 b) { w with
        flash := { w.flash with fwUpdate := some { bank := bank, length := b.length, ring := n, id := f.id } } })) ∧
  (∀ (n : RingIx) (f : Fetched) (i : CmdInfo) (s u : State), Accepted opFwActivate n f i s → u = dispatch n f s → f.desc.u8 8 ≤ 1 →
    (f.desc.u8 9 = 0 → exec (.fwActivate n) s = .next (complete n f (Reply.of codeOk) (selectBank (decide (f.desc.u8 8 = 1)) u))) ∧
    (f.desc.u8 9 = 1 → ∃ t w, exec (.fwActivate n) s = .next (complete n f (Reply.of codeOk) t) ∧
      w = selectBank (decide (f.desc.u8 8 = 1)) u ∧ t = { w with tray := { w.tray with restartDue := true } })) ∧
  (∀ (n : RingIx) (f : Fetched) (i : CmdInfo) (s u : State), Accepted opArchiveRead n f i s → u = dispatch n f s → f.desc.u32 8 < 0x4000000 → f.desc.u32 0x0C ≤ 0x1000000 → f.desc.u32 8 + f.desc.u32 0x0C ≤ 0x4000000 →
    badDaddr u.tray.variant (f.desc.u64 0x10) 1 = false → u.flash.archDead = false →
    halfErasedIn u .archive (f.desc.u32 8) (f.desc.u32 0x0C) = false → ∀ bs, bs = flashRead u .archive (f.desc.u32 8) (f.desc.u32 0x0C) →
    writeFails u (f.desc.u64 0x10) bs.length = none →
    exec (.archiveRead n) s = .next (complete n f (Reply.of codeOk) (daddrWrite (f.desc.u64 0x10) bs u))) ∧
  (∀ (n : RingIx) (f : Fetched) (i : CmdInfo) (s u : State), Accepted opExtEnroll n f i s → u = dispatch n f s → badDaddr u.tray.variant (f.desc.u64 0x10) 1 = false → keyEnrolled u = false →
    readFails u (f.desc.u64 0x10) 97 = none → ∀ k, k = daddrRead u (f.desc.u64 0x10) 97 →
    exec (.extEnroll n) s = .next (enqueue true (.hostCommand n f.id)
      [.page .code0 (infoBase + 0x4040) k, .page .code0 (infoBase + 0x40A4) (leBytes 4 (crc32c k).toNat)] u))

/-- A housekeeping round updates temperatures, thresholds and skips; fans fail; a skip escalates. On a powered tray with
its rails on a round takes its readings, counts itself, steps the thresholds and shows Woad that it has completed;
where firmware runs it reports broken sensors, sets the fan speed and follows the contact read-back, core 1 corrects the
reference oscillator, and core 3 the trim reference, the bias of the lit stripes, which it marks worn above 230 mA, and
the falling taps, whose losses act as Table 2-4 says.
A threshold asserts at its level in two rounds in a row and clears in two at its lower level. A fan below half its
speed sets all fans to 100 % with its event and MINOR, MAJOR where two have failed. A tile at 100 degrees that skips
one symbol in four skips one in two. Drawn from: R33, R68, R123, R221, R399, R435, R438, R439, R440, R443, R447. The
model's own choices that it rests on: log entries 45, 46, 80, 90. -/
def Obligations.HousekeepingRoundsAndFans : Prop :=
  (∀ (rs : List HkReading) (ok : Bool) (s u : State), madderUp s = true → s.power.railsOn = true →
    u = countSkip (stepThresholds (woadRound (takeReadings rs { s with tray := { s.tray with roundEvents := [] } }))) →
    (firmwareRuns s = false → exec (.housekeepingRoundEnd rs ok) s = .next u) ∧
    (firmwareRuns s = true → ∃ v w x, v = reportSensors s.thermal.chans u ∧
      w = { v with thermal := { v.thermal with fanSpeed := BitVec.ofNat 7 (fanTarget v) } } ∧
      x = checkContacts ok (if coreRuns s 1 then oscRound w else w) ∧
      (coreRuns s 3 = false → exec (.housekeepingRoundEnd rs ok) s = .next x) ∧
      (coreRuns s 3 = true → exec (.housekeepingRoundEnd rs ok) s =
        .next (stepTaps ((List.finRange 10).foldl biasRound ((List.finRange 10).foldl trimRound x)))))) ∧
  (∀ (t : TileIx) (s : State), inService s.tiles[t] = true → s.tiles[t].laser.locked = true → ∃ l need, l = s.tiles[t].laser.lit ∧
    need = Config.laserBias t s.tiles[t].laser.t0Set.toNat (monCode s.tiles[t] 0) s.tiles[t].laser.stripes[l].bias.toNat ∧
    (biasRound s t).tiles[t].laser.stripes[l].bias.toNat = min 4000 (max 640 need) ∧
    (3680 < need → s.tiles[t].laser.stripes[l].state = .lit → (biasRound s t).tiles[t].laser.stripes[l].state = .worn ∧
      (biasRound s t).tiles[t].laser.changeDue = true)) ∧
  (∀ (t : TileIx) (g : Nat) (s : State),
    (lossLocated t 1 g s).tiles[t].laser.changeDue = true ∧
    lossLocated t 2 g s = faultTile t (event evLossLocated (BitVec.ofNat 16 t.val) 2 s) ∧
    lossLocated t 3 g s = faultTile t (event evLossLocated (BitVec.ofNat 16 t.val) 3 s) ∧
    (s.tiles[t].conv.testDacBad = true →
      lossLocated t 8 g s = faultTile t (event evLossLocated (BitVec.ofNat 16 t.val) 8 s))) ∧
  (∀ (rs : List HkReading) (s : State), (takeReadings rs s).thermal.roundCount = s.thermal.roundCount + 1 ∧
    (takeReadings rs s).thermal.hkRound = s.thermal.nextRound ∧ (takeReadings rs s).mem = s.mem ∧
    (takeReadings rs s).rings = s.rings ∧ (takeReadings rs s).tiles = s.tiles) ∧
  (∀ (hi lo v w : Int), lo < hi →
    (hi ≤ v → hi ≤ w → (stepThreshold hi lo w (stepThreshold hi lo v { on := false, above := 0, below := 0 })).on = true) ∧
    (v ≤ lo → w ≤ lo → (stepThreshold hi lo w (stepThreshold hi lo v { on := true, above := 0, below := 0 })).on = false) ∧
    (w < hi → (stepThreshold hi lo w (stepThreshold hi lo v { on := false, above := 0, below := 0 })).on = false) ∧
    (lo < w → (stepThreshold hi lo w (stepThreshold hi lo v { on := true, above := 0, below := 0 })).on = true)) ∧
  (∀ (k : Fin 5) (s u : State), firmwareRuns s = true → s.thermal.fanFailed.getLsbD k.val = false →
    u = raiseAlarm false evFanFailed (BitVec.ofNat 16 k.val) (event evFanFailed (BitVec.ofNat 16 k.val) 0 { s with
      thermal := { s.thermal with fanFailed := s.thermal.fanFailed ||| (1#5 <<< k.val), fanSpeed := 100 } }) →
    (popCount 5 (s.thermal.fanFailed ||| (1#5 <<< k.val)).toNat < 2 → exec (.fanFailure k) s = .next u) ∧
    (2 ≤ popCount 5 (s.thermal.fanFailed ||| (1#5 <<< k.val)).toNat →
      exec (.fanFailure k) s = .next (raiseAlarm true evFanFailed (BitVec.ofNat 16 k.val) u))) ∧
  (∀ (t : TileIx) (s : State), s.tiles[t].skip = 1 → 1600 ≤ s.thermal.zoneMax[t.val].1.toInt →
    exec (.skipEscalation t) s = .next (setTile t (fun x => { x with skip := 2 }) s))

/-- Cold and warm starts begin, and the phases of a start follow each other. A wake in DEEP, and a feed that qualifies in
OFF, begin a cold start; a restart that is due begins a warm one; DEEP loses its supply to OFF. ROM ends with the lock
and the clock of Woad, VERIFY takes a bank or the start has failed, FIRMWARE and RESTORE end, memory training ends,
LOCK ends when every tile of the timeline is locked, a tile that does not lock leaves the timeline, SELFCHECK waits
for memory, tiles settle and DONE reports what is owed. A late phase posts its event; held streams open together or
raise an alarm. Drawn from: R385, R386, R387, R388, R389, R390, R391, R392, R393, R395, R396, R397, R408. The model's
own choices that it rests on: log entries 1, 42, 43. -/
def Obligations.StartsAndTheirPhases : Prop :=
  (∀ s : State, (s.tray.powerState = .deep → exec .coldStart s = .next (beginStart false s)) ∧
    (∀ x, s.tray.powerState = .off → s.woad.tripLatch = false → s.power.offWait = .feed x →
      4000 ≤ s.power.feeds[(0 : Fin 2)].mag.toNat ∨ 4000 ≤ s.power.feeds[(1 : Fin 2)].mag.toNat →
      exec .coldStart s = .next (beginStart false s))) ∧
  (∀ s : State, s.tray.restartDue = true → s.tray.powerState ≠ .off → s.tray.powerState ≠ .deep →
    exec .warmRestart s = .next (warmReset s)) ∧
  (∀ s : State, s.tray.powerState = .deep → ∃ t, exec .deepSupplyLoss s = .next t ∧ t.tray.powerState = .off ∧
    t.power.bank = 0 ∧ t.power.journal = none ∧ t.power.railsOn = false ∧ t.mem.stackMem = [] ∧ t.flash.archive = s.flash.archive) ∧
  (∀ s : State, inPhase .rom s = true → s.time.rootLock = true → s.woad.trimmed = true ∨ s.woad.hclkSampling = true →
    exec .phaseRomEnd s = .next { s with tray := { s.tray with phase := .verify } }) ∧
  (∀ s : State, inPhase .verify s = true → exec .phaseVerify s = .next (verifyEffect s) ∧
    (verifiedBank s = none → exec .startFailed s = .next (failStart s) ∧ verifyEffect s = failStart s) ∧
    (verifiedBank s = some s.flash.selectedBank → verifyEffect s = { s with
      host := { s.host with cfgValid := true }, flash := { s.flash with runningBank := s.flash.selectedBank },
      twin := { s.twin with hbRunning := true }, tray := { s.tray with phase := .firmware, fallbackBank := false } })) ∧
  (∀ s : State, (failStart s).tray.phase = .failed ∧ (failStart s).rings = ringsInit ∧ (failStart s).host.cfgValid = true ∧
    ∃ a ∈ (failStart s).tray.alarms, a.major = true ∧ a.code = alStartFailed) ∧
  (∀ s : State, inPhase .firmware s = true → exec .phaseFirmwareEnd s =
    .next { s with tray := { s.tray with phase := .restore }, woad := { s.woad with forceHold := false } }) ∧
  (∀ s : State, inPhase .firmware s = true ∨ inPhase .restore s = true ∨ inPhase .lock s = true ∨ inPhase .selfcheck s = true →
    exec .memoryTrainingDone s =
      .next { s with tray := { s.tray with memReady := true }, mem := { s.mem with selfRefresh := false } }) ∧
  (∀ s : State, inPhase .restore s = true → exec .phaseRestore s = .next (restoreEffect s) ∧ (restoreEffect s).tray.phase = .lock) ∧
  (∀ s : State, inPhase .lock s = true →
    ((∀ t : TileIx, s.tiles[t].state = .warm → s.tray.lateTiles.getLsbD t.val = false → s.tiles[t].laser.locked = true) →
      exec .phaseLockEnd s = .next { s with tray := { s.tray with phase := .selfcheck } }) ∧
    (∀ t : TileIx, s.tiles[t].state = .warm → s.tiles[t].laser.locked = false → exec (.tileLockTimeout t) s =
      .next (failStripe t { s with tray := { s.tray with lateTiles := s.tray.lateTiles ||| (1#10 <<< t.val) } }))) ∧
  (∀ (fs : List SelfCheckFail) (s : State), inPhase .selfcheck s = true → s.tray.memReady = true →
    exec (.phaseSelfcheck fs) s = .next (selfCheckEffect fs s)) ∧
  (∀ s : State, selfCheckEffect [] s = if s.tray.phase = .failed then s else
    { s with tray := { s.tray with phase := .settle, selfChecked := true } }) ∧
  (∀ s : State, inPhase .settle s = true →
    exec .phaseSettle s = .next (((List.finRange 10).filter (fun t => settling s t && hasSettled s.tiles[t])).foldl
      (fun s t => readyTile t s) s) ∧
    (∀ t : TileIx, settling s t = true → exec (.settleTimeout t) s =
      .next (event evSettleLong (BitVec.ofNat 16 t.val) 0 (readyTile t s))) ∧
    ((∀ t : TileIx, s.tiles[t].state = .warm → s.tray.lateTiles.getLsbD t.val = true) →
      exec .phaseDone s = .next (doneEffect s))) ∧
  (∀ s : State, s.tray.phase ≠ .done → s.tray.phase ≠ .failed → s.tray.powerState ≠ .off → s.tray.powerState ≠ .deep →
    exec .startPhaseLate s = .next (event evStartLate (BitVec.ofNat 16 s.tray.phase.code) 0
      { s with tray := { s.tray with startLate := true } })) ∧
  (∀ s : State, s.radio.held ≠ 0 → (firmwareRuns s = true → s.time.syncState = .locked → exec .heldStreamsOpen s =
      .next (event evSyncState 0 (SyncState.code .locked) (clearAlarm alHeldStreams 0 (openHeld s)))) ∧
    (s.tray.phase = .done → exec .heldStreamsTimeout s = .next (raiseAlarm false alHeldStreams 0 s)))

/-- TWIN_ROLE and HANDOVER take effect; heartbeats, custody and the relay cycle act. Accepted with a twin that matches:
TWIN_ROLE to ALONE leaves the pair, to ACTIVE with custody takes the role at once, to STANDBY or SHARE takes it and
completes later; HANDOVER of a SYNCED ACTIVE tray with custody begins one. A heartbeat is sent while core 3 runs, and
one received is kept and worked on. Timeouts lower the pair state. The custody logic gives its holder, GRANT follows
it, a tray alone requests custody, disagreeing grants are a fault. The transfer point, a repeated request, HOLD of the
twin and the relay delay act. Drawn from: R333, R453, R454, R460, R461, R462, R464, R465, R467, R474, R475, R476,
R480. The model's own choices that it rests on: log entries 47, 48, 49, 50. -/
def Obligations.PairRolesHeartbeatsAndCustody : Prop :=
  (∀ (n : RingIx) (f : Fetched) (i : CmdInfo) (s u : State), Accepted opTwinRole n f i s → u = dispatch n f s → f.desc.u8 8 ≤ 3 → (f.desc.u8 8 = 0 ∨ badHbTimeout u = false) → u.tray.phase = .done → twinCmdRuns u = false →
    twinMismatch u = false → sameSlot u = false →
    (f.desc.u8 8 = 0 → u.twin.role ≠ .alone → exec (.twinRole n) s = .next (complete n f (Reply.of codeOk) (leavePair u))) ∧
    (u.twin.role = Role.ofCode (f.desc.u8 8) → exec (.twinRole n) s = .next (complete n f (Reply.of codeOk) u)) ∧
    (u.twin.role = .alone → twinHeard u = true → ∃ v, v = { u with twin := { u.twin with seized := false, delayRunning := false } } ∧
      (f.desc.u8 8 = 1 → hbByte u 0 = 0 ∨ hbByte u 0 = 2 → u.twin.grant = true →
        exec (.twinRole n) s = .next (complete n f (Reply.of codeOk) (takeRole .active v))) ∧
      (f.desc.u8 8 = 2 → hbByte u 0 = 1 → u.twin.grant = false → u.tray.powerState = .run → inferenceRuns u = false → ∃ w,
        w = takeRole .standby v ∧
        exec (.twinRole n) s = .next { w with twin := { w.twin with roleCmd := some (f, .standby) } }) ∧
      (f.desc.u8 8 = 3 → ∃ w, w = takeRole .share v ∧
        exec (.twinRole n) s = .next { w with twin := { w.twin with roleCmd := some (f, .share) } }))) ∧
  (∀ (n : RingIx) (f : Fetched) (i : CmdInfo) (s u : State), Accepted opHandover n f i s → u = dispatch n f s → twinCmdRuns u = false → u.twin.handover = none → u.twin.role = .active → u.twin.pairState = .synced →
    linkCarries u = true → u.twin.grant = true → exec (.handover n) s = .next (beginHandover (some f) u)) ∧
  (∀ s : State, madderUp s = true → s.twin.hbRunning = true →
    (coreRuns s 3 = false → exec .heartbeatSend s = .next { s with twin := { s.twin with hbFresh := false } }) ∧
    (coreRuns s 3 = true → ∃ u, u = sendHeartbeat s.tray.powerState.code { s with twin := { s.twin with hbFresh := true } } ∧
      (mayHold u = true → exec .heartbeatSend s = .next { u with twin := { u.twin with hold := true } }) ∧
      (mayHold u = false → exec .heartbeatSend s = .next u))) ∧
  (∀ s : State, exec .holdTimerExpiry s = .next { s with twin := { s.twin with hold := false } }) ∧
  (∀ (bs : List Byte) (s u : State), madderUp s = true → linkCarries s = true → bs.length = 32 →
    u = { s with woad := { s.woad with hbSeen := true },
                 twin := { s.twin with hbRx := satInc s.twin.hbRx, hbLast := bs, extended := false } } →
    (firmwareRuns s = true → coreRuns s 3 = true → s.tray.shelfSlot ≠ none → exec (.heartbeatRx bs) s = .next (heartbeatWork u)) ∧
    (firmwareRuns s = false → exec (.heartbeatRx bs) s = .next u)) ∧
  (∀ s : State, madderUp s = true → s.twin.timerOn = true → s.twin.handover = none →
    (s.twin.replaying = true → s.twin.extended = false →
      exec .heartbeatTimeout s = .next { s with twin := { s.twin with extended := true } }) ∧
    (s.twin.replaying = false → ∃ t, exec .heartbeatTimeout s = .next t ∧ t.twin.pairState = .linkDown ∧ t.twin.timerOn = false ∧
      (s.twin.role = .standby → s.twin.grant = false → t.twin.req = true) ∧ (s.twin.role = .active → t.twin.req = s.twin.req))) ∧
  (∀ s : State, firmwareRuns s = true → s.twin.pairState ≠ .none → ∃ t, exec .pairNoneTimeout s = .next t ∧
    t.twin.pairState = .none ∧ t.twin.timerOn = false) ∧
  (∀ (q : Bool) (s : State), exec (.custodyTransfer q) s =
    .next (custodyTo (nextHolder q s) { s with twin := { s.twin with twinReq := q } })) ∧
  (∀ (q b : Bool) (s : State), s.tray.shelfSlot = some b →
    (s.twin.holder = some false → nextHolder q s = if s.twin.hold = false ∧ q = true then some true else some false) ∧
    (s.twin.holder = some true → nextHolder q s = if s.twin.twinHold = false ∧ s.twin.req = true then some false else some true)) ∧
  (∀ s : State, exec (.grantChange true) s = .next (custodyTo (some false) s) ∧
    (s.twin.holder = some false → exec (.grantChange false) s = .next (custodyTo (some true) s))) ∧
  (∀ s : State, firmwareRuns s = true → s.twin.role = .alone → streamOpen s = true → s.twin.grant = false →
    faultHolds s = false → twinHeard s = false →
    exec .aloneCustodyRequest s = .next { s with twin := { s.twin with req := true } }) ∧
  (∀ s : State, firmwareRuns s = true → grantsDisagree s = true → ∃ u t, exec .custodyLogicFault s = .next t ∧
    u = raiseAlarm true alCustody 0 (leavePair (dropHold s)) ∧
    t = { u with twin := { u.twin with req := false, custodyFault := some s.time.symbolCount } }) ∧
  (∀ (h : HandoverRun) (s : State), s.twin.handover = some h → ∃ t, exec .transferPoint s = .next t ∧
    t.twin.handover = some { h with passed := true } ∧ (h.releasing = true → t.twin.hold = false) ∧
    (h.releasing = false → t.twin.req = true) ∧ t.mem = s.mem ∧ t.rings = s.rings) ∧
  (∀ s : State, s.twin.takeoverRefused = true → s.tray.takeoverCauses ≠ [] → s.twin.role ≠ .alone → exec .takeoverRepeat s =
    .next { s with twin := { s.twin with takeoverReq := true, takeoverRefused := false } }) ∧
  (∀ (b : Bool) (s : State), ∃ t, exec (.twinHoldChange b) s = .next t ∧ t.twin.twinHold = b ∧
    (b = true → t.twin.delayRunning = false) ∧
    (b = false → s.twin.seized = true → s.twin.pairState = .linkDown → t.twin.delayRunning = true)) ∧
  (∀ s : State, firmwareRuns s = true → s.twin.delayRunning = true → s.twin.relayDelay ≠ 0 → s.power.stage = .none →
    s.tray.shelfSlot ≠ none →
    (s.twin.relayCycles.toNat < 2 → exec .relayDelayExpiry s = .next { s with
      twin := { s.twin with relayCycles := s.twin.relayCycles + 1 }, power := { s.power with twinRelayOpen := true } }) ∧
    (2 ≤ s.twin.relayCycles.toNat → exec .relayDelayExpiry s = .next (raiseAlarm true alRelayCycles 0 s)))

/-- The Seliviuk link acknowledges, replays and trains, and its frames are applied. An acknowledgement releases the frames
up to its number, a negative one replays from the first that is left, and a replay timeout replays. Training ends with
the lanes that aligned, its third failure takes the link DOWN with a retry later. Commits whose mirror is not
acknowledged in time complete and the pair has lost its mirror. A frame whose CHECK, the CRC-32C of the bytes before
it, fails is answered with a NAK, one of a reserved TYPE is counted. Mirror, memory-copy, handover, chain and
resynchronisation frames are received in sequence, acknowledge, and are applied by the tray that takes them. Drawn from:
R7, R280, R457, R458, R459, R466, R467, R474, R477. The model's own choices that it rests on: log entries 48, 49, 81. -/
def Obligations.TheLinkAndItsFrames : Prop :=
  (∀ (h : RxHead) (s : State), linkCarries s = true → h.checkOk = true → h.type ≠ 0 → h.type.toNat ≤ 7 →
    ∃ u, u.twin.unacked = s.twin.unacked.filter (fun f => !seqLe f.seq h.ackSeq) ∧
    exec (.ackFrameRx h false) s = .next u ∧ exec (.ackFrameRx h true) s = .next (replay u)) ∧
  (∀ (h : RxHead) (s : State), linkCarries s = true →
    (h.checkOk = false → exec (.ackFrameRx h false) s = .next (sendFrame 0x02#8 2#8 [] s)) ∧
    (h.checkOk = true → h.type = 0 ∨ 7 < h.type.toNat → exec (.ackFrameRx h false) s =
      .next { s with twin := { s.twin with badFrames := satAdd s.twin.badFrames 1 } })) ∧
  (∀ s : State, linkCarries s = true → exec .replayTimeout s = .next (replay s)) ∧
  (∀ s : State, s.twin.linkState = .training → ∃ u, u = { s with twin := { s.twin with trainFails := 0, replayTries := 0 } } ∧
    exec (.linkTrainingEnd 1) s = .next (enterLink .up1 u) ∧ exec (.linkTrainingEnd 2) s = .next (enterLink .up u) ∧
    (2 ≤ s.twin.trainFails → exec (.linkTrainingEnd 0) s =
      .next (enterLink .down { s with twin := { s.twin with trainFails := s.twin.trainFails + 1 } })) ∧
    (s.twin.trainFails < 2 → exec (.linkTrainingEnd 0) s =
      .next { s with twin := { s.twin with trainFails := s.twin.trainFails + 1 } })) ∧
  (∀ s : State, s.twin.linkState = .down → exec .linkTrainingRetry s =
    .next (raiseAlarm true evTwinLink 0 { s with twin := { s.twin with linkState := .training, trainFails := 0 } })) ∧
  (∀ s : State, s.twin.commitWaits ≠ [] → s.twin.role ≠ .alone → ∃ gs, gs = s.twin.commitWaits.map (fun w => w.2.2.1) ∧
    exec .mirrorAckTimeout s = .next (gs.foldl (fun s g => event evMirrorLost (BitVec.ofNat 16 g.val) 0 s)
      (gs.foldl (fun s g => tryFinishCommit g s)
        { s with twin := { s.twin with commitWaits := [], pairState := .mirrorLost } }))) ∧
  (∀ (q : RxHead) (s : State), takesFrames s = true →
    (∀ m, exec (.mirrorFrameRx q m) s = .next (receive q (applyMirror m) s)) ∧
    (∀ a bs, exec (.memcopyFrameRx q a bs) s = .next (receive q (applyCopy a bs) s)) ∧
    (∀ x, exec (.handoverFrameRx q x) s = .next (receive q (applyHandover x) s)) ∧
    (∀ x, exec (.chainFrameRx q x) s = .next (receive q (applyChain x) s)) ∧
    (∀ x, exec (.resyncFrameRx q x) s = .next (receive q (applyResync x) s))) ∧
  (∀ (h : RxHead) (f : State → State) (s u : State), linkCarries s = true → h.checkOk = true → h.type ≠ 0 → h.type.toNat ≤ 7 →
    u = releaseAcked h.ackSeq s →
    (h.seq = s.twin.rxSeq + 1 →
      receive h f s = sendFrame 0x02#8 0#8 [] (f { u with twin := { u.twin with rxSeq := h.seq } })) ∧
    (h.seq ≠ s.twin.rxSeq + 1 → seqLe h.seq s.twin.rxSeq = true → receive h f s = sendFrame 0x02#8 0#8 [] u) ∧
    (h.seq ≠ s.twin.rxSeq + 1 → seqLe h.seq s.twin.rxSeq = false → receive h f s = sendFrame 0x02#8 2#8 [] u)) ∧
  (∀ (ty fl : Byte) (q a : W32) (bs : List Byte) (f : Frame), f = mkFrame ty fl q a bs →
    (frameBytes f).drop ((frameBytes f).length - 4) =
      leBytes 4 (crc32c ((frameBytes f).take ((frameBytes f).length - 4))).toNat) ∧
  (∀ s : State, isSink s = true →
    (∀ d es, ∃ u, u = mirrorCommand { bytes := d } es s ∧ applyMirror (.command d es) s =
      { u with twin := { u.twin with journalAck := u.twin.journalAck + 1 } }) ∧
    (∀ a bs, bs ≠ [] → windowAnswers s a.toNat bs.length = true → applyCopy a bs s = trySynced (stackWrite a.toNat bs s)) ∧
    (∀ x, s.twin.handover = none → ∃ h, (applyHandover x s).twin.handover = some h ∧ h.at_ = x ∧ h.releasing = false ∧
      (applyHandover x s).twin.timerOn = false) ∧
    (∀ q, applyResync (.journal q) s = trySynced { s with twin := { s.twin with journalAck := q } }))

/-- A move into an operand port latches its value and does nothing else. For a move into an operand port that core k
issues (clocked, fetched, guard true, no trap, no stall), its value is latched there, and DISCARD latches nothing.
Only the core changes: that port, a stack that the source pops, and the PC. Drawn from: R484, R519, R520. The model's
own choices that it rests on: log entries 10, 51. -/
def Obligations.MovesIntoOperandPorts : Prop :=
  (∀ (k : CoreIx) (g : BitVec 4) (dst : Byte) (src : MoveSrc) (s : State), triggerPort dst.toNat = false →
    Issued k g dst.toNat src s →
    exec (.moveOperand k g dst src) s =
      .next (moved k src (fun c => { c with ops := c.ops.latch dst.toNat (moveValue s k src) }) s)) ∧
  (∀ (v : W32) (o : Operands), o.latch 0x00 v = o ∧ o.latch 0x08 v = { o with limmHi := v &&& 0xFFFF#32 } ∧
    o.latch 0x10 v = { o with aluA := v } ∧ o.latch 0x20 v = { o with mulA := v } ∧ o.latch 0x28 v = { o with cmpA := v } ∧
    o.latch 0x38 v = { o with lsuBase := v } ∧ o.latch 0x60 v = { o with mbxH := v } ∧
    o.latch 0x70 v = { o with xfrLocal := v } ∧ o.latch 0x78 v = { o with flsArray := v } ∧
    o.latch 0x90 v = { o with csrData := v })

/-- LIMM.HI latches the upper half of W, and each long-immediate trigger places W in LIMM.OUT with its tag. A move that
core k issues into LIMM.HI latches its low 16 bits as W[31:16]. Into a trigger, W is LIMM.HI and the low 16 bits of
its immediate: on a TAGGED page LIMM.OUT is the payload W[28:0] with tag INT, PTR, CODE or BITS; on a RAW page it is W
for T_INT and W with bits 31:29 cleared for the other three. LIMM.HI is unchanged by a trigger, and 0 on a core that
has restarted. Rule: R522. -/
def Obligations.LongImmediatesPlaceTheirWord : Prop :=
  (∀ (k : CoreIx) (g : BitVec 4) (src : MoveSrc) (s : State), Issued k g 0x08 src s →
    exec (.moveOperand k g 0x08 src) s = .next (moved k src (fun c =>
      { c with ops := { c.ops with limmHi := moveValue s k src &&& 0xFFFF#32 } }) s)) ∧
  (∀ (k : CoreIx) (g : BitVec 4) (src : MoveSrc) (s : State) (w : Nat), Issued k g 0x09 src s →
    w = s.cores[k].ops.limmHi.toNat * 65536 + (moveValue s k src).toNat % 65536 →
    exec (.limmTInt k g src) s = .next (moved k src (fun c => { c with res := { c.res with limm := if runsTagged s k then mkTagged 0 w else BitVec.ofNat 32 w } }) s)) ∧
  (∀ (k : CoreIx) (g : BitVec 4) (src : MoveSrc) (s : State) (w : Nat), Issued k g 0x0A src s →
    w = s.cores[k].ops.limmHi.toNat * 65536 + (moveValue s k src).toNat % 65536 →
    exec (.limmTPtr k g src) s = .next (moved k src (fun c => { c with res := { c.res with limm := if runsTagged s k then mkTagged 1 w else mkTagged 0 w } }) s)) ∧
  (∀ (k : CoreIx) (g : BitVec 4) (src : MoveSrc) (s : State) (w : Nat), Issued k g 0x0B src s →
    w = s.cores[k].ops.limmHi.toNat * 65536 + (moveValue s k src).toNat % 65536 →
    exec (.limmTCode k g src) s = .next (moved k src (fun c => { c with res := { c.res with limm := if runsTagged s k then mkTagged 2 w else mkTagged 0 w } }) s)) ∧
  (∀ (k : CoreIx) (g : BitVec 4) (src : MoveSrc) (s : State) (w : Nat), Issued k g 0x0C src s →
    w = s.cores[k].ops.limmHi.toNat * 65536 + (moveValue s k src).toNat % 65536 →
    exec (.limmTBits k g src) s = .next (moved k src (fun c => { c with res := { c.res with limm := if runsTagged s k then mkTagged 4 w else mkTagged 0 w } }) s)) ∧
  (∀ t w : Nat, t < 8 → (mkTagged t w).toNat = t * 2 ^ 29 + w % 2 ^ 29) ∧
  (∀ (s : State) (c : Core), (restarted s c).ops.limmHi = 0)

/-- The ten ALU triggers give the results and tags of Table 20-7. For an issued move into an ALU trigger whose tags are
those that Table 20-7 requires on a TAGGED page (a RAW page checks none), with A the latched operand and B the move's
value: ALU.OUT becomes A + B, A - B or -B wrapped at 29 (RAW 32) bits as INT; the bitwise and, or, exclusive or with
the tag of A, the complement with the tag of B; the shifts, where a count outside 0 to width - 1 gives 0, and for SAR
0 or -1. Only the core changes. Drawn from: R498, R527. The model's own choices that it rests on: log entry 10. -/
def Obligations.AluMovesComputeTable20x7 : Prop :=
  (∀ (k : CoreIx) (g : BitVec 4) (src : MoveSrc) (s : State) (tg : Bool) (v : W32), Issued k g 0x11 src s → tg = runsTagged s k → v = moveValue s k src → (tg = true → tagOf s.cores[k].ops.aluA = 0 ∧ tagOf v = 0) → exec (.aluAdd k g src) s = .next (moved k src (fun c => { c with res := { c.res with alu := intVal tg (signedIn tg c.ops.aluA + signedIn tg v) } }) s)) ∧
  (∀ (k : CoreIx) (g : BitVec 4) (src : MoveSrc) (s : State) (tg : Bool) (v : W32), Issued k g 0x12 src s → tg = runsTagged s k → v = moveValue s k src → (tg = true → tagOf s.cores[k].ops.aluA = 0 ∧ tagOf v = 0) → exec (.aluSub k g src) s = .next (moved k src (fun c => { c with res := { c.res with alu := intVal tg (signedIn tg c.ops.aluA - signedIn tg v) } }) s)) ∧
  (∀ (k : CoreIx) (g : BitVec 4) (src : MoveSrc) (s : State) (tg : Bool) (v : W32), Issued k g 0x13 src s → tg = runsTagged s k → v = moveValue s k src → (tg = true → tagOf v = 0) → exec (.aluNeg k g src) s = .next (moved k src (fun c => { c with res := { c.res with alu := intVal tg (-signedIn tg v) } }) s)) ∧
  (∀ (k : CoreIx) (g : BitVec 4) (src : MoveSrc) (s : State) (tg : Bool) (v : W32), Issued k g 0x14 src s → tg = runsTagged s k → v = moveValue s k src → (tg = true → (tagOf s.cores[k].ops.aluA = 0 ∨ tagOf s.cores[k].ops.aluA = 4) ∧ (tagOf v = 0 ∨ tagOf v = 4)) → exec (.aluAnd k g src) s = .next (moved k src (fun c => { c with res := { c.res with alu := mkVal tg (tagOf c.ops.aluA) (c.ops.aluA &&& v).toNat } }) s)) ∧
  (∀ (k : CoreIx) (g : BitVec 4) (src : MoveSrc) (s : State) (tg : Bool) (v : W32), Issued k g 0x15 src s → tg = runsTagged s k → v = moveValue s k src → (tg = true → (tagOf s.cores[k].ops.aluA = 0 ∨ tagOf s.cores[k].ops.aluA = 4) ∧ (tagOf v = 0 ∨ tagOf v = 4)) → exec (.aluOr k g src) s = .next (moved k src (fun c => { c with res := { c.res with alu := mkVal tg (tagOf c.ops.aluA) (c.ops.aluA ||| v).toNat } }) s)) ∧
  (∀ (k : CoreIx) (g : BitVec 4) (src : MoveSrc) (s : State) (tg : Bool) (v : W32), Issued k g 0x16 src s → tg = runsTagged s k → v = moveValue s k src → (tg = true → (tagOf s.cores[k].ops.aluA = 0 ∨ tagOf s.cores[k].ops.aluA = 4) ∧ (tagOf v = 0 ∨ tagOf v = 4)) → exec (.aluXor k g src) s = .next (moved k src (fun c => { c with res := { c.res with alu := mkVal tg (tagOf c.ops.aluA) (c.ops.aluA ^^^ v).toNat } }) s)) ∧
  (∀ (k : CoreIx) (g : BitVec 4) (src : MoveSrc) (s : State) (tg : Bool) (v : W32), Issued k g 0x17 src s → tg = runsTagged s k → v = moveValue s k src → (tg = true → tagOf v = 0 ∨ tagOf v = 4) → exec (.aluNot k g src) s = .next (moved k src (fun c => { c with res := { c.res with alu := mkVal tg (tagOf v) (~~~v).toNat } }) s)) ∧
  (∀ (k : CoreIx) (g : BitVec 4) (src : MoveSrc) (s : State) (tg : Bool) (v : W32), Issued k g 0x18 src s → tg = runsTagged s k → v = moveValue s k src → (tg = true → tagOf s.cores[k].ops.aluA = 0 ∧ tagOf v = 0) → exec (.aluShl k g src) s = .next (moved k src (fun c => { c with res := { c.res with alu := if 0 ≤ signedIn tg v ∧ signedIn tg v < widthOf tg then intVal tg (unsignedIn tg c.ops.aluA * 2 ^ unsignedIn tg v : Nat) else 0 } }) s)) ∧
  (∀ (k : CoreIx) (g : BitVec 4) (src : MoveSrc) (s : State) (tg : Bool) (v : W32), Issued k g 0x19 src s → tg = runsTagged s k → v = moveValue s k src → (tg = true → tagOf s.cores[k].ops.aluA = 0 ∧ tagOf v = 0) → exec (.aluShr k g src) s = .next (moved k src (fun c => { c with res := { c.res with alu := if 0 ≤ signedIn tg v ∧ signedIn tg v < widthOf tg then intVal tg (unsignedIn tg c.ops.aluA / 2 ^ unsignedIn tg v : Nat) else 0 } }) s)) ∧
  (∀ (k : CoreIx) (g : BitVec 4) (src : MoveSrc) (s : State) (tg : Bool) (v : W32), Issued k g 0x1A src s → tg = runsTagged s k → v = moveValue s k src → (tg = true → tagOf s.cores[k].ops.aluA = 0 ∧ tagOf v = 0) → exec (.aluSar k g src) s = .next (moved k src (fun c => { c with res := { c.res with alu := if 0 ≤ signedIn tg v ∧ signedIn tg v < widthOf tg then intVal tg (signedIn tg c.ops.aluA / (2 ^ unsignedIn tg v : Nat)) else if signedIn tg c.ops.aluA < 0 then intVal tg (-1) else 0 } }) s))

/-- The multiply triggers give the results of Table 20-7, the compare triggers the outcomes of Table 20-8 in CMP.OUT and a
guard. For an issued move whose tags are INT on a TAGGED page: MUL.OUT becomes the low or the high half of the signed
product, the quotient toward zero or the remainder A - B x (A / B), POISON for B = 0. A compare writes its outcome, 1
or 0, to CMP.OUT and to the guard that CMP.G bits 2:0 name; the outcome is the one that Table 20-8 states, in the
width of the running mode. Writing guard n sets that guard alone, and guard 0 never. Only the core changes. Drawn
from: R498, R527, R528. The model's own choices that it rests on: log entries 10, 52. -/
def Obligations.MultiplyAndCompareMoves : Prop :=
  (∀ (k : CoreIx) (g : BitVec 4) (src : MoveSrc) (s : State) (tg : Bool) (v : W32), Issued k g 0x21 src s → tg = runsTagged s k → v = moveValue s k src → (tg = true → tagOf s.cores[k].ops.mulA = 0 ∧ tagOf v = 0) → exec (.mulMul k g src) s = .next (moved k src (fun c => { c with res := { c.res with mul := intVal tg (signedIn tg c.ops.mulA * signedIn tg v) } }) s)) ∧
  (∀ (k : CoreIx) (g : BitVec 4) (src : MoveSrc) (s : State) (tg : Bool) (v : W32), Issued k g 0x22 src s → tg = runsTagged s k → v = moveValue s k src → (tg = true → tagOf s.cores[k].ops.mulA = 0 ∧ tagOf v = 0) → exec (.mulMulh k g src) s = .next (moved k src (fun c => { c with res := { c.res with mul := intVal tg (signedIn tg c.ops.mulA * signedIn tg v / (2 ^ widthOf tg : Nat)) } }) s)) ∧
  (∀ (k : CoreIx) (g : BitVec 4) (src : MoveSrc) (s : State) (tg : Bool) (v : W32), Issued k g 0x23 src s → tg = runsTagged s k → v = moveValue s k src → (tg = true → tagOf s.cores[k].ops.mulA = 0 ∧ tagOf v = 0) → exec (.mulDiv k g src) s = .next (moved k src (fun c => { c with res := { c.res with mul := if signedIn tg v = 0 then poison else intVal tg ((signedIn tg c.ops.mulA).tdiv (signedIn tg v)) } }) s)) ∧
  (∀ (k : CoreIx) (g : BitVec 4) (src : MoveSrc) (s : State) (tg : Bool) (v : W32), Issued k g 0x24 src s → tg = runsTagged s k → v = moveValue s k src → (tg = true → tagOf s.cores[k].ops.mulA = 0 ∧ tagOf v = 0) → exec (.mulMod k g src) s = .next (moved k src (fun c => { c with res := { c.res with mul := if signedIn tg v = 0 then poison else intVal tg (signedIn tg c.ops.mulA - signedIn tg v * (signedIn tg c.ops.mulA).tdiv (signedIn tg v)) } }) s)) ∧
  (∀ (k : CoreIx) (g : BitVec 4) (src : MoveSrc) (s : State) (tg : Bool) (v : W32) (b : Bool), Issued k g 0x2A src s → tg = runsTagged s k → v = moveValue s k src → (tg = true → tagOf s.cores[k].ops.cmpA = 0 ∧ tagOf s.cores[k].ops.cmpG = 0 ∧ tagOf v = 0) → 
    (b = true ↔ unsignedIn tg s.cores[k].ops.cmpA = unsignedIn tg v) →
    exec (.cmpEq k g src) s = .next (moved k src (fun c => { c with
      res := { c.res with cmp := if b then 1 else 0 }, guards := setGuard (c.ops.cmpG.toNat % 8) b c.guards }) s)) ∧
  (∀ (k : CoreIx) (g : BitVec 4) (src : MoveSrc) (s : State) (tg : Bool) (v : W32) (b : Bool), Issued k g 0x2B src s → tg = runsTagged s k → v = moveValue s k src → (tg = true → tagOf s.cores[k].ops.cmpA = 0 ∧ tagOf s.cores[k].ops.cmpG = 0 ∧ tagOf v = 0) → 
    (b = true ↔ unsignedIn tg s.cores[k].ops.cmpA ≠ unsignedIn tg v) →
    exec (.cmpNe k g src) s = .next (moved k src (fun c => { c with
      res := { c.res with cmp := if b then 1 else 0 }, guards := setGuard (c.ops.cmpG.toNat % 8) b c.guards }) s)) ∧
  (∀ (k : CoreIx) (g : BitVec 4) (src : MoveSrc) (s : State) (tg : Bool) (v : W32) (b : Bool), Issued k g 0x2C src s → tg = runsTagged s k → v = moveValue s k src → (tg = true → tagOf s.cores[k].ops.cmpA = 0 ∧ tagOf s.cores[k].ops.cmpG = 0 ∧ tagOf v = 0) → 
    (b = true ↔ signedIn tg s.cores[k].ops.cmpA < signedIn tg v) →
    exec (.cmpLt k g src) s = .next (moved k src (fun c => { c with
      res := { c.res with cmp := if b then 1 else 0 }, guards := setGuard (c.ops.cmpG.toNat % 8) b c.guards }) s)) ∧
  (∀ (k : CoreIx) (g : BitVec 4) (src : MoveSrc) (s : State) (tg : Bool) (v : W32) (b : Bool), Issued k g 0x2D src s → tg = runsTagged s k → v = moveValue s k src → (tg = true → tagOf s.cores[k].ops.cmpA = 0 ∧ tagOf s.cores[k].ops.cmpG = 0 ∧ tagOf v = 0) → 
    (b = true ↔ signedIn tg s.cores[k].ops.cmpA ≤ signedIn tg v) →
    exec (.cmpLe k g src) s = .next (moved k src (fun c => { c with
      res := { c.res with cmp := if b then 1 else 0 }, guards := setGuard (c.ops.cmpG.toNat % 8) b c.guards }) s)) ∧
  (∀ (k : CoreIx) (g : BitVec 4) (src : MoveSrc) (s : State) (tg : Bool) (v : W32) (b : Bool), Issued k g 0x2E src s → tg = runsTagged s k → v = moveValue s k src → (tg = true → tagOf s.cores[k].ops.cmpA = 0 ∧ tagOf s.cores[k].ops.cmpG = 0 ∧ tagOf v = 0) → 
    (b = true ↔ unsignedIn tg s.cores[k].ops.cmpA < unsignedIn tg v) →
    exec (.cmpLtu k g src) s = .next (moved k src (fun c => { c with
      res := { c.res with cmp := if b then 1 else 0 }, guards := setGuard (c.ops.cmpG.toNat % 8) b c.guards }) s)) ∧
  (∀ (k : CoreIx) (g : BitVec 4) (src : MoveSrc) (s : State) (tg : Bool) (v : W32) (b : Bool), Issued k g 0x2F src s → tg = runsTagged s k → v = moveValue s k src → (tg = true → tagOf s.cores[k].ops.cmpA = 0 ∧ tagOf s.cores[k].ops.cmpG = 0 ∧ tagOf v = 0) → 
    (b = true ↔ unsignedIn tg s.cores[k].ops.cmpA ≤ unsignedIn tg v) →
    exec (.cmpLeu k g src) s = .next (moved k src (fun c => { c with
      res := { c.res with cmp := if b then 1 else 0 }, guards := setGuard (c.ops.cmpG.toNat % 8) b c.guards }) s)) ∧
  (∀ (k : CoreIx) (g : BitVec 4) (src : MoveSrc) (s : State) (tg : Bool) (v : W32) (b : Bool), Issued k g 0x30 src s → tg = runsTagged s k → v = moveValue s k src → (tg = true → tagOf s.cores[k].ops.cmpA = 0 ∧ tagOf s.cores[k].ops.cmpG = 0 ∧ tagOf v = 0) → 
    (b = true ↔ 2 ^ widthOf tg ≤ unsignedIn tg s.cores[k].ops.cmpA + unsignedIn tg v) →
    exec (.cmpCarry k g src) s = .next (moved k src (fun c => { c with
      res := { c.res with cmp := if b then 1 else 0 }, guards := setGuard (c.ops.cmpG.toNat % 8) b c.guards }) s)) ∧
  (∀ (k : CoreIx) (g : BitVec 4) (src : MoveSrc) (s : State) (tg : Bool) (v : W32) (b : Bool), Issued k g 0x31 src s → tg = runsTagged s k → v = moveValue s k src → (tg = true → tagOf s.cores[k].ops.cmpA = 0 ∧ tagOf s.cores[k].ops.cmpG = 0 ∧ tagOf v = 0) → 
    (b = true ↔ signedIn tg s.cores[k].ops.cmpA + signedIn tg v < -(2 ^ (widthOf tg - 1) : Nat) ∨ (2 ^ (widthOf tg - 1) : Nat) ≤ signedIn tg s.cores[k].ops.cmpA + signedIn tg v) →
    exec (.cmpOvf k g src) s = .next (moved k src (fun c => { c with
      res := { c.res with cmp := if b then 1 else 0 }, guards := setGuard (c.ops.cmpG.toNat % 8) b c.guards }) s)) ∧
  (∀ (k : CoreIx) (g : BitVec 4) (src : MoveSrc) (s : State) (tg : Bool) (v : W32) (b : Bool), Issued k g 0x32 src s → tg = runsTagged s k → v = moveValue s k src → (tg = true → tagOf s.cores[k].ops.cmpA = 0 ∧ tagOf s.cores[k].ops.cmpG = 0 ∧ tagOf v = 0) → 
    (b = true ↔ (0 ≤ signedIn tg v ∧ signedIn tg v < widthOf tg) ∧ (unsignedIn tg s.cores[k].ops.cmpA).testBit (unsignedIn tg v) = true) →
    exec (.cmpBit k g src) s = .next (moved k src (fun c => { c with
      res := { c.res with cmp := if b then 1 else 0 }, guards := setGuard (c.ops.cmpG.toNat % 8) b c.guards }) s)) ∧
  (∀ (n m : Nat) (b : Bool) (g : Byte), n < 8 → m < 8 →
    (setGuard n b g).getLsbD m = if m = n ∧ n ≠ 0 then b else g.getLsbD m)

/-- Branches take effect after two delay slots; CALL and RETURN use the return stack; pushes and pops. For an issued move:
JUMP and CALL with a CODE target (any on a RAW page) start a branch to it with bits 1:0 cleared, CALL pushes the
address of the branch plus 12 as CODE, RETURN takes and removes the top of the return stack, as the source leaves it.
A branch counts this move and two delay slots, then the PC is its target; otherwise each move advances the PC by 4. A
push puts the value on top; reading a pop port takes the top, reading TOP leaves it. Only the core changes. Drawn
from: R488, R489, R493, R494, R530, R531. The model's own choices that it rests on: log entries 10, 53. -/
def Obligations.BranchesAndStacks : Prop :=
  (∀ (k : CoreIx) (g : BitVec 4) (src : MoveSrc) (s : State) (tg : Bool) (v : W32), Issued k g 0x48 src s → tg = runsTagged s k → v = moveValue s k src → (tg = true → tagOf v = 2) → exec (.brJump k g src) s = .next (moved k src (fun c => { c with branch := some (BitVec.ofNat 32 (unsignedIn tg v / 4 * 4), 3) }) s)) ∧
  (∀ (k : CoreIx) (g : BitVec 4) (src : MoveSrc) (s : State) (tg : Bool) (v : W32), Issued k g 0x49 src s → tg = runsTagged s k → v = moveValue s k src → (tg = true → tagOf v = 2) → exec (.brCall k g src) s = .next (moved k src (fun c => { c with branch := some (BitVec.ofNat 32 (unsignedIn tg v / 4 * 4), 3), rstack := mkTagged 2 (c.pc.toNat + 12) :: c.rstack }) s)) ∧
  (∀ (k : CoreIx) (g : BitVec 4) (src : MoveSrc) (s : State) (a : W32) (l : List W32), Issued k g 0x4A src s →
    (readSource s.cores[k] src).2.rstack = a :: l → (runsTagged s k = true → tagOf a = 2) →
    exec (.brReturn k g src) s = .next (moved k src (fun c => { c with
      branch := some (BitVec.ofNat 32 (payload a / 4 * 4), 3), rstack := l }) s)) ∧
  (∀ (k : CoreIx) (g : BitVec 4) (src : MoveSrc) (s : State) (tg : Bool) (v : W32), Issued k g 0x50 src s → tg = runsTagged s k → v = moveValue s k src → exec (.dstkPush k g src) s = .next (moved k src (fun c => { c with dstack := v :: c.dstack }) s)) ∧
  (∀ (k : CoreIx) (g : BitVec 4) (src : MoveSrc) (s : State) (tg : Bool) (v : W32), Issued k g 0x54 src s → tg = runsTagged s k → v = moveValue s k src → (tg = true → tagOf v = 2) → exec (.rstkPush k g src) s = .next (moved k src (fun c => { c with rstack := v :: c.rstack }) s)) ∧
  (∀ (c : Core) (t : W32),
    (c.branch = none → nextPc c = { c with pc := c.pc + 4, stalled := none }) ∧
    (c.branch = some (t, 3) → nextPc c = { c with pc := c.pc + 4, branch := some (t, 2), stalled := none }) ∧
    (c.branch = some (t, 2) → nextPc c = { c with pc := c.pc + 4, branch := some (t, 1), stalled := none }) ∧
    (c.branch = some (t, 1) → nextPc c = { c with pc := t, branch := none, stalled := none })) ∧
  (∀ (c : Core) (v : W32) (l : List W32),
    (c.dstack = v :: l → readSource c (.port 0x50) = (v, { c with dstack := l }) ∧ readSource c (.port 0x51) = (v, c)) ∧
    (c.rstack = v :: l → readSource c (.port 0x54) = (v, { c with rstack := l })))

/-- The tag unit gives the results of Table 20-10, the timer samples its two counts and delays. For an issued move:
GETTAG, TOINT and TOBITS give the tag, the payload as INT (sign-extended on a RAW page) and the payload as BITS;
WRAP_INT gives INT where the 32-bit integer fits and else traps with TAG; TOPTR and TOCODE make PTR and CODE from a
RAW page and trap with TAG from a TAGGED one, the class recorded as none (the model's choice). SAMPLE_SC and SAMPLE_KC
put bits 27:0, 55:28 and 63:56 of the symbol counter and of the KCLK count in the three ports; a delay that ends makes
them 0. Drawn from: R497, R532, R538. The model's own choices that it rests on: log entries 10, 52. -/
def Obligations.TagAndTimerUnits : Prop :=
  (∀ (k : CoreIx) (g : BitVec 4) (src : MoveSrc) (s : State) (tg : Bool) (v : W32), Issued k g 0x58 src s → tg = runsTagged s k → v = moveValue s k src → exec (.tagGettag k g src) s = .next (moved k src (fun c => { c with res := { c.res with tag := BitVec.ofNat 32 (tagOf v) } }) s)) ∧
  (∀ (k : CoreIx) (g : BitVec 4) (src : MoveSrc) (s : State) (tg : Bool) (v : W32), Issued k g 0x59 src s → tg = runsTagged s k → v = moveValue s k src → exec (.tagToint k g src) s = .next (moved k src (fun c => { c with res := { c.res with tag := intVal tg (signedOf 29 v.toNat) } }) s)) ∧
  (∀ (k : CoreIx) (g : BitVec 4) (src : MoveSrc) (s : State) (tg : Bool) (v : W32), Issued k g 0x5A src s → tg = runsTagged s k → v = moveValue s k src → exec (.tagTobits k g src) s = .next (moved k src (fun c => { c with res := { c.res with tag := mkTagged 4 v.toNat } }) s)) ∧
  (∀ (k : CoreIx) (g : BitVec 4) (src : MoveSrc) (s : State) (tg : Bool) (v : W32), Issued k g 0x5B src s → tg = runsTagged s k → v = moveValue s k src → -(2 ^ 28 : Int) ≤ v.toInt → v.toInt ≤ 2 ^ 28 - 1 → exec (.tagWrapInt k g src) s = .next (moved k src (fun c => { c with res := { c.res with tag := mkTagged 0 v.toNat } }) s)) ∧
  (∀ (k : CoreIx) (g : BitVec 4) (src : MoveSrc) (s : State) (tg : Bool) (v : W32), Issued k g 0x5C src s → tg = runsTagged s k → v = moveValue s k src → tg = false → exec (.tagToptr k g src) s = .next (moved k src (fun c => { c with res := { c.res with tag := mkTagged 1 v.toNat } }) s)) ∧
  (∀ (k : CoreIx) (g : BitVec 4) (src : MoveSrc) (s : State) (tg : Bool) (v : W32), Issued k g 0x5D src s → tg = runsTagged s k → v = moveValue s k src → tg = false → exec (.tagTocode k g src) s = .next (moved k src (fun c => { c with res := { c.res with tag := mkTagged 2 v.toNat } }) s)) ∧
  (∀ (k : CoreIx) (g : BitVec 4) (src : MoveSrc) (s : State) (tg : Bool) (v : W32), Issued k g 0x5C src s → tg = runsTagged s k → v = moveValue s k src → tg = true → exec (.tagToptr k g src) s = .next (trap k { cause := 0x08, port := 0x5C, tag := tagOf v + 56, addr := 0 } s)) ∧
  (∀ (k : CoreIx) (g : BitVec 4) (src : MoveSrc) (s : State) (tg : Bool) (v : W32), Issued k g 0x5D src s → tg = runsTagged s k → v = moveValue s k src → tg = true → exec (.tagTocode k g src) s = .next (trap k { cause := 0x08, port := 0x5D, tag := tagOf v + 56, addr := 0 } s)) ∧
  (∀ (k : CoreIx) (g : BitVec 4) (src : MoveSrc) (s : State) (tg : Bool) (v : W32), Issued k g 0x5B src s → tg = runsTagged s k → v = moveValue s k src → (v.toInt < -(2 ^ 28 : Int) ∨ 2 ^ 28 - 1 < v.toInt) → exec (.tagWrapInt k g src) s = .next (trap k { cause := 0x08, port := 0x5B, tag := tagOf v, addr := 0 } s)) ∧
  (∀ (k : CoreIx) (g : BitVec 4) (src : MoveSrc) (s : State) (tg : Bool) (v : W32), Issued k g 0x88 src s → tg = runsTagged s k → v = moveValue s k src → exec (.tmrSampleSc k g src) s = .next (moved k src (fun c => { c with res := { c.res with tmrLo := BitVec.ofNat 32 (s.time.symbolCount.toNat % 2 ^ 28), tmrMid := BitVec.ofNat 32 (s.time.symbolCount.toNat / 2 ^ 28 % 2 ^ 28), tmrHi := BitVec.ofNat 32 (s.time.symbolCount.toNat / 2 ^ 56) } }) s)) ∧
  (∀ (k : CoreIx) (g : BitVec 4) (src : MoveSrc) (s : State) (tg : Bool) (v : W32), Issued k g 0x89 src s → tg = runsTagged s k → v = moveValue s k src → exec (.tmrSampleKc k g src) s = .next (moved k src (fun c => { c with res := { c.res with tmrLo := BitVec.ofNat 32 (c.kclk.toNat % 2 ^ 28), tmrMid := BitVec.ofNat 32 (c.kclk.toNat / 2 ^ 28 % 2 ^ 28), tmrHi := BitVec.ofNat 32 (c.kclk.toNat / 2 ^ 56) } }) s)) ∧
  (∀ (k : CoreIx) (g : BitVec 4) (src : MoveSrc) (s : State) (tg : Bool) (v : W32), Issued k g 0x8A src s → tg = runsTagged s k → v = moveValue s k src → (tg = true → tagOf v = 0) → exec (.tmrDelay k g src) s = .next (moved k src (fun c => { c with tmr := true, tmrEnd := c.kclk + BitVec.ofNat 64 (unsignedIn tg v) }) s)) ∧
  (∀ (k : CoreIx) (s : State), s.cores[k].tmr = true → issues s k = true → s.cores[k].tmrEnd.toNat ≤ s.cores[k].kclk.toNat →
    exec (.tmrDelayDone k) s = .next (setCore k (fun c => { c with
      tmr := false, res := { c.res with tmrLo := 0, tmrMid := 0, tmrHi := 0 } }) s))

/-- CSR.READ delivers the registers of Table 20-12, CSR.WRITE writes those that can be written. Every issued CSR.READ and
CSR.WRITE completes, whatever register number it takes: the value of a register that is read, a value that the spec does
not state of one that is only written, and the effect of a write. For an issued move: CSR.READ delivers CORE_ID, MODE, FAULT, the stack depths after the source was read, FAULT_VECTOR as CODE (0 on core 2;
0 while nothing has set it is the model's choice, log entry 10) and the eight trap records with their tags; a number
that the table does not list gives POISON. CSR.WRITE sets FAULT_VECTOR once, restarts the watchdog, asks for the
restart in fault mode on cores 0, 1 and 3, and every other write changes nothing but the PC and a popped stack. Drawn
from: R507, R509, R539. The model's own choices that it rests on: log entries 10, 52. -/
def Obligations.ControlAndStatusRegisters : Prop :=
  (∀ (k : CoreIx) (g : BitVec 4) (src : MoveSrc) (s : State) (n : Nat), Issued k g 0x91 src s →
    n = unsignedIn (runsTagged s k) (moveValue s k src) →
    (n ≠ 0x06 ∧ n ≠ 0x07 → exec (.csrRead k g src) s = .next (moved k src (fun c =>
      { c with res := { c.res with csr := csrValue k (runsTagged s k) n c } }) s)) ∧
    (n = 0x06 ∨ n = 0x07 → ∃ v : W32, exec (.csrRead k g src) s = .next (moved k src (fun c =>
      { c with res := { c.res with csr := v } }) { s with free := s.free + 1 }))) ∧
  (∀ (k : CoreIx) (g : BitVec 4) (src : MoveSrc) (s : State), Issued k g 0x92 src s → exec (.csrWrite k g src) s =
    .next (moved k src (csrWrite k (unsignedIn (runsTagged s k) (moveValue s k src))) s)) ∧
  (∀ (k : CoreIx) (g : BitVec 4) (src : MoveSrc) (s : State) (tg : Bool), Issued k g 0x91 src s → tg = runsTagged s k → unsignedIn tg (moveValue s k src) = 0x00 → exec (.csrRead k g src) s = .next (moved k src (fun c => { c with res := { c.res with csr := mkVal tg 0 k.val } }) s)) ∧
  (∀ (k : CoreIx) (g : BitVec 4) (src : MoveSrc) (s : State) (tg : Bool), Issued k g 0x91 src s → tg = runsTagged s k → unsignedIn tg (moveValue s k src) = 0x01 → exec (.csrRead k g src) s = .next (moved k src (fun c => { c with res := { c.res with csr := if tg then 1 else 0 } }) s)) ∧
  (∀ (k : CoreIx) (g : BitVec 4) (src : MoveSrc) (s : State) (tg : Bool), Issued k g 0x91 src s → tg = runsTagged s k → unsignedIn tg (moveValue s k src) = 0x02 → exec (.csrRead k g src) s = .next (moved k src (fun c => { c with res := { c.res with csr := if c.state = .faultMode then 1 else 0 } }) s)) ∧
  (∀ (k : CoreIx) (g : BitVec 4) (src : MoveSrc) (s : State) (tg : Bool), Issued k g 0x91 src s → tg = runsTagged s k → unsignedIn tg (moveValue s k src) = 0x03 → exec (.csrRead k g src) s = .next (moved k src (fun c => { c with res := { c.res with csr := mkVal tg 0 c.dstack.length } }) s)) ∧
  (∀ (k : CoreIx) (g : BitVec 4) (src : MoveSrc) (s : State) (tg : Bool), Issued k g 0x91 src s → tg = runsTagged s k → unsignedIn tg (moveValue s k src) = 0x04 → exec (.csrRead k g src) s = .next (moved k src (fun c => { c with res := { c.res with csr := mkVal tg 0 c.rstack.length } }) s)) ∧
  (∀ (k : CoreIx) (g : BitVec 4) (src : MoveSrc) (s : State) (tg : Bool), Issued k g 0x91 src s → tg = runsTagged s k → unsignedIn tg (moveValue s k src) = 0x05 → k ≠ 2 → exec (.csrRead k g src) s = .next (moved k src (fun c => { c with res := { c.res with csr := mkVal tg 2 (payload (c.faultVector.getD 0)) } }) s)) ∧
  (∀ (k : CoreIx) (g : BitVec 4) (src : MoveSrc) (s : State) (tg : Bool), Issued k g 0x91 src s → tg = runsTagged s k → unsignedIn tg (moveValue s k src) = 0x05 → k = 2 → exec (.csrRead k g src) s = .next (moved k src (fun c => { c with res := { c.res with csr := 0 } }) s)) ∧
  (∀ (k : CoreIx) (g : BitVec 4) (src : MoveSrc) (s : State) (tg : Bool), Issued k g 0x91 src s → tg = runsTagged s k → unsignedIn tg (moveValue s k src) = 0x10 → exec (.csrRead k g src) s = .next (moved k src (fun c => { c with res := { c.res with csr := mkVal tg 0 c.trap.cause.toNat } }) s)) ∧
  (∀ (k : CoreIx) (g : BitVec 4) (src : MoveSrc) (s : State) (tg : Bool), Issued k g 0x91 src s → tg = runsTagged s k → unsignedIn tg (moveValue s k src) = 0x11 → exec (.csrRead k g src) s = .next (moved k src (fun c => { c with res := { c.res with csr := mkVal tg 2 c.trap.pc.toNat } }) s)) ∧
  (∀ (k : CoreIx) (g : BitVec 4) (src : MoveSrc) (s : State) (tg : Bool), Issued k g 0x91 src s → tg = runsTagged s k → unsignedIn tg (moveValue s k src) = 0x12 → exec (.csrRead k g src) s = .next (moved k src (fun c => { c with res := { c.res with csr := mkVal tg 0 c.trap.slot.toNat } }) s)) ∧
  (∀ (k : CoreIx) (g : BitVec 4) (src : MoveSrc) (s : State) (tg : Bool), Issued k g 0x91 src s → tg = runsTagged s k → unsignedIn tg (moveValue s k src) = 0x13 → exec (.csrRead k g src) s = .next (moved k src (fun c => { c with res := { c.res with csr := mkVal tg 0 c.trap.port.toNat } }) s)) ∧
  (∀ (k : CoreIx) (g : BitVec 4) (src : MoveSrc) (s : State) (tg : Bool), Issued k g 0x91 src s → tg = runsTagged s k → unsignedIn tg (moveValue s k src) = 0x14 → exec (.csrRead k g src) s = .next (moved k src (fun c => { c with res := { c.res with csr := mkVal tg 0 c.trap.tag.toNat } }) s)) ∧
  (∀ (k : CoreIx) (g : BitVec 4) (src : MoveSrc) (s : State) (tg : Bool), Issued k g 0x91 src s → tg = runsTagged s k → unsignedIn tg (moveValue s k src) = 0x15 → exec (.csrRead k g src) s = .next (moved k src (fun c => { c with res := { c.res with csr := mkVal tg 4 c.trap.addr.toNat } }) s)) ∧
  (∀ (k : CoreIx) (g : BitVec 4) (src : MoveSrc) (s : State) (tg : Bool), Issued k g 0x91 src s → tg = runsTagged s k → unsignedIn tg (moveValue s k src) = 0x16 → exec (.csrRead k g src) s = .next (moved k src (fun c => { c with res := { c.res with csr := mkVal tg 0 c.trap.ddepth.toNat } }) s)) ∧
  (∀ (k : CoreIx) (g : BitVec 4) (src : MoveSrc) (s : State) (tg : Bool), Issued k g 0x91 src s → tg = runsTagged s k → unsignedIn tg (moveValue s k src) = 0x17 → exec (.csrRead k g src) s = .next (moved k src (fun c => { c with res := { c.res with csr := mkVal tg 0 c.trap.rdepth.toNat } }) s)) ∧
  (∀ (k : CoreIx) (g : BitVec 4) (src : MoveSrc) (s : State) (n : Nat), Issued k g 0x91 src s → n = unsignedIn (runsTagged s k) (moveValue s k src) → 7 < n → (n < 0x10 ∨ 0x17 < n) →
    exec (.csrRead k g src) s = .next (moved k src (fun c => { c with res := { c.res with csr := poison } }) s)) ∧
  (∀ (k : CoreIx) (g : BitVec 4) (src : MoveSrc) (s : State), Issued k g 0x92 src s → unsignedIn (runsTagged s k) (moveValue s k src) = 0x05 → k ≠ 2 → s.cores[k].faultVector = none → exec (.csrWrite k g src) s = .next (moved k src (fun c => { c with faultVector := some c.ops.csrData }) s)) ∧
  (∀ (k : CoreIx) (g : BitVec 4) (src : MoveSrc) (s : State), Issued k g 0x92 src s → unsignedIn (runsTagged s k) (moveValue s k src) = 0x05 → (k = 2 ∨ s.cores[k].faultVector ≠ none) → exec (.csrWrite k g src) s = .next (moved k src (fun c => c) s)) ∧
  (∀ (k : CoreIx) (g : BitVec 4) (src : MoveSrc) (s : State), Issued k g 0x92 src s → unsignedIn (runsTagged s k) (moveValue s k src) = 0x06 → exec (.csrWrite k g src) s = .next (moved k src (fun c => { c with wdogAt := c.kclk }) s)) ∧
  (∀ (k : CoreIx) (g : BitVec 4) (src : MoveSrc) (s : State), Issued k g 0x92 src s → unsignedIn (runsTagged s k) (moveValue s k src) = 0x07 → k ≠ 2 → s.cores[k].state = .faultMode → s.cores[k].ops.csrData = 1 → exec (.csrWrite k g src) s = .next (moved k src (fun c => { c with state := .restarting }) s)) ∧
  (∀ (k : CoreIx) (g : BitVec 4) (src : MoveSrc) (s : State), Issued k g 0x92 src s → unsignedIn (runsTagged s k) (moveValue s k src) = 0x07 → (k = 2 ∨ s.cores[k].state ≠ .faultMode ∨ s.cores[k].ops.csrData ≠ 1) → exec (.csrWrite k g src) s = .next (moved k src (fun c => c) s)) ∧
  (∀ (k : CoreIx) (g : BitVec 4) (src : MoveSrc) (s : State) (n : Nat), Issued k g 0x92 src s → n = unsignedIn (runsTagged s k) (moveValue s k src) → (n < 5 ∨ 7 < n) →
    exec (.csrWrite k g src) s = .next (moved k src (fun c => c) s))

/-- Loads give the bytes at the effective address, stores write LSU.DATA there, LEA gives the address. For an issued move
whose LSU.BASE is PTR and whose offset is INT on a TAGGED page and whose access Table 19-4 and the alignment allow:
with a the effective address, a load puts the word, byte or half-word at a, little-endian, sign- or zero-extended, in
LSU.OUT; a store writes the low 4, 1 or 2 bytes of LSU.DATA at a and puts a in LSU.OUT as PTR; LEA puts a in LSU.OUT
without those checks. The bytes are those of the region that a names. Drawn from: R500, R503, R529. The model's own
choices that it rests on: log entries 4, 10, 11. -/
def Obligations.LoadsAndStoresOfACore : Prop :=
  (∀ (k : CoreIx) (g : BitVec 4) (src : MoveSrc) (s u : State) (tg : Bool) (v : W32) (a : Nat), Issued k g 0x3A src s →
    tg = runsTagged s k → v = moveValue s k src → u = setCore k (fun c => (readSource c src).2) s →
    (tg = true → tagOf s.cores[k].ops.lsuBase = 1 ∧ tagOf v = 0) → a = effAddr tg s.cores[k].ops.lsuBase v → accessTrap s.cores[k] k tg 0x3A 4 a = none →
    exec (.lsuLdw k g src) s = .next (setCore k (fun c => nextPc { c with res := { c.res with lsu := BitVec.ofNat 32 (leNat (localRead k a 4 u).1) } }) (localRead k a 4 u).2)) ∧
  (∀ (k : CoreIx) (g : BitVec 4) (src : MoveSrc) (s u : State) (tg : Bool) (v : W32) (a : Nat), Issued k g 0x3C src s →
    tg = runsTagged s k → v = moveValue s k src → u = setCore k (fun c => (readSource c src).2) s →
    (tg = true → tagOf s.cores[k].ops.lsuBase = 1 ∧ tagOf v = 0) → a = effAddr tg s.cores[k].ops.lsuBase v → accessTrap s.cores[k] k tg 0x3C 1 a = none →
    exec (.lsuLdb k g src) s = .next (setCore k (fun c => nextPc { c with res := { c.res with lsu := BitVec.ofInt 32 (signedOf 8 (leNat (localRead k a 1 u).1)) } }) (localRead k a 1 u).2)) ∧
  (∀ (k : CoreIx) (g : BitVec 4) (src : MoveSrc) (s u : State) (tg : Bool) (v : W32) (a : Nat), Issued k g 0x3D src s →
    tg = runsTagged s k → v = moveValue s k src → u = setCore k (fun c => (readSource c src).2) s →
    (tg = true → tagOf s.cores[k].ops.lsuBase = 1 ∧ tagOf v = 0) → a = effAddr tg s.cores[k].ops.lsuBase v → accessTrap s.cores[k] k tg 0x3D 1 a = none →
    exec (.lsuLdbu k g src) s = .next (setCore k (fun c => nextPc { c with res := { c.res with lsu := BitVec.ofNat 32 (leNat (localRead k a 1 u).1) } }) (localRead k a 1 u).2)) ∧
  (∀ (k : CoreIx) (g : BitVec 4) (src : MoveSrc) (s u : State) (tg : Bool) (v : W32) (a : Nat), Issued k g 0x3E src s →
    tg = runsTagged s k → v = moveValue s k src → u = setCore k (fun c => (readSource c src).2) s →
    (tg = true → tagOf s.cores[k].ops.lsuBase = 1 ∧ tagOf v = 0) → a = effAddr tg s.cores[k].ops.lsuBase v → accessTrap s.cores[k] k tg 0x3E 2 a = none →
    exec (.lsuLdh k g src) s = .next (setCore k (fun c => nextPc { c with res := { c.res with lsu := BitVec.ofInt 32 (signedOf 16 (leNat (localRead k a 2 u).1)) } }) (localRead k a 2 u).2)) ∧
  (∀ (k : CoreIx) (g : BitVec 4) (src : MoveSrc) (s u : State) (tg : Bool) (v : W32) (a : Nat), Issued k g 0x3F src s →
    tg = runsTagged s k → v = moveValue s k src → u = setCore k (fun c => (readSource c src).2) s →
    (tg = true → tagOf s.cores[k].ops.lsuBase = 1 ∧ tagOf v = 0) → a = effAddr tg s.cores[k].ops.lsuBase v → accessTrap s.cores[k] k tg 0x3F 2 a = none →
    exec (.lsuLdhu k g src) s = .next (setCore k (fun c => nextPc { c with res := { c.res with lsu := BitVec.ofNat 32 (leNat (localRead k a 2 u).1) } }) (localRead k a 2 u).2)) ∧
  (∀ (k : CoreIx) (g : BitVec 4) (src : MoveSrc) (s u : State) (tg : Bool) (v : W32) (a : Nat), Issued k g 0x3B src s →
    tg = runsTagged s k → v = moveValue s k src → u = setCore k (fun c => (readSource c src).2) s →
    (tg = true → tagOf s.cores[k].ops.lsuBase = 1 ∧ tagOf v = 0) → a = effAddr tg s.cores[k].ops.lsuBase v → accessTrap s.cores[k] k tg 0x3B 4 a = none →
    exec (.lsuStw k g src) s = .next (setCore k (fun c => nextPc { c with res := { c.res with lsu := mkVal tg 1 a } })
      (localWrite k a (leBytes 4 s.cores[k].ops.lsuData.toNat) u))) ∧
  (∀ (k : CoreIx) (g : BitVec 4) (src : MoveSrc) (s u : State) (tg : Bool) (v : W32) (a : Nat), Issued k g 0x40 src s →
    tg = runsTagged s k → v = moveValue s k src → u = setCore k (fun c => (readSource c src).2) s →
    (tg = true → tagOf s.cores[k].ops.lsuBase = 1 ∧ tagOf v = 0) → a = effAddr tg s.cores[k].ops.lsuBase v → accessTrap s.cores[k] k tg 0x40 1 a = none →
    exec (.lsuStb k g src) s = .next (setCore k (fun c => nextPc { c with res := { c.res with lsu := mkVal tg 1 a } })
      (localWrite k a (leBytes 1 s.cores[k].ops.lsuData.toNat) u))) ∧
  (∀ (k : CoreIx) (g : BitVec 4) (src : MoveSrc) (s u : State) (tg : Bool) (v : W32) (a : Nat), Issued k g 0x41 src s →
    tg = runsTagged s k → v = moveValue s k src → u = setCore k (fun c => (readSource c src).2) s →
    (tg = true → tagOf s.cores[k].ops.lsuBase = 1 ∧ tagOf v = 0) → a = effAddr tg s.cores[k].ops.lsuBase v → accessTrap s.cores[k] k tg 0x41 2 a = none →
    exec (.lsuSth k g src) s = .next (setCore k (fun c => nextPc { c with res := { c.res with lsu := mkVal tg 1 a } })
      (localWrite k a (leBytes 2 s.cores[k].ops.lsuData.toNat) u))) ∧
  (∀ (k : CoreIx) (g : BitVec 4) (src : MoveSrc) (s u : State) (tg : Bool) (v : W32) (a : Nat), Issued k g 0x42 src s →
    tg = runsTagged s k → v = moveValue s k src → u = setCore k (fun c => (readSource c src).2) s →
    (tg = true → tagOf s.cores[k].ops.lsuBase = 1 ∧ tagOf v = 0) → a = effAddr tg s.cores[k].ops.lsuBase v → exec (.lsuLea k g src) s = .next (moved k src (fun c => { c with res := { c.res with lsu := mkVal tg 1 a } }) s)) ∧
  (∀ (k : CoreIx) (a n : Nat) (s : State),
    (regionOf k a = some .data → localRead k a n s = (memReadN (dataDefault s.cores[k].dataTagged) s.cores[k].dataRam a n, s)) ∧
    (regionOf k a = some .shared → localRead k a n s = (memReadN zeroByte s.xshared.shared (a - 0x200000) n, s)) ∧
    (regionOf k a = some .exchange → localRead k a n s = (memReadN zeroByte s.xshared.exchange (a - 0x300000) n, s)))

/-- RECV, ARG16, COMPLETE, SUBMIT, WAIT, EVENT and FETCH of the mailbox unit take effect. For an issued move with the tags
of Table 20-11, on core 2 from a TAGGED page: RECV waits for a command, whose delivery gives a fresh HANDLE; ARG16
gives a 16-bit field of the descriptor, or of the completion entry of a submission, and POISON outside it; COMPLETE
writes the completion with the operands' result, detail and flags and takes the handle away; SUBMIT admits a
descriptor of data RAM under a command, for the extension only the allowed ones; WAIT waits and ends with the status;
EVENT posts; FETCH takes the oldest descriptor of a ring or -1. Drawn from: R512, R513, R533, R534. The model's own
choices that it rests on: log entries 10, 54. -/
def Obligations.MailboxUnitOfACore : Prop :=
  (∀ (k : CoreIx) (g : BitVec 4) (src : MoveSrc) (s u : State) (tg : Bool) (v : W32), Issued k g 0x64 src s →
    tg = runsTagged s k → v = moveValue s k src → u = setCore k (fun c => (readSource c src).2) s →
    (k = 2 → tg = true) → exec (.mbxRecv k g src) s = .next (moved k src (fun c => { c with mbx := .receiving }) s)) ∧
  (∀ (k : CoreIx) (s : State) (n : RingIx) (f : Fetched), s.cores[k].mbx = .receiving → issues s k = true → k ≠ 2 →
    firmwareRuns s = true → nextRouted s k = some (n, f) →
    exec (.mbxRecvDelivery k) s = .next (handOver k n f (setCore k (fun c => { c with mbx := .idle }) (dispatch n f s)))) ∧
  (∀ (s : State) (n : RingIx) (f : Fetched) (r : List (RingIx × Fetched)), s.cores[(2 : CoreIx)].mbx = .receiving → issues s 2 = true →
    s.cores[(2 : CoreIx)].routed = (n, f) :: r →
    exec (.mbxRecvDelivery 2) s = .next (handOver 2 n f (setCore 2 (fun c => { c with mbx := .idle, routed := r }) s))) ∧
  (∀ (k : CoreIx) (n : RingIx) (f : Fetched) (s : State), handOver k n f s = setCore k (fun c => { c with
      handles := c.handles ++ [{ ref := BitVec.ofNat 29 c.nextRef, ring := n, cmd := f }], nextRef := c.nextRef + 1,
      res := { c.res with mbx := mkTagged 3 (BitVec.ofNat 29 c.nextRef).toNat } }) s) ∧
  (∀ (k : CoreIx) (g : BitVec 4) (src : MoveSrc) (s u : State) (tg : Bool) (v : W32) (h : CmdHandle), Issued k g 0x65 src s →
    tg = runsTagged s k → v = moveValue s k src → u = setCore k (fun c => (readSource c src).2) s →
    (k = 2 → tg = true) → (tg = true → tagOf s.cores[k].ops.mbxH = 3) → (tg = true → tagOf v = 0) →
    handleOf s.cores[k] s.cores[k].ops.mbxH = some h → exec (.mbxArg16 k g src) s = .next (moved k src (fun c => { c with res := { c.res with mbx := argField h.cmd.desc.bytes (signedIn tg v) } }) s)) ∧
  (∀ (k : CoreIx) (g : BitVec 4) (src : MoveSrc) (s u : State) (tg : Bool) (v : W32) (x : Submission) (e : Entry), Issued k g 0x65 src s →
    tg = runsTagged s k → v = moveValue s k src → u = setCore k (fun c => (readSource c src).2) s →
    (k = 2 → tg = true) → (tg = true → tagOf s.cores[k].ops.mbxH = 3) → (tg = true → tagOf v = 0) →
    handleOf s.cores[k] s.cores[k].ops.mbxH = none → submissionOf s.cores[k] s.cores[k].ops.mbxH = some x → x.done = some e →
    exec (.mbxArg16 k g src) s = .next (moved k src (fun c => { c with res := { c.res with mbx := argField (entryBytes s.rings[x.ring] e) (signedIn tg v) } }) s)) ∧
  (∀ (bs : List Byte) (o : Nat), o + 2 ≤ bs.length → o % 2 = 0 → argField bs o = BitVec.ofNat 32 (field bs o 2)) ∧
  (∀ (bs : List Byte) (o : Int), (o < 0 ∨ (bs.length : Int) < o + 2 ∨ o % 2 ≠ 0) → argField bs o = poison) ∧
  (∀ (k : CoreIx) (g : BitVec 4) (src : MoveSrc) (s u : State) (tg : Bool) (v : W32) (h : CmdHandle), Issued k g 0x66 src s →
    tg = runsTagged s k → v = moveValue s k src → u = setCore k (fun c => (readSource c src).2) s →
    (k = 2 → tg = true) → (tg = true → tagOf s.cores[k].ops.mbxH = 3) → (tg = true → (tagOf s.cores[k].ops.mbxResult = 0 ∨ tagOf s.cores[k].ops.mbxResult = 4) ∧
      tagOf s.cores[k].ops.mbxReshi = 0 ∧ tagOf s.cores[k].ops.mbxDetail = 0 ∧ tagOf v = 0) →
    (k = 2 → forbiddenStatus v = false) → handleOf s.cores[k] s.cores[k].ops.mbxH = some h →
    exec (.mbxComplete k g src) s = .next (setCore k nextPc (complete h.ring h.cmd (mbxReply k v s.cores[k].ops) (setCore k (fun c => { c with
      handles := c.handles.filter (fun x => decide (x.ref ≠ h.ref)),
      subs := c.subs.filter (fun x => decide (x.parent ≠ h.ref) || x.done.isNone),
      res := { c.res with mbx := 0 } }) u)))) ∧
  (∀ (k : CoreIx) (v : W32) (o : Operands) (r : Reply), r = mbxReply k v o → r.code = v.setWidth 16 ∧
    r.result = BitVec.ofNat 32 (payload o.mbxReshi % 8 * 2 ^ 29 + payload o.mbxResult) ∧ r.detail = o.mbxDetail.setWidth 16 ∧
    (k = 2 → r.epoch = 0 ∧ r.stale = false ∧ r.more = false) ∧
    (k ≠ 2 → r.epoch = BitVec.ofNat 16 (payload o.mbxFlags) ∧ r.stale = (payload o.mbxFlags).testBit 16 ∧
      r.more = (payload o.mbxFlags).testBit 17)) ∧
  (∀ (k : CoreIx) (g : BitVec 4) (src : MoveSrc) (s u : State) (tg : Bool) (v : W32) (h : CmdHandle) (a : Nat), Issued k g 0x67 src s →
    tg = runsTagged s k → v = moveValue s k src → u = setCore k (fun c => (readSource c src).2) s →
    (k = 2 → tg = true) → (tg = true → tagOf s.cores[k].ops.mbxH = 3) → (tg = true → tagOf v = 1) → a = unsignedIn tg v → a + 64 ≤ 0x20000 → a % 64 = 0 →
    handleOf s.cores[k] s.cores[k].ops.mbxH = some h → exec (.mbxSubmit k g src) s = .next (setCore k nextPc (submit k h { bytes := (localRead k a 64 u).1 } u))) ∧
  (∀ (k : CoreIx) (h : CmdHandle) (d : Descriptor) (s : State) (x : Submission),
    x = { ref := BitVec.ofNat 29 s.cores[k].nextRef, parent := h.ref, ring := h.ring, id := s.nextId, done := none } →
    (k = 2 → maySubmit d.opcode = true ∧
      (s.cores[k].subs.filter (fun y => decide (y.parent = h.ref) && y.done.isNone)).length < 16) →
    submit k h d s = admitOne h.ring 0 (setCore k (fun c => { c with
      subs := c.subs ++ [x], nextRef := c.nextRef + 1,
      res := { c.res with mbx := mkTagged 3 x.ref.toNat } }) s) d) ∧
  (∀ (h : CmdHandle) (d : Descriptor) (s : State), maySubmit d.opcode = false →
    ∃ x, (submit 2 h d s) = setCore 2 (fun c => { c with
      subs := c.subs ++ [x], nextRef := c.nextRef + 1, res := { c.res with mbx := mkTagged 3 x.ref.toNat } }) { s with nextId := s.nextId + 1 } ∧
      x.done = some ((Reply.of codeStateIllegal).entry d) ∧ x.parent = h.ref) ∧
  (∀ (k : CoreIx) (g : BitVec 4) (src : MoveSrc) (s u : State) (tg : Bool) (v : W32) (x : Submission), Issued k g 0x68 src s →
    tg = runsTagged s k → v = moveValue s k src → u = setCore k (fun c => (readSource c src).2) s →
    (k = 2 → tg = true) → (tg = true → tagOf v = 3) → submissionOf s.cores[k] v = some x →
    exec (.mbxWait k g src) s = .next (moved k src (fun c => { c with mbx := .waiting (BitVec.ofNat 29 (payload v)) }) s)) ∧
  (∀ (k : CoreIx) (s : State) (ref : BitVec 29) (x : Submission) (e : Entry), s.cores[k].mbx = .waiting ref → issues s k = true →
    s.cores[k].subs.find? (fun x => decide (x.ref = ref)) = some x → x.done = some e →
    exec (.mbxWaitDone k) s = .next (setCore k (fun c => { c with
      mbx := .idle, res := { c.res with mbx := e.status.setWidth 32 } }) s)) ∧
  (∀ (k : CoreIx) (g : BitVec 4) (src : MoveSrc) (s u : State) (tg : Bool) (v : W32), Issued k g 0x69 src s →
    tg = runsTagged s k → v = moveValue s k src → u = setCore k (fun c => (readSource c src).2) s →
    (tg = true → tagOf s.cores[k].ops.mbxDetail = 0 ∧ tagOf v = 0) →
    exec (.mbxEvent k g src) s = .next (setCore k (fun c => nextPc { c with res := { c.res with mbx := 0 } })
      (event (v.setWidth 16) (s.cores[k].ops.mbxDetail.setWidth 16) 0 u))) ∧
  (∀ (k : CoreIx) (g : BitVec 4) (src : MoveSrc) (s u : State) (tg : Bool) (v : W32) (n : RingIx), Issued k g 0x6A src s →
    tg = runsTagged s k → v = moveValue s k src → u = setCore k (fun c => (readSource c src).2) s →
    (tg = true → tagOf v = 0) → unsignedIn tg v = n.val →
    (∀ f, nextFor (fun _ => true) n s = some f → exec (.mbxFetch k g src) s = .next (setCore k nextPc (handOver k n f (dispatch n f u)))) ∧
    (nextFor (fun _ => true) n s = none → exec (.mbxFetch k g src) s = .next (moved k src (fun c => { c with res := { c.res with mbx := intVal tg (-1) } }) s)))

/-- XFR.READ and XFR.WRITE start a transfer or give ARG_RANGE; a transfer that ends moves its bytes or leaves local memory
as it was. For an issued move with XFR.LOCAL PTR on a TAGGED page: a length of 4 to 65536 bytes in words, a word-
aligned local range in one region and a far DADDR in range start a transfer; anything else puts ARG_RANGE in XFR.OUT
and starts none. A transfer that fails puts INT_TRANSFER in XFR.OUT and changes no memory; a write carries the local
bytes to the DADDR, a read the far bytes into local memory, unless the access fails, whose code is then the result. A
discarded transfer leaves XFR.OUT. Drawn from: R311, R536, R541. The model's own choices that it rests on: log entries
10, 55. -/
def Obligations.TransferUnitOfACore : Prop :=
  (∀ (k : CoreIx) (g : BitVec 4) (src : MoveSrc) (s u : State) (tg : Bool) (v : W32) (a n : Nat), Issued k g 0x76 src s →
    tg = runsTagged s k → v = moveValue s k src → u = setCore k (fun c => (readSource c src).2) s →
    (tg = true → tagOf s.cores[k].ops.xfrLocal = 1) → a = xaddr tg s.cores[k].ops.xfrLocal → n = xaddr tg s.cores[k].ops.xfrLen →
    4 ≤ n → n ≤ 65536 → n % 4 = 0 → localRange k a n = true → farBad s (farAddr s.cores[k].ops) n = false →
    exec (.xfrRead k g src) s = .next (moved k src (fun c => { c with
      xfr := some { write := false, localAddr := a, far := BitVec.ofNat 64 (farAddr s.cores[k].ops), len := n, discard := false } }) s)) ∧
  (∀ (k : CoreIx) (g : BitVec 4) (src : MoveSrc) (s u : State) (tg : Bool) (v : W32) (a n : Nat), Issued k g 0x76 src s →
    tg = runsTagged s k → v = moveValue s k src → u = setCore k (fun c => (readSource c src).2) s →
    (tg = true → tagOf s.cores[k].ops.xfrLocal = 1) → a = xaddr tg s.cores[k].ops.xfrLocal → n = xaddr tg s.cores[k].ops.xfrLen →
    (n < 4 ∨ 65536 < n ∨ n % 4 ≠ 0 ∨ localRange k a n = false ∨ farBad s (farAddr s.cores[k].ops) n = true) →
    exec (.xfrRead k g src) s = .next (moved k src (fun c => { c with res := { c.res with xfr := codeArgRange.setWidth 32 } }) s)) ∧
  (∀ (k : CoreIx) (g : BitVec 4) (src : MoveSrc) (s u : State) (tg : Bool) (v : W32) (a n : Nat), Issued k g 0x77 src s →
    tg = runsTagged s k → v = moveValue s k src → u = setCore k (fun c => (readSource c src).2) s →
    (tg = true → tagOf s.cores[k].ops.xfrLocal = 1) → a = xaddr tg s.cores[k].ops.xfrLocal → n = xaddr tg s.cores[k].ops.xfrLen →
    4 ≤ n → n ≤ 65536 → n % 4 = 0 → localRange k a n = true → farBad s (farAddr s.cores[k].ops) n = false →
    exec (.xfrWrite k g src) s = .next (moved k src (fun c => { c with
      xfr := some { write := true, localAddr := a, far := BitVec.ofNat 64 (farAddr s.cores[k].ops), len := n, discard := false } }) s)) ∧
  (∀ (k : CoreIx) (g : BitVec 4) (src : MoveSrc) (s u : State) (tg : Bool) (v : W32) (a n : Nat), Issued k g 0x77 src s →
    tg = runsTagged s k → v = moveValue s k src → u = setCore k (fun c => (readSource c src).2) s →
    (tg = true → tagOf s.cores[k].ops.xfrLocal = 1) → a = xaddr tg s.cores[k].ops.xfrLocal → n = xaddr tg s.cores[k].ops.xfrLen →
    (n < 4 ∨ 65536 < n ∨ n % 4 ≠ 0 ∨ localRange k a n = false ∨ farBad s (farAddr s.cores[k].ops) n = true) →
    exec (.xfrWrite k g src) s = .next (moved k src (fun c => { c with res := { c.res with xfr := codeArgRange.setWidth 32 } }) s)) ∧
  (∀ (k : CoreIx) (s : State) (x : Transfer), s.cores[k].xfr = some x →
    exec (.xfrDone k true) s = .next (setCore k (fun c => { c with xfr := none, res := { c.res with xfr := if x.discard then c.res.xfr else codeIntTransfer.setWidth 32 } }) s) ∧
    (x.write = true → exec (.xfrDone k false) s = .next (setCore k (fun c => { c with xfr := none, res := { c.res with xfr := if x.discard then c.res.xfr else ((writeFails s x.far.toNat x.len).getD codeOk).setWidth 32 } }) 
      (daddrWrite x.far.toNat (localRead k x.localAddr x.len s).1 s))) ∧
    (∀ e, x.write = false → readFails s x.far.toNat x.len = some e → exec (.xfrDone k false) s = .next (setCore k (fun c => { c with xfr := none, res := { c.res with xfr := if x.discard then c.res.xfr else e.setWidth 32 } }) s)) ∧
    (x.write = false → readFails s x.far.toNat x.len = none → exec (.xfrDone k false) s =
      .next (setCore k (fun c => { c with xfr := none, res := { c.res with xfr := if x.discard then c.res.xfr else codeOk.setWidth 32 } }) (localWrite k x.localAddr (daddrRead s x.far.toNat x.len) s))))

/-- FLS.READ, PROGRAM, ERASE and MARGIN act on the array or give the code that refuses them; POLL reports. For an issued
move with FLS.LOCAL PTR on a TAGGED page where it is used: a read inside its partition brings the flash bytes into
local memory with status OK, a bad array, length or local range gives ARG_RANGE; a program inside one program unit, an
erase of an erase unit and a margin read go to the controller of the array; a program or erase of protected bytes
gives ARG_RANGE, in the bank of a fetch address NVM_SAME_BANK, outside the temperature range NVM_TEMP, and starts
nothing. POLL gives -1 while an operation runs, else its status. Drawn from: R410, R412, R418, R426, R537. The model's
own choices that it rests on: log entries 10, 55. -/
def Obligations.FlashUnitOfACore : Prop :=
  (∀ (k : CoreIx) (g : BitVec 4) (src : MoveSrc) (s u : State) (tg : Bool) (v : W32) (a n : Nat) (arr : FlashArray) (f e : Nat), Issued k g 0x7D src s →
    tg = runsTagged s k → v = moveValue s k src → u = setCore k (fun c => (readSource c src).2) s →
    (tg = true → tagOf s.cores[k].ops.flsLocal = 1) → a = xaddr tg s.cores[k].ops.flsLocal → n = xaddr tg s.cores[k].ops.flsLen →
    flsTarget s.cores[k] = some (arr, f, e) → n ≠ 0 → f + n ≤ e → localRange k a n = true →
    (arr = .archive → s.flash.archDead = false) → exec (.flsRead k g src) s = .next (setCore k (fun c => nextPc { c with flsStatus := codeOk.setWidth 32, res := { c.res with fls := codeOk.setWidth 32 } })
      (localWrite k a (flashRead s arr f n) u))) ∧
  (∀ (k : CoreIx) (g : BitVec 4) (src : MoveSrc) (s u : State) (tg : Bool) (v : W32) (a n : Nat), Issued k g 0x7D src s →
    tg = runsTagged s k → v = moveValue s k src → u = setCore k (fun c => (readSource c src).2) s →
    (tg = true → tagOf s.cores[k].ops.flsLocal = 1) → a = xaddr tg s.cores[k].ops.flsLocal → n = xaddr tg s.cores[k].ops.flsLen →
    (flsTarget s.cores[k] = none ∨ n = 0 ∨ localRange k a n = false) →
    exec (.flsRead k g src) s = .next (moved k src (fun c => { c with flsStatus := codeArgRange.setWidth 32, res := { c.res with fls := codeArgRange.setWidth 32 } }) s)) ∧
  (∀ (k : CoreIx) (g : BitVec 4) (src : MoveSrc) (s u : State) (tg : Bool) (v : W32) (a n : Nat) (arr : FlashArray) (f e : Nat), Issued k g 0x7E src s →
    tg = runsTagged s k → v = moveValue s k src → u = setCore k (fun c => (readSource c src).2) s →
    (tg = true → tagOf s.cores[k].ops.flsLocal = 1) → a = xaddr tg s.cores[k].ops.flsLocal → n = xaddr tg s.cores[k].ops.flsLen →
    flsTarget s.cores[k] = some (arr, f, e) → 4 ≤ n → f % max (programUnit arr f) 1 + n ≤ programUnit arr f →
    f + n ≤ e → localRange k a n = true → flsRefused s k arr f n = none → exec (.flsProgram k g src) s = .next (setCore k nextPc (flsRun k (.page arr f (localRead k a n u).1) u))) ∧
  (∀ (k : CoreIx) (g : BitVec 4) (src : MoveSrc) (s u : State) (tg : Bool) (v : W32) (n : Nat) (arr : FlashArray) (f e : Nat) (x : EraseUnit), Issued k g 0x7F src s →
    tg = runsTagged s k → v = moveValue s k src → u = setCore k (fun c => (readSource c src).2) s →
    n = xaddr tg s.cores[k].ops.flsLen → flsTarget s.cores[k] = some (arr, f, e) → flsUnit arr f n = some x → f + unitSize x ≤ e →
    flsRefused s k arr f (unitSize x) = none → exec (.flsErase k g src) s = .next (setCore k nextPc (flsRun k (.rawErase arr x f) u))) ∧
  (∀ (k : CoreIx) (g : BitVec 4) (src : MoveSrc) (s u : State) (tg : Bool) (v : W32) (n : Nat) (arr : FlashArray) (f e : Nat) (x : EraseUnit), Issued k g 0x80 src s →
    tg = runsTagged s k → v = moveValue s k src → u = setCore k (fun c => (readSource c src).2) s →
    n = xaddr tg s.cores[k].ops.flsLen → flsTarget s.cores[k] = some (arr, f, e) → flsUnit arr f n = some x → f + unitSize x ≤ e →
    (arr = .archive → s.flash.archDead = false) → exec (.flsMargin k g src) s = .next (setCore k nextPc (flsRun k (.rawMargin arr x f) u))) ∧
  (∀ (k : CoreIx) (g : BitVec 4) (src : MoveSrc) (s u : State) (tg : Bool) (v : W32) (a n : Nat) (arr : FlashArray) (f e : Nat) (c0 : W16), Issued k g 0x7E src s →
    tg = runsTagged s k → v = moveValue s k src → u = setCore k (fun c => (readSource c src).2) s →
    (tg = true → tagOf s.cores[k].ops.flsLocal = 1) → a = xaddr tg s.cores[k].ops.flsLocal → n = xaddr tg s.cores[k].ops.flsLen →
    flsTarget s.cores[k] = some (arr, f, e) → 4 ≤ n → f % max (programUnit arr f) 1 + n ≤ programUnit arr f →
    f + n ≤ e → localRange k a n = true → flsRefused s k arr f n = some c0 → exec (.flsProgram k g src) s = .next (moved k src (fun c => { c with flsStatus := c0.setWidth 32, res := { c.res with fls := c0.setWidth 32 } }) s)) ∧
  (∀ (k : CoreIx) (g : BitVec 4) (src : MoveSrc) (s u : State) (tg : Bool) (v : W32) (n : Nat) (arr : FlashArray) (f e : Nat) (x : EraseUnit) (c0 : W16), Issued k g 0x7F src s →
    tg = runsTagged s k → v = moveValue s k src → u = setCore k (fun c => (readSource c src).2) s →
    n = xaddr tg s.cores[k].ops.flsLen → flsTarget s.cores[k] = some (arr, f, e) → flsUnit arr f n = some x → f + unitSize x ≤ e →
    flsRefused s k arr f (unitSize x) = some c0 → exec (.flsErase k g src) s = .next (moved k src (fun c => { c with flsStatus := c0.setWidth 32, res := { c.res with fls := c0.setWidth 32 } }) s)) ∧
  (∀ (k : CoreIx) (g : BitVec 4) (src : MoveSrc) (s u : State) (tg : Bool) (v : W32), Issued k g 0x81 src s →
    tg = runsTagged s k → v = moveValue s k src → u = setCore k (fun c => (readSource c src).2) s →
    s.cores[k].fls = true → exec (.flsPoll k g src) s = .next (moved k src (fun c => { c with flsPolled := true, res := { c.res with fls := intVal tg (-1) } }) s)) ∧
  (∀ (k : CoreIx) (g : BitVec 4) (src : MoveSrc) (s u : State) (tg : Bool) (v : W32), Issued k g 0x81 src s →
    tg = runsTagged s k → v = moveValue s k src → u = setCore k (fun c => (readSource c src).2) s →
    s.cores[k].fls = false → exec (.flsPoll k g src) s = .next (moved k src (fun c => { c with res := { c.res with fls := c.flsStatus } }) s)) ∧
  (∀ (s : State) (k : CoreIx) (arr : FlashArray) (a n : Nat),
    (flsProtected arr a n = true → flsRefused s k arr a n = some codeArgRange) ∧
    (flsProtected arr a n = false → flsSameBank s k arr a = true → flsRefused s k arr a n = some codeNvmSameBank) ∧
    (flsProtected arr a n = false → flsSameBank s k arr a = false → writeTempOk s (decide (arr ≠ .archive)) 0 = false →
      flsRefused s k arr a n = some codeNvmTemp)) ∧
  (∀ (k : CoreIx) (st : FlashStep) (s : State), flsRun k st s = enqueue (decide (st.array ≠ .archive)) (.core k) [st]
    (setCore k (fun c => { c with fls := true, flsPolled := false, flsDiscard := false }) s))

/-- Every Xelin move: not clocked, trapped, guarded off or stalled, it does this and nothing else. For every move of any
core into any port of its own command: on a core that is not clocked it changes nothing; one that meets a FETCH,
ILLEGAL or delay-slot trap is that trap, whatever its guard; one whose guard is false advances the PC (or takes a
branch that is due) and changes nothing else; one whose guard holds and that meets the branch-room or a stack trap is
that trap; one that must wait for a unit only marks the core stalled. Drawn from: R485, R490, R493, R502, R505, R519,
R520. The model's own choices that it rests on: log entries 10, 51, 53. -/
def Obligations.GuardsStallsAndEarlyTraps : Prop :=
  (∀ (c : Instr) (k : CoreIx) (g : BitVec 4) (dst : Nat) (src : MoveSrc) (s : State), moveOf c = some (k, g, dst, src) → issues s k = false → exec c s = .next s) ∧
  (∀ (c : Instr) (k : CoreIx) (g : BitVec 4) (dst : Nat) (src : MoveSrc) (s : State), moveOf c = some (k, g, dst, src) → issues s k = true → ∀ t, staticTrap s k dst src = some t → exec c s = .next (trap k t s)) ∧
  (∀ (c : Instr) (k : CoreIx) (g : BitVec 4) (dst : Nat) (src : MoveSrc) (s : State), moveOf c = some (k, g, dst, src) → issues s k = true → staticTrap s k dst src = none → guardHolds s.cores[k] g = false →
    exec c s = .next (setCore k nextPc s)) ∧
  (∀ (c : Instr) (k : CoreIx) (g : BitVec 4) (dst : Nat) (src : MoveSrc) (s : State), moveOf c = some (k, g, dst, src) → issues s k = true → staticTrap s k dst src = none → guardHolds s.cores[k] g = true →
    ∀ t, guardedTrap s k dst src = some t → exec c s = .next (trap k t s)) ∧
  (∀ (c : Instr) (k : CoreIx) (g : BitVec 4) (dst : Nat) (src : MoveSrc) (s : State), moveOf c = some (k, g, dst, src) → issues s k = true → staticTrap s k dst src = none → guardHolds s.cores[k] g = true → guardedTrap s k dst src = none →
    ∀ p, stallPort s k dst src = some p → exec c s = .next (setCore k (fun x => { x with stalled := some p }) s))

/-- A move into a branch trigger in a delay slot traps with SLOT, whether its guard is true or false. For every core that
is clocked, every guard and every source: a move into BR.JUMP, BR.CALL or BR.RETURN that lies in a delay slot (a
branch of the core has not passed control yet), that the core can fetch and whose encoding is not reserved, is a trap
with cause SLOT at that port. Rule: R490. -/
def Obligations.BranchInADelaySlotTraps : Prop :=
  ∀ (k : CoreIx) (g : BitVec 4) (src : MoveSrc) (s : State), issues s k = true → fetchOk s k s.cores[k].pc.toNat = true →
    s.cores[k].branch.isSome = true →
    (illegalPort k 0x48 src = none → exec (.brJump k g src) s = .next (trap k { cause := 0x03, port := 0x48, tag := 56, addr := 0 } s)) ∧
    (illegalPort k 0x49 src = none → exec (.brCall k g src) s = .next (trap k { cause := 0x03, port := 0x49, tag := 56, addr := 0 } s)) ∧
    (illegalPort k 0x4A src = none → exec (.brReturn k g src) s = .next (trap k { cause := 0x03, port := 0x4A, tag := 56, addr := 0 } s))

/-- What a short immediate gives on a TAGGED and on a RAW page, and when a guard lets a move take effect. A short
immediate gives, from a TAGGED page, the INT whose payload is the 19-bit immediate sign-extended to 29 bits, and from
a RAW page the immediate sign-extended to 32 bits; its number is -262,144 to 262,143; reading it changes nothing. On a
core whose G0 reads 1, guard code 0 always lets a move take effect, code 8 never, codes 1 to 7 when that guard is 1
and codes 9 to 15 when that guard is 0. Rules: R519, R521. -/
def Obligations.ShortImmediatesAndGuardCodes : Prop :=
  (∀ (c : Core) (v : BitVec 19), (readSource c (.imm v)).2 = c ∧ -262144 ≤ v.toInt ∧ v.toInt ≤ 262143 ∧
    (tagMode c = true → (readSource c (.imm v)).1 = ((v.signExtend 29).setWidth 32)) ∧
    (tagMode c = false → (readSource c (.imm v)).1 = v.signExtend 32)) ∧
  (∀ (c : Core) (g : BitVec 4), c.guards.getLsbD 0 = true →
    (guardHolds c g = (c.guards.getLsbD (g.toNat % 8) ^^ g.getLsbD 3)) ∧
    (g = 0 → guardHolds c g = true) ∧ (g = 8 → guardHolds c g = false) ∧
    (1 ≤ g.toNat → g.toNat ≤ 7 → guardHolds c g = c.guards.getLsbD g.toNat) ∧
    (9 ≤ g.toNat → guardHolds c g = !c.guards.getLsbD (g.toNat - 8)))

/-- A trap records what happened and enters the handler; a second one halts the core; on core 2 the extension is unloaded.
A trap of core 0, 1 or 3 in the running state puts it in fault mode, drops a pending branch and the results of its
units, and keeps the event code of the cause (TAG_FAULT for TAG, else FW_FAULT) for the restart. On cores 0 and 3 the
record holds the cause, the PC of the move, the slot, port, tag and address and both depths, the PC is FAULT_VECTOR,
and stacks, guards, operands and results stand; core 0 has lost its handles, core 3 has changed no memory and no ring.
In fault mode a trap halts the core, and its partner restarts it where it runs. A trap of core 2 halts it and unloads
the extension. Drawn from: R505, R506, R507, R515, R336, R494. The model's own choices that it rests on: log entries
51, 56. -/
def Obligations.TrapsEnterTheFaultHandler : Prop :=
  (∀ (k : CoreIx) (t : XTrap) (s u : State), u = trap k t s → k ≠ 2 → s.cores[k].state = .running →
    u.cores[k].state = .faultMode ∧ u.cores[k].branch = none ∧ u.cores[k].mbx = .idle ∧ u.cores[k].tmr = false ∧
    u.cores[k].stalled = none ∧
    (k = 0 ∨ k = 3 → ∃ r : TrapRecord, u.cores[k].trap = r ∧ r.cause = BitVec.ofNat 29 t.cause ∧
      r.pc = BitVec.ofNat 29 s.cores[k].pc.toNat ∧ r.port = BitVec.ofNat 29 t.port ∧ r.tag = BitVec.ofNat 29 t.tag ∧
      r.addr = BitVec.ofNat 29 t.addr ∧ r.ddepth = BitVec.ofNat 29 s.cores[k].dstack.length ∧
      r.rdepth = BitVec.ofNat 29 s.cores[k].rstack.length ∧
      (s.cores[k].branch = none → r.slot = 0) ∧ (∀ a n, s.cores[k].branch = some (a, n) → 2 ≤ n → r.slot = 1) ∧
      (∀ a n, s.cores[k].branch = some (a, n) → n ≤ 1 → r.slot = 2) ∧
      u.cores[k].pc = BitVec.ofNat 32 (payload (s.cores[k].faultVector.getD 0) / 4 * 4) ∧
      u.cores[k].postDue = some (if t.cause = 0x08 then evTagFault else evFwFault) ∧
      u.cores[k].dstack = s.cores[k].dstack ∧ u.cores[k].rstack = s.cores[k].rstack ∧ u.cores[k].guards = s.cores[k].guards ∧
      u.cores[k].ops = s.cores[k].ops ∧ u.cores[k].res = s.cores[k].res ∧ u.cores[k].dataRam = s.cores[k].dataRam) ∧
    (k = 0 → u.cores[k].handles = []) ∧ (k = 3 → u.mem = s.mem ∧ u.rings = s.rings ∧ u.xshared = s.xshared)) ∧
  (∀ (k : CoreIx) (t : XTrap) (s u : State), u = trap k t s → k = 0 ∨ k = 3 → s.cores[k].state = .faultMode →
    (s.cores[partner k].state = .running → u.cores[k].state = .restarting) ∧
    (s.cores[partner k].state ≠ .running → u.cores[k].state = .halted)) ∧
  (∀ (t : XTrap) (s u : State), u = trap 2 t s → u.cores[(2 : CoreIx)].state = .halted ∧ u.cores[(2 : CoreIx)].handles = [] ∧
    u.cores[(2 : CoreIx)].routed = [] ∧ u.ext = { loaded := false, version := 0 })

/-- A Vrelmahan command without a descriptor to serve does nothing; reserved bytes and legality refuse a descriptor. For
each of the 47 commands that firmware serves from a ring: where firmware or core 0 does not run, or no descriptor of
its opcode is next, nothing changes; where an argument byte that the command does not define is not 0, the descriptor
completes with ARG_RANGE and the offset of a byte no later than that one, with no other effect; where its legality
code forbids the tray's power state, role or debug mode, it completes with the code of R312, or with ARG_RANGE where
an argument fails too, with no other effect. Drawn from: R10, R298, R304, R312, R314, R337. The model's own choices
that it rests on: log entries 8, 17. -/
def Obligations.DescriptorsThatAreNotRunOrRefused : Prop :=
  ∀ (c : Instr) (op : Nat) (n : RingIx) (s : State), servedBy c = some (op, n) →
    (firmwareServes s = false ∨ nextFor (isOp op) n s = none → exec c s = .next s) ∧
    (∀ f i, firmwareServes s = true → nextFor (isOp op) n s = some f → cmdInfo f.desc.opcode = some i →
      (∀ o < 64, 8 ≤ o → inFields i.fields o = false → f.desc.u8 o ≠ 0 →
        ∃ o' ≤ o, exec c s = .next (complete n f (Reply.arg o') (dispatch n f s))) ∧
      (∀ e, legalityCode i.legal s.tray.powerState (decide (s.twin.role = .standby)) s.tray.debugOn = some e →
        exec c s = .next (complete n f (Reply.of e) (dispatch n f s)) ∨
        ∃ o, exec c s = .next (complete n f (Reply.arg o) (dispatch n f s))))

/-- A completion is the 16-byte entry at the CQ tail of its ring, or waits there for credit. For a descriptor that its
ring still holds, that no core submitted, on a ring that may post and on which nothing waits: with credit and the link
up its completion puts the 16 bytes of Table 11-4 at the CQ tail in host memory, changes no other byte of host memory
and none of the stacks, and advances the tail, inverting PHASE at the wrap; without credit or link it changes no
memory and waits. A completion of a descriptor that a reset has lost changes nothing. Drawn from: R291, R292, R293,
R297, R306. The model's own choices that it rests on: log entries 4, 8. -/
def Obligations.CompletionsAreWrittenInOrder : Prop :=
  (∀ (n : RingIx) (f : Fetched) (r : Reply) (s t : State), s.good → (s.rings[n]).holds f.id = true → submitter n f.id s = none →
    (s.rings[n]).posts = true → (s.rings[n]).waiting = [] → t = complete n f r s →
    ((s.rings[n]).hasRoom = true → s.host.linkUp = true →
      ∃ a, a = s.rings[n].cqBase.toNat + 16 * s.rings[n].cqTail.toNat ∧
        memReadN zeroByte t.mem.hostMem a 16 = entryBytes s.rings[n] (r.entry f.desc) ∧
        (∀ x, x < a ∨ a + 16 ≤ x → memRead zeroByte t.mem.hostMem x = memRead zeroByte s.mem.hostMem x) ∧
        t.mem.stackMem = s.mem.stackMem ∧ t.rings[n].waiting = [] ∧
        (s.rings[n].cqTail.toNat + 1 = 2 * s.rings[n].depth → t.rings[n].cqTail = 0 ∧ t.rings[n].phase = !s.rings[n].phase) ∧
        (s.rings[n].cqTail.toNat + 1 ≠ 2 * s.rings[n].depth →
          t.rings[n].cqTail = s.rings[n].cqTail + 1 ∧ t.rings[n].phase = s.rings[n].phase)) ∧
    ((s.rings[n]).hasRoom = false ∨ s.host.linkUp = false → t.mem = s.mem ∧ t.rings[n].waiting = [r.entry f.desc] ∧
      t.rings[n].cqTail = s.rings[n].cqTail)) ∧
  (∀ (n : RingIx) (f : Fetched) (r : Reply) (s : State), (s.rings[n]).holds f.id = false → complete n f r s = s) ∧
  (∀ (q : Ring) (e : Entry), (entryBytes q e).length = 16 ∧
    field (entryBytes q e) 0 4 = e.tag.toNat ∧ field (entryBytes q e) 4 2 = e.status.toNat ∧
    field (entryBytes q e) 8 4 = e.result.toNat ∧ field (entryBytes q e) 12 2 = e.epoch.toNat ∧
    field (entryBytes q e) 14 2 = e.detail.toNat ∧
    field (entryBytes q e) 6 2 = q.sqHead.toNat + (if e.stale then 0x1000 else 0) + (if e.event then 0x2000 else 0) +
      (if e.more then 0x4000 else 0) + (if q.phase then 0x8000 else 0))

/-- STW, STB and STH put LSU.DATA at the effective address and leave every other byte and every other core as it was. On a
good machine, for an issued store that meets no trap: in the region of local memory that the effective address names,
the 4, 1 or 2 bytes there read as the low bytes of LSU.DATA after it and every other byte reads as before; the other
regions, every other core, host memory, the stacks, the flash arrays, the rings, the tiles, the host interface and the
pair are unchanged. STB and STH meet no exchange RAM and no register of another die: they trap there. STW to a
register of another die changes no memory (the model's choice, log entry 11). Drawn from: R503, R529. The model's own
choices that it rests on: log entries 4, 11. -/
def Obligations.StoresOfACoreChangeOnlyTheirBytes : Prop :=
  (∀ (k : CoreIx) (g : BitVec 4) (src : MoveSrc) (s t : State) (a : Nat), s.good → Issued k g 0x3B src s →
    (runsTagged s k = true → tagOf s.cores[k].ops.lsuBase = 1 ∧ tagOf (moveValue s k src) = 0) →
    a = effAddr (runsTagged s k) s.cores[k].ops.lsuBase (moveValue s k src) →
    accessTrap s.cores[k] k (runsTagged s k) 0x3B 4 a = none → exec (.lsuStw k g src) s = .next t →
    (regionOf k a = some .data →
      memReadN (dataDefault s.cores[k].dataTagged) t.cores[k].dataRam a 4 = leBytes 4 s.cores[k].ops.lsuData.toNat ∧
      (∀ x, x < a ∨ a + 4 ≤ x → memRead (dataDefault s.cores[k].dataTagged) t.cores[k].dataRam x =
        memRead (dataDefault s.cores[k].dataTagged) s.cores[k].dataRam x) ∧ t.xshared = s.xshared) ∧
    (regionOf k a = some .shared →
      memReadN zeroByte t.xshared.shared (a - 0x200000) 4 = leBytes 4 s.cores[k].ops.lsuData.toNat ∧
      (∀ x, x < a - 0x200000 ∨ a - 0x200000 + 4 ≤ x → memRead zeroByte t.xshared.shared x = memRead zeroByte s.xshared.shared x) ∧
      t.xshared.exchange = s.xshared.exchange ∧ t.cores[k].dataRam = s.cores[k].dataRam) ∧
    (regionOf k a = some .exchange →
      memReadN zeroByte t.xshared.exchange (a - 0x300000) 4 = leBytes 4 s.cores[k].ops.lsuData.toNat ∧
      (∀ x, x < a - 0x300000 ∨ a - 0x300000 + 4 ≤ x → memRead zeroByte t.xshared.exchange x = memRead zeroByte s.xshared.exchange x) ∧
      t.xshared.shared = s.xshared.shared ∧ t.cores[k].dataRam = s.cores[k].dataRam) ∧
    (regionOf k a = some .control → t.xshared = s.xshared ∧ t.cores[k].dataRam = s.cores[k].dataRam) ∧
    (∀ j, j ≠ k → t.cores[j] = s.cores[j]) ∧ t.mem = s.mem ∧ t.rings = s.rings ∧ t.flash = s.flash ∧ t.tiles = s.tiles ∧
    t.host = s.host ∧ t.twin = s.twin) ∧
  (∀ (k : CoreIx) (g : BitVec 4) (src : MoveSrc) (s t : State) (a : Nat), s.good → Issued k g 0x40 src s →
    (runsTagged s k = true → tagOf s.cores[k].ops.lsuBase = 1 ∧ tagOf (moveValue s k src) = 0) →
    a = effAddr (runsTagged s k) s.cores[k].ops.lsuBase (moveValue s k src) →
    accessTrap s.cores[k] k (runsTagged s k) 0x40 1 a = none → exec (.lsuStb k g src) s = .next t →
    (regionOf k a = some .data →
      memReadN (dataDefault s.cores[k].dataTagged) t.cores[k].dataRam a 1 = leBytes 1 s.cores[k].ops.lsuData.toNat ∧
      (∀ x, x < a ∨ a + 1 ≤ x → memRead (dataDefault s.cores[k].dataTagged) t.cores[k].dataRam x =
        memRead (dataDefault s.cores[k].dataTagged) s.cores[k].dataRam x) ∧ t.xshared = s.xshared) ∧
    (regionOf k a = some .shared →
      memReadN zeroByte t.xshared.shared (a - 0x200000) 1 = leBytes 1 s.cores[k].ops.lsuData.toNat ∧
      (∀ x, x < a - 0x200000 ∨ a - 0x200000 + 1 ≤ x → memRead zeroByte t.xshared.shared x = memRead zeroByte s.xshared.shared x) ∧
      t.xshared.exchange = s.xshared.exchange ∧ t.cores[k].dataRam = s.cores[k].dataRam) ∧
    (∀ j, j ≠ k → t.cores[j] = s.cores[j]) ∧ t.mem = s.mem ∧ t.rings = s.rings ∧ t.flash = s.flash ∧ t.tiles = s.tiles ∧
    t.host = s.host ∧ t.twin = s.twin) ∧
  (∀ (k : CoreIx) (g : BitVec 4) (src : MoveSrc) (s t : State) (a : Nat), s.good → Issued k g 0x41 src s →
    (runsTagged s k = true → tagOf s.cores[k].ops.lsuBase = 1 ∧ tagOf (moveValue s k src) = 0) →
    a = effAddr (runsTagged s k) s.cores[k].ops.lsuBase (moveValue s k src) →
    accessTrap s.cores[k] k (runsTagged s k) 0x41 2 a = none → exec (.lsuSth k g src) s = .next t →
    (regionOf k a = some .data →
      memReadN (dataDefault s.cores[k].dataTagged) t.cores[k].dataRam a 2 = leBytes 2 s.cores[k].ops.lsuData.toNat ∧
      (∀ x, x < a ∨ a + 2 ≤ x → memRead (dataDefault s.cores[k].dataTagged) t.cores[k].dataRam x =
        memRead (dataDefault s.cores[k].dataTagged) s.cores[k].dataRam x) ∧ t.xshared = s.xshared) ∧
    (regionOf k a = some .shared →
      memReadN zeroByte t.xshared.shared (a - 0x200000) 2 = leBytes 2 s.cores[k].ops.lsuData.toNat ∧
      (∀ x, x < a - 0x200000 ∨ a - 0x200000 + 2 ≤ x → memRead zeroByte t.xshared.shared x = memRead zeroByte s.xshared.shared x) ∧
      t.xshared.exchange = s.xshared.exchange ∧ t.cores[k].dataRam = s.cores[k].dataRam) ∧
    (∀ j, j ≠ k → t.cores[j] = s.cores[j]) ∧ t.mem = s.mem ∧ t.rings = s.rings ∧ t.flash = s.flash ∧ t.tiles = s.tiles ∧
    t.host = s.host ∧ t.twin = s.twin)

/-- An event is an entry on CQ 0 or is kept while there is no credit; one condition posts once in a round. An event that
its condition has posted in this housekeeping round already changes nothing. Otherwise it is noted for the round and,
unless the archive is dead, entered in the event archive; with nothing kept and credit on CQ 0 its entry, with the
event bit, DETAIL the source and RESULT the data and the code, is written there and remembered until it is released;
else it is kept, and beyond 16 the oldest is lost and EVENT_LOST is set. Drawn from: R305, R573, R577. -/
def Obligations.EventsArePostedKeptOrLost : Prop :=
  (∀ (code source data : W16) (s : State), (code, source, data) ∈ s.tray.roundEvents → event code source data s = s) ∧
  (∀ (code source data : W16) (s u : State) (e : Entry), (code, source, data) ∉ s.tray.roundEvents →
    e = { tag := 0, status := 0, result := BitVec.ofNat 32 (data.toNat * 65536 + code.toNat), detail := source, epoch := 0,
          stale := false, more := false, event := true, noIrq := false } →
    u = { s with
      tray := { s.tray with roundEvents := (code, source, data) :: s.tray.roundEvents },
      flash := if s.flash.archDead then s.flash else { s.flash with eventBuf := s.flash.eventBuf ++
        [leBytes 2 code.toNat ++ leBytes 2 source.toNat ++ leBytes 4 e.result.toNat ++ leBytes 2 source.toNat] } } →
    (s.tray.pendingEvents = [] → eventCredit s = true → event code source data s = postEntry 0 e { u with
      tray := { u.tray with posted := u.tray.posted ++
        [{ index := s.rings[(0 : RingIx)].cqTail.toNat, code := code, source := source }] } }) ∧
    (s.tray.pendingEvents ≠ [] ∨ eventCredit s = false →
      (s.tray.pendingEvents.length < 16 → event code source data s =
        { u with tray := { u.tray with pendingEvents := s.tray.pendingEvents ++ [e] } }) ∧
      (s.tray.pendingEvents.length = 16 → event code source data s = setRing 0 (fun r => { r with eventLost := true })
        { u with tray := { u.tray with pendingEvents := s.tray.pendingEvents.drop 1 ++ [e] } })))

/-- The first 128 bytes of BAR0 are the identity block, read-only, with 0 for lanes, tiles and stacks until SELFCHECK
ends. On every state, a read of BAR0 at 0x00 to 0x7F gives the bytes of the identity block, its first word is
0x44495A51, SEPIA_LANES, TILES_USABLE and STACKS are the working lanes, the usable tiles and the stacks online once
SELFCHECK has ended and 0 before, and the other fields are those of Table 12-4. A write to these offsets changes
nothing. IDENTIFY, accepted, writes the same 128 bytes. Rule: R552. -/
def Obligations.IdentityRegistersHoldTheIdentityBlock : Prop :=
  (∀ s : State, barRead s 0 128 = identityBlock s ∧
    (∀ i, i < 128 → barRead s i 1 = ((identityBlock s).drop i).take 1) ∧ field (identityBlock s) 0x00 4 = 0x44495A51 ∧
    field (identityBlock s) 0x04 1 = 0xB1 ∧ field (identityBlock s) 0x05 1 = s.tray.variant.code ∧
    field (identityBlock s) 0x06 2 = 0x0201 ∧ field (identityBlock s) 0x08 2 = 0x0102 ∧
    field (identityBlock s) 0x0A 1 = shelfCode s ∧ field (identityBlock s) 0x0F 1 = portsFitted s.tray.variant ∧
    ((identityBlock s).drop 0x10).take 16 = Config.pkgSerial.toList ∧ ((identityBlock s).drop 0x20).take 16 = Config.traySerial.toList ∧
    field (identityBlock s) 0x38 4 = s.tray.restarts.toNat ∧ (identityBlock s).drop 0x40 = List.replicate 64 0 ∧
    (s.tray.selfChecked = false → field (identityBlock s) 0x0B 1 = 0 ∧ field (identityBlock s) 0x0C 2 = 0 ∧
      field (identityBlock s) 0x0E 1 = 0) ∧
    (s.tray.selfChecked = true → field (identityBlock s) 0x0B 1 = sepiaLanes s ∧
      field (identityBlock s) 0x0C 2 = usableTiles s ∧ field (identityBlock s) 0x0E 1 = popCount 6 s.mem.stackOnline.toNat)) ∧
  (∀ (off : BitVec 22) (size : Nat) (v : W64) (s : State), off.toNat < 0x80 → exec (.registerWrite off size v) s = .next s) ∧
  (∀ (n : RingIx) (f : Fetched) (i : CmdInfo) (s u : State), Accepted opIdentify n f i s → u = dispatch n f s →
    badDaddr u.tray.variant (f.desc.u64 0x10) 64 = false → writeFails u (f.desc.u64 0x10) 128 = none →
    exec (.identify n) s = .next (complete n f (Reply.of codeOk) (daddrWrite (f.desc.u64 0x10) (identityBlock u) u)))

/-- State.reset holds the values that the spec states for a cold start and for the registers after reset. The symbol
counter is 0 and the time of day that of R231; every ring is DISABLED with indices and counters 0 and PHASE 1, ring 0
at level P3; MSI-X is off and every entry masked; every tile is OFF with the zero matrix in both latches, scan mask
and residual limit at their resets; every shadow set is EMPTY; caps, hold-over, slew and heartbeat registers are at
their defaults; the tray is ALONE in phase ROM with debug mode off; each core has PC 0, G0 alone set, empty stacks,
POISON in its result ports, LIMM.HI 0 and CMP.G 1. Values that the spec does not give are not stated here. Drawn from:
R55, R60, R72, R94, R124, R126, R132, R142, R230, R231, R234, R267. -/
def Obligations.ResetStateHoldsTheStatedValues : Prop :=
  (State.reset.time.symbolCount = 0 ∧ State.reset.time.todSec = 315964819 ∧ State.reset.time.todTick = 0 ∧
    State.reset.time.numerology = 1 ∧ State.reset.time.frameOffset = 0 ∧ State.reset.time.domain = 24 ∧
    State.reset.time.holdLimit = 1100 ∧ State.reset.time.slewMax = 10) ∧
  (∀ n : RingIx, State.reset.rings[n].state = .disabled ∧ State.reset.rings[n].sqHead = 0 ∧ State.reset.rings[n].sqTail = 0 ∧
    State.reset.rings[n].cqHead = 0 ∧ State.reset.rings[n].cqTail = 0 ∧ State.reset.rings[n].phase = true ∧
    State.reset.rings[n].queue = [] ∧ State.reset.rings[n].coalCount = 1 ∧ State.reset.rings[n].dropped = 0 ∧
    State.reset.rings[n].overloaded = 0 ∧ State.reset.rings[n].level = if n = 0 then 3 else 0) ∧
  (State.reset.host.msixEnable = false ∧ (∀ v : Fin 128, State.reset.host.msixTable[v].mask = true) ∧ State.reset.host.pba = 0 ∧
    State.reset.host.pciePoisoned = 0 ∧ State.reset.host.pcieUr = 0 ∧ State.reset.host.bar4Ecc = 0) ∧
  (∀ t : TileIx, State.reset.tiles[t].state = .off ∧ State.reset.tiles[t].mesh.active.image = [] ∧
    State.reset.tiles[t].mesh.shadow.image = [] ∧ State.reset.tiles[t].conv.scanMask = 0x1FFFFFFFFFFFFFFF ∧
    State.reset.tiles[t].heat.residMax = 38 ∧ State.reset.tiles[t].heat.slew = false ∧ State.reset.tiles[t].cal.windowN = 20 ∧
    State.reset.tiles[t].cal.charPeriod = 24 ∧ State.reset.tiles[t].lateSwap = 0) ∧
  (∀ g : GroupIx, State.reset.sets.groups[g].shadow = .empty ∧ State.reset.sets.groups[g].epoch = 0) ∧
  (State.reset.power.capHost = 450 ∧ State.reset.power.capInForce = 450 ∧ State.reset.power.stage = .none ∧
    State.reset.power.relayOpen = false ∧ State.reset.tray.phase = .rom ∧ State.reset.tray.debugOn = false ∧
    State.reset.tray.alarms = [] ∧ State.reset.twin.role = .alone ∧ State.reset.twin.grant = false ∧ State.reset.twin.req = false ∧
    State.reset.twin.hbTimeout = 200 ∧ State.reset.twin.relayDelay = 10 ∧ State.reset.thermal.hkRound = 2 ∧
    State.reset.woad.tripLatch = false ∧ State.reset.ext.loaded = false) ∧
  (∀ k : CoreIx, State.reset.cores[k].pc = 0 ∧ State.reset.cores[k].branch = none ∧ State.reset.cores[k].guards = 1 ∧
    State.reset.cores[k].dstack = [] ∧ State.reset.cores[k].rstack = [] ∧ State.reset.cores[k].res = Results.init ∧
    Results.init.alu = 0xE0000000#32 ∧ Results.init.lsu = 0xE0000000#32 ∧ Results.init.mbx = 0xE0000000#32 ∧
    State.reset.cores[k].ops.limmHi = 0 ∧ State.reset.cores[k].ops.cmpG = 1 ∧ State.reset.cores[k].ops.aluA = 0xE0000000#32 ∧
    State.reset.cores[k].faultVector = none ∧ State.reset.cores[k].restarts = 0)


/-- What falls on one SCLK is taken in the order of R593. A command that arrives joins the queue of its SCLK and changes
nothing else: time-unit events stand first, by their action of Table 8-5 and their comparator, then the hardware
boundaries, then a host read, then Woad's rules, then firmware actions, then host writes. A queue in that order stays in
it when a command arrives and when a step takes its front, and a host write stands behind all that waits; as one SCLK
passes on an empty queue alone, the rest of the block sees it from the next SCLK on. Where things from outside and
Woad's rules stand is the model's choice. Drawn from: R593, R237, R404. The model's own choices that it rests on: log
entries 2, 82. -/
def Obligations.OneSclkIsTakenInOrder : Prop :=
  (∀ (c : Instr) (s : State), ∃ q, arrive c s = { s with pending := q } ∧ List.Perm q (c :: s.pending) ∧
    (SclkOrdered s.pending → SclkOrdered q)) ∧
  (∀ s t : State, step s = .next t → SclkOrdered s.pending → SclkOrdered t.pending) ∧
  (∀ (c : Instr) (s : State), sclkKey c = 324 →
    (arrive c s).pending = s.pending ++ [c]) ∧
  (∀ c : Instr, sclkKey c ≤ 324) ∧
  (∀ (a b : Fin 64) (o : BitVec 22) (w : Nat) (v : W64) (t : TileIx) (r : RingIx), sclkKey (.eventRadioSwap a) < sclkKey (.eventTileSwap b) ∧
    sclkKey (.eventTileSwap a) < sclkKey (.eventGapEnd b) ∧ sclkKey (.eventGapEnd a) < sclkKey (.eventGapStart b) ∧
    sclkKey (.eventGapStart a) < sclkKey (.eventNotify b) ∧ sclkKey (.eventNotify a) < sclkKey (.segmentEnd t) ∧
    sclkKey (.segmentEnd t) < sclkKey .symbolCountLoRead ∧ sclkKey .symbolCountLoRead < sclkKey (.setSwap r) ∧
    sclkKey (.setSwap r) < sclkKey (.registerWrite o w v) ∧ (a < b → sclkKey (.eventRadioSwap a) < sclkKey (.eventRadioSwap b)))
end

