-- ==== Sys2Proof/Laws/Memory.lean ====
section
/-! SUPPORT. Addressed memories: every operation keeps the canonical form, and a read after a write. -/
namespace Sys2Proof.Machine

/-- A canonical list is canonical from any lower bound. -/
theorem memWfFrom_mono (d : Nat → Byte) {lo lo' : Nat} (h : lo' ≤ lo) (m : List Host.Cell) (w : memWfFrom d lo m = true) :
    memWfFrom d lo' m = true := by
  cases m with
  | nil => rfl
  | cons p m =>
    obtain ⟨x, y⟩ := p
    simp only [memWfFrom, Bool.and_eq_true, decide_eq_true_eq] at w ⊢
    exact ⟨⟨by omega, w.1.2⟩, w.2⟩

/-- A canonical list from a bound lists nothing below it. -/
theorem cellAt_none_of_lt (d : Nat → Byte) (lo : Nat) (m : List Host.Cell) (w : memWfFrom d lo m = true) (a : Nat)
    (h : a < lo) : cellAt m a = none := by
  induction m generalizing lo with
  | nil => rfl
  | cons p m ih =>
    obtain ⟨x, y⟩ := p
    simp only [memWfFrom, Bool.and_eq_true, decide_eq_true_eq] at w
    simp only [cellAt]
    split
    · omega
    · exact ih _ w.2 (by omega)

theorem memPut_wfFrom (d : Nat → Byte) (lo : Nat) (m : List Host.Cell) (a : Nat) (b : Byte) (h : lo ≤ a)
    (w : memWfFrom d lo m = true) : memWfFrom d lo (memPut d m a b) = true := by
  induction m generalizing lo with
  | nil =>
    simp only [memPut]
    split
    · rfl
    · next hb => simp [memWfFrom, h, hb]
  | cons p m ih =>
    obtain ⟨x, y⟩ := p
    simp only [memWfFrom, Bool.and_eq_true, decide_eq_true_eq] at w
    simp only [memPut]
    split
    · next hlt =>
      split
      · simp [memWfFrom, w.1.1, w.1.2, w.2]
      · next hb => simp [memWfFrom, h, hb, w.1.2, w.2]; omega
    · next hnlt =>
      split
      · next heq =>
        subst heq
        split
        · exact memWfFrom_mono d (by omega) m w.2
        · next hb => simp [memWfFrom, h, hb, w.2]
      · next hne =>
        simp only [memWfFrom, Bool.and_eq_true, decide_eq_true_eq]
        exact ⟨w.1, ih _ (by omega) w.2⟩

/-- One byte written keeps the canonical form. -/
theorem memPut_wf (d : Nat → Byte) (m : List Host.Cell) (a : Nat) (b : Byte) (w : Memory.wf d m = true) :
    Memory.wf d (memPut d m a b) = true := memPut_wfFrom d 0 m a b (Nat.zero_le a) w

/-- A run of bytes written keeps the canonical form. -/
theorem memWriteN_wf (d : Nat → Byte) (bs : List Byte) (m : List Host.Cell) (a : Nat) (w : Memory.wf d m = true) :
    Memory.wf d (memWriteN d m a bs) = true := by
  induction bs generalizing m a with
  | nil => exact w
  | cons b bs ih => exact ih _ _ (memPut_wf d m a b w)

theorem cellAt_memPut_self (d : Nat → Byte) (lo : Nat) (m : List Host.Cell) (a : Nat) (b : Byte)
    (w : memWfFrom d lo m = true) : cellAt (memPut d m a b) a = if b = d a then none else some b := by
  induction m generalizing lo with
  | nil => simp only [memPut]; split <;> simp [cellAt]
  | cons p m ih =>
    obtain ⟨x, y⟩ := p
    simp only [memWfFrom, Bool.and_eq_true, decide_eq_true_eq] at w
    simp only [memPut]
    split
    · next hlt =>
      have hn : cellAt m a = none := cellAt_none_of_lt d (x + 1) m w.2 a (by omega)
      split
      · simp [cellAt, hn, show ¬ x = a by omega]
      · simp [cellAt]
    · split
      · next heq =>
        subst heq
        split
        · exact cellAt_none_of_lt d (a + 1) m w.2 a (by omega)
        · simp [cellAt]
      · next hne =>
        simp only [cellAt, if_neg (show ¬ x = a by omega)]
        exact ih _ w.2

theorem cellAt_memPut_other (d : Nat → Byte) (m : List Host.Cell) (a a' : Nat) (b : Byte) (h : a' ≠ a) :
    cellAt (memPut d m a b) a' = cellAt m a' := by
  induction m with
  | nil => simp only [memPut]; split <;> simp [cellAt, Ne.symm h]
  | cons p m ih =>
    obtain ⟨x, y⟩ := p
    simp only [memPut]
    split
    · split
      · rfl
      · simp [cellAt, Ne.symm h]
    · split
      · next heq => subst heq; split <;> simp [cellAt, Ne.symm h]
      · simp only [cellAt]; split
        · rfl
        · exact ih

/-- A byte reads back as it was written. -/
theorem memRead_memPut_self (d : Nat → Byte) (m : List Host.Cell) (a : Nat) (b : Byte) (w : Memory.wf d m = true) :
    memRead d (memPut d m a b) a = b := by
  simp only [memRead, cellAt_memPut_self d 0 m a b w]
  split <;> simp_all

/-- Every other byte reads as before. -/
theorem memRead_memPut_other (d : Nat → Byte) (m : List Host.Cell) (a a' : Nat) (b : Byte) (h : a' ≠ a) :
    memRead d (memPut d m a b) a' = memRead d m a' := by
  simp only [memRead, cellAt_memPut_other d m a a' b h]

/-- A run of bytes leaves every byte outside it as before. -/
theorem memRead_memWriteN_outside (d : Nat → Byte) (bs : List Byte) (m : List Host.Cell) (a a' : Nat)
    (h : a' < a ∨ a + bs.length ≤ a') : memRead d (memWriteN d m a bs) a' = memRead d m a' := by
  induction bs generalizing m a with
  | nil => rfl
  | cons b bs ih =>
    simp only [List.length_cons] at h
    simp only [memWriteN]
    rw [ih _ _ (by omega), memRead_memPut_other d m a a' b (by omega)]

/-- A run of bytes reads back as it was written. -/
theorem memReadN_memWriteN (d : Nat → Byte) (bs : List Byte) (m : List Host.Cell) (a : Nat) (w : Memory.wf d m = true) :
    memReadN d (memWriteN d m a bs) a bs.length = bs := by
  induction bs generalizing m a with
  | nil => rfl
  | cons b bs ih =>
    simp only [List.length_cons, memReadN, memWriteN]
    rw [ih _ _ (memPut_wf d m a b w), memRead_memWriteN_outside d bs _ (a + 1) a (by omega), memRead_memPut_self d m a b w]

end Sys2Proof.Machine
end

