-- ==== Sys2Proof/Laws/Keeps.lean ====
section
/-! SUPPORT. What every operation of the model keeps, said once: the queue of waiting commands is untouched, and a good
machine stays one. A machine is good where every memory has its canonical form and every Xelin core is well formed. -/
namespace Sys2Proof.Machine

/-- `t` has the queue of `s`, and is good where `s` is. -/
structure Keeps (s t : State) : Prop where
  queue : t.pending = s.pending
  good : s.good → t.good

/-- The same of a command's body, and of a result, which is a next state. -/
def BodyKeeps (s : State) : Body → Prop
  | .running t => Keeps s t
  | .done t _ => Keeps s t

def ResultKeeps (s : State) : Result → Prop
  | .next t => Keeps s t
  | .fault _ => False
  | .refused _ => False

theorem Keeps.rfl {s : State} : Keeps s s := ⟨Eq.refl _, id⟩

theorem Keeps.trans {s t u : State} (h : Keeps s t) (h' : Keeps t u) : Keeps s u :=
  ⟨h'.queue.trans h.queue, h'.good ∘ h.good⟩

/-- A record update of a state. -/
theorem Keeps.upd {s x : State} (h : Keeps s x) {ti ri ho m ou ke tl se jo sp ra sc po tr wo f th tw c ex xs ni fr}
    (hm : x.mem.wf → m.wf) (hf : x.flash.wf → f.wf) (hc : coresWf x.cores → coresWf c) (hx : x.xshared.wf → xs.wf) :
    Keeps s (State.mk ti ri ho m ou ke tl se jo sp ra sc po tr wo f th tw c ex xs ni fr x.pending) :=
  ⟨h.queue, fun g => ⟨hm (h.good g).mem, hf (h.good g).flash, hc (h.good g).cores, hx (h.good g).xshared⟩⟩

/-- A record update that leaves the memories and the cores alone. -/
theorem Keeps.plain {s x : State} (h : Keeps s x) {ti ri ho ou ke tl se jo sp ra sc po tr wo th tw ex ni fr} :
    Keeps s (State.mk ti ri ho x.mem ou ke tl se jo sp ra sc po tr wo x.flash th tw x.cores ex x.xshared ni fr x.pending) :=
  Keeps.upd h id id id id

/-- A record update that leaves the arrays of the flash, the memories and the cores alone. -/
theorem Keeps.flash {s x : State} (h : Keeps s x) {f : Flash} (hf : f.archive = x.flash.archive ∧ f.main0 = x.flash.main0 ∧
    f.main1 = x.flash.main1 ∧ f.info0 = x.flash.info0 ∧ f.info1 = x.flash.info1)
    {ti ri ho ou ke tl se jo sp ra sc po tr wo th tw ex ni fr} :
    Keeps s (State.mk ti ri ho x.mem ou ke tl se jo sp ra sc po tr wo f th tw x.cores ex x.xshared ni fr x.pending) :=
  Keeps.upd h id (fun g => by
    obtain ⟨e1, e2, e3, e4, e5⟩ := hf
    unfold Flash.wf
    rw [e1, e2, e3, e4, e5]
    exact g) id id

theorem Keeps.foldl {α : Type} {s x : State} (h : Keeps s x) (l : List α) (f : State → α → State)
    (hf : ∀ t a, Keeps t (f t a)) : Keeps s (l.foldl f x) := by
  induction l generalizing x with
  | nil => exact h
  | cons a l ih => exact ih (h.trans (hf x a))

theorem Keeps.bodyDone {s t : State} (h : Keeps s t) (r : Reply) : BodyKeeps s (.done t r) := h
theorem Keeps.bodyRunning {s t : State} (h : Keeps s t) : BodyKeeps s (.running t) := h
theorem Keeps.next {s t : State} (h : Keeps s t) : ResultKeeps s (.next t) := h

theorem ResultKeeps.exists_next {s : State} {r : Result} (h : ResultKeeps s r) : ∃ t, r = .next t ∧ Keeps s t := by
  cases r with
  | next t => exact ⟨t, Eq.refl _, h⟩
  | fault _ => exact h.elim
  | refused _ => exact h.elim

theorem Keeps.ite {s a b : State} {c : Prop} [Decidable c] (ha : Keeps s a) (hb : Keeps s b) : Keeps s (if c then a else b) := by
  split
  · exact ha
  · exact hb

/-- A core that has changed in nothing that well-formedness is about, but for a state left or a branch dropped. -/
theorem Core.wf.same {c d : Core} (g : c.wf) (h1 : d.codeRam = c.codeRam) (h2 : d.dataRam = c.dataRam)
    (h3 : d.dataTagged = c.dataTagged) (h4 : d.guards = c.guards) (h5 : d.pc = c.pc) (h6 : d.dstack = c.dstack)
    (h7 : d.rstack = c.rstack) (h8 : d.branch = c.branch ∨ d.branch = none) (h9 : d.state = c.state ∨ d.state ≠ .running) :
    d.wf where
  code := h1 ▸ g.code
  data := by rw [h2, h3]; exact g.data
  g0 := h4 ▸ g.g0
  pc := h5 ▸ g.pc
  target := fun p e => by
    rcases h8 with h | h
    · exact g.target p (h ▸ e)
    · rw [h] at e; cases e
  dstack := h6 ▸ g.dstack
  rstack := h7 ▸ g.rstack
  drun := fun e => by
    rcases h9 with h | h
    · exact h6 ▸ g.drun (h ▸ e)
    · exact absurd e h
  rrun := fun e => by
    rcases h9 with h | h
    · exact h7 ▸ g.rrun (h ▸ e)
    · exact absurd e h

/-- A core as a start leaves it, with code and data RAM of its own. -/
theorem Core.wf.fresh (c : Core) (h1 : Memory.wf erasedByte c.codeRam = true)
    (h2 : Memory.wf (dataDefault c.dataTagged) c.dataRam = true) (h3 : c.guards = 1) (h4 : c.pc = 0)
    (h5 : c.branch = none) (h6 : c.dstack = []) (h7 : c.rstack = []) : c.wf where
  code := h1
  data := h2
  g0 := by rw [h3]; rfl
  pc := by rw [h4]; rfl
  target := fun p e => by rw [h5] at e; cases e
  dstack := by rw [h6]; exact Nat.zero_le _
  rstack := by rw [h7]; exact Nat.zero_le _
  drun := fun _ => by rw [h6]; exact Nat.zero_le _
  rrun := fun _ => by rw [h7]; exact Nat.zero_le _

/-- One core replaced. -/
theorem setCore_keeps (k : CoreIx) (f : Core → Core) {s x : State} (h : Keeps s x)
    (hf : x.cores[k].wf → (f x.cores[k]).wf) : Keeps s (setCore k f x) := by
  refine Keeps.upd h id id (fun g j => ?_) id
  by_cases e : j = k
  · subst e; simpa [upd] using hf (g j)
  · have : k.val ≠ j.val := fun h => e (Fin.ext h.symm)
    simpa [upd, Vector.getElem_set, this] using g j

theorem Core.wf.flashDone {c : Core} (g : c.wf) (st : W32) : (Core.flashDone st c).wf :=
  g.same rfl rfl rfl rfl rfl rfl rfl (Or.inl rfl) (Or.inl rfl)

theorem vectorPc_mod (c : Core) : (BitVec.ofNat 32 (vectorPc c)).toNat % 4 = 0 := by
  simp only [vectorPc, payload, BitVec.toNat_ofNat]
  omega

theorem Core.wf.nextPc {c : Core} (g : c.wf) : (nextPc c).wf := by
  have e : (c.pc + 4).toNat % 4 = 0 := by
    have := g.pc
    rw [BitVec.toNat_add, show (4 : W32).toNat = 4 from rfl]
    omega
  unfold Machine.nextPc
  split
  · exact ⟨g.code, g.data, g.g0, e, g.target, g.dstack, g.rstack, g.drun, g.rrun⟩
  · next t n hb =>
    split
    · exact ⟨g.code, g.data, g.g0, g.target _ hb, fun _ e => absurd e (by simp), g.dstack, g.rstack, g.drun, g.rrun⟩
    · exact ⟨g.code, g.data, g.g0, e, fun p e => by rw [← Option.some.inj e]; exact g.target (t, n) hb, g.dstack, g.rstack, g.drun, g.rrun⟩

theorem memWfFrom_filterMap (e lo : Nat) (m : List Host.Cell) (w : memWfFrom erasedByte lo m = true) :
    memWfFrom erasedByte (lo - e) (m.filterMap (fun p => if e ≤ p.1 ∧ p.1 < e + 0x40000 then some (p.1 - e, p.2) else none)) = true := by
  induction m generalizing lo with
  | nil => rfl
  | cons p m ih =>
    obtain ⟨x, y⟩ := p
    simp only [memWfFrom, Bool.and_eq_true, decide_eq_true_eq] at w
    simp only [List.filterMap_cons]
    split
    · next hn => exact memWfFrom_mono _ (by omega) _ (ih _ w.2)
    · next q hq =>
      split at hq
      · next hr =>
        cases hq
        have := ih _ w.2
        simp only [memWfFrom, Bool.and_eq_true, decide_eq_true_eq]
        refine ⟨⟨by omega, w.1.2⟩, ?_⟩
        rwa [show x - e + 1 = x + 1 - e by omega]
      · cases hq

theorem reloadCode_wf {s : State} (g : s.flash.wf) : Memory.wf erasedByte (reloadCode s) = true := by
  have e (lo : Nat) (m : List Host.Cell) (w : Memory.wf erasedByte m = true) :
      Memory.wf erasedByte (m.filterMap (fun p => if lo ≤ p.1 ∧ p.1 < lo + 0x40000 then some (p.1 - lo, p.2) else none)) = true := by
    simpa [Memory.wf] using memWfFrom_filterMap lo 0 m w
  unfold reloadCode
  dsimp only
  split
  · exact e _ _ g.2.2.1
  · exact e _ _ g.2.1

theorem setCore_restarted_keeps (k : CoreIx) {s0 s : State} (h : Keeps s0 s) : Keeps s0 (setCore k (restarted s) s) := by
  refine ⟨h.queue, fun g => (setCore_keeps k (restarted s) Keeps.rfl fun _ => ?_).good (h.good g)⟩
  exact Core.wf.fresh _ (reloadCode_wf (h.good g).flash) rfl rfl rfl rfl rfl rfl

/-- Room on the stacks for a move into `dst` (R493, R531). -/
def Core.room (dst : Nat) (c : Core) : Prop :=
  (dst = 0x50 → c.dstack.length < dstackCap c) ∧ (dst = 0x49 ∨ dst = 0x54 → c.rstack.length < rstackCap c)

theorem guarded_ok {α : Type} {cs : List (Option XTrap)} {x y : α} (h : guarded cs x = .ok y) : y = x := by
  unfold guarded at h
  split at h
  · cases h
  · cases h
    rfl

theorem Core.wf.pushD {c : Core} (g : c.wf) (r : c.dstack.length < dstackCap c) (v : W32) : { c with dstack := v :: c.dstack }.wf where
  code := g.code
  data := g.data
  g0 := g.g0
  pc := g.pc
  target := g.target
  rstack := g.rstack
  rrun := g.rrun
  dstack := by
    have : dstackCap c ≤ 68 := by unfold dstackCap; split <;> omega
    simp only [List.length_cons]
    omega
  drun := fun e => by
    have : dstackCap c = 64 := by unfold dstackCap; rw [if_neg (by rw [show c.state = .running from e]; simp)]
    simp only [List.length_cons]
    omega

theorem Core.wf.pushR {c : Core} (g : c.wf) (r : c.rstack.length < rstackCap c) (v : W32) : { c with rstack := v :: c.rstack }.wf where
  code := g.code
  data := g.data
  g0 := g.g0
  pc := g.pc
  target := g.target
  dstack := g.dstack
  drun := g.drun
  rstack := by
    have : rstackCap c ≤ 34 := by unfold rstackCap; split <;> omega
    simp only [List.length_cons]
    omega
  rrun := fun e => by
    have : rstackCap c = 32 := by unfold rstackCap; rw [if_neg (by rw [show c.state = .running from e]; simp)]
    simp only [List.length_cons]
    omega

theorem Core.wf.popR {c : Core} (g : c.wf) : { c with rstack := c.rstack.tail }.wf :=
  have ht {n : Nat} (h : c.rstack.length ≤ n) : c.rstack.tail.length ≤ n := by rw [List.length_tail]; omega
  ⟨g.code, g.data, g.g0, g.pc, g.target, g.dstack, ht g.rstack, g.drun, fun e => ht (g.rrun e)⟩

theorem Core.wf.branchTo {c : Core} (g : c.wf) (a : Nat) : (branchTo a c).wf :=
  ⟨g.code, g.data, g.g0, g.pc, fun p e => by
    rw [← Option.some.inj e]
    simp only [BitVec.toNat_ofNat]
    omega, g.dstack, g.rstack, g.drun, g.rrun⟩

theorem Core.wf.csrWrite {c : Core} (g : c.wf) (k : CoreIx) (n : Nat) : (csrWrite k n c).wf := by
  unfold Machine.csrWrite
  split
  · exact g.same rfl rfl rfl rfl rfl rfl rfl (Or.inl rfl) (Or.inl rfl)
  · split
    · exact g.same rfl rfl rfl rfl rfl rfl rfl (Or.inl rfl) (Or.inl rfl)
    · split
      · exact g.same rfl rfl rfl rfl rfl rfl rfl (Or.inl rfl) (Or.inr (by simp))
      · exact g

/-- G0 reads 1 whatever is written (R487). -/
theorem setGuard_zero (n : Nat) (b : Bool) (g : Byte) (h : g.getLsbD 0 = true) : (setGuard n b g).getLsbD 0 = true := by
  unfold setGuard
  split
  · exact h
  · next hn =>
    split
    · simp [h]
    · simp [h]
      omega

theorem cmpOp_wf {port : Nat} {f : Bool → W32 → W32 → Bool} {tg : Bool} {v : W32} {c d : Core}
    (e : cmpOp port f tg v c = .ok d) (g : c.wf) : d.wf := by
  rw [guarded_ok e]
  exact ⟨g.code, g.data, setGuard_zero _ _ _ g.g0, g.pc, g.target, g.dstack, g.rstack, g.drun, g.rrun⟩

/-- A read changes the core where it pops a stack, and nowhere else (Table 20-5). -/
theorem readSource_snd (c : Core) (src : MoveSrc) : (readSource c src).2 =
    if isSource src 0x50 then { c with dstack := c.dstack.tail }
    else if isSource src 0x54 then { c with rstack := c.rstack.tail } else c := by
  cases src with
  | imm v => rfl
  | port b =>
    by_cases h1 : b.toNat = 0x50
    · simp [readSource, isSource, h1]
    · by_cases h2 : b.toNat = 0x54
      · simp [readSource, isSource, h2]
      · simp only [readSource, isSource, h1, h2, decide_false, Bool.false_eq_true, if_false, apply_ite Prod.snd, ite_self]

theorem Core.wf.readSource {c : Core} (g : c.wf) (src : MoveSrc) : (readSource c src).2.wf := by
  have ht {n : Nat} {l : List W32} (h : l.length ≤ n) : l.tail.length ≤ n := by rw [List.length_tail]; omega
  rw [readSource_snd]
  split
  · exact ⟨g.code, g.data, g.g0, g.pc, g.target, ht g.dstack, g.rstack, fun e => ht (g.drun e), g.rrun⟩
  · split
    · exact ⟨g.code, g.data, g.g0, g.pc, g.target, g.dstack, ht g.rstack, g.drun, fun e => ht (g.rrun e)⟩
    · exact g

theorem setCore_get (k : CoreIx) (f : Core → Core) (s : State) : (setCore k f s).cores[k] = f s.cores[k] := by
  simp [setCore, upd]

theorem firstTrap_none {l : List (Option XTrap)} (h : firstTrap l = none) {x : Option XTrap} (hx : x ∈ l) : x = none := by
  simpa [firstTrap, List.findSome?_eq_none_iff] using List.findSome?_eq_none_iff.mp h x hx

theorem readSource_state (c : Core) (src : MoveSrc) : (readSource c src).2.state = c.state := by
  rw [readSource_snd]
  split
  · rfl
  · split <;> rfl

theorem readSource_depths (c : Core) (src : MoveSrc) :
    (readSource c src).2.dstack.length = c.dstack.length - (if isSource src 0x50 then 1 else 0) ∧
    (readSource c src).2.rstack.length = c.rstack.length - (if isSource src 0x54 then 1 else 0) := by
  rw [readSource_snd]
  by_cases h1 : isSource src 0x50 = true
  · have h2 : isSource src 0x54 = false := by
      cases src with
      | imm v => rfl
      | port b =>
        simp only [isSource, decide_eq_true_eq] at h1
        simp [isSource, h1]
    simp [h1, h2]
  · by_cases h2 : isSource src 0x54 = true <;> simp [h1, h2]

/-- A move that has passed the stack checks has room. -/
theorem room_readSource (k : CoreIx) (dst : Nat) (src : MoveSrc) (s : State) (h : guardedTrap s k dst src = none) :
    ((setCore k (fun c => (readSource c src).2) s).cores[k]).room dst := by
  unfold Core.room
  rw [setCore_get]
  have hs : stackTrap s.cores[k] dst src = none := by
    unfold guardedTrap at h
    dsimp only at h
    split at h
    · cases h
    · exact h
  have hd := (readSource_depths s.cores[k] src).1
  have hr := (readSource_depths s.cores[k] src).2
  have e1 : dstackCap (readSource s.cores[k] src).2 = dstackCap s.cores[k] := by unfold dstackCap; rw [readSource_state]
  have e2 : rstackCap (readSource s.cores[k] src).2 = rstackCap s.cores[k] := by unfold rstackCap; rw [readSource_state]
  unfold stackTrap at hs
  dsimp only at hs
  rw [e1, e2, hd, hr]
  constructor
  · intro e
    have := firstTrap_none hs (List.mem_cons_self ..)
    by_contra hn
    rw [if_pos ⟨e, by omega⟩] at this
    cases this
  · intro e
    have := firstTrap_none hs (List.mem_cons_of_mem _ (List.mem_cons_of_mem _ (List.mem_cons_self ..)))
    by_contra hn
    rw [if_pos ⟨e, by omega⟩] at this
    cases this

end Sys2Proof.Machine
end

