-- ==== Sys2Proof/Laws/KeepsA.lean ====
section
/-! SUPPORT. What the operations keep (Laws/Keeps), one lemma per operation: Flags, Ops, TileOps, TimeOps, SchedOps, TwinOps, SetOps, Fetch, FrameOps, JobOps, GapOps, Sets, Jobs. -/
namespace Sys2Proof.Machine

/-! ### Flags -/

theorem raiseAlarm_keeps (major : Bool) (code : W16) (source : W16) {s0 s : State} (h : Keeps s0 s) :
    Keeps s0 (raiseAlarm major code source s) := by
  unfold raiseAlarm
  with_reducible repeat' first | assumption | split | apply Keeps.plain

theorem clearAlarm_keeps (code : W16) (source : W16) {s0 s : State} (h : Keeps s0 s) :
    Keeps s0 (clearAlarm code source s) := Keeps.plain h

/-! ### Ops -/

theorem setRing_keeps (n : RingIx) (f : Ring → Ring) {s0 s : State} (h : Keeps s0 s) : Keeps s0 (setRing n f s) :=
  Keeps.plain h

theorem setTile_keeps (t : TileIx) (f : Tile → Tile) {s0 s : State} (h : Keeps s0 s) : Keeps s0 (setTile t f s) :=
  Keeps.plain h

theorem setPort_keeps (p : PortIx) (f : Port → Port) {s0 s : State} (h : Keeps s0 s) : Keeps s0 (setPort p f s) :=
  Keeps.plain h

theorem setGroup_keeps (g : GroupIx) (f : SwapGroup → SwapGroup) {s0 s : State} (h : Keeps s0 s) :
    Keeps s0 (setGroup g f s) := Keeps.plain h

theorem draw_keeps {s0 s : State} (h : Keeps s0 s) : Keeps s0 (draw s).2 := Keeps.plain h

theorem drawBytes_keeps (n : Nat) {s0 s : State} (h : Keeps s0 s) : Keeps s0 (drawBytes n s).2 := Keeps.plain h

theorem hostWrite_keeps (a : Nat) (bs : List Byte) {s0 s : State} (h : Keeps s0 s) : Keeps s0 (hostWrite a bs s) :=
  Keeps.upd h (fun g => ⟨memWriteN_wf _ _ _ _ g.1, g.2⟩) id id id

theorem stackWrite_keeps (o : Nat) (bs : List Byte) {s0 s : State} (h : Keeps s0 s) : Keeps s0 (stackWrite o bs s) :=
  Keeps.upd h (fun g => ⟨g.1, memWriteN_wf _ _ _ _ g.2⟩) id id id

theorem daddrWrite_keeps (a : Nat) (bs : List Byte) {s0 s : State} (h : Keeps s0 s) : Keeps s0 (daddrWrite a bs s) := by
  unfold daddrWrite
  with_reducible repeat' first | assumption | apply stackWrite_keeps | apply hostWrite_keeps | split | apply Keeps.plain

theorem signalVector_keeps (v : Fin 128) {s0 s : State} (h : Keeps s0 s) : Keeps s0 (signalVector v s) := by
  unfold signalVector
  with_reducible repeat' first | assumption | split | apply Keeps.plain

theorem raiseCq_keeps (n : RingIx) {s0 s : State} (h : Keeps s0 s) : Keeps s0 (raiseCq n s) := by
  unfold raiseCq
  with_reducible repeat' first | assumption | apply signalVector_keeps | split

theorem raiseSq_keeps (n : RingIx) {s0 s : State} (h : Keeps s0 s) : Keeps s0 (raiseSq n s) := by
  unfold raiseSq
  with_reducible repeat' first | assumption | apply signalVector_keeps | split

theorem moderate_keeps (n : RingIx) (noIrq : Bool) {s0 s : State} (h : Keeps s0 s) : Keeps s0 (moderate n noIrq s) := by
  unfold moderate
  with_reducible repeat' first | assumption | apply raiseCq_keeps | apply setRing_keeps | split

theorem writeEntry_keeps (n : RingIx) (e : Entry) {s0 s : State} (h : Keeps s0 s) : Keeps s0 (writeEntry n e s) := by
  unfold writeEntry
  with_reducible repeat' first | assumption | apply moderate_keeps | apply setRing_keeps | apply hostWrite_keeps

theorem drainCq_keeps (n : RingIx) (fuel : Nat) {s0 s : State} (h : Keeps s0 s) : Keeps s0 (drainCq n fuel s) := by
  induction fuel generalizing s with
  | zero => exact h
  | succ fuel ih =>
    rw [drainCq]
    split
    · exact h
    · split
      · exact ih (writeEntry_keeps _ _ (setRing_keeps _ _ h))
      · exact h

theorem postEntry_keeps (n : RingIx) (e : Entry) {s0 s : State} (h : Keeps s0 s) : Keeps s0 (postEntry n e s) := by
  unfold postEntry
  with_reducible repeat' first | assumption | apply drainCq_keeps | apply setRing_keeps | split

theorem writeEvent_keeps (e : Entry) {s0 s : State} (h : Keeps s0 s) : Keeps s0 (writeEvent e s) := by
  unfold writeEvent
  with_reducible repeat' first | assumption | apply postEntry_keeps | apply Keeps.plain

theorem flushEvents_keeps (fuel : Nat) {s0 s : State} (h : Keeps s0 s) : Keeps s0 (flushEvents fuel s) := by
  induction fuel generalizing s with
  | zero => exact h
  | succ fuel ih =>
    rw [flushEvents]
    split
    · exact h
    · split
      · exact ih (writeEvent_keeps _ (Keeps.upd h id id id id))
      · exact h

theorem keepEvent_keeps (e : Entry) {s0 s : State} (h : Keeps s0 s) : Keeps s0 (keepEvent e s) := by
  unfold keepEvent
  with_reducible repeat' first | assumption | apply setRing_keeps | split | apply Keeps.plain

theorem event_keeps (code : W16) (source : W16) (data : W16) {s0 s : State} (h : Keeps s0 s) :
    Keeps s0 (event code source data s) := by
  unfold event
  try dsimp only
  repeat' first
    | (with_reducible first | assumption | apply writeEvent_keeps | apply keepEvent_keeps)
    | exact fun (g : MemSys.wf _) => g | exact fun (g : Flash.wf _) => g
    | exact fun (g : XShared.wf _) => g | exact fun (g : coresWf _) => g
    | intro _ | split | (with_reducible refine Keeps.upd ?_ ?_ ?_ ?_ ?_)

theorem finish_keeps (n : RingIx) (f : Fetched) (r : Reply) {s0 s : State} (h : Keeps s0 s) :
    Keeps s0 (finish n f r s) := by
  unfold finish
  try dsimp only
  repeat' first
    | (with_reducible first | assumption | apply setCore_keeps | apply setRing_keeps | apply postEntry_keeps)
    | exact fun (g : MemSys.wf _) => g | exact fun (g : Flash.wf _) => g
    | exact fun (g : XShared.wf _) => g | exact fun (g : coresWf _) => g
    | (intro g; exact g.flashDone _)
    | (intro g; exact g.same rfl rfl rfl rfl rfl rfl rfl (Or.inl rfl) (Or.inl rfl))
    | (intro g; exact g.same rfl rfl rfl rfl rfl rfl rfl (Or.inr rfl) (Or.inl rfl))
    | (intro g; exact g.same rfl rfl rfl rfl rfl rfl rfl (Or.inr rfl) (Or.inr (by simp)))
    | intro _ | split | (with_reducible refine Keeps.upd ?_ ?_ ?_ ?_ ?_)

theorem complete_keeps (n : RingIx) (f : Fetched) (r : Reply) {s0 s : State} (h : Keeps s0 s) :
    Keeps s0 (complete n f r s) := by
  unfold complete
  with_reducible repeat' first | assumption | apply finish_keeps | split

theorem completeAny_keeps (f : Fetched) (r : Reply) {s0 s : State} (h : Keeps s0 s) : Keeps s0 (completeAny f r s) := by
  unfold completeAny
  with_reducible repeat' first | assumption | apply complete_keeps | split

theorem completeAll_keeps (n : RingIx) (fs : List Fetched) (c : W16) {s0 s : State} (h : Keeps s0 s) :
    Keeps s0 (completeAll n fs c s) := by
  unfold completeAll
  with_reducible repeat' first | assumption | apply complete_keeps | apply Keeps.foldl | intro _ | exact Keeps.rfl

theorem dispatch_keeps (n : RingIx) (f : Fetched) {s0 s : State} (h : Keeps s0 s) : Keeps s0 (dispatch n f s) :=
  setRing_keeps _ _ h

theorem serve_keeps (op : Nat → Bool) (n : RingIx) (args : Fetched → State → List (Nat × Bool)) (body : Fetched → State → Body)
    {s0 s : State} (h : Keeps s0 s) (hb : ∀ f t, Keeps s0 t → BodyKeeps s0 (body f t)) :
    ResultKeeps s0 (serve op n args body s) := by
  have c {t : State} (g : Keeps s0 t) (f : Fetched) (r : Reply) : ResultKeeps s0 (.next (complete n f r t)) :=
    complete_keeps n f r g
  unfold serve
  split
  · exact h
  · split
    · exact h
    · next f _ =>
      split
      · exact c h _ _
      · have d := dispatch_keeps n f h
        dsimp only
        split
        · exact c d _ _
        · split
          · exact c d _ _
          · have e := hb f _ d
            split
            · next t ht => rw [ht] at e; exact e
            · next t r ht => rw [ht] at e; exact c e _ _

theorem writeThen_keeps (a : Nat) (bs : List Byte) (r : Reply) {s0 s : State} (h : Keeps s0 s) :
    BodyKeeps s0 (writeThen a bs r s) := by
  unfold writeThen
  with_reducible repeat' first | assumption | apply daddrWrite_keeps | apply Keeps.bodyDone | apply Keeps.bodyRunning | split

theorem requestTakeover_keeps (cause : W16) {s0 s : State} (h : Keeps s0 s) : Keeps s0 (requestTakeover cause s) := by
  unfold requestTakeover
  with_reducible repeat' first | assumption | split | apply Keeps.plain

theorem forceRelease_keeps {s0 s : State} (h : Keeps s0 s) : Keeps s0 (forceRelease s) := Keeps.plain h

theorem withdrawTakeover_keeps (cause : W16) {s0 s : State} (h : Keeps s0 s) : Keeps s0 (withdrawTakeover cause s) := by
  unfold withdrawTakeover
  with_reducible repeat' first | assumption | split | apply Keeps.plain

/-! ### TileOps -/

theorem tileEvent_keeps (k : Nat) (t : TileIx) {s0 s : State} (h : Keeps s0 s) :
    Keeps s0 (tileEvent k t s) := by
  unfold tileEvent
  with_reducible repeat' first | assumption | apply event_keeps | split | apply Keeps.plain

theorem enterTile_keeps (t : TileIx) (st : TileState) {s0 s : State} (h : Keeps s0 s) : Keeps s0 (enterTile t st s) := by
  unfold enterTile
  with_reducible repeat' first | assumption | apply setTile_keeps | apply event_keeps | apply raiseAlarm_keeps | split

/-! ### TimeOps -/

theorem setComparator_keeps (i : Fin 64) (e : Option ArmedEvent) {s0 s : State} (h : Keeps s0 s) :
    Keeps s0 (setComparator i e s) := Keeps.plain h

theorem enterSync_keeps (st : SyncState) {s0 s : State} (h : Keeps s0 s) : Keeps s0 (enterSync st s) := by
  unfold enterSync
  with_reducible repeat' first | assumption | apply event_keeps | apply clearAlarm_keeps | apply raiseAlarm_keeps | split | apply Keeps.plain

theorem oscRound_keeps {s0 s : State} (h : Keeps s0 s) :
    Keeps s0 (oscRound s) := by
  unfold oscRound
  with_reducible repeat' first | assumption | split | apply Keeps.plain

/-! ### SchedOps -/

/-! ### TwinOps -/

theorem sendFrame_keeps (type : Byte) (flags : Byte) (payload : List Byte) {s0 s : State} (h : Keeps s0 s) :
    Keeps s0 (sendFrame type flags payload s) := Keeps.plain h

theorem sendMessage_keeps (type : Byte) (payload : List Byte) {s0 s : State} (h : Keeps s0 s) :
    Keeps s0 (sendMessage type payload s) := by
  unfold sendMessage
  with_reducible repeat' first | assumption | apply sendFrame_keeps | apply Keeps.foldl | intro _ | exact Keeps.rfl | split

theorem sendIfUp_keeps (type : Byte) (payload : List Byte) {s0 s : State} (h : Keeps s0 s) :
    Keeps s0 (sendIfUp type payload s) := by
  unfold sendIfUp
  with_reducible repeat' first | assumption | apply sendMessage_keeps | split

theorem mirror_keeps (g : Option Nat) (desc : List Byte) (entries : List Byte) {s0 s : State} (h : Keeps s0 s) :
    Keeps s0 (mirror g desc entries s) := by
  unfold mirror
  with_reducible repeat' first | assumption | apply sendIfUp_keeps | split | apply Keeps.plain

theorem mirrorSwap_keeps (g : GroupIx) (at_ : Nat) {s0 s : State} (h : Keeps s0 s) : Keeps s0 (mirrorSwap g at_ s) :=
  mirror_keeps _ _ _ h

theorem mirrorMemory_keeps (g : GroupIx) (addr n : Nat) {s0 s : State} (h : Keeps s0 s) :
    Keeps s0 (mirrorMemory g addr n s) := by
  unfold mirrorMemory
  with_reducible repeat' first | assumption | apply sendIfUp_keeps | split | apply Keeps.plain

/-! ### SetOps -/

theorem completeId_keeps (n : RingIx) (id1 : Nat) (r : Reply) {s0 s : State} (h : Keeps s0 s) :
    Keeps s0 (completeId n id1 r s) := by
  unfold completeId
  with_reducible repeat' first | assumption | apply complete_keeps | split

theorem settleShadow_keeps (g : GroupIx) {s0 s : State} (h : Keeps s0 s) : Keeps s0 (settleShadow g s) :=
  setGroup_keeps _ _ h

theorem tryFinishCommit_keeps (g : GroupIx) {s0 s : State} (h : Keeps s0 s) : Keeps s0 (tryFinishCommit g s) := by
  unfold tryFinishCommit
  with_reducible repeat' first | assumption | apply completeId_keeps | apply settleShadow_keeps | apply setGroup_keeps | split

theorem moveBoundary_keeps {s0 s : State} (h : Keeps s0 s) : Keeps s0 (moveBoundary s) := Keeps.plain h

theorem cutSlot_keeps (x : RadioSlot) (r : Reply) {s0 s : State} (h : Keeps s0 s) : Keeps s0 (cutSlot x r s) := by
  unfold cutSlot
  with_reducible repeat' first | assumption | apply completeId_keeps | apply Keeps.plain

theorem rebindSlot_keeps (x : RadioSlot) {s0 s : State} (h : Keeps s0 s) : Keeps s0 (rebindSlot s x) := by
  unfold rebindSlot
  dsimp only
  repeat' first | (with_reducible first | assumption | apply cutSlot_keeps) | split | (with_reducible apply Keeps.plain)

theorem rebindSlots_keeps {s0 s : State} (h : Keeps s0 s) : Keeps s0 (rebindSlots s) :=
  Keeps.foldl h _ _ (fun _ x => rebindSlot_keeps x Keeps.rfl)

theorem doSwap_keeps (g : GroupIx) {s0 s : State} (h : Keeps s0 s) : Keeps s0 (doSwap g s) := by
  unfold doSwap
  dsimp only
  repeat' first | (with_reducible first | assumption | apply setGroup_keeps | apply rebindSlots_keeps | apply moveBoundary_keeps | apply settleShadow_keeps) | split | (with_reducible apply Keeps.plain)

theorem waitSwap_keeps (g : GroupIx) (n : RingIx) (id result : Nat) {s0 s : State} (h : Keeps s0 s) :
    Keeps s0 (waitSwap g n id result s) := by
  unfold waitSwap
  with_reducible repeat' first | assumption | apply setGroup_keeps | split | apply Keeps.plain

theorem releaseGroup_keeps (g : GroupIx) {s0 s : State} (h : Keeps s0 s) :
    Keeps s0 (releaseGroup g s) := by
  unfold releaseGroup
  with_reducible repeat' first | assumption | split | apply Keeps.plain

theorem markHeld_keeps (g : GroupIx) {s0 s : State} (h : Keeps s0 s) : Keeps s0 (markHeld g s) := Keeps.plain h

/-! ### Fetch -/

theorem dropMessages_keeps (m : RadioSet) (g nprb : Nat) (cs : List CSection) (syms : List Nat) {s0 s : State}
    (h : Keeps s0 s) : Keeps s0 (dropMessages m g nprb cs syms s) := by
  refine Keeps.foldl h _ _ fun t i => ?_
  dsimp only
  split
  · exact Keeps.rfl
  · exact Keeps.plain Keeps.rfl

theorem setGroupCnt_keeps (g : GroupIx) (f : GroupCnt → GroupCnt) {s0 s : State} (h : Keeps s0 s) :
    Keeps s0 (setGroupCnt g f s) := Keeps.plain h

theorem countLate_keeps (g : GroupIx) {s0 s : State} (h : Keeps s0 s) : Keeps s0 (countLate g s) := by
  unfold countLate
  with_reducible repeat' first | assumption | apply setGroupCnt_keeps | apply raiseAlarm_keeps | apply event_keeps | split | apply Keeps.plain

theorem dropLate_keeps (g : GroupIx) (d : Descriptor) {s0 s : State} (h : Keeps s0 s) : Keeps s0 (dropLate g d s) := by
  unfold dropLate
  dsimp only
  split
  · exact h
  · split
    · exact h
    · exact dropMessages_keeps _ _ _ _ _ h

theorem countOnTime_keeps (g : GroupIx) {s0 s : State} (h : Keeps s0 s) : Keeps s0 (countOnTime g s) := by
  unfold countOnTime
  with_reducible repeat' first | assumption | apply clearAlarm_keeps | apply Keeps.plain

theorem enqueueCmd_keeps (n : RingIx) (f : Fetched) {s0 s : State} (h : Keeps s0 s) : Keeps s0 (enqueueCmd n f s) :=
  setRing_keeps _ _ h

theorem admitSlot_keeps (n : RingIx) (f : Fetched) {s0 s : State} (h : Keeps s0 s) : Keeps s0 (admitSlot n f s) := by
  unfold admitSlot
  dsimp only
  repeat' first | (with_reducible first | assumption | apply finish_keeps | apply dropLate_keeps | apply countLate_keeps | apply countOnTime_keeps | apply enqueueCmd_keeps) | split | (with_reducible apply Keeps.plain)

theorem admitOne_keeps (n : RingIx) (resv : Nat) (d : Descriptor) {s0 s : State} (h : Keeps s0 s) :
    Keeps s0 (admitOne n resv s d) := by
  unfold admitOne
  with_reducible repeat' first | assumption | apply finish_keeps | apply admitSlot_keeps | apply enqueueCmd_keeps | split | apply Keeps.plain

theorem fetchRead_keeps (n : RingIx) (k : Nat) (resv : Nat) {s0 s : State} (h : Keeps s0 s) :
    Keeps s0 (fetchRead n k resv s) := by
  unfold fetchRead
  dsimp only
  with_reducible repeat' first 
    | assumption | apply setRing_keeps | apply admitOne_keeps | apply raiseSq_keeps | apply Keeps.foldl | intro _
    | exact Keeps.rfl | split

theorem execDescriptorFetch_keeps (ring : RingIx) {s0 s : State} (h : Keeps s0 s) :
    ResultKeeps s0 (execDescriptorFetch ring s) := by
  unfold execDescriptorFetch
  dsimp only
  with_reducible repeat' first | assumption | apply setRing_keeps | apply fetchRead_keeps | apply Keeps.next | split

theorem haltRing_keeps (n : RingIx) (cause : W16) {s0 s : State} (h : Keeps s0 s) : Keeps s0 (haltRing n cause s) := by
  unfold haltRing
  with_reducible repeat' first | assumption | apply event_keeps | apply setRing_keeps | apply raiseAlarm_keeps | split

theorem execFetchFailure_keeps (ring : RingIx) {s0 s : State} (h : Keeps s0 s) :
    ResultKeeps s0 (execFetchFailure ring s) := by
  unfold execFetchFailure
  with_reducible repeat' first | assumption | apply setRing_keeps | apply haltRing_keeps | apply completeAll_keeps | apply Keeps.next | split

theorem execCompletionWriteFailure_keeps (ring : RingIx) {s0 s : State} (h : Keeps s0 s) :
    ResultKeeps s0 (execCompletionWriteFailure ring s) := by
  unfold execCompletionWriteFailure
  with_reducible repeat' first | assumption | apply haltRing_keeps | apply setRing_keeps | apply Keeps.next | split

theorem execFetchProgressWatchdog_keeps {s0 s : State} (h : Keeps s0 s) : ResultKeeps s0 (execFetchProgressWatchdog s) := by
  unfold execFetchProgressWatchdog
  dsimp only
  repeat' first | (with_reducible first | assumption | apply requestTakeover_keeps | apply raiseAlarm_keeps | apply Keeps.next) | split | (with_reducible apply Keeps.plain)

/-! ### FrameOps -/

theorem sendEcpri_keeps (p : PortIx) (bs : List Byte) {s0 s : State} (h : Keeps s0 s) : Keeps s0 (sendEcpri p bs s) :=
  Keeps.plain h

/-! ### JobOps -/

theorem atomicInto_keeps (addr : Nat) (v : FVal) {s0 s : State} (h : Keeps s0 s) : Keeps s0 (atomicInto addr v s) :=
  daddrWrite_keeps _ _ h

theorem setJob_keeps (id1 : Nat) (f : Job → Job) {s0 s : State} (h : Keeps s0 s) : Keeps s0 (setJob id1 f s) :=
  Keeps.plain h

theorem dropJob_keeps (id1 : Nat) {s0 s : State} (h : Keeps s0 s) : Keeps s0 (dropJob id1 s) := Keeps.plain h

theorem finishJobAt_keeps (j : Job) (codes : List W16) (result : Nat) (detail : Nat) {s0 s : State} (h : Keeps s0 s) :
    Keeps s0 (finishJobAt j codes result detail s) := by
  unfold finishJobAt
  with_reducible repeat' first | assumption | apply daddrWrite_keeps | apply completeId_keeps | apply dropJob_keeps | split

theorem finishJob_keeps (j : Job) (codes : List W16) (detail : Nat) {s0 s : State} (h : Keeps s0 s) :
    Keeps s0 (finishJob j codes detail s) := finishJobAt_keeps _ _ _ _ h

theorem freeRegion_keeps (a : Nat) (n : Nat) {s0 s : State} (h : Keeps s0 s) : Keeps s0 (freeRegion a n s) := by
  unfold freeRegion
  with_reducible repeat' first | assumption | apply daddrWrite_keeps | apply drawBytes_keeps

theorem stopJob_keeps (j : Job) (code : W16) (detail : Nat) {s0 s : State} (h : Keeps s0 s) :
    Keeps s0 (stopJob j code detail s) := by
  unfold stopJob
  with_reducible repeat' first | assumption | apply freeRegion_keeps | apply finishJob_keeps | split

/-! ### GapOps -/

theorem enterMaint_keeps (t : TileIx) {s0 s : State} (h : Keeps s0 s) : Keeps s0 (enterMaint t s) := by
  unfold enterMaint
  with_reducible repeat' first | assumption | apply enterTile_keeps | apply setTile_keeps

theorem beginStep_keeps (t : TileIx) {s0 s : State} (h : Keeps s0 s) : Keeps s0 (beginStep t s) := by
  unfold beginStep
  dsimp only
  with_reducible repeat' first | assumption | apply enterMaint_keeps | apply setTile_keeps | split

theorem openGap_keeps (t : TileIx) (k : GapKind) {s0 s : State} (h : Keeps s0 s) : Keeps s0 (openGap t k s) :=
  setTile_keeps _ _ h

theorem openDeclared_keeps (t : TileIx) {s0 s : State} (h : Keeps s0 s) :
    Keeps s0 (openDeclared t s) := by
  unfold openDeclared
  with_reducible repeat' first
    | assumption | apply setTile_keeps | apply beginStep_keeps | apply openGap_keeps | split | apply Keeps.plain

theorem finishControl_keeps (t : TileIx) {s0 s : State} (h : Keeps s0 s) : Keeps s0 (finishControl t s) := by
  unfold finishControl
  with_reducible repeat' first | assumption | apply completeId_keeps | apply setTile_keeps | split

/-! ### Sets -/

theorem illegal_keeps {s0 s : State} (h : Keeps s0 s) : BodyKeeps s0 (illegal s) := Keeps.plain h

theorem setOpenBody_keeps (f : Fetched) {s0 s : State} (h : Keeps s0 s) : BodyKeeps s0 (setOpenBody f s) := by
  unfold setOpenBody
  dsimp only
  with_reducible repeat' first 
    | assumption | apply illegal_keeps | apply mirror_keeps | apply setGroup_keeps | apply Keeps.bodyDone
    | apply Keeps.bodyRunning | split | apply Keeps.plain

theorem execSetOpen_keeps (ring : RingIx) {s0 s : State} (h : Keeps s0 s) : ResultKeeps s0 (execSetOpen ring s) := by
  unfold execSetOpen
  with_reducible repeat' first | assumption | apply serve_keeps | apply setOpenBody_keeps | intro _ | apply Keeps.next

theorem setStageBody_keeps (f : Fetched) {s0 s : State} (h : Keeps s0 s) : BodyKeeps s0 (setStageBody f s) := by
  unfold setStageBody
  dsimp only
  repeat' first | (with_reducible first | assumption | apply illegal_keeps | apply mirror_keeps | apply Keeps.bodyDone | apply Keeps.bodyRunning) | split | (with_reducible apply Keeps.plain)

theorem execSetStage_keeps (ring : RingIx) {s0 s : State} (h : Keeps s0 s) : ResultKeeps s0 (execSetStage ring s) := by
  unfold execSetStage
  with_reducible repeat' first | assumption | apply serve_keeps | apply setStageBody_keeps | intro _ | apply Keeps.next

theorem storeCrcs_keeps {s0 s : State} (h : Keeps s0 s) : Keeps s0 (storeCrcs s) := Keeps.plain h

theorem loadMembers_keeps (g : GroupIx) {s0 s : State} (h : Keeps s0 s) : Keeps s0 (loadMembers g s) := Keeps.plain h

theorem mirrorReferenced_keeps (g : GroupIx) {s0 s : State} (h : Keeps s0 s) :
    Keeps s0 (mirrorReferenced g s) := by
  unfold mirrorReferenced
  with_reducible repeat' first
    | assumption | apply mirrorMemory_keeps | apply Keeps.foldl | intro _ | exact Keeps.rfl | split
    | apply Keeps.plain

theorem setCommitBody_keeps (n : RingIx) (f : Fetched) {s0 s : State} (h : Keeps s0 s) :
    BodyKeeps s0 (setCommitBody n f s) := by
  unfold setCommitBody
  dsimp only
  with_reducible repeat' first 
    | assumption | apply illegal_keeps | apply storeCrcs_keeps | apply loadMembers_keeps
    | apply mirrorReferenced_keeps | apply mirror_keeps | apply tryFinishCommit_keeps | apply setGroup_keeps
    | apply Keeps.bodyDone | apply Keeps.bodyRunning | split | apply Keeps.plain

theorem execSetCommit_keeps (ring : RingIx) {s0 s : State} (h : Keeps s0 s) : ResultKeeps s0 (execSetCommit ring s) := by
  unfold execSetCommit
  with_reducible repeat' first | assumption | apply serve_keeps | apply setCommitBody_keeps | intro _ | apply Keeps.next

theorem setDiscardBody_keeps (f : Fetched) {s0 s : State} (h : Keeps s0 s) : BodyKeeps s0 (setDiscardBody f s) := by
  unfold setDiscardBody
  dsimp only
  with_reducible repeat' first 
    | assumption | apply illegal_keeps | apply mirror_keeps | apply setGroup_keeps | apply Keeps.bodyDone
    | apply Keeps.bodyRunning | split

theorem execSetDiscard_keeps (ring : RingIx) {s0 s : State} (h : Keeps s0 s) : ResultKeeps s0 (execSetDiscard ring s) := by
  unfold execSetDiscard
  with_reducible repeat' first | assumption | apply serve_keeps | apply setDiscardBody_keeps | intro _ | apply Keeps.next

theorem setSwapBody_keeps (n : RingIx) (f : Fetched) {s0 s : State} (h : Keeps s0 s) :
    BodyKeeps s0 (setSwapBody n f s) := by
  unfold setSwapBody
  dsimp only
  with_reducible repeat' first
    | assumption | apply setComparator_keeps | apply mirrorSwap_keeps | apply settleShadow_keeps | apply doSwap_keeps
    | apply waitSwap_keeps | apply markHeld_keeps | apply illegal_keeps | apply Keeps.bodyDone
    | apply Keeps.bodyRunning | split | apply Keeps.plain

theorem execSetSwap_keeps (ring : RingIx) {s0 s : State} (h : Keeps s0 s) : ResultKeeps s0 (execSetSwap ring s) := by
  unfold execSetSwap
  with_reducible repeat' first | assumption | apply serve_keeps | apply setSwapBody_keeps | intro _ | apply Keeps.next

theorem setReadBody_keeps (f : Fetched) {s0 s : State} (h : Keeps s0 s) : BodyKeeps s0 (setReadBody f s) := by
  unfold setReadBody
  dsimp only
  repeat' first | (with_reducible first | assumption | apply illegal_keeps | apply writeThen_keeps | apply Keeps.bodyDone | apply Keeps.bodyRunning) | split

theorem execSetRead_keeps (ring : RingIx) {s0 s : State} (h : Keeps s0 s) : ResultKeeps s0 (execSetRead ring s) := by
  unfold execSetRead
  with_reducible repeat' first | assumption | apply serve_keeps | apply setReadBody_keeps | intro _ | apply Keeps.next

theorem applyMembers_keeps (g : GroupIx) (m : BitVec 10) {s0 s : State} (h : Keeps s0 s) :
    Keeps s0 (applyMembers g m s) := by
  unfold applyMembers
  with_reducible repeat' first | assumption | apply setGroup_keeps | split | apply Keeps.plain

theorem tryJoin_keeps (g : GroupIx) {s0 s : State} (h : Keeps s0 s) : Keeps s0 (tryJoin g s) := by
  unfold tryJoin
  with_reducible repeat' first | assumption | apply completeId_keeps | apply applyMembers_keeps | split

theorem setMemberBody_keeps (n : RingIx) (f : Fetched) {s0 s : State} (h : Keeps s0 s) :
    BodyKeeps s0 (setMemberBody n f s) := by
  unfold setMemberBody
  dsimp only
  with_reducible repeat' first 
    | assumption | apply illegal_keeps | apply tryJoin_keeps | apply mirror_keeps | apply setGroup_keeps
    | apply Keeps.bodyDone | apply Keeps.bodyRunning | split

theorem execSetMember_keeps (ring : RingIx) {s0 s : State} (h : Keeps s0 s) : ResultKeeps s0 (execSetMember ring s) := by
  unfold execSetMember
  with_reducible repeat' first | assumption | apply serve_keeps | apply setMemberBody_keeps | intro _ | apply Keeps.next

theorem swapFirst_keeps (g : GroupIx) {s0 s : State} (h : Keeps s0 s) :
    Keeps s0 (swapFirst g s) := by
  unfold swapFirst
  with_reducible repeat' first
    | assumption | apply setGroup_keeps | apply completeId_keeps | apply doSwap_keeps | apply releaseGroup_keeps
    | split | apply Keeps.plain

theorem trySwap_keeps (g : GroupIx) {s0 s : State} (h : Keeps s0 s) :
    Keeps s0 (trySwap g s) := by
  unfold trySwap
  with_reducible repeat' first
    | assumption | apply swapFirst_keeps | apply Keeps.foldl | intro _ | exact Keeps.rfl | split | apply Keeps.plain

theorem groupBoundary_keeps (t : TileIx) {s0 s : State} (h : Keeps s0 s) :
    Keeps s0 (groupBoundary t s) := by
  unfold groupBoundary
  with_reducible repeat' first | assumption | apply setTile_keeps | apply trySwap_keeps | split | apply Keeps.plain

theorem atPassBoundary_keeps (t : TileIx) {s0 s : State} (h : Keeps s0 s) :
    Keeps s0 (atPassBoundary t s) := by
  unfold atPassBoundary
  with_reducible repeat' first
    | assumption | apply setTile_keeps | apply groupBoundary_keeps | split | apply Keeps.plain

theorem beginSegment_keeps (t : TileIx) {s0 s : State} (h : Keeps s0 s) :
    Keeps s0 (beginSegment t s) := by
  unfold beginSegment
  with_reducible repeat' first | assumption | split | apply Keeps.plain

theorem loadUsed_keeps (t : TileIx) (l : ShadowLoad) {s0 s : State} (h : Keeps s0 s) :
    Keeps s0 (loadUsed t l s) := by
  unfold loadUsed
  with_reducible repeat' first
    | assumption | apply setTile_keeps | apply tryFinishCommit_keeps | apply trySwap_keeps | apply beginSegment_keeps
    | split | apply Keeps.plain

theorem execShadowLoadDone_keeps (tile : TileIx) {s0 s : State} (h : Keeps s0 s) :
    ResultKeeps s0 (execShadowLoadDone tile s) := by
  unfold execShadowLoadDone
  with_reducible repeat' first
    | assumption | apply setTile_keeps | apply loadUsed_keeps | apply Keeps.next | split | apply Keeps.plain

/-! ### Jobs -/

theorem acceptMatrix_keeps (ring : RingIx) (f : Fetched) (kind : JobKind) (p : JobParams) (e : FusionEntry) (per : Nat) (ds : List (Fin 2)) {s0 s : State} (h : Keeps s0 s) :
    Keeps s0 (acceptMatrix ring f kind p e per ds s) := Keeps.plain h

theorem matmulBody_keeps (ring : RingIx) (f : Fetched) {s0 s : State} (h : Keeps s0 s) :
    BodyKeeps s0 (matmulBody ring f s) := by
  unfold matmulBody
  dsimp only
  repeat' first | (with_reducible first | assumption | apply illegal_keeps | apply acceptMatrix_keeps | apply Keeps.bodyDone | apply Keeps.bodyRunning) | split | (with_reducible apply Keeps.plain)

theorem execMatmul_keeps (ring : RingIx) {s0 s : State} (h : Keeps s0 s) : ResultKeeps s0 (execMatmul ring s) := by
  unfold execMatmul
  with_reducible repeat' first | assumption | apply serve_keeps | apply matmulBody_keeps | intro _ | apply Keeps.next

theorem residentBody_keeps (ring : RingIx) (f : Fetched) {s0 s : State} (h : Keeps s0 s) :
    BodyKeeps s0 (residentBody ring f s) := by
  unfold residentBody
  dsimp only
  repeat' first | (with_reducible first | assumption | apply illegal_keeps | apply acceptMatrix_keeps | apply Keeps.bodyDone | apply Keeps.bodyRunning) | split | (with_reducible apply Keeps.plain)

theorem execResident_keeps (ring : RingIx) {s0 s : State} (h : Keeps s0 s) : ResultKeeps s0 (execResident ring s) := by
  unfold execResident
  with_reducible repeat' first | assumption | apply serve_keeps | apply residentBody_keeps | intro _ | apply Keeps.next

theorem skipRest_keeps (j : Job) {s0 s : State} (h : Keeps s0 s) : Keeps s0 (skipRest j s) := by
  unfold skipRest
  with_reducible repeat' first | assumption | apply daddrWrite_keeps | apply Keeps.foldl | intro _ | exact Keeps.rfl | split

theorem stopAny_keeps (j : Job) (code : W16) {s0 s : State} (h : Keeps s0 s) : Keeps s0 (stopAny j code s) := by
  unfold stopAny
  with_reducible repeat' first | assumption | apply stopJob_keeps | apply finishJob_keeps | apply skipRest_keeps | split

theorem jobAbortBody_keeps (ring : RingIx) (f : Fetched) {s0 s : State} (h : Keeps s0 s) :
    BodyKeeps s0 (jobAbortBody ring f s) := by
  unfold jobAbortBody
  dsimp only
  with_reducible repeat' first 
    | assumption | apply illegal_keeps | apply stopAny_keeps | apply completeAll_keeps | apply Keeps.foldl
    | intro _ | exact Keeps.rfl | apply Keeps.bodyDone | apply Keeps.bodyRunning | split

theorem execJobAbort_keeps (ring : RingIx) {s0 s : State} (h : Keeps s0 s) : ResultKeeps s0 (execJobAbort ring s) := by
  unfold execJobAbort
  with_reducible repeat' first | assumption | apply serve_keeps | apply jobAbortBody_keeps | intro _ | apply Keeps.next

theorem takeTurn_keeps (j : Job) (t : TileIx) (cost : Nat) {s0 s : State} (h : Keeps s0 s) :
    Keeps s0 (takeTurn j t cost s) := by
  unfold takeTurn
  with_reducible repeat' first | assumption | split | apply Keeps.plain

theorem checkEvent_keeps (t : TileIx) (failed : Bool) {s0 s : State} (h : Keeps s0 s) :
    Keeps s0 (checkEvent t failed s) := by
  unfold checkEvent
  with_reducible repeat' first | assumption | apply tileEvent_keeps | split | apply Keeps.plain

theorem countMiss_keeps (j : Job) {s0 s : State} (h : Keeps s0 s) : Keeps s0 (countMiss j s) := by
  unfold countMiss
  with_reducible repeat' first | assumption | split | apply Keeps.plain

theorem startSegment_keeps (j : Job) (t : TileIx) (row : Nat) (col : Nat) (first : Nat) (count : Nat) (miss : Bool) {s0 s : State} (h : Keeps s0 s) :
    Keeps s0 (startSegment j t row col first count miss s) := by
  unfold startSegment
  with_reducible repeat' first | assumption | apply setTile_keeps | apply setRing_keeps | split | apply Keeps.plain

theorem execSegmentDispatch_keeps (tile : TileIx) (job row col first count : Nat) {s0 s : State} (h : Keeps s0 s) :
    ResultKeeps s0 (execSegmentDispatch tile job row col first count s) := by
  unfold execSegmentDispatch
  dsimp only
  with_reducible repeat' first
    | assumption | apply stopJob_keeps | apply checkEvent_keeps | apply countMiss_keeps | apply startSegment_keeps
    | apply Keeps.next | split | apply Keeps.plain

theorem tryJoins_keeps {s0 s : State} (h : Keeps s0 s) : Keeps s0 (tryJoins s) := by
  unfold tryJoins
  with_reducible repeat' first | assumption | apply tryJoin_keeps | apply Keeps.foldl | intro _ | exact Keeps.rfl

theorem settleTile_keeps (t : TileIx) {s0 s : State} (h : Keeps s0 s) : Keeps s0 (settleTile t s) := by
  unfold settleTile
  dsimp only
  with_reducible repeat' first | assumption | apply enterMaint_keeps | apply setTile_keeps | apply beginStep_keeps | split

theorem tryPower_keeps {s0 s : State} (h : Keeps s0 s) : Keeps s0 (tryPower s) := by
  unfold tryPower
  split
  · exact h
  · refine Keeps.ite h (Keeps.ite (Keeps.ite h (completeAny_keeps _ _ (Keeps.upd h id id id id))) ?_)
    dsimp only
    have a : Keeps s0 ((List.finRange 10).foldl (fun s t => if s.tiles[t].resting then settleTile t s else s) s) :=
      Keeps.foldl h _ _ fun _ _ => Keeps.ite (settleTile_keeps _ Keeps.rfl) Keeps.rfl
    revert a
    generalize (List.finRange 10).foldl (fun s t => if s.tiles[t].resting then settleTile t s else s) s = s1
    intro a
    exact Keeps.ite a (completeAny_keeps _ _ (Keeps.upd a id id id id))

theorem advanceTile_keeps (t : TileIx) (id : Nat) {s0 s : State} (h : Keeps s0 s) :
    Keeps s0 (advanceTile t id s) := by
  unfold advanceTile
  with_reducible repeat' first | assumption | apply setTile_keeps | apply beginSegment_keeps | split | apply Keeps.plain

theorem releaseTile_keeps (t : TileIx) {s0 s : State} (h : Keeps s0 s) :
    Keeps s0 (releaseTile t s) := by
  unfold releaseTile
  with_reducible repeat' first
    | assumption | apply setTile_keeps | apply settleTile_keeps | apply advanceTile_keeps | split | apply Keeps.plain

theorem segmentOver_keeps (t : TileIx) {s0 s : State} (h : Keeps s0 s) :
    Keeps s0 (segmentOver t s) := by
  unfold segmentOver
  with_reducible repeat' first
    | assumption | apply atPassBoundary_keeps | apply tryJoins_keeps | apply releaseTile_keeps | split
    | apply Keeps.plain

theorem execSegmentEnd_keeps (tile : TileIx) {s0 s : State} (h : Keeps s0 s) :
    ResultKeeps s0 (execSegmentEnd tile s) := by
  unfold execSegmentEnd
  with_reducible repeat' first
    | assumption | apply setJob_keeps | apply stopJob_keeps | apply checkEvent_keeps | apply countMiss_keeps
    | apply segmentOver_keeps | apply Keeps.next | split | apply Keeps.plain

theorem rawPass_keeps (j : Job) (t : TileIx) (v : Staged) (samples : List (BitVec 12)) {s0 s : State} (h : Keeps s0 s) :
    Keeps s0 (rawPass j t v samples s) := by
  unfold rawPass
  with_reducible repeat' first | assumption | apply setTile_keeps | apply daddrWrite_keeps | split | apply Keeps.plain

theorem execSampleFold_keeps (tile : TileIx) (job row col pass : Nat) (raw : List (List Byte)) (odd : Bool) {s0 s : State} (h : Keeps s0 s) :
    ResultKeeps s0 (execSampleFold tile job row col pass raw odd s) := by
  unfold execSampleFold
  with_reducible repeat' first
    | assumption | apply setTile_keeps | apply setJob_keeps | apply atPassBoundary_keeps | apply rawPass_keeps
    | apply Keeps.next | split | apply Keeps.plain

theorem execChainReceive_keeps (job : Nat) {s0 s : State} (h : Keeps s0 s) : ResultKeeps s0 (execChainReceive job s) := by
  unfold execChainReceive
  with_reducible repeat' first | assumption | apply setJob_keeps | apply Keeps.next | split

theorem execAtomicAdd_keeps (addr : W64) (value : W32) {s0 s : State} (h : Keeps s0 s) :
    ResultKeeps s0 (execAtomicAdd addr value s) := by
  unfold execAtomicAdd
  dsimp only
  with_reducible repeat' first | assumption | apply atomicInto_keeps | apply Keeps.next | split

end Sys2Proof.Machine
end

