-- ==== Sys2Proof/Laws/KeepsB.lean ====
section
/-! SUPPORT. What the operations keep (Laws/Keeps), one lemma per operation: RadioOps, Reduce, Trees, Output, FlashOps, Tiles, CharOps, Calib. -/
namespace Sys2Proof.Machine

/-! ### RadioOps -/

theorem setSlot_keeps (g : GroupIx) (n : W64) (f : RadioSlot → RadioSlot) {s0 s : State} (h : Keeps s0 s) :
    Keeps s0 (setSlot g n f s) := Keeps.plain h

theorem setStream_keeps (i : StreamIx) (f : StreamCnt → StreamCnt) {s0 s : State} (h : Keeps s0 s) :
    Keeps s0 (setStream i f s) := Keeps.plain h

theorem countMissing_keeps (x : RadioSlot) {s0 s : State} (h : Keeps s0 s) : Keeps s0 (countMissing x s) := by
  unfold countMissing
  dsimp only
  repeat' first | (with_reducible first | assumption | apply clearAlarm_keeps | apply Keeps.foldl | intro _ | exact Keeps.rfl) | split | (with_reducible apply Keeps.plain)

theorem endSlot_keeps (x : RadioSlot) {s0 s : State} (h : Keeps s0 s) : Keeps s0 (endSlot x s) := by
  unfold endSlot
  with_reducible repeat' first | assumption | apply countMissing_keeps | apply setGroupCnt_keeps | split | apply Keeps.plain

theorem postSets_keeps (g : GroupIx) (n : W64) (fuel : Nat) {s0 s : State} (h : Keeps s0 s) : Keeps s0 (postSets g n fuel s) := by
  induction fuel generalizing s with
  | zero => exact h
  | succ fuel ih =>
    rw [postSets]
    split
    · exact h
    · split
      · exact h
      · split
        · exact h
        · dsimp only
          split
          · exact ih (setSlot_keeps _ _ _ (completeId_keeps _ _ _ h))
          · exact endSlot_keeps _ (completeId_keeps _ _ _ h)

theorem endSet_keeps (g : GroupIx) (n : W64) (k : Nat) (f : BatchSet → BatchSet) {s0 s : State} (h : Keeps s0 s) :
    Keeps s0 (endSet g n k f s) := by
  unfold endSet
  dsimp only
  with_reducible repeat' first | assumption | apply setSlot_keeps | apply postSets_keeps | split

theorem writeAll_keeps (ws : List (Nat × List Byte)) {s0 s : State} (h : Keeps s0 s) : Keeps s0 (writeAll ws s).1 := by
  unfold writeAll
  with_reducible repeat' first | assumption | apply daddrWrite_keeps | apply Keeps.foldl | intro _ | exact Keeps.rfl

theorem startSet_keeps (g : GroupIx) (n : W64) (k : Nat) {s0 s : State} (h : Keeps s0 s) : Keeps s0 (startSet g n k s) := by
  unfold startSet
  with_reducible repeat' first 
    | assumption | apply setStream_keeps | apply writeAll_keeps | apply setSlot_keeps | apply endSet_keeps
    | apply requestTakeover_keeps | apply raiseAlarm_keeps | apply Keeps.foldl | intro _ | exact Keeps.rfl | split
    | apply Keeps.plain

theorem dropWork_keeps (b : BatchSet) {s0 s : State} (h : Keeps s0 s) :
    Keeps s0 (dropWork b s) := by
  unfold dropWork
  with_reducible repeat' first | assumption | apply dropJob_keeps | split | apply Keeps.plain

theorem dropSet_keeps (g : GroupIx) (n : W64) (k : Nat) {s0 s : State} (h : Keeps s0 s) : Keeps s0 (dropSet g n k s) := by
  unfold dropSet
  dsimp only
  repeat' first | (with_reducible first | assumption | apply setStream_keeps | apply endSet_keeps | apply Keeps.foldl | intro _ | exact Keeps.rfl) | split | (with_reducible apply Keeps.plain)

theorem outputRadio_keeps (j : Job) (g : GroupIx) (n : W64) (k : Nat) {s0 s : State} (h : Keeps s0 s) :
    Keeps s0 (outputRadio j g n k s) := by
  unfold outputRadio
  with_reducible repeat' first | assumption | apply dropJob_keeps | apply endSet_keeps | apply setSlot_keeps | apply writeAll_keeps | split

/-! ### Reduce -/

theorem reduceBody_keeps (ring : RingIx) (f : Fetched) {s0 s : State} (h : Keeps s0 s) :
    BodyKeeps s0 (reduceBody ring f s) := by
  unfold reduceBody
  dsimp only
  with_reducible repeat' first | assumption | apply Keeps.bodyDone | apply Keeps.bodyRunning | split | apply Keeps.plain

theorem execReduce_keeps (ring : RingIx) {s0 s : State} (h : Keeps s0 s) : ResultKeeps s0 (execReduce ring s) := by
  unfold execReduce
  with_reducible repeat' first | assumption | apply serve_keeps | apply reduceBody_keeps | intro _ | apply Keeps.next

theorem atomicAll_keeps (addr : Nat) (vs : List FVal) {s0 s : State} (h : Keeps s0 s) : Keeps s0 (atomicAll addr vs s) := by
  unfold atomicAll
  dsimp only
  repeat' first | (with_reducible first | assumption | apply draw_keeps | apply atomicInto_keeps | apply Keeps.foldl | intro _ | exact Keeps.rfl) | split | (with_reducible apply Keeps.plain)

theorem reduceStep_keeps (j : Job) (i : Nat) {s0 : State} {x : Job × State} (h : Keeps s0 x.2) : Keeps s0 (reduceStep j i x).2 := by
  unfold reduceStep
  dsimp only
  split
  · exact atomicAll_keeps _ _ h
  · exact daddrWrite_keeps _ _ h

theorem runReduce_keeps (j : Job) {s0 s : State} (h : Keeps s0 s) : Keeps s0 (runReduce j s) := by
  have e (l : List Nat) (x : Job × State) (g : Keeps s0 x.2) : Keeps s0 (l.foldl (fun x i => reduceStep j i x) x).2 := by
    induction l generalizing x with
    | nil => exact g
    | cons i l ih => exact ih _ (reduceStep_keeps j i g)
  unfold runReduce
  split
  · exact finishJob_keeps _ _ _ h
  · exact finishJob_keeps _ _ _ (e _ _ h)

/-! ### Trees -/

theorem modelCheckBody_keeps (f : Fetched) {s0 s : State} (h : Keeps s0 s) : BodyKeeps s0 (modelCheckBody f s) := by
  unfold modelCheckBody
  dsimp only
  with_reducible repeat' first | assumption | apply Keeps.bodyDone | apply Keeps.bodyRunning | split

theorem execModelCheck_keeps (ring : RingIx) {s0 s : State} (h : Keeps s0 s) : ResultKeeps s0 (execModelCheck ring s) := by
  unfold execModelCheck
  with_reducible repeat' first | assumption | apply serve_keeps | apply modelCheckBody_keeps | intro _ | apply Keeps.next

theorem treeBody_keeps (ring : RingIx) (f : Fetched) {s0 s : State} (h : Keeps s0 s) :
    BodyKeeps s0 (treeBody ring f s) := by
  unfold treeBody
  dsimp only
  with_reducible repeat' first | assumption | apply illegal_keeps | apply Keeps.bodyDone | apply Keeps.bodyRunning | split | apply Keeps.plain

theorem execTree_keeps (ring : RingIx) {s0 s : State} (h : Keeps s0 s) : ResultKeeps s0 (execTree ring s) := by
  unfold execTree
  with_reducible repeat' first | assumption | apply serve_keeps | apply treeBody_keeps | intro _ | apply Keeps.next

theorem endTree_keeps (j : Job) (code : W16) {s0 s : State} (h : Keeps s0 s) : Keeps s0 (endTree j code s) := by
  unfold endTree
  with_reducible repeat' first | assumption | apply finishJob_keeps | apply skipRest_keeps

theorem endChanged_keeps (j : Job) (loc : Option (Nat × Nat)) {s0 s : State} (h : Keeps s0 s) :
    Keeps s0 (endChanged j loc s) := by
  unfold endChanged
  dsimp only
  repeat' first | (with_reducible first | assumption | apply freeRegion_keeps | apply skipRest_keeps | apply finishJobAt_keeps | apply draw_keeps) | split | (with_reducible apply Keeps.plain)

theorem recordArrives_keeps (j : Job) (mo : Model) {s0 s : State} (h : Keeps s0 s) : Keeps s0 (recordArrives j mo s) := by
  unfold recordArrives
  dsimp only
  with_reducible repeat' first | assumption | apply setJob_keeps | apply endTree_keeps | apply endChanged_keeps | split

theorem execTreeRecordArrival_keeps (job : Nat) {s0 s : State} (h : Keeps s0 s) :
    ResultKeeps s0 (execTreeRecordArrival job s) := by
  unfold execTreeRecordArrival
  dsimp only
  with_reducible repeat' first | assumption | apply endTree_keeps | apply recordArrives_keeps | apply Keeps.next | split

theorem writeWave_keeps (j : Job) (mo : Model) {s0 s : State} (h : Keeps s0 s) : Keeps s0 (writeWave j mo s) := by
  unfold writeWave
  with_reducible repeat' first | assumption | apply daddrWrite_keeps | apply Keeps.foldl | intro _ | exact Keeps.rfl

theorem execSepiaWaveEnd_keeps (job : Nat) {s0 s : State} (h : Keeps s0 s) : ResultKeeps s0 (execSepiaWaveEnd job s) := by
  unfold execSepiaWaveEnd
  dsimp only
  with_reducible repeat' first 
    | assumption | apply setJob_keeps | apply writeWave_keeps | apply endChanged_keeps | apply endTree_keeps
    | apply finishJob_keeps | apply Keeps.next | split

theorem retireLane_keeps (l : Fin 16) {s0 s : State} (h : Keeps s0 s) : Keeps s0 (retireLane l s) := by
  unfold retireLane
  with_reducible repeat' first | assumption | apply raiseAlarm_keeps | apply event_keeps | split | apply Keeps.plain

theorem laneError_keeps (lane : Fin 16) (job : Option Nat) {s0 s : State} (h : Keeps s0 s) :
    Keeps s0 (laneError lane job s) := by
  unfold laneError
  with_reducible repeat' first | assumption | apply setJob_keeps | apply retireLane_keeps | split | apply Keeps.plain

theorem tableError_keeps (job : Option Nat) {s0 s : State} (h : Keeps s0 s) :
    Keeps s0 (tableError job s) := by
  unfold tableError
  with_reducible repeat' first | assumption | apply setJob_keeps | apply endTree_keeps | split | apply Keeps.plain

theorem execSepiaLaneParity_keeps (lane : Option (Fin 16)) (job : Option Nat) {s0 s : State} (h : Keeps s0 s) :
    ResultKeeps s0 (execSepiaLaneParity lane job s) := by
  unfold execSepiaLaneParity
  with_reducible repeat' first
    | assumption | apply laneError_keeps | apply tableError_keeps | apply Keeps.next | split | apply Keeps.plain

theorem execSepiaKatTimer_keeps (failing : BitVec 16) {s0 s : State} (h : Keeps s0 s) :
    ResultKeeps s0 (execSepiaKatTimer failing s) := by
  unfold execSepiaKatTimer
  dsimp only
  repeat' first | (with_reducible first | assumption | apply retireLane_keeps | apply Keeps.foldl | intro _ | exact Keeps.rfl | apply Keeps.next) | split | (with_reducible apply Keeps.plain)

/-! ### Output -/

theorem stopWork_keeps (j : Job) (code : W16) {s0 s : State} (h : Keeps s0 s) : Keeps s0 (stopWork j code s) := by
  unfold stopWork
  with_reducible repeat' first | assumption | apply endSet_keeps | apply dropJob_keeps | apply stopAny_keeps | split

theorem stopId_keeps (id1 : Option Nat) (code : W16) {s0 s : State} (h : Keeps s0 s) : Keeps s0 (stopId id1 code s) := by
  unfold stopId
  with_reducible repeat' first | assumption | apply stopWork_keeps | split

theorem outVector_keeps (f : FusionEntry) (tab : List Nat) (jj : Nat) {s0 : State} {x : Job × State} (h : Keeps s0 x.2) :
    Keeps s0 (outVector f tab jj x).2 := daddrWrite_keeps _ _ h

theorem atomicVector_keeps (f : FusionEntry) (jj : Nat) {s0 : State} {x : Job × State} (h : Keeps s0 x.2) :
    Keeps s0 (atomicVector f jj x).2 := by
  unfold atomicVector
  generalize List.range x.1.params.comps = l
  induction l generalizing x with
  | nil => exact h
  | cons c l ih => exact ih (atomicAll_keeps _ _ h)

theorem nextSubBatch_keeps (j : Job) {s0 s : State} (h : Keeps s0 s) :
    Keeps s0 (nextSubBatch j s) := by
  unfold nextSubBatch
  with_reducible repeat' first | assumption | apply setJob_keeps | split | apply Keeps.plain

theorem outputMatrix_keeps (j : Job) (f : FusionEntry) {s0 s : State} (h : Keeps s0 s) : Keeps s0 (outputMatrix j f s) := by
  have e (n : Nat) (l : List Nat) (tab : List Nat) (x : Job × State) (g : Keeps s0 x.2) : Keeps s0 (l.foldl (fun x i =>
      if j.params.combine = 1 then atomicVector f (n + i) x else outVector f tab (n + i) x) x).2 := by
    induction l generalizing x with
    | nil => exact g
    | cons i l ih =>
      refine ih _ ?_
      dsimp only
      split
      · exact atomicVector_keeps f _ g
      · exact outVector_keeps f tab _ g
  unfold outputMatrix
  split
  · exact stopJob_keeps _ _ _ h
  · split
    · exact stopJob_keeps _ _ _ h
    · dsimp only
      split
      · exact nextSubBatch_keeps _ (e _ _ _ _ h)
      · exact finishJob_keeps _ _ _ (e _ _ _ _ h)

theorem execJobOutputDone_keeps (job : Nat) {s0 s : State} (h : Keeps s0 s) : ResultKeeps s0 (execJobOutputDone job s) := by
  unfold execJobOutputDone
  with_reducible repeat' first 
    | assumption | apply runReduce_keeps | apply finishJob_keeps | apply outputRadio_keeps
    | apply outputMatrix_keeps | apply Keeps.next | split

theorem execAtomicAckTimeout_keeps (stack : Fin 6) {s0 s : State} (h : Keeps s0 s) :
    ResultKeeps s0 (execAtomicAckTimeout stack s) := by
  unfold execAtomicAckTimeout
  with_reducible repeat' first 
    | assumption | apply raiseAlarm_keeps | apply stopWork_keeps | apply Keeps.foldl | intro _ | exact Keeps.rfl
    | apply Keeps.next | apply Keeps.plain

theorem retireBank_keeps (die : Fin 2) (bank : Fin 64) {s0 s : State} (h : Keeps s0 s) :
    Keeps s0 (retireBank die bank s) := by
  unfold retireBank
  with_reducible repeat' first | assumption | apply raiseAlarm_keeps | apply event_keeps | apply Keeps.plain

theorem execScratchpadEccError_keeps (die : Fin 2) (bank : Fin 64) (double : Bool) (job : Option Nat) {s0 s : State} (h : Keeps s0 s) :
    ResultKeeps s0 (execScratchpadEccError die bank double job s) := by
  unfold execScratchpadEccError
  with_reducible repeat' first | assumption | apply stopId_keeps | apply retireBank_keeps | apply Keeps.next | split | apply Keeps.plain

theorem execInterKermesLinkError_keeps (job : Nat) {s0 s : State} (h : Keeps s0 s) :
    ResultKeeps s0 (execInterKermesLinkError job s) := by
  unfold execInterKermesLinkError
  with_reducible repeat' first | assumption | apply raiseAlarm_keeps | apply stopWork_keeps | apply Keeps.next | split | apply Keeps.plain

theorem execMemoryEccError_keeps (stack : Fin 6) (unit : Nat) (double : Bool) (offline : Bool) (job : Option Nat) {s0 s : State} (h : Keeps s0 s) :
    ResultKeeps s0 (execMemoryEccError stack unit double offline job s) := by
  unfold execMemoryEccError
  try dsimp only
  repeat' first
    | (with_reducible first 
        | assumption | apply raiseAlarm_keeps | apply event_keeps | apply stopId_keeps | apply Keeps.next
        | apply Keeps.bodyDone | apply Keeps.bodyRunning)
    | exact fun (g : MemSys.wf _) => g | exact fun (g : Flash.wf _) => g
    | exact fun (g : XShared.wf _) => g | exact fun (g : coresWf _) => g
    | intro _ | split | (with_reducible refine Keeps.upd ?_ ?_ ?_ ?_ ?_)

theorem execArbiterHoldTimeout_keeps (tile : Option TileIx) (job : Option Nat) {s0 s : State} (h : Keeps s0 s) :
    ResultKeeps s0 (execArbiterHoldTimeout tile job s) := by
  unfold execArbiterHoldTimeout
  with_reducible repeat' first | assumption | apply raiseAlarm_keeps | apply stopId_keeps | apply Keeps.next | split | apply Keeps.plain

theorem decomposeBody_keeps (f : Fetched) {s0 s : State} (h : Keeps s0 s) : BodyKeeps s0 (decomposeBody f s) := by
  unfold decomposeBody
  dsimp only
  with_reducible repeat' first | assumption | apply writeThen_keeps | apply Keeps.bodyDone | apply Keeps.bodyRunning | split

theorem execDecompose_keeps (ring : RingIx) {s0 s : State} (h : Keeps s0 s) : ResultKeeps s0 (execDecompose ring s) := by
  unfold execDecompose
  with_reducible repeat' first | assumption | apply serve_keeps | apply decomposeBody_keeps | intro _ | apply Keeps.next

theorem imageReadBody_keeps (f : Fetched) {s0 s : State} (h : Keeps s0 s) : BodyKeeps s0 (imageReadBody f s) := by
  unfold imageReadBody
  dsimp only
  repeat' first | (with_reducible first | assumption | apply illegal_keeps | apply writeThen_keeps | apply Keeps.bodyDone | apply Keeps.bodyRunning) | split

theorem execImageRead_keeps (ring : RingIx) {s0 s : State} (h : Keeps s0 s) : ResultKeeps s0 (execImageRead ring s) := by
  unfold execImageRead
  with_reducible repeat' first | assumption | apply serve_keeps | apply imageReadBody_keeps | intro _ | apply Keeps.next

/-! ### FlashOps -/

theorem flashPut_keeps (arr : FlashArray) (a : Nat) (bs : List Byte) {s0 s : State} (h : Keeps s0 s) : Keeps s0 (flashPut arr a bs s) := by
  unfold flashPut
  repeat' first
    | exact Keeps.upd h id (fun g => ⟨memWriteN_wf _ _ _ _ g.1, g.2⟩) id id
    | exact Keeps.upd h id (fun g => ⟨g.1, memWriteN_wf _ _ _ _ g.2.1, g.2.2⟩) id id
    | exact Keeps.upd h id (fun g => ⟨g.1, g.2.1, memWriteN_wf _ _ _ _ g.2.2.1, g.2.2.2⟩) id id
    | exact Keeps.upd h id (fun g => ⟨g.1, g.2.1, g.2.2.1, memWriteN_wf _ _ _ _ g.2.2.2.1, g.2.2.2.2⟩) id id
    | exact Keeps.upd h id (fun g => ⟨g.1, g.2.1, g.2.2.1, g.2.2.2.1, memWriteN_wf _ _ _ _ g.2.2.2.2⟩) id id
    | split

theorem touchMain_keeps (arr : FlashArray) (a : Nat) {s0 s : State} (h : Keeps s0 s) : Keeps s0 (touchMain arr a s) := by
  unfold touchMain
  try dsimp only
  repeat' first
    | (with_reducible first | assumption)
    | exact fun (g : MemSys.wf _) => g | exact fun (g : Flash.wf _) => g
    | exact fun (g : XShared.wf _) => g | exact fun (g : coresWf _) => g
    | intro _ | split | (with_reducible refine Keeps.upd ?_ ?_ ?_ ?_ ?_)

theorem flashProgram_keeps (arr : FlashArray) (a : Nat) (bs : List Byte) {s0 s : State} (h : Keeps s0 s) :
    Keeps s0 (flashProgram arr a bs s) := by
  unfold flashProgram
  with_reducible repeat' first | assumption | apply touchMain_keeps | apply flashPut_keeps

theorem flashErase_keeps (arr : FlashArray) (unit : EraseUnit) (a : Nat) {s0 s : State} (h : Keeps s0 s) :
    Keeps s0 (flashErase arr unit a s) := by
  unfold flashErase
  with_reducible repeat' first | assumption | apply touchMain_keeps | apply flashPut_keeps

theorem advanceCounter_keeps (addr : Nat) (target : Nat) {s0 s : State} (h : Keeps s0 s) :
    Keeps s0 (advanceCounter addr target s) := flashProgram_keeps _ _ _ h

theorem setJournal_keeps (arr : FlashArray) (half : Bool) (used : Nat) {s0 s : State} (h : Keeps s0 s) :
    Keeps s0 (setJournal arr half used s) := by
  unfold setJournal
  try dsimp only
  repeat' first
    | (with_reducible first | assumption)
    | exact fun (g : MemSys.wf _) => g | exact fun (g : Flash.wf _) => g
    | exact fun (g : XShared.wf _) => g | exact fun (g : coresWf _) => g
    | intro _ | split | (with_reducible refine Keeps.upd ?_ ?_ ?_ ?_ ?_)

theorem setJournalSeq_keeps (arr : FlashArray) (q : W32) {s0 s : State} (h : Keeps s0 s) :
    Keeps s0 (setJournalSeq arr q s) := by
  unfold setJournalSeq
  try dsimp only
  repeat' first
    | (with_reducible first | assumption)
    | exact fun (g : MemSys.wf _) => g | exact fun (g : Flash.wf _) => g
    | exact fun (g : XShared.wf _) => g | exact fun (g : coresWf _) => g
    | intro _ | split | (with_reducible refine Keeps.upd ?_ ?_ ?_ ?_ ?_)

theorem journal_keeps (type : Nat) (arr : FlashArray) (unit : Nat) (addr : Nat) (ref : Nat) {s0 s : State} (h : Keeps s0 s) :
    Keeps s0 (journal type arr unit addr ref s) := by
  unfold journal
  with_reducible repeat' first | assumption | apply setJournalSeq_keeps | apply setJournal_keeps | apply flashProgram_keeps

theorem markUnit_keeps (arr : FlashArray) (a : Nat) {s0 s : State} (h : Keeps s0 s) : Keeps s0 (markUnit arr a s) := by
  unfold markUnit
  try dsimp only
  repeat' first
    | (with_reducible first | assumption)
    | exact fun (g : MemSys.wf _) => g | exact fun (g : Flash.wf _) => g
    | exact fun (g : XShared.wf _) => g | exact fun (g : coresWf _) => g
    | intro _ | split | (with_reducible refine Keeps.upd ?_ ?_ ?_ ?_ ?_)

theorem clearUnit_keeps (arr : FlashArray) (a : Nat) {s0 s : State} (h : Keeps s0 s) : Keeps s0 (clearUnit arr a s) :=
  Keeps.upd h id id id id

theorem countErase_keeps (arr : FlashArray) (a : Nat) {s0 s : State} (h : Keeps s0 s) : Keeps s0 (countErase arr a s) := by
  unfold countErase
  try dsimp only
  repeat' first
    | (with_reducible first | assumption | apply raiseAlarm_keeps)
    | exact fun (g : MemSys.wf _) => g | exact fun (g : Flash.wf _) => g
    | exact fun (g : XShared.wf _) => g | exact fun (g : coresWf _) => g
    | intro _ | split | (with_reducible refine Keeps.upd ?_ ?_ ?_ ?_ ?_)

theorem setWorks_keeps (code : Bool) (ws : List FlashWork) {s0 s : State} (h : Keeps s0 s) :
    Keeps s0 (setWorks code ws s) := by
  unfold setWorks
  try dsimp only
  repeat' first
    | (with_reducible first | assumption)
    | exact fun (g : MemSys.wf _) => g | exact fun (g : Flash.wf _) => g
    | exact fun (g : XShared.wf _) => g | exact fun (g : coresWf _) => g
    | intro _ | split | (with_reducible refine Keeps.upd ?_ ?_ ?_ ?_ ?_)

theorem setPhase_keeps (code : Bool) (p : FlashPhase) {s0 s : State} (h : Keeps s0 s) : Keeps s0 (setPhase code p s) := by
  unfold setPhase
  try dsimp only
  repeat' first
    | (with_reducible first | assumption)
    | exact fun (g : MemSys.wf _) => g | exact fun (g : Flash.wf _) => g
    | exact fun (g : XShared.wf _) => g | exact fun (g : coresWf _) => g
    | intro _ | split | (with_reducible refine Keeps.upd ?_ ?_ ?_ ?_ ?_)

theorem storeDone_keeps (code : W16) {s0 s : State} (h : Keeps s0 s) : Keeps s0 (storeDone code s) := by
  unfold storeDone
  with_reducible repeat' first | assumption | apply event_keeps | apply draw_keeps

theorem nvmFault_keeps (region : Nat) (code : W16) {s0 s : State} (h : Keeps s0 s) : Keeps s0 (nvmFault region code s) := by
  unfold nvmFault
  with_reducible repeat' first | assumption | apply raiseAlarm_keeps | apply event_keeps

theorem reportHost_keeps (n : RingIx) (id1 : Nat) (code : W16) {s0 s : State} (h : Keeps s0 s) :
    Keeps s0 (reportHost n id1 code s) := by
  unfold reportHost
  with_reducible repeat' first | assumption | apply complete_keeps | apply storeDone_keeps | split

theorem refuseTemp_keeps (w : FlashWork) {s0 s : State} (h : Keeps s0 s) : Keeps s0 (refuseTemp w s) := by
  unfold refuseTemp
  try dsimp only
  repeat' first
    | (with_reducible first | assumption | apply setCore_keeps | apply reportHost_keeps)
    | exact fun (g : MemSys.wf _) => g | exact fun (g : Flash.wf _) => g
    | exact fun (g : XShared.wf _) => g | exact fun (g : coresWf _) => g
    | (intro g; exact g.flashDone _)
    | (intro g; exact g.same rfl rfl rfl rfl rfl rfl rfl (Or.inl rfl) (Or.inl rfl))
    | (intro g; exact g.same rfl rfl rfl rfl rfl rfl rfl (Or.inr rfl) (Or.inl rfl))
    | (intro g; exact g.same rfl rfl rfl rfl rfl rfl rfl (Or.inr rfl) (Or.inr (by simp)))
    | intro _ | split | (with_reducible refine Keeps.upd ?_ ?_ ?_ ?_ ?_)

theorem verifyBank_keeps (u : FwUpdate) {s0 s : State} (h : Keeps s0 s) : Keeps s0 (verifyBank u s) := by
  unfold verifyBank
  try dsimp only
  repeat' first
    | (with_reducible first | assumption | apply reportHost_keeps)
    | exact fun (g : MemSys.wf _) => g | exact fun (g : Flash.wf _) => g
    | exact fun (g : XShared.wf _) => g | exact fun (g : coresWf _) => g
    | intro _ | split | (with_reducible refine Keeps.upd ?_ ?_ ?_ ?_ ?_)

theorem endWork_keeps (w : FlashWork) {s0 s : State} (h : Keeps s0 s) : Keeps s0 (endWork w s) := by
  unfold endWork
  try dsimp only
  repeat' first
    | (with_reducible first | assumption | apply verifyBank_keeps | apply reportHost_keeps | apply setCore_keeps | apply setTile_keeps)
    | exact fun (g : MemSys.wf _) => g | exact fun (g : Flash.wf _) => g
    | exact fun (g : XShared.wf _) => g | exact fun (g : coresWf _) => g
    | (intro g; exact g.flashDone _)
    | (intro g; exact g.same rfl rfl rfl rfl rfl rfl rfl (Or.inl rfl) (Or.inl rfl))
    | (intro g; exact g.same rfl rfl rfl rfl rfl rfl rfl (Or.inr rfl) (Or.inl rfl))
    | (intro g; exact g.same rfl rfl rfl rfl rfl rfl rfl (Or.inr rfl) (Or.inr (by simp)))
    | intro _ | split | (with_reducible refine Keeps.upd ?_ ?_ ?_ ?_ ?_)

theorem failWork_keeps (code : Bool) (region : Nat) (w : FlashWork) (c : W16) {s0 s : State} (h : Keeps s0 s) :
    Keeps s0 (failWork code region w c s) := by
  unfold failWork
  try dsimp only
  repeat' first
    | (with_reducible first | assumption | apply nvmFault_keeps | apply reportHost_keeps | apply setCore_keeps | apply setWorks_keeps)
    | exact fun (g : MemSys.wf _) => g | exact fun (g : Flash.wf _) => g
    | exact fun (g : XShared.wf _) => g | exact fun (g : coresWf _) => g
    | (intro g; exact g.flashDone _)
    | (intro g; exact g.same rfl rfl rfl rfl rfl rfl rfl (Or.inl rfl) (Or.inl rfl))
    | (intro g; exact g.same rfl rfl rfl rfl rfl rfl rfl (Or.inr rfl) (Or.inl rfl))
    | (intro g; exact g.same rfl rfl rfl rfl rfl rfl rfl (Or.inr rfl) (Or.inr (by simp)))
    | intro _ | split | (with_reducible refine Keeps.upd ?_ ?_ ?_ ?_ ?_)

theorem pump_keeps (code : Bool) (fuel : Nat) {s0 s : State} (h : Keeps s0 s) : Keeps s0 (pump code fuel s) := by
  induction fuel generalizing s with
  | zero => exact h
  | succ fuel ih =>
    have w (ws : List FlashWork) : Keeps s0 (setWorks code ws s) := setWorks_keeps _ _ h
    rw [pump]
    split
    · exact h
    · split
      · exact h
      · dsimp only
        repeat' first
          | (with_reducible first
              | assumption
              | exact setPhase_keeps _ _ h
              | exact setPhase_keeps _ _ (w _)
              | exact ih (w _)
              | exact ih (endWork_keeps _ (w _))
              | exact ih (refuseTemp_keeps _ (w _)))
          | split

theorem enqueue_keeps (code : Bool) (origin : WriteOrigin) (steps : List FlashStep) {s0 s : State} (h : Keeps s0 s) :
    Keeps s0 (enqueue code origin steps s) := by
  unfold enqueue
  with_reducible repeat' first | assumption | apply setWorks_keeps | apply pump_keeps | split

theorem goOn_keeps (code : Bool) {s0 s : State} (h : Keeps s0 s) : Keeps s0 (goOn code s) := by
  unfold goOn
  with_reducible repeat' first | assumption | apply pump_keeps | apply setPhase_keeps

theorem sealRecord_keeps (kind : Nat) (t : TileIx) {s0 s : State} (h : Keeps s0 s) : Keeps s0 (sealRecord kind t s) := by
  unfold sealRecord
  dsimp only
  apply enqueue_keeps
  with_reducible refine Keeps.flash ?_ ?_
  · exact setTile_keeps t _ h
  · exact ⟨rfl, rfl, rfl, rfl, rfl⟩

theorem loadHeaters_keeps (t : TileIx) {s0 s : State} (h : Keeps s0 s) :
    Keeps s0 (loadHeaters t s) := by
  unfold loadHeaters
  with_reducible repeat' first | assumption | apply setTile_keeps | split | apply Keeps.plain

theorem storeSmall_keeps (o : WriteOrigin) (magic : Nat) (seq : Nat) (base : Nat) (contents : List Byte) {s0 s : State} (h : Keeps s0 s) :
    Keeps s0 (storeSmall o magic seq base contents s) := enqueue_keeps _ _ _ h

theorem storeRules_keeps {s0 s : State} (h : Keeps s0 s) : Keeps s0 (storeRules s) := by
  unfold storeRules
  try dsimp only
  repeat' first
    | (with_reducible first | assumption | apply storeSmall_keeps)
    | exact fun (g : MemSys.wf _) => g | exact fun (g : Flash.wf _) => g
    | exact fun (g : XShared.wf _) => g | exact fun (g : coresWf _) => g
    | intro _ | split | (with_reducible refine Keeps.upd ?_ ?_ ?_ ?_ ?_)

theorem storeOscTable_keeps {s0 s : State} (h : Keeps s0 s) : Keeps s0 (storeOscTable s) := by
  unfold storeOscTable
  try dsimp only
  repeat' first
    | (with_reducible first | assumption | apply storeSmall_keeps)
    | exact fun (g : MemSys.wf _) => g | exact fun (g : Flash.wf _) => g
    | exact fun (g : XShared.wf _) => g | exact fun (g : coresWf _) => g
    | intro _ | split | (with_reducible refine Keeps.upd ?_ ?_ ?_ ?_ ?_)

/-! ### Tiles -/

theorem clearNext_keeps (t : TileIx) {s0 s : State} (h : Keeps s0 s) :
    Keeps s0 (clearNext t s) := by
  unfold clearNext
  with_reducible repeat' first | assumption | apply setTile_keeps | split | apply Keeps.plain

theorem stopStale_keeps (t : TileIx) {s0 s : State} (h : Keeps s0 s) :
    Keeps s0 (stopStale t s) := by
  unfold stopStale
  with_reducible repeat' first
    | assumption | apply stopWork_keeps | apply clearNext_keeps | apply Keeps.foldl | intro _ | exact Keeps.rfl
    | split | apply Keeps.plain

theorem faultTile_keeps (t : TileIx) {s0 s : State} (h : Keeps s0 s) : Keeps s0 (faultTile t s) := by
  unfold faultTile
  dsimp only
  with_reducible repeat' first 
    | assumption | apply stopStale_keeps | apply stopWork_keeps | apply enterTile_keeps | apply setTile_keeps
    | apply tryPower_keeps | apply trySwap_keeps | apply tryFinishCommit_keeps | apply Keeps.foldl | intro _
    | exact Keeps.rfl | split

theorem execKermesDieFailure_keeps (die : Fin 2) {s0 s : State} (h : Keeps s0 s) :
    ResultKeeps s0 (execKermesDieFailure die s) := by
  unfold execKermesDieFailure
  try dsimp only
  repeat' first
    | (with_reducible first 
        | assumption | exact Keeps.rfl | apply Keeps.foldl | apply stopWork_keeps | apply faultTile_keeps
        | apply requestTakeover_keeps | apply raiseAlarm_keeps | apply Keeps.next | apply Keeps.bodyDone
        | apply Keeps.bodyRunning)
    | exact fun (g : MemSys.wf _) => g | exact fun (g : Flash.wf _) => g
    | exact fun (g : XShared.wf _) => g | exact fun (g : coresWf _) => g
    | intro _ | split | (with_reducible refine Keeps.upd ?_ ?_ ?_ ?_ ?_)

theorem failStripe_keeps (t : TileIx) {s0 s : State} (h : Keeps s0 s) : Keeps s0 (failStripe t s) := by
  unfold failStripe
  dsimp only
  repeat' first | (with_reducible first | assumption | apply faultTile_keeps | apply setTile_keeps | apply raiseAlarm_keeps | apply openGap_keeps) | split | (with_reducible apply Keeps.plain)

theorem reloadResident_keeps (t : TileIx) {s0 s : State} (h : Keeps s0 s) : Keeps s0 (reloadResident t s) := by
  unfold reloadResident
  with_reducible repeat' first | assumption | apply setTile_keeps | split

theorem endChange_keeps (t : TileIx) {s0 s : State} (h : Keeps s0 s) : Keeps s0 (endChange t s) := by
  unfold endChange
  with_reducible repeat' first | assumption | apply sealRecord_keeps | apply setTile_keeps | apply event_keeps | split

theorem changeLocked_keeps (t : TileIx) {s0 s : State} (h : Keeps s0 s) :
    Keeps s0 (changeLocked t s) := by
  unfold changeLocked
  with_reducible repeat' first
    | assumption | apply setTile_keeps | apply beginStep_keeps | apply endChange_keeps | split | apply Keeps.plain

theorem execStripeLockAcquired_keeps (lock : LockOffset) {s0 s : State} (h : Keeps s0 s) :
    ResultKeeps s0 (execStripeLockAcquired lock s) := by
  unfold execStripeLockAcquired
  dsimp only
  with_reducible repeat' first
    | assumption | apply setTile_keeps | apply enterTile_keeps | apply finishControl_keeps | apply tryPower_keeps
    | apply reloadResident_keeps | apply changeLocked_keeps | apply Keeps.next | split | apply Keeps.plain

theorem execStripeLockLost_keeps (lock : LockOffset) {s0 s : State} (h : Keeps s0 s) :
    ResultKeeps s0 (execStripeLockLost lock s) := by
  unfold execStripeLockLost
  with_reducible repeat' first
    | assumption | apply setTile_keeps | apply settleTile_keeps | apply Keeps.next | split | apply Keeps.plain

theorem execStripeLockTimeout_keeps (tile : TileIx) {s0 s : State} (h : Keeps s0 s) :
    ResultKeeps s0 (execStripeLockTimeout tile s) := by
  unfold execStripeLockTimeout
  dsimp only
  with_reducible repeat' first
    | assumption | apply setTile_keeps | apply failStripe_keeps | apply Keeps.next | split | apply Keeps.plain

theorem execLightLossTrip_keeps (tile : TileIx) {s0 s : State} (h : Keeps s0 s) :
    ResultKeeps s0 (execLightLossTrip tile s) := by
  unfold execLightLossTrip
  dsimp only
  with_reducible repeat' first 
    | assumption | apply stopStale_keeps | apply failStripe_keeps | apply enterMaint_keeps | apply setTile_keeps
    | apply Keeps.next | split

theorem powerDark_keeps (t : TileIx) {s0 s : State} (h : Keeps s0 s) :
    Keeps s0 (powerDark t s) := by
  unfold powerDark
  with_reducible repeat' first
    | assumption | apply setTile_keeps | apply enterTile_keeps | apply loadHeaters_keeps | apply faultTile_keeps
    | split | apply Keeps.plain

theorem execTileTransitionDone_keeps (tile : TileIx) {s0 s : State} (h : Keeps s0 s) :
    ResultKeeps s0 (execTileTransitionDone tile s) := by
  unfold execTileTransitionDone
  dsimp only
  with_reducible repeat' first
    | assumption | apply setTile_keeps | apply enterTile_keeps | apply finishControl_keeps | apply tryPower_keeps
    | apply powerDark_keeps | apply Keeps.next | split | apply Keeps.plain

theorem lightTile_keeps (t : TileIx) {s0 s : State} (h : Keeps s0 s) : Keeps s0 (lightTile t s) := by
  unfold lightTile
  with_reducible repeat' first | assumption | apply enterTile_keeps | apply faultTile_keeps | apply setTile_keeps | split

theorem tileControlBody_keeps (n : RingIx) (f : Fetched) {s0 s : State} (h : Keeps s0 s) :
    BodyKeeps s0 (tileControlBody n f s) := by
  unfold tileControlBody
  dsimp only
  with_reducible repeat' first 
    | assumption | apply setTile_keeps | apply lightTile_keeps | apply settleTile_keeps | apply Keeps.bodyDone
    | apply Keeps.bodyRunning | split

theorem execTileControl_keeps (ring : RingIx) {s0 s : State} (h : Keeps s0 s) :
    ResultKeeps s0 (execTileControl ring s) := by
  unfold execTileControl
  with_reducible repeat' first | assumption | apply serve_keeps | apply tileControlBody_keeps | intro _ | apply Keeps.next

theorem execLatchParityError_keeps (tile : TileIx) (latch : LatchAt) {s0 s : State} (h : Keeps s0 s) :
    ResultKeeps s0 (execLatchParityError tile latch s) := by
  unfold execLatchParityError
  dsimp only
  with_reducible repeat' first
    | assumption | apply setTile_keeps | apply setJob_keeps | apply faultTile_keeps | apply Keeps.next | split
    | apply Keeps.plain

theorem execSegmapReloadTimer_keeps (tile : TileIx) {s0 s : State} (h : Keeps s0 s) :
    ResultKeeps s0 (execSegmapReloadTimer tile s) := by
  unfold execSegmapReloadTimer
  dsimp only
  with_reducible repeat' first | assumption | apply setTile_keeps | apply Keeps.next | split

theorem sealOwed_keeps (t : TileIx) {s0 s : State} (h : Keeps s0 s) : Keeps s0 (sealOwed t s) := by
  unfold sealOwed
  dsimp only
  with_reducible repeat' first | assumption | apply setTile_keeps | apply sealRecord_keeps | apply clearAlarm_keeps | split

theorem clearDegraded_keeps (t : TileIx) {s0 s : State} (h : Keeps s0 s) : Keeps s0 (clearDegraded t s) := by
  unfold clearDegraded
  dsimp only
  with_reducible repeat' first | assumption | apply clearAlarm_keeps | apply setTile_keeps | split

theorem groupGoesOn_keeps (t : TileIx) {s0 s : State} (h : Keeps s0 s) :
    Keeps s0 (groupGoesOn t s) := by
  unfold groupGoesOn
  with_reducible repeat' first
    | assumption | apply tryFinishCommit_keeps | apply trySwap_keeps | split | apply Keeps.plain

theorem execMaintRestoreDone_keeps (tile : TileIx) {s0 s : State} (h : Keeps s0 s) :
    ResultKeeps s0 (execMaintRestoreDone tile s) := by
  unfold execMaintRestoreDone
  dsimp only
  with_reducible repeat' first
    | assumption | apply setTile_keeps | apply enterTile_keeps | apply beginStep_keeps | apply finishControl_keeps
    | apply settleTile_keeps | apply tryPower_keeps | apply failStripe_keeps | apply endChange_keeps
    | apply sealOwed_keeps | apply clearDegraded_keeps | apply groupGoesOn_keeps | apply Keeps.next | split
    | apply Keeps.plain

/-! ### CharOps -/

theorem heaterOpen_keeps (t : TileIx) (z : Fin 128) {s0 s : State} (h : Keeps s0 s) :
    Keeps s0 (heaterOpen t z s) := by
  unfold heaterOpen
  with_reducible repeat' first
    | assumption | apply raiseAlarm_keeps | apply setTile_keeps | apply event_keeps | split | apply Keeps.plain

theorem retireColumn_keeps (t : TileIx) (u : Bool) (col : Fin 66) {s0 s : State} (h : Keeps s0 s) :
    Keeps s0 (retireColumn t u col s) := by
  unfold retireColumn
  dsimp only
  with_reducible repeat' first | assumption | apply faultTile_keeps | apply setTile_keeps | apply event_keeps | apply raiseAlarm_keeps | split

theorem columnUnsound_keeps (t : TileIx) (u : Bool) (c : Nat) {s0 s : State} (h : Keeps s0 s) :
    Keeps s0 (columnUnsound t u c s) := by
  unfold columnUnsound
  with_reducible repeat' first | assumption | apply setTile_keeps | apply openGap_keeps | split | apply Keeps.plain

theorem mapsDone_keeps (t : TileIx) (k : StepKind) (was now : Tile) {s0 s : State} (h : Keeps s0 s) :
    Keeps s0 (mapsDone t k was now s) := by
  unfold mapsDone
  with_reducible repeat' first
    | assumption | apply setTile_keeps | apply event_keeps | apply openGap_keeps | apply faultTile_keeps
    | apply columnUnsound_keeps | split | apply Keeps.plain

theorem pathDone_keeps (t : TileIx) (r : Fin 128) (ps : List PathPoint) {s0 s : State} (h : Keeps s0 s) :
    Keeps s0 (pathDone t r ps s) := by
  unfold pathDone
  with_reducible repeat' first
    | assumption | apply setTile_keeps | apply tileEvent_keeps | apply faultTile_keeps | split | apply Keeps.plain

theorem identityDone_keeps (t : TileIx) (u : Bool) (c : Nat) (d : CharData) (now : Tile) {s0 s : State} (h : Keeps s0 s) :
    Keeps s0 (identityDone t u c d now s) := by
  unfold identityDone
  with_reducible repeat' first
    | assumption | apply faultTile_keeps | apply retireColumn_keeps | split | apply Keeps.plain

theorem stepDone_keeps (t : TileIx) (k : StepKind) (d : CharData) (ps : List PathPoint) (was now : Tile) {s0 s : State} (h : Keeps s0 s) :
    Keeps s0 (stepDone t k d ps was now s) := by
  unfold stepDone
  with_reducible repeat' first
    | assumption | apply setTile_keeps | apply faultTile_keeps | apply mapsDone_keeps | apply pathDone_keeps
    | apply identityDone_keeps | split | apply Keeps.plain

theorem noteStill_keeps (t : TileIx) (d : CharData) {s0 s : State} (h : Keeps s0 s) :
    Keeps s0 (noteStill t d s) := by
  unfold noteStill
  with_reducible repeat' first
    | assumption | apply heaterOpen_keeps | apply Keeps.foldl | intro _ | exact Keeps.rfl | split | apply Keeps.plain

/-! ### Calib -/

theorem execCollectorWindowClose_keeps (tile : TileIx) (rest : WindowRest) {s0 s : State} (h : Keeps s0 s) :
    ResultKeeps s0 (execCollectorWindowClose tile rest s) := by
  unfold execCollectorWindowClose
  dsimp only
  with_reducible repeat' first
    | assumption | apply raiseAlarm_keeps | apply setTile_keeps | apply openGap_keeps | apply settleTile_keeps
    | apply Keeps.foldl | intro _ | exact Keeps.rfl | apply Keeps.next | split | apply Keeps.plain

theorem finishTunes_keeps {s0 s : State} (h : Keeps s0 s) : Keeps s0 (finishTunes s) := by
  unfold finishTunes
  with_reducible repeat' first | assumption | apply completeId_keeps | apply Keeps.foldl | intro _ | exact Keeps.rfl | apply Keeps.plain

theorem execMonitorRoundEnd_keeps (tile : TileIx) (convs : RoundConvs) (errors : List (Fin 16 × Int)) (meanSq : Nat) {s0 s : State} (h : Keeps s0 s) :
    ResultKeeps s0 (execMonitorRoundEnd tile convs errors meanSq s) := by
  unfold execMonitorRoundEnd
  dsimp only
  with_reducible repeat' first
    | assumption | apply setTile_keeps | apply faultTile_keeps | apply finishTunes_keeps | apply Keeps.next | split
    | apply Keeps.plain

theorem zoneAlarm_keeps (t : TileIx) (z : Fin 128) {s0 s : State} (h : Keeps s0 s) :
    Keeps s0 (zoneAlarm t s z) := by
  unfold zoneAlarm
  with_reducible repeat' first | assumption | apply event_keeps | apply heaterOpen_keeps | split | apply Keeps.plain

theorem execHeaterFrame_keeps (tile : TileIx) (activity : List (Fin 128 × Nat)) (writes : List (Fin 136 × BitVec 12)) {s0 s : State} (h : Keeps s0 s) :
    ResultKeeps s0 (execHeaterFrame tile activity writes s) := by
  unfold execHeaterFrame
  dsimp only
  with_reducible repeat' first
    | assumption | apply setTile_keeps | apply finishTunes_keeps | apply zoneAlarm_keeps | apply Keeps.foldl | intro _
    | exact Keeps.rfl | apply Keeps.next | split | apply Keeps.plain

theorem execHeaterControlFault_keeps (tile : TileIx) (cause : HeaterFault) {s0 s : State} (h : Keeps s0 s) :
    ResultKeeps s0 (execHeaterControlFault tile cause s) := by
  unfold execHeaterControlFault
  dsimp only
  with_reducible repeat' first 
    | assumption | apply raiseAlarm_keeps | apply setTile_keeps | apply faultTile_keeps | apply event_keeps
    | apply Keeps.next | split

theorem execHeaterOvercurrent_keeps (tile : TileIx) {s0 s : State} (h : Keeps s0 s) :
    ResultKeeps s0 (execHeaterOvercurrent tile s) := by
  unfold execHeaterOvercurrent
  dsimp only
  with_reducible repeat' first
    | assumption | apply raiseAlarm_keeps | apply setTile_keeps | apply event_keeps | apply settleTile_keeps
    | apply faultTile_keeps | apply Keeps.next | split | apply Keeps.plain

theorem driftZone_keeps (t : TileIx) (fit : List (Int × Int)) (z : Fin 128) {s0 s : State} (h : Keeps s0 s) :
    Keeps s0 (driftZone t fit s z) := by
  unfold driftZone
  with_reducible repeat' first | assumption | apply setTile_keeps | apply event_keeps | split | apply Keeps.plain

theorem moveZones_keeps (t : TileIx) (fit : List (Int × Int)) {s0 s : State} (h : Keeps s0 s) :
    Keeps s0 (moveZones t fit s) := by
  unfold moveZones
  dsimp only
  with_reducible repeat' first
    | assumption | apply setTile_keeps | apply driftZone_keeps | apply Keeps.foldl | intro _ | exact Keeps.rfl | split
    | apply Keeps.plain

theorem driftFitted_keeps (t : TileIx) {s0 s : State} (h : Keeps s0 s) :
    Keeps s0 (driftFitted t s) := by
  unfold driftFitted
  dsimp only
  with_reducible repeat' first
    | assumption | apply setTile_keeps | apply tileEvent_keeps | apply moveZones_keeps | split | apply Keeps.plain

theorem execDriftWindowClose_keeps (tile : TileIx) {s0 s : State} (h : Keeps s0 s) :
    ResultKeeps s0 (execDriftWindowClose tile s) := by
  unfold execDriftWindowClose
  dsimp only
  with_reducible repeat' first
    | assumption | apply setTile_keeps | apply driftFitted_keeps | apply Keeps.next | split | apply Keeps.plain

theorem execRoutinePassStart_keeps (tile : TileIx) {s0 s : State} (h : Keeps s0 s) :
    ResultKeeps s0 (execRoutinePassStart tile s) := by
  unfold execRoutinePassStart
  with_reducible repeat' first | assumption | apply setTile_keeps | apply Keeps.next | split

theorem execIdleGapOpen_keeps (tile : TileIx) {s0 s : State} (h : Keeps s0 s) :
    ResultKeeps s0 (execIdleGapOpen tile s) := by
  unfold execIdleGapOpen
  dsimp only
  with_reducible repeat' first 
    | assumption | apply enterMaint_keeps | apply openGap_keeps | apply setTile_keeps | apply beginStep_keeps
    | apply Keeps.next | split

theorem execCharUnitEnd_keeps (tile : TileIx) (data : CharData) (lateNs : Nat) {s0 s : State} (h : Keeps s0 s) :
    ResultKeeps s0 (execCharUnitEnd tile data lateNs s) := by
  unfold execCharUnitEnd
  dsimp only
  with_reducible repeat' first
    | assumption | apply setTile_keeps | apply beginStep_keeps | apply stepDone_keeps | apply noteStill_keeps
    | apply Keeps.next | split | apply Keeps.plain

theorem execCharStarved_keeps (tile : TileIx) {s0 s : State} (h : Keeps s0 s) :
    ResultKeeps s0 (execCharStarved tile s) := by
  unfold execCharStarved
  with_reducible repeat' first | assumption | apply raiseAlarm_keeps | apply event_keeps | apply setTile_keeps | apply Keeps.next | split

theorem execRunningSealTimer_keeps (tile : TileIx) {s0 s : State} (h : Keeps s0 s) :
    ResultKeeps s0 (execRunningSealTimer tile s) := by
  unfold execRunningSealTimer
  with_reducible repeat' first | assumption | apply clearDegraded_keeps | apply sealRecord_keeps | apply Keeps.next | split

theorem execCoefRead_keeps (ring : RingIx) {s0 s : State} (h : Keeps s0 s) : ResultKeeps s0 (execCoefRead ring s) := by
  unfold execCoefRead
  with_reducible repeat' first | assumption | apply serve_keeps | apply writeThen_keeps | intro _ | apply Keeps.next

theorem recordReadBody_keeps (f : Fetched) {s0 s : State} (h : Keeps s0 s) : BodyKeeps s0 (recordReadBody f s) := by
  unfold recordReadBody
  with_reducible repeat' first | assumption | apply writeThen_keeps | apply Keeps.bodyDone | apply Keeps.bodyRunning | split

theorem execRecordRead_keeps (ring : RingIx) {s0 s : State} (h : Keeps s0 s) : ResultKeeps s0 (execRecordRead ring s) := by
  unfold execRecordRead
  with_reducible repeat' first | assumption | apply serve_keeps | apply recordReadBody_keeps | intro _ | apply Keeps.next

theorem calTuneBody_keeps (n : RingIx) (f : Fetched) {s0 s : State} (h : Keeps s0 s) :
    BodyKeeps s0 (calTuneBody n f s) := by
  unfold calTuneBody
  dsimp only
  with_reducible repeat' first 
    | assumption | apply setTile_keeps | apply finishTunes_keeps | apply Keeps.foldl | intro _ | exact Keeps.rfl
    | apply Keeps.bodyDone | apply Keeps.bodyRunning | split | apply Keeps.plain

theorem execCalTune_keeps (ring : RingIx) {s0 s : State} (h : Keeps s0 s) : ResultKeeps s0 (execCalTune ring s) := by
  unfold execCalTune
  with_reducible repeat' first | assumption | apply serve_keeps | apply calTuneBody_keeps | intro _ | apply Keeps.next

theorem execCharRequest_keeps (ring : RingIx) {s0 s : State} (h : Keeps s0 s) :
    ResultKeeps s0 (execCharRequest ring s) := by
  unfold execCharRequest
  try dsimp only
  repeat' first
    | (with_reducible first 
        | assumption | apply serve_keeps | apply setTile_keeps | apply Keeps.next | apply Keeps.bodyDone
        | apply Keeps.bodyRunning)
    | exact fun (g : MemSys.wf _) => g | exact fun (g : Flash.wf _) => g
    | exact fun (g : XShared.wf _) => g | exact fun (g : coresWf _) => g
    | intro _ | split | (with_reducible refine Keeps.upd ?_ ?_ ?_ ?_ ?_)

theorem coefWriteBody_keeps (n : RingIx) (f : Fetched) {s0 s : State} (h : Keeps s0 s) :
    BodyKeeps s0 (coefWriteBody n f s) := by
  unfold coefWriteBody
  dsimp only
  repeat' first | (with_reducible first | assumption | apply setTile_keeps | apply settleTile_keeps | apply Keeps.bodyDone | apply Keeps.bodyRunning) | split | (with_reducible apply Keeps.plain)

theorem execCoefWrite_keeps (ring : RingIx) {s0 s : State} (h : Keeps s0 s) : ResultKeeps s0 (execCoefWrite ring s) := by
  unfold execCoefWrite
  with_reducible repeat' first | assumption | apply serve_keeps | apply coefWriteBody_keeps | intro _ | apply Keeps.next

end Sys2Proof.Machine
end

