-- ==== Sys2Proof/Laws/KeepsC.lean ====
section
/-! SUPPORT. What the operations keep (Laws/Keeps), one lemma per operation: Debug, Events, PowerOps, Flash, XelinOps, Radio, HandOps. -/
namespace Sys2Proof.Machine

/-! ### Debug -/

theorem debugChallengeBody_keeps (f : Fetched) {s0 s : State} (h : Keeps s0 s) : BodyKeeps s0 (debugChallengeBody f s) := by
  unfold debugChallengeBody
  with_reducible repeat' first | assumption | apply writeThen_keeps | apply Keeps.bodyDone | apply Keeps.bodyRunning | apply Keeps.plain

theorem execDebugChallenge_keeps (ring : RingIx) {s0 s : State} (h : Keeps s0 s) :
    ResultKeeps s0 (execDebugChallenge ring s) := by
  unfold execDebugChallenge
  with_reducible repeat' first | assumption | apply serve_keeps | apply debugChallengeBody_keeps | intro _ | apply Keeps.next

theorem execDebugChallengeExpiry_keeps {s0 s : State} (h : Keeps s0 s) : ResultKeeps s0 (execDebugChallengeExpiry s) :=
  Keeps.plain h

theorem debugUnlockBody_keeps (f : Fetched) {s0 s : State} (h : Keeps s0 s) : BodyKeeps s0 (debugUnlockBody f s) := by
  unfold debugUnlockBody
  dsimp only
  with_reducible repeat' first | assumption | apply illegal_keeps | apply Keeps.bodyDone | apply Keeps.bodyRunning | split | apply Keeps.plain

theorem execDebugUnlock_keeps (ring : RingIx) {s0 s : State} (h : Keeps s0 s) :
    ResultKeeps s0 (execDebugUnlock ring s) := by
  unfold execDebugUnlock
  with_reducible repeat' first | assumption | apply serve_keeps | apply debugUnlockBody_keeps | intro _ | apply Keeps.next

theorem execDebugLock_keeps (ring : RingIx) {s0 s : State} (h : Keeps s0 s) : ResultKeeps s0 (execDebugLock ring s) := by
  unfold execDebugLock
  try dsimp only
  repeat' first
    | (with_reducible first | assumption | apply serve_keeps | apply Keeps.next | apply Keeps.bodyDone | apply Keeps.bodyRunning)
    | exact fun (g : MemSys.wf _) => g | exact fun (g : Flash.wf _) => g
    | exact fun (g : XShared.wf _) => g | exact fun (g : coresWf _) => g
    | intro _ | split | (with_reducible refine Keeps.upd ?_ ?_ ?_ ?_ ?_)

theorem accReadBody_keeps (f : Fetched) {s0 s : State} (h : Keeps s0 s) : BodyKeeps s0 (accReadBody f s) := by
  unfold accReadBody
  dsimp only
  repeat' first | (with_reducible first | assumption | apply illegal_keeps | apply writeThen_keeps | apply Keeps.bodyDone | apply Keeps.bodyRunning) | split | (with_reducible apply Keeps.plain)

theorem execAccRead_keeps (ring : RingIx) {s0 s : State} (h : Keeps s0 s) : ResultKeeps s0 (execAccRead ring s) := by
  unfold execAccRead
  with_reducible repeat' first | assumption | apply serve_keeps | apply accReadBody_keeps | intro _ | apply Keeps.next

theorem accWriteBody_keeps (f : Fetched) {s0 s : State} (h : Keeps s0 s) : BodyKeeps s0 (accWriteBody f s) := by
  unfold accWriteBody
  dsimp only
  with_reducible repeat' first 
    | assumption | apply illegal_keeps | apply setJob_keeps | apply Keeps.foldl | intro _ | exact Keeps.rfl
    | apply Keeps.bodyDone | apply Keeps.bodyRunning | split

theorem execAccWrite_keeps (ring : RingIx) {s0 s : State} (h : Keeps s0 s) : ResultKeeps s0 (execAccWrite ring s) := by
  unfold execAccWrite
  with_reducible repeat' first | assumption | apply serve_keeps | apply accWriteBody_keeps | intro _ | apply Keeps.next

theorem vecRawBody_keeps (ring : RingIx) (f : Fetched) {s0 s : State} (h : Keeps s0 s) :
    BodyKeeps s0 (vecRawBody ring f s) := by
  unfold vecRawBody
  dsimp only
  with_reducible repeat' first | assumption | apply illegal_keeps | apply Keeps.bodyDone | apply Keeps.bodyRunning | split | apply Keeps.plain

theorem execVecRaw_keeps (ring : RingIx) {s0 s : State} (h : Keeps s0 s) : ResultKeeps s0 (execVecRaw ring s) := by
  unfold execVecRaw
  with_reducible repeat' first | assumption | apply serve_keeps | apply vecRawBody_keeps | intro _ | apply Keeps.next

/-! ### Events -/

theorem eventSetBody_keeps (n : RingIx) (f : Fetched) {s0 s : State} (h : Keeps s0 s) :
    BodyKeeps s0 (eventSetBody n f s) := by
  unfold eventSetBody
  dsimp only
  with_reducible repeat' first 
    | assumption | apply illegal_keeps | apply setComparator_keeps | apply mirror_keeps | apply settleShadow_keeps
    | apply Keeps.bodyDone | apply Keeps.bodyRunning | split

theorem execEventSet_keeps (ring : RingIx) {s0 s : State} (h : Keeps s0 s) : ResultKeeps s0 (execEventSet ring s) := by
  unfold execEventSet
  with_reducible repeat' first | assumption | apply serve_keeps | apply eventSetBody_keeps | intro _ | apply Keeps.next

theorem endDeclared_keeps (code : W16) (e : ArmedEvent) (tiles : BitVec 10) {s0 s : State} (h : Keeps s0 s) :
    Keeps s0 (endDeclared code e tiles s) := by
  unfold endDeclared
  dsimp only
  refine completeId_keeps _ _ _ (Keeps.plain h)

theorem cancelOne_keeps (i : Fin 64) {s0 s : State} (h : Keeps s0 s) : Keeps s0 (cancelOne s i) := by
  unfold cancelOne
  with_reducible repeat' first | assumption | apply endDeclared_keeps | apply completeId_keeps | apply setComparator_keeps | apply settleShadow_keeps | split

theorem eventCancelBody_keeps (f : Fetched) {s0 s : State} (h : Keeps s0 s) : BodyKeeps s0 (eventCancelBody f s) := by
  unfold eventCancelBody
  with_reducible repeat' first 
    | assumption | apply cancelOne_keeps | apply mirror_keeps | apply Keeps.foldl | intro _ | exact Keeps.rfl
    | apply Keeps.bodyDone | apply Keeps.bodyRunning | split

theorem execEventCancel_keeps (ring : RingIx) {s0 s : State} (h : Keeps s0 s) :
    ResultKeeps s0 (execEventCancel ring s) := by
  unfold execEventCancel
  with_reducible repeat' first | assumption | apply serve_keeps | apply eventCancelBody_keeps | intro _ | apply Keeps.next

theorem gapDeclareBody_keeps (n : RingIx) (f : Fetched) {s0 s : State} (h : Keeps s0 s) :
    BodyKeeps s0 (gapDeclareBody n f s) := by
  unfold gapDeclareBody
  dsimp only
  repeat' first | (with_reducible first | assumption | apply illegal_keeps | apply setComparator_keeps | apply Keeps.bodyDone | apply Keeps.bodyRunning) | split | (with_reducible apply Keeps.plain)

theorem execGapDeclare_keeps (ring : RingIx) {s0 s : State} (h : Keeps s0 s) : ResultKeeps s0 (execGapDeclare ring s) := by
  unfold execGapDeclare
  with_reducible repeat' first | assumption | apply serve_keeps | apply gapDeclareBody_keeps | intro _ | apply Keeps.next

theorem execEventRadioSwap_keeps (cmp : Fin 64) {s0 s : State} (h : Keeps s0 s) :
    ResultKeeps s0 (execEventRadioSwap cmp s) := by
  unfold execEventRadioSwap
  dsimp only
  with_reducible repeat' first 
    | assumption | apply setComparator_keeps | apply completeId_keeps | apply settleShadow_keeps
    | apply doSwap_keeps | apply Keeps.next | split

theorem execEventTileSwap_keeps (cmp : Fin 64) {s0 s : State} (h : Keeps s0 s) :
    ResultKeeps s0 (execEventTileSwap cmp s) := by
  unfold execEventTileSwap
  dsimp only
  with_reducible repeat' first
    | assumption | apply setComparator_keeps | apply completeId_keeps | apply settleShadow_keeps | apply doSwap_keeps
    | apply waitSwap_keeps | apply markHeld_keeps | apply Keeps.next | split | apply Keeps.plain

theorem execEventGapStart_keeps (cmp : Fin 64) {s0 s : State} (h : Keeps s0 s) :
    ResultKeeps s0 (execEventGapStart cmp s) := by
  unfold execEventGapStart
  with_reducible repeat' first
    | assumption | apply setComparator_keeps | apply openDeclared_keeps | apply Keeps.foldl | intro _
    | exact Keeps.rfl | apply Keeps.next | split | apply Keeps.plain

theorem execEventGapEnd_keeps (cmp : Fin 64) {s0 s : State} (h : Keeps s0 s) : ResultKeeps s0 (execEventGapEnd cmp s) := by
  unfold execEventGapEnd
  with_reducible repeat' first 
    | assumption | apply setComparator_keeps | apply endDeclared_keeps | apply Keeps.next | split

theorem execEventNotify_keeps (cmp : Fin 64) {s0 s : State} (h : Keeps s0 s) : ResultKeeps s0 (execEventNotify cmp s) := by
  unfold execEventNotify
  with_reducible repeat' first | assumption | apply completeId_keeps | apply setComparator_keeps | apply Keeps.next | split

/-! ### PowerOps -/

theorem applyCap_keeps {s0 s : State} (h : Keeps s0 s) : Keeps s0 (applyCap s) := Keeps.plain h

theorem dropHold_keeps {s0 s : State} (h : Keeps s0 s) : Keeps s0 (dropHold s) := Keeps.plain h

theorem setMag_keeps (k : Fin 2) (m : W16) {s0 s : State} (h : Keeps s0 s) : Keeps s0 (setMag k m s) := Keeps.plain h

theorem setMags_keeps (a : W16) (b : W16) {s0 s : State} (h : Keeps s0 s) : Keeps s0 (setMags a b s) := by
  unfold setMags
  with_reducible repeat' first | assumption | apply setMag_keeps

theorem feedCond_keeps (k : Fin 2) (c : FeedCond) {s0 s : State} (h : Keeps s0 s) : Keeps s0 (feedCond k c s) := by
  unfold feedCond
  with_reducible repeat' first | assumption | apply event_keeps | apply clearAlarm_keeps | apply raiseAlarm_keeps | split | apply Keeps.plain

theorem parkJob_keeps (j : Job) {s0 s : State} (h : Keeps s0 s) : Keeps s0 (parkJob s j) := stopWork_keeps _ _ h

theorem parkSlot_keeps (x : RadioSlot) {s0 s : State} (h : Keeps s0 s) : Keeps s0 (parkSlot s x) := by
  unfold parkSlot
  with_reducible repeat' first | assumption | apply endSet_keeps | apply Keeps.foldl | intro _ | exact Keeps.rfl

theorem parkRing_keeps (n : RingIx) {s0 s : State} (h : Keeps s0 s) : Keeps s0 (parkRing s n) :=
  completeAll_keeps _ _ _ h

theorem parkTile_keeps (t : TileIx) {s0 s : State} (h : Keeps s0 s) : Keeps s0 (parkTile s t) := by
  unfold parkTile
  dsimp only
  with_reducible repeat' first | assumption | apply setTile_keeps | apply enterTile_keeps | split

theorem parkActions_keeps (reason : Option Reason) {s0 s : State} (h : Keeps s0 s) : Keeps s0 (parkActions reason s) := by
  have a := dropHold_keeps h
  unfold parkActions
  dsimp only
  generalize dropHold s = s1 at a ⊢
  have b : Keeps s0 (s1.jobs.foldl parkJob s1) := Keeps.foldl a _ _ fun _ _ => parkJob_keeps _ Keeps.rfl
  generalize s1.jobs.foldl parkJob s1 = s2 at b ⊢
  have c : Keeps s0 (s2.radio.slots.foldl parkSlot s2) := Keeps.foldl b _ _ fun _ _ => parkSlot_keeps _ Keeps.rfl
  generalize s2.radio.slots.foldl parkSlot s2 = s3 at c ⊢
  have d : Keeps s0 { s3 with
      radio := { s3.radio with slots := [] }, time := { s3.time with comparators := Vector.replicate 64 none },
      sched := { s3.sched with tunes := [] }, flash := { s3.flash with fwUpdate := none } } := Keeps.upd c id id id id
  have e := Keeps.foldl (Keeps.foldl d (List.finRange 10) parkTile fun _ _ => parkTile_keeps _ Keeps.rfl)
    (List.finRange 64) parkRing fun _ _ => parkRing_keeps _ Keeps.rfl
  dsimp only at e
  revert e
  generalize List.foldl parkRing _ _ = s5
  intro e
  exact Keeps.upd e id id id id

theorem suspendErase_keeps (code : Bool) {s0 s : State} (h : Keeps s0 s) : Keeps s0 (suspendErase code s) := by
  unfold suspendErase
  with_reducible repeat' first | assumption | apply setPhase_keeps | apply setWorks_keeps | split

theorem enterS2_keeps (reason : Reason) (magA : W16) (magB : W16) (bank : W16) {s0 s : State} (h : Keeps s0 s) :
    Keeps s0 (enterS2 reason magA magB bank s) := by
  unfold enterS2
  dsimp only
  repeat' first | (with_reducible first | assumption | apply dropHold_keeps | apply suspendErase_keeps | apply setMags_keeps | apply parkActions_keeps) | split | (with_reducible apply Keeps.plain)

theorem railsDown_keeps (keep : Bool) {s0 s : State} (h : Keeps s0 s) : Keeps s0 (railsDown keep s) := by
  refine Keeps.upd h (fun g => ?_) id id id
  cases keep
  · exact ⟨g.1, rfl⟩
  · exact g

theorem enterS4_keeps (magA : W16) (magB : W16) (bank : W16) {s0 s : State} (h : Keeps s0 s) :
    Keeps s0 (enterS4 magA magB bank s) := by
  unfold enterS4
  with_reducible repeat' first | assumption | apply railsDown_keeps | apply setMags_keeps | split | apply Keeps.plain

theorem coresInit_wf : coresWf coresInit := fun k => by
  simp only [coresInit, Fin.getElem_fin, Vector.getElem_ofFn]
  exact Core.wf.fresh _ rfl rfl rfl rfl rfl rfl rfl

theorem beginStart_keeps (warm : Bool) {s0 s : State} (h : Keeps s0 s) : Keeps s0 (beginStart warm s) := by
  unfold beginStart
  dsimp only
  refine Keeps.upd h (fun g => ⟨g.1, ?_⟩) (fun g => g) (fun _ => coresInit_wf) fun _ => ⟨rfl, rfl⟩
  cases warm
  · rfl
  · exact g.2

theorem warmReset_keeps {s0 s : State} (h : Keeps s0 s) : Keeps s0 (warmReset s) := by
  unfold warmReset
  with_reducible repeat' first | assumption | apply beginStart_keeps | apply parkActions_keeps | split | apply Keeps.plain

/-! ### Flash -/

theorem replaceStep_keeps (code : Bool) (st : Option FlashStep) {s0 s : State} (h : Keeps s0 s) :
    Keeps s0 (replaceStep code st s) := by
  unfold replaceStep
  with_reducible repeat' first | assumption | apply setWorks_keeps | split

theorem failFront_keeps (code : Bool) (region : Nat) (c : W16) {s0 s : State} (h : Keeps s0 s) :
    Keeps s0 (failFront code region c s) := by
  unfold failFront
  with_reducible repeat' first | assumption | apply goOn_keeps | apply failWork_keeps | apply setWorks_keeps | split

theorem execFlashProgramDone_keeps (code : Bool) (same : Bool) {s0 s : State} (h : Keeps s0 s) :
    ResultKeeps s0 (execFlashProgramDone code same s) := by
  unfold execFlashProgramDone
  with_reducible repeat' first 
    | assumption | apply journal_keeps | apply setPhase_keeps | apply replaceStep_keeps | apply markUnit_keeps
    | apply failFront_keeps | apply setJournal_keeps | apply goOn_keeps | apply flashProgram_keeps
    | apply drawBytes_keeps | apply Keeps.next | split

theorem execFlashEraseDone_keeps (code : Bool) {s0 s : State} (h : Keeps s0 s) :
    ResultKeeps s0 (execFlashEraseDone code s) := by
  unfold execFlashEraseDone
  with_reducible repeat' first 
    | assumption | apply setPhase_keeps | apply countErase_keeps | apply flashErase_keeps | apply goOn_keeps
    | apply replaceStep_keeps | apply Keeps.next | split

theorem endMove_keeps (o : FlashArray) (unit : EraseUnit) (a : Nat) (intent : W32) {s0 s : State} (h : Keeps s0 s) :
    Keeps s0 (endMove o unit a intent s) := by
  unfold endMove
  with_reducible repeat' first | assumption | apply journal_keeps | apply setJournal_keeps | apply Keeps.foldl | intro _ | exact Keeps.rfl

theorem spoilUnit_keeps (arr : FlashArray) (unit : EraseUnit) (a : Nat) {s0 s : State} (h : Keeps s0 s) :
    Keeps s0 (spoilUnit arr unit a s) := by
  unfold spoilUnit
  with_reducible repeat' first | assumption | apply drawBytes_keeps | apply flashPut_keeps

theorem execFlashMarginReadDone_keeps (code : Bool) (pass : Bool) {s0 s : State} (h : Keeps s0 s) :
    ResultKeeps s0 (execFlashMarginReadDone code pass s) := by
  unfold execFlashMarginReadDone
  try dsimp only
  repeat' first
    | (with_reducible first 
        | assumption | apply endMove_keeps | apply journal_keeps | apply goOn_keeps | apply replaceStep_keeps
        | apply clearUnit_keeps | apply setPhase_keeps | apply spoilUnit_keeps | apply failFront_keeps
        | apply Keeps.next | apply Keeps.bodyDone | apply Keeps.bodyRunning)
    | exact fun (g : MemSys.wf _) => g | exact fun (g : Flash.wf _) => g
    | exact fun (g : XShared.wf _) => g | exact fun (g : coresWf _) => g
    | intro _ | split | (with_reducible refine Keeps.upd ?_ ?_ ?_ ?_ ?_)

theorem execTemperatureRetry_keeps {s0 s : State} (h : Keeps s0 s) : ResultKeeps s0 (execTemperatureRetry s) := by
  unfold execTemperatureRetry
  try dsimp only
  repeat' first
    | (with_reducible first 
        | assumption | exact Keeps.rfl | apply Keeps.foldl | apply enqueue_keeps | apply Keeps.next
        | apply Keeps.bodyDone | apply Keeps.bodyRunning)
    | exact fun (g : MemSys.wf _) => g | exact fun (g : Flash.wf _) => g
    | exact fun (g : XShared.wf _) => g | exact fun (g : coresWf _) => g
    | intro _ | split | (with_reducible refine Keeps.upd ?_ ?_ ?_ ?_ ?_)

theorem flushPage_keeps {s0 s : State} (h : Keeps s0 s) : Keeps s0 (flushPage s) := by
  unfold flushPage
  try dsimp only
  repeat' first
    | (with_reducible first | assumption | apply enqueue_keeps)
    | exact fun (g : MemSys.wf _) => g | exact fun (g : Flash.wf _) => g
    | exact fun (g : XShared.wf _) => g | exact fun (g : coresWf _) => g
    | intro _ | split | (with_reducible refine Keeps.upd ?_ ?_ ?_ ?_ ?_)

theorem execEventArchiveFlush_keeps {s0 s : State} (h : Keeps s0 s) : ResultKeeps s0 (execEventArchiveFlush s) := by
  unfold execEventArchiveFlush
  with_reducible repeat' first | assumption | apply flushPage_keeps | apply Keeps.foldl | intro _ | exact Keeps.rfl | apply Keeps.next

theorem execOscTableStore_keeps {s0 s : State} (h : Keeps s0 s) : ResultKeeps s0 (execOscTableStore s) := by
  unfold execOscTableStore
  with_reducible repeat' first | assumption | apply storeOscTable_keeps | apply Keeps.next | split

theorem execArchiveNoResponse_keeps {s0 s : State} (h : Keeps s0 s) : ResultKeeps s0 (execArchiveNoResponse s) := by
  unfold execArchiveNoResponse
  try dsimp only
  repeat' first
    | (with_reducible first 
        | assumption | exact Keeps.rfl | apply Keeps.foldl | apply setCore_keeps | apply reportHost_keeps
        | apply raiseAlarm_keeps | apply Keeps.next | apply Keeps.bodyDone | apply Keeps.bodyRunning)
    | exact fun (g : MemSys.wf _) => g | exact fun (g : Flash.wf _) => g
    | exact fun (g : XShared.wf _) => g | exact fun (g : coresWf _) => g
    | (intro g; exact g.flashDone _)
    | (intro g; exact g.same rfl rfl rfl rfl rfl rfl rfl (Or.inl rfl) (Or.inl rfl))
    | (intro g; exact g.same rfl rfl rfl rfl rfl rfl rfl (Or.inr rfl) (Or.inl rfl))
    | (intro g; exact g.same rfl rfl rfl rfl rfl rfl rfl (Or.inr rfl) (Or.inr (by simp)))
    | intro _ | split | (with_reducible refine Keeps.upd ?_ ?_ ?_ ?_ ?_)

theorem selectBank_keeps (bank : Bool) {s0 s : State} (h : Keeps s0 s) : Keeps s0 (selectBank bank s) := by
  unfold selectBank
  try dsimp only
  repeat' first
    | (with_reducible first | assumption | apply journal_keeps)
    | exact fun (g : MemSys.wf _) => g | exact fun (g : Flash.wf _) => g
    | exact fun (g : XShared.wf _) => g | exact fun (g : coresWf _) => g
    | intro _ | split | (with_reducible refine Keeps.upd ?_ ?_ ?_ ?_ ?_)

theorem fwUpdateBody_keeps (n : RingIx) (f : Fetched) {s0 s : State} (h : Keeps s0 s) :
    BodyKeeps s0 (fwUpdateBody n f s) := by
  unfold fwUpdateBody
  try dsimp only
  repeat' first
    | (with_reducible first 
        | assumption | apply selectBank_keeps | apply enqueue_keeps | apply Keeps.bodyDone
        | apply Keeps.bodyRunning)
    | exact fun (g : MemSys.wf _) => g | exact fun (g : Flash.wf _) => g
    | exact fun (g : XShared.wf _) => g | exact fun (g : coresWf _) => g
    | intro _ | split | (with_reducible refine Keeps.upd ?_ ?_ ?_ ?_ ?_)

theorem execFwUpdate_keeps (ring : RingIx) {s0 s : State} (h : Keeps s0 s) : ResultKeeps s0 (execFwUpdate ring s) := by
  unfold execFwUpdate
  with_reducible repeat' first | assumption | apply serve_keeps | apply fwUpdateBody_keeps | intro _ | apply Keeps.next

theorem fwActivateBody_keeps (f : Fetched) {s0 s : State} (h : Keeps s0 s) : BodyKeeps s0 (fwActivateBody f s) := by
  unfold fwActivateBody
  dsimp only
  repeat' first | (with_reducible first | assumption | apply selectBank_keeps | apply Keeps.bodyDone | apply Keeps.bodyRunning) | split | (with_reducible apply Keeps.plain)

theorem execFwActivate_keeps (ring : RingIx) {s0 s : State} (h : Keeps s0 s) : ResultKeeps s0 (execFwActivate ring s) := by
  unfold execFwActivate
  with_reducible repeat' first | assumption | apply serve_keeps | apply fwActivateBody_keeps | intro _ | apply Keeps.next

theorem archiveReadBody_keeps (f : Fetched) {s0 s : State} (h : Keeps s0 s) : BodyKeeps s0 (archiveReadBody f s) := by
  unfold archiveReadBody
  dsimp only
  with_reducible repeat' first | assumption | apply writeThen_keeps | apply Keeps.bodyDone | apply Keeps.bodyRunning | split

theorem execArchiveRead_keeps (ring : RingIx) {s0 s : State} (h : Keeps s0 s) :
    ResultKeeps s0 (execArchiveRead ring s) := by
  unfold execArchiveRead
  with_reducible repeat' first | assumption | apply serve_keeps | apply archiveReadBody_keeps | intro _ | apply Keeps.next

theorem extEnrollBody_keeps (n : RingIx) (f : Fetched) {s0 s : State} (h : Keeps s0 s) :
    BodyKeeps s0 (extEnrollBody n f s) := by
  unfold extEnrollBody
  dsimp only
  repeat' first | (with_reducible first | assumption | apply illegal_keeps | apply enqueue_keeps | apply Keeps.bodyDone | apply Keeps.bodyRunning) | split | (with_reducible apply Keeps.plain)

theorem execExtEnroll_keeps (ring : RingIx) {s0 s : State} (h : Keeps s0 s) : ResultKeeps s0 (execExtEnroll ring s) := by
  unfold execExtEnroll
  with_reducible repeat' first | assumption | apply serve_keeps | apply extEnrollBody_keeps | intro _ | apply Keeps.next

/-! ### XelinOps -/

theorem recordTrap_keeps (k : CoreIx) (t : XTrap) {s0 s : State} (h : Keeps s0 s) : Keeps s0 (recordTrap k t s) :=
  setCore_keeps k _ h fun g => g.same rfl rfl rfl rfl rfl rfl rfl (Or.inl rfl) (Or.inl rfl)

theorem failHandles_keeps (k : CoreIx) (code : W16) {s0 s : State} (h : Keeps s0 s) : Keeps s0 (failHandles k code s) := by
  unfold failHandles
  try dsimp only
  repeat' first
    | (with_reducible first | assumption | exact Keeps.rfl | apply Keeps.foldl | apply complete_keeps | apply setCore_keeps)
    | exact fun (g : MemSys.wf _) => g | exact fun (g : Flash.wf _) => g
    | exact fun (g : XShared.wf _) => g | exact fun (g : coresWf _) => g
    | (intro g; exact g.flashDone _)
    | (intro g; exact g.same rfl rfl rfl rfl rfl rfl rfl (Or.inl rfl) (Or.inl rfl))
    | (intro g; exact g.same rfl rfl rfl rfl rfl rfl rfl (Or.inr rfl) (Or.inl rfl))
    | (intro g; exact g.same rfl rfl rfl rfl rfl rfl rfl (Or.inr rfl) (Or.inr (by simp)))
    | intro _ | split | (with_reducible refine Keeps.upd ?_ ?_ ?_ ?_ ?_)

theorem dropRadioSlot_keeps (n : W64) {s0 s : State} (h : Keeps s0 s) : Keeps s0 (dropRadioSlot n s) := by
  unfold dropRadioSlot
  with_reducible repeat' first 
    | assumption | apply dropSet_keeps | apply dropJob_keeps | apply Keeps.foldl | intro _ | exact Keeps.rfl
    | split

theorem stopCoreWork_keeps (k : CoreIx) {s0 s : State} (h : Keeps s0 s) : Keeps s0 (stopCoreWork k s) := by
  unfold stopCoreWork
  with_reducible repeat' first | assumption | apply failHandles_keeps | apply dropRadioSlot_keeps | split | apply Keeps.plain

theorem stopSubmission_keeps (x : Submission) {s0 s : State} (h : Keeps s0 s) : Keeps s0 (stopSubmission x s) := by
  unfold stopSubmission
  with_reducible repeat' first | assumption | apply stopAny_keeps | apply setRing_keeps | split

theorem unloadExt_keeps {s0 s : State} (h : Keeps s0 s) : Keeps s0 (unloadExt s) := by
  unfold unloadExt
  try dsimp only
  repeat' first
    | (with_reducible first 
        | assumption | exact Keeps.rfl | apply Keeps.foldl | apply stopSubmission_keeps | apply failHandles_keeps
        | apply setCore_keeps | apply complete_keeps)
    | exact fun (g : MemSys.wf _) => g | exact fun (g : Flash.wf _) => g
    | exact fun (g : XShared.wf _) => g | exact fun (g : coresWf _) => g
    | (intro g; exact g.flashDone _)
    | (intro g; exact g.same rfl rfl rfl rfl rfl rfl rfl (Or.inl rfl) (Or.inl rfl))
    | (intro g; exact g.same rfl rfl rfl rfl rfl rfl rfl (Or.inr rfl) (Or.inl rfl))
    | (intro g; exact g.same rfl rfl rfl rfl rfl rfl rfl (Or.inr rfl) (Or.inr (by simp)))
    | intro _ | split | (with_reducible refine Keeps.upd ?_ ?_ ?_ ?_ ?_)

theorem coreEvent_keeps (code : W16) (k : CoreIx) {s0 s : State} (h : Keeps s0 s) : Keeps s0 (coreEvent code k s) :=
  event_keeps _ _ _ h

theorem haltCore_keeps (k : CoreIx) {s0 s : State} (h : Keeps s0 s) : Keeps s0 (haltCore k s) := by
  refine setCore_keeps k _ h fun g => g.same rfl rfl rfl rfl rfl rfl rfl (Or.inr rfl) (Or.inr ?_)
  dsimp only
  split <;> simp

theorem afterTrap_keeps (k : CoreIx) (cause : Nat) (halt : Bool) {s0 s : State} (h : Keeps s0 s) :
    Keeps s0 (afterTrap k cause halt s) := by
  have w : Keeps s0 (setCore k (fun c => { c with postDue := some (trapEvent cause) }) (stopCoreWork k s)) :=
    setCore_keeps k _ (stopCoreWork_keeps k h) fun g => g.same rfl rfl rfl rfl rfl rfl rfl (Or.inl rfl) (Or.inl rfl)
  unfold afterTrap
  split
  · exact coreEvent_keeps _ _ (unloadExt_keeps h)
  · dsimp only
    split
    · exact haltCore_keeps k w
    · exact setCore_keeps k _ w fun g => ⟨g.code, g.data, g.g0, vectorPc_mod _, fun _ e => absurd e (by simp [dropUnits]),
        g.dstack, g.rstack, fun e => absurd e (by simp), fun e => absurd e (by simp)⟩

theorem trap_keeps (k : CoreIx) (t : XTrap) {s0 s : State} (h : Keeps s0 s) : Keeps s0 (trap k t s) := by
  unfold trap
  with_reducible repeat' first | assumption | apply afterTrap_keeps | apply recordTrap_keeps

theorem xmove_keeps (k : CoreIx) (guard : BitVec 4) (dst : Nat) (src : MoveSrc) (op : XOp) {s0 s : State} (h : Keeps s0 s)
    (hop : ∀ tg v t u, t.cores[k].room dst → op k tg v t = .ok u → Keeps t u) : ResultKeeps s0 (xmove k guard dst src op s) := by
  unfold xmove
  split
  · exact h
  · split
    · exact trap_keeps _ _ h
    · split
      · exact setCore_keeps k _ h Core.wf.nextPc
      · split
        · exact trap_keeps _ _ h
        · next hg =>
          split
          · exact setCore_keeps k _ h fun g => g.same rfl rfl rfl rfl rfl rfl rfl (Or.inl rfl) (Or.inl rfl)
          · split
            · exact trap_keeps _ _ h
            · next u hu =>
              refine setCore_keeps k _ (Keeps.trans (setCore_keeps k (fun c => (readSource c src).2) h fun g => g.readSource src) ?_) Core.wf.nextPc
              exact hop _ _ _ _ (room_readSource k dst src s hg) hu

theorem xmove_core_keeps (k : CoreIx) (guard : BitVec 4) (dst : Nat) (src : MoveSrc) (f : Bool → W32 → Core → Except XTrap Core)
    {s0 s : State} (h : Keeps s0 s) (hf : ∀ tg v c d, c.room dst → f tg v c = .ok d → c.wf → d.wf) :
    ResultKeeps s0 (xmove k guard dst src (onCore f) s) :=
  xmove_keeps k guard dst src (onCore f) h fun tg v t u r e => by
    unfold onCore at e
    split at e
    · cases e
    · next d hd =>
      cases e
      exact setCore_keeps k (fun _ => d) Keeps.rfl fun g => hf _ _ _ _ r hd g

theorem localRead_keeps (k : CoreIx) (a n : Nat) {s0 s : State} (h : Keeps s0 s) : Keeps s0 (localRead k a n s).2 := by
  unfold localRead
  split <;> first | exact h | exact drawBytes_keeps _ h

theorem localWrite_keeps (k : CoreIx) (a : Nat) (bs : List Byte) {s0 s : State} (h : Keeps s0 s) : Keeps s0 (localWrite k a bs s) := by
  unfold localWrite
  split
  · exact setCore_keeps k _ h fun g => ⟨g.code, memWriteN_wf _ _ _ _ g.data, g.g0, g.pc, g.target, g.dstack, g.rstack, g.drun, g.rrun⟩
  · exact Keeps.upd h id id id fun g => ⟨memWriteN_wf _ _ _ _ g.1, g.2⟩
  · exact Keeps.upd h id id id fun g => ⟨g.1, memWriteN_wf _ _ _ _ g.2⟩
  · exact h

/-! ### Radio -/

theorem acceptSlot_keeps (ring : RingIx) (f : Fetched) (g : GroupIx) (cs : List CSection) (ws : List (W64 × W32)) {s0 s : State} (h : Keeps s0 s) :
    Keeps s0 (acceptSlot ring f g cs ws s) := Keeps.plain h

theorem slotBody_keeps (ring : RingIx) (f : Fetched) {s0 s : State} (h : Keeps s0 s) :
    BodyKeeps s0 (slotBody ring f s) := by
  unfold slotBody
  dsimp only
  with_reducible repeat' first 
    | assumption | apply illegal_keeps | apply acceptSlot_keeps | apply Keeps.bodyDone | apply Keeps.bodyRunning
    | split

theorem execSlot_keeps (ring : RingIx) {s0 s : State} (h : Keeps s0 s) : ResultKeeps s0 (execSlot ring s) := by
  unfold execSlot
  with_reducible repeat' first | assumption | apply serve_keeps | apply slotBody_keeps | intro _ | apply Keeps.next | split

theorem dropFrame_keeps (p : PortIx) {s0 s : State} (h : Keeps s0 s) : Keeps s0 (dropFrame p s) := setPort_keeps _ _ h

theorem dropEcpri_keeps (p : PortIx) {s0 s : State} (h : Keeps s0 s) : Keeps s0 (dropEcpri p s) := setPort_keeps _ _ h

theorem noteSeq_keeps (i : StreamIx) (q : Byte) {s0 s : State} (h : Keeps s0 s) : Keeps s0 (noteSeq i q s) := by
  unfold noteSeq
  with_reducible repeat' first | assumption | apply setStream_keeps | split | apply Keeps.plain

theorem dropStale_keeps (g : GroupIx) (n : W64) {s0 s : State} (h : Keeps s0 s) :
    Keeps s0 (dropStale g n s) := by
  unfold dropStale
  with_reducible repeat' first
    | assumption | apply dropWork_keeps | apply dropSet_keeps | apply Keeps.foldl | intro _ | exact Keeps.rfl | split
    | apply Keeps.plain

theorem storePrbs_keeps (g : GroupIx) (n : W64) (ant : Nat) (sym : Nat) (prbs : List (Nat × List Int)) {s0 s : State} (h : Keeps s0 s) :
    Keeps s0 (storePrbs g n ant sym prbs s) := setSlot_keeps _ _ _ h

theorem startIfArrived_keeps (g : GroupIx) (n : W64) (sym : Nat) {s0 s : State} (h : Keeps s0 s) :
    Keeps s0 (startIfArrived g n sym s) := by
  unfold startIfArrived
  dsimp only
  with_reducible repeat' first | assumption | apply startSet_keeps | split

theorem placeMessage_keeps (i : StreamIx) (g : GroupIx) (m : RadioSet) (h1 : UHead) (prbs : List (Nat × List Int)) {s0 s : State} (h : Keeps s0 s) :
    Keeps s0 (placeMessage i g m h1 prbs s) := by
  unfold placeMessage
  dsimp only
  with_reducible repeat' first 
    | assumption | apply dropStale_keeps | apply setStream_keeps | apply startIfArrived_keeps
    | apply storePrbs_keeps | split

theorem uplane_keeps (i : StreamIx) (m : RadioSet) (b : List Byte) {s0 s : State} (h : Keeps s0 s) :
    Keeps s0 (uplane i m b s) := by
  unfold uplane
  dsimp only
  with_reducible repeat' first | assumption | apply setStream_keeps | apply placeMessage_keeps | split

theorem iqMessage_keeps (p : PortIx) (b : List Byte) {s0 s : State} (h : Keeps s0 s) : Keeps s0 (iqMessage p b s) := by
  unfold iqMessage
  dsimp only
  with_reducible repeat' first | assumption | apply dropEcpri_keeps | apply setPort_keeps | apply uplane_keeps | apply noteSeq_keeps | split

theorem execUplaneMessageRx_keeps (port : PortIx) (frame : List Byte) {s0 s : State} (h : Keeps s0 s) :
    ResultKeeps s0 (execUplaneMessageRx port frame s) := by
  unfold execUplaneMessageRx
  with_reducible repeat' first | assumption | apply dropFrame_keeps | apply dropEcpri_keeps | apply iqMessage_keeps | apply Keeps.next | split

theorem delayAnswer_keeps (port : PortIx) (frame : List Byte) (payload : List Byte) (act : Byte) {s0 s : State} (h : Keeps s0 s) :
    Keeps s0 (delayAnswer port frame payload act s) := by
  unfold delayAnswer
  with_reducible repeat' first | assumption | apply drawBytes_keeps | apply sendEcpri_keeps | split

theorem execDelayMeasurementRx_keeps (port : PortIx) (frame : List Byte) {s0 s : State} (h : Keeps s0 s) :
    ResultKeeps s0 (execDelayMeasurementRx port frame s) := by
  unfold execDelayMeasurementRx
  dsimp only
  repeat' first | (with_reducible first | assumption | apply dropFrame_keeps | apply dropEcpri_keeps | apply delayAnswer_keeps | apply Keeps.next) | split | (with_reducible apply Keeps.plain)

theorem execRxClose_keeps (group : GroupIx) (slotNo : W64) (set : Nat) {s0 s : State} (h : Keeps s0 s) :
    ResultKeeps s0 (execRxClose group slotNo set s) := by
  unfold execRxClose
  with_reducible repeat' first | assumption | apply startSet_keeps | apply Keeps.next | split

theorem execLayerFetchDone_keeps (group : GroupIx) (slotNo : W64) {s0 s : State} (h : Keeps s0 s) :
    ResultKeeps s0 (execLayerFetchDone group slotNo s) := by
  unfold execLayerFetchDone
  with_reducible repeat' first | assumption | apply completeId_keeps | apply endSlot_keeps | apply setSlot_keeps | apply Keeps.next | split

theorem execDlSetStart_keeps (group : GroupIx) (slotNo : W64) (set : Nat) {s0 s : State} (h : Keeps s0 s) :
    ResultKeeps s0 (execDlSetStart group slotNo set s) := by
  unfold execDlSetStart
  with_reducible repeat' first | assumption | apply startSet_keeps | apply Keeps.next | split

theorem sendUplane_keeps (x : RadioSlot) (sym : Nat) (i : StreamIx) (p : PortIx) (l : List (Nat × Nat × Nat)) {s0 s : State}
    (h : Keeps s0 s) : Keeps s0 (sendUplane x sym i p s l) := by
  unfold sendUplane
  with_reducible repeat' first | assumption | apply setStream_keeps | apply sendEcpri_keeps | apply Keeps.plain

theorem sendSymbol_keeps (x : RadioSlot) (sym : Nat) (ready : Bool) (i : StreamIx) {s0 s : State} (h : Keeps s0 s) :
    Keeps s0 (sendSymbol x sym ready s i) := by
  unfold sendSymbol
  dsimp only
  split
  · exact h
  · with_reducible repeat' first | assumption | apply setStream_keeps | apply sendUplane_keeps | apply Keeps.foldl | intro _ | exact Keeps.rfl | split

theorem execTxWindowOpen_keeps (group : GroupIx) (slotNo : W64) (sym : Fin 14) {s0 s : State} (h : Keeps s0 s) :
    ResultKeeps s0 (execTxWindowOpen group slotNo sym s) := by
  unfold execTxWindowOpen
  dsimp only
  with_reducible repeat' first 
    | assumption | apply sendSymbol_keeps | apply completeId_keeps | apply endSlot_keeps | apply setSlot_keeps
    | apply Keeps.foldl | intro _ | exact Keeps.rfl | apply Keeps.next | split

theorem sendCplane_keeps (x : RadioSlot) (c : CSection) {s0 s : State} (h : Keeps s0 s) : Keeps s0 (sendCplane x s c) := by
  unfold sendCplane
  dsimp only
  repeat' first | (with_reducible first | assumption | apply setStream_keeps | apply drawBytes_keeps | apply sendEcpri_keeps) | split | (with_reducible apply Keeps.plain)

theorem execCplaneTx_keeps (group : GroupIx) (slotNo : W64) {s0 s : State} (h : Keeps s0 s) :
    ResultKeeps s0 (execCplaneTx group slotNo s) := by
  unfold execCplaneTx
  with_reducible repeat' first 
    | assumption | apply sendCplane_keeps | apply setSlot_keeps | apply Keeps.foldl | intro _ | exact Keeps.rfl
    | apply Keeps.next | split

theorem catchUp_keeps {s0 s : State} (h : Keeps s0 s) : Keeps s0 (catchUp s) := by
  unfold catchUp
  with_reducible repeat' first 
    | assumption | apply sendCplane_keeps | apply setSlot_keeps | apply Keeps.foldl | intro _ | exact Keeps.rfl
    | split

theorem execRxMissingHigh_keeps (group : GroupIx) {s0 s : State} (h : Keeps s0 s) :
    ResultKeeps s0 (execRxMissingHigh group s) := by
  unfold execRxMissingHigh
  with_reducible repeat' first | assumption | apply raiseAlarm_keeps | apply event_keeps | apply Keeps.next | split

theorem execSlotDescriptorDeadline_keeps (group : GroupIx) (slotNo : W64) {s0 s : State} (h : Keeps s0 s) :
    ResultKeeps s0 (execSlotDescriptorDeadline group slotNo s) := by
  unfold execSlotDescriptorDeadline
  with_reducible repeat' first | assumption | apply event_keeps | apply Keeps.next | split

theorem portDown_keeps (p : PortIx) (f : Port → Port) {s0 s : State} (h : Keeps s0 s) : Keeps s0 (portDown p f s) := by
  unfold portDown
  dsimp only
  repeat' first | (with_reducible first | assumption | apply raiseAlarm_keeps | apply event_keeps | apply setPort_keeps | apply requestTakeover_keeps) | split | (with_reducible apply Keeps.plain)

theorem execPortSignalLoss_keeps (port : PortIx) {s0 s : State} (h : Keeps s0 s) :
    ResultKeeps s0 (execPortSignalLoss port s) := by
  unfold execPortSignalLoss
  with_reducible repeat' first | assumption | apply portDown_keeps | apply Keeps.next | split

theorem execQsfpModuleInsert_keeps (port : PortIx) (supported : Bool) {s0 s : State} (h : Keeps s0 s) :
    ResultKeeps s0 (execQsfpModuleInsert port supported s) := by
  unfold execQsfpModuleInsert
  with_reducible repeat' first | assumption | apply setPort_keeps | apply portDown_keeps | apply Keeps.next | split

theorem execPcsAligned_keeps (port : PortIx) {s0 s : State} (h : Keeps s0 s) : ResultKeeps s0 (execPcsAligned port s) := by
  unfold execPcsAligned
  with_reducible repeat' first | assumption | apply clearAlarm_keeps | apply setPort_keeps | apply Keeps.next | split

theorem execModuleFault_keeps (port : PortIx) {s0 s : State} (h : Keeps s0 s) :
    ResultKeeps s0 (execModuleFault port s) := by
  unfold execModuleFault
  with_reducible repeat' first | assumption | apply portDown_keeps | apply Keeps.next | split

/-! ### HandOps -/

theorem takeRole_keeps (r : Role) {s0 s : State} (h : Keeps s0 s) : Keeps s0 (takeRole r s) := Keeps.plain h

theorem leavePair_keeps {s0 s : State} (h : Keeps s0 s) : Keeps s0 (leavePair s) := by
  unfold leavePair
  with_reducible repeat' first | assumption | apply takeRole_keeps | split | apply Keeps.plain

theorem sendHeartbeat_keeps (power : Nat) {s0 s : State} (h : Keeps s0 s) : Keeps s0 (sendHeartbeat power s) := by
  unfold sendHeartbeat
  with_reducible repeat' first | assumption | apply sendFrame_keeps | split | apply Keeps.plain

theorem seize_keeps {s0 s : State} (h : Keeps s0 s) : Keeps s0 (seize s) := by
  unfold seize
  with_reducible repeat' first | assumption | apply leavePair_keeps | apply raiseAlarm_keeps | apply event_keeps | apply Keeps.plain

theorem gainGrant_keeps {s0 s : State} (h : Keeps s0 s) : Keeps s0 (gainGrant s) := by
  unfold gainGrant
  with_reducible repeat' first | assumption | apply catchUp_keeps | apply takeRole_keeps | apply seize_keeps | split | apply Keeps.plain

theorem loseGrant_keeps {s0 s : State} (h : Keeps s0 s) : Keeps s0 (loseGrant s) := by
  unfold loseGrant
  with_reducible repeat' first | assumption | apply takeRole_keeps | apply leavePair_keeps | split | apply Keeps.plain

theorem setHolder_keeps (h1 : Option Bool) {s0 s : State} (h : Keeps s0 s) : Keeps s0 (setHolder h1 s) := by
  unfold setHolder
  with_reducible repeat' first | assumption | apply gainGrant_keeps | apply loseGrant_keeps | split | apply Keeps.plain

theorem beginHandover_keeps (cmd : Option Fetched) {s0 s : State} (h : Keeps s0 s) : Keeps s0 (beginHandover cmd s) := by
  unfold beginHandover
  with_reducible repeat' first | assumption | apply sendFrame_keeps | apply Keeps.plain

theorem replay_keeps {s0 s : State} (h : Keeps s0 s) : Keeps s0 (replay s) := by
  unfold replay
  with_reducible repeat' first | assumption | apply event_keeps | split | apply Keeps.plain

theorem releaseAcked_keeps (ackSeq : W32) {s0 s : State} (h : Keeps s0 s) :
    Keeps s0 (releaseAcked ackSeq s) := by
  unfold releaseAcked
  with_reducible repeat' first | assumption | split | apply Keeps.plain

theorem takeLinkFrame_keeps (x : RxHead) (f : State → State) {s0 s : State} (h : Keeps s0 s)
    (hf : ∀ t, Keeps s0 t → Keeps s0 (f t)) : Keeps s0 (takeLinkFrame x f s) := by
  unfold takeLinkFrame
  with_reducible repeat' first | assumption | exact hf _ h | apply sendFrame_keeps | split | apply Keeps.plain

theorem takeSequenced_keeps (x : RxHead) (f : State → State) {s0 s : State} (h : Keeps s0 s)
    (hf : ∀ t, Keeps s0 t → Keeps s0 (f t)) : Keeps s0 (takeSequenced x f s) := by
  unfold takeSequenced
  split
  · exact sendFrame_keeps _ _ _ (hf _ (Keeps.upd h id id id id))
  · split <;> exact sendFrame_keeps _ _ _ h

theorem receive_keeps (x : RxHead) (f : State → State) {s0 s : State} (h : Keeps s0 s)
    (hf : ∀ t, Keeps s0 t → Keeps s0 (f t)) : Keeps s0 (receive x f s) :=
  takeLinkFrame_keeps x _ h fun _ g => takeSequenced_keeps x f (releaseAcked_keeps _ g) hf

theorem sendGroup_keeps (g : GroupIx) {s0 s : State} (h : Keeps s0 s) : Keeps s0 (sendGroup s g) :=
  sendMessage_keeps _ _ h

theorem sendMemory_keeps (r : Nat × Nat) {s0 s : State} (h : Keeps s0 s) : Keeps s0 (sendMemory s r) :=
  sendMessage_keeps _ _ h

theorem enterResync_keeps (whole : Bool) {s0 s : State} (h : Keeps s0 s) : Keeps s0 (enterResync whole s) := by
  unfold enterResync
  with_reducible repeat' first 
    | assumption | apply sendGroup_keeps | apply sendMessage_keeps | apply sendMemory_keeps | apply Keeps.foldl
    | intro _ | exact Keeps.rfl | split | apply Keeps.plain

theorem finishRole_keeps {s0 s : State} (h : Keeps s0 s) : Keeps s0 (finishRole s) := by
  unfold finishRole
  with_reducible repeat' first | assumption | apply completeAny_keeps | split | apply Keeps.plain

theorem reloadMembers_keeps {s0 s : State} (h : Keeps s0 s) : Keeps s0 (reloadMembers s) := Keeps.plain h

theorem trySynced_keeps {s0 s : State} (h : Keeps s0 s) : Keeps s0 (trySynced s) := by
  unfold trySynced
  with_reducible repeat' first | assumption | apply finishRole_keeps | apply reloadMembers_keeps | split | apply Keeps.plain

end Sys2Proof.Machine
end

