-- ==== Sys2Proof/Laws/KeepsD.lean ====
section
/-! SUPPORT. What the operations keep (Laws/Keeps), one lemma per operation: Power, Twin, Ext, HostBus. -/
namespace Sys2Proof.Machine

/-! ### Power -/

theorem powerCapBody_keeps (f : Fetched) {s0 s : State} (h : Keeps s0 s) : BodyKeeps s0 (powerCapBody f s) := by
  unfold powerCapBody
  dsimp only
  repeat' first | (with_reducible first | assumption | apply mirror_keeps | apply applyCap_keeps | apply Keeps.bodyDone | apply Keeps.bodyRunning) | split | (with_reducible apply Keeps.plain)

theorem execPowerCap_keeps (ring : RingIx) {s0 s : State} (h : Keeps s0 s) : ResultKeeps s0 (execPowerCap ring s) := by
  unfold execPowerCap
  with_reducible repeat' first | assumption | apply serve_keeps | apply powerCapBody_keeps | intro _ | apply Keeps.next

theorem withdraw_keeps (units : Nat) (excess : Bool) {s0 s : State} (h : Keeps s0 s) :
    Keeps s0 (withdraw units excess s) := Keeps.plain h

theorem measurePower_keeps (measured : Nat) {s0 s : State} (h : Keeps s0 s) : Keeps s0 (measurePower measured s) := by
  unfold measurePower
  with_reducible repeat' first | assumption | apply raiseAlarm_keeps | apply clearAlarm_keeps | split | apply Keeps.plain

theorem execPowerBudgetUpdate_keeps (busy : List (TileIx × BitVec 3 × Nat)) (sepiaBusy : Bool) (measured : Nat) {s0 s : State} (h : Keeps s0 s) :
    ResultKeeps s0 (execPowerBudgetUpdate busy sepiaBusy measured s) := by
  unfold execPowerBudgetUpdate
  dsimp only
  repeat' first | (with_reducible first | assumption | apply measurePower_keeps | apply withdraw_keeps | apply draw_keeps | apply Keeps.next) | split | (with_reducible apply Keeps.plain)

theorem execFeedLow_keeps (magA : W16) (magB : W16) {s0 s : State} (h : Keeps s0 s) :
    ResultKeeps s0 (execFeedLow magA magB s) := by
  unfold execFeedLow
  dsimp only
  repeat' first | (with_reducible first | assumption | apply setMags_keeps | apply feedCond_keeps | apply applyCap_keeps | apply Keeps.next) | split | (with_reducible apply Keeps.plain)

theorem execFeedLowRestore_keeps (magA : W16) (magB : W16) {s0 s : State} (h : Keeps s0 s) :
    ResultKeeps s0 (execFeedLowRestore magA magB s) := by
  unfold execFeedLowRestore
  dsimp only
  repeat' first | (with_reducible first | assumption | apply setMags_keeps | apply feedCond_keeps | apply applyCap_keeps | apply Keeps.next) | split | (with_reducible apply Keeps.plain)

theorem execFeedLost_keeps (feed : Fin 2) (mag : W16) {s0 s : State} (h : Keeps s0 s) :
    ResultKeeps s0 (execFeedLost feed mag s) := by
  unfold execFeedLost
  with_reducible repeat' first | assumption | apply setMag_keeps | apply feedCond_keeps | apply Keeps.next | split

theorem execFeedNormal_keeps (feed : Fin 2) (mag : W16) {s0 s : State} (h : Keeps s0 s) :
    ResultKeeps s0 (execFeedNormal feed mag s) := by
  unfold execFeedNormal
  dsimp only
  with_reducible repeat' first | assumption | apply setMag_keeps | apply feedCond_keeps | apply Keeps.next | split

theorem execFeedHigh_keeps (feed : Fin 2) (mag : W16) {s0 s : State} (h : Keeps s0 s) :
    ResultKeeps s0 (execFeedHigh feed mag s) := by
  unfold execFeedHigh
  with_reducible repeat' first | assumption | apply setMag_keeps | apply feedCond_keeps | apply Keeps.next | split | apply Keeps.plain

theorem execFeedHighReconnect_keeps (feed : Fin 2) (mag : W16) {s0 s : State} (h : Keeps s0 s) :
    ResultKeeps s0 (execFeedHighReconnect feed mag s) := by
  unfold execFeedHighReconnect
  with_reducible repeat' first | assumption | apply setMag_keeps | apply feedCond_keeps | apply Keeps.next | split | apply Keeps.plain

theorem execFeedReversed_keeps (feed : Fin 2) {s0 s : State} (h : Keeps s0 s) :
    ResultKeeps s0 (execFeedReversed feed s) := by
  unfold execFeedReversed
  with_reducible repeat' first | assumption | apply feedCond_keeps | apply Keeps.next | split

theorem execFeedTransient_keeps (feed : Fin 2) (mag : W16) {s0 s : State} (h : Keeps s0 s) :
    ResultKeeps s0 (execFeedTransient feed mag s) := by
  unfold execFeedTransient
  with_reducible repeat' first | assumption | apply setMag_keeps | apply Keeps.next | split | apply Keeps.plain

theorem execBankMeasure_keeps (microfarad : W16) {s0 s : State} (h : Keeps s0 s) :
    ResultKeeps s0 (execBankMeasure microfarad s) := by
  unfold execBankMeasure
  dsimp only
  repeat' first | (with_reducible first | assumption | apply raiseAlarm_keeps | apply event_keeps | apply clearAlarm_keeps | apply Keeps.next) | split | (with_reducible apply Keeps.plain)

theorem execChargerFail_keeps (bank : W16) {s0 s : State} (h : Keeps s0 s) : ResultKeeps s0 (execChargerFail bank s) := by
  unfold execChargerFail
  dsimp only
  repeat' first | (with_reducible first | assumption | apply raiseAlarm_keeps | apply event_keeps | apply requestTakeover_keeps | apply Keeps.next) | split | (with_reducible apply Keeps.plain)

theorem execBankFull_keeps {s0 s : State} (h : Keeps s0 s) : ResultKeeps s0 (execBankFull s) := by
  unfold execBankFull
  with_reducible repeat' first | assumption | apply Keeps.next | split | apply Keeps.plain

theorem execStageS0Warn_keeps (magA : W16) (magB : W16) {s0 s : State} (h : Keeps s0 s) :
    ResultKeeps s0 (execStageS0Warn magA magB s) := by
  unfold execStageS0Warn
  with_reducible repeat' first | assumption | apply setMags_keeps | apply event_keeps | apply Keeps.next | split | apply Keeps.plain

theorem execStageS1Shed_keeps {s0 s : State} (h : Keeps s0 s) : ResultKeeps s0 (execStageS1Shed s) := by
  unfold execStageS1Shed
  with_reducible repeat' first 
    | assumption | apply suspendErase_keeps | apply raiseAlarm_keeps | apply requestTakeover_keeps
    | apply Keeps.next | split | apply Keeps.plain

theorem execReturnToService_keeps (feed : Fin 2) (mag : W16) {s0 s : State} (h : Keeps s0 s) :
    ResultKeeps s0 (execReturnToService feed mag s) := by
  unfold execReturnToService
  with_reducible repeat' first 
    | assumption | apply setMag_keeps | apply withdrawTakeover_keeps | apply clearAlarm_keeps | apply event_keeps
    | apply pump_keeps | apply Keeps.next | split | apply Keeps.plain

theorem execStageS2Park_keeps (magA : W16) (magB : W16) (bank : W16) {s0 s : State} (h : Keeps s0 s) :
    ResultKeeps s0 (execStageS2Park magA magB bank s) := by
  unfold execStageS2Park
  dsimp only
  with_reducible repeat' first | assumption | apply enterS2_keeps | apply Keeps.next | split

theorem execStageS3Commit_keeps {s0 s : State} (h : Keeps s0 s) : ResultKeeps s0 (execStageS3Commit s) := by
  unfold execStageS3Commit
  try dsimp only
  repeat' first
    | (with_reducible first | assumption | apply flashProgram_keeps | apply Keeps.next | apply Keeps.bodyDone | apply Keeps.bodyRunning)
    | exact fun (g : MemSys.wf _) => g | exact fun (g : Flash.wf _) => g
    | exact fun (g : XShared.wf _) => g | exact fun (g : coresWf _) => g
    | intro _ | split | (with_reducible refine Keeps.upd ?_ ?_ ?_ ?_ ?_)

theorem execStageS4Off_keeps (magA : W16) (magB : W16) (bank : W16) {s0 s : State} (h : Keeps s0 s) :
    ResultKeeps s0 (execStageS4Off magA magB bank s) := by
  unfold execStageS4Off
  with_reducible repeat' first | assumption | apply enterS4_keeps | apply Keeps.next | split | apply Keeps.plain

theorem execForcedS4_keeps (magA : W16) (magB : W16) (bank : W16) {s0 s : State} (h : Keeps s0 s) :
    ResultKeeps s0 (execForcedS4 magA magB bank s) := by
  unfold execForcedS4
  with_reducible repeat' first | assumption | apply enterS4_keeps | apply Keeps.next | split | apply Keeps.plain

theorem execRestartQualify_keeps (feed : Fin 2) (mag : W16) {s0 s : State} (h : Keeps s0 s) :
    ResultKeeps s0 (execRestartQualify feed mag s) := by
  unfold execRestartQualify
  with_reducible repeat' first | assumption | apply setMag_keeps | apply beginStart_keeps | apply Keeps.next | split

theorem execRailFault_keeps {s0 s : State} (h : Keeps s0 s) : ResultKeeps s0 (execRailFault s) := by
  unfold execRailFault
  with_reducible repeat' first | assumption | apply railsDown_keeps | apply dropHold_keeps | apply Keeps.next | split | apply Keeps.plain

theorem execFeedRelayReclose_keeps {s0 s : State} (h : Keeps s0 s) : ResultKeeps s0 (execFeedRelayReclose s) :=
  Keeps.plain h

theorem execRelayCmdPulse_keeps {s0 s : State} (h : Keeps s0 s) : ResultKeeps s0 (execRelayCmdPulse s) := by
  unfold execRelayCmdPulse
  with_reducible repeat' first | assumption | apply setMags_keeps | apply Keeps.next | apply Keeps.plain

theorem relayCycleBody_keeps (_f : Fetched) {s0 s : State} (h : Keeps s0 s) : BodyKeeps s0 (relayCycleBody _f s) := by
  unfold relayCycleBody
  with_reducible repeat' first | assumption | apply Keeps.bodyDone | apply Keeps.bodyRunning | split | apply Keeps.plain

theorem execRelayCycle_keeps (ring : RingIx) {s0 s : State} (h : Keeps s0 s) : ResultKeeps s0 (execRelayCycle ring s) := by
  unfold execRelayCycle
  with_reducible repeat' first | assumption | apply serve_keeps | apply relayCycleBody_keeps | intro _ | apply Keeps.next

/-! ### Twin -/

theorem roleMismatch_keeps {s0 s : State} (h : Keeps s0 s) : BodyKeeps s0 (roleMismatch s) := by
  unfold roleMismatch
  dsimp only
  repeat' first | (with_reducible first | assumption | apply event_keeps | apply raiseAlarm_keeps | apply Keeps.bodyDone | apply Keeps.bodyRunning) | split

theorem twinRoleBody_keeps (f : Fetched) {s0 s : State} (h : Keeps s0 s) : BodyKeeps s0 (twinRoleBody f s) := by
  unfold twinRoleBody
  dsimp only
  with_reducible repeat' first 
    | assumption | apply roleMismatch_keeps | apply leavePair_keeps | apply takeRole_keeps | apply Keeps.bodyDone
    | apply Keeps.bodyRunning | split | apply Keeps.plain

theorem execTwinRole_keeps (ring : RingIx) {s0 s : State} (h : Keeps s0 s) : ResultKeeps s0 (execTwinRole ring s) := by
  unfold execTwinRole
  with_reducible repeat' first | assumption | apply serve_keeps | apply twinRoleBody_keeps | intro _ | apply Keeps.next

theorem handoverBody_keeps (f : Fetched) {s0 s : State} (h : Keeps s0 s) : BodyKeeps s0 (handoverBody f s) := by
  unfold handoverBody
  with_reducible repeat' first | assumption | apply beginHandover_keeps | apply Keeps.bodyDone | apply Keeps.bodyRunning | split

theorem execHandover_keeps (ring : RingIx) {s0 s : State} (h : Keeps s0 s) : ResultKeeps s0 (execHandover ring s) := by
  unfold execHandover
  with_reducible repeat' first | assumption | apply serve_keeps | apply handoverBody_keeps | intro _ | apply Keeps.next

theorem execHeartbeatSend_keeps {s0 s : State} (h : Keeps s0 s) : ResultKeeps s0 (execHeartbeatSend s) := by
  unfold execHeartbeatSend
  with_reducible repeat' first | assumption | apply sendHeartbeat_keeps | apply Keeps.next | split | apply Keeps.plain

theorem execHoldTimerExpiry_keeps {s0 s : State} (h : Keeps s0 s) : ResultKeeps s0 (execHoldTimerExpiry s) :=
  dropHold_keeps h

theorem takeAck_keeps (ack : W32) {s0 s : State} (h : Keeps s0 s) : Keeps s0 (takeAck ack s) := by
  unfold takeAck
  dsimp only
  repeat' first | (with_reducible first | assumption | apply tryFinishCommit_keeps | apply Keeps.foldl | intro _ | exact Keeps.rfl) | split | (with_reducible apply Keeps.plain)

theorem pairAfter_keeps {s0 s : State} (h : Keeps s0 s) : Keeps s0 (pairAfter s) := by
  unfold pairAfter
  dsimp only
  repeat' first | (with_reducible first | assumption | apply trySynced_keeps | apply enterResync_keeps | apply leavePair_keeps) | split | (with_reducible apply Keeps.plain)

theorem takeoverAfter_keeps {s0 s : State} (h : Keeps s0 s) : Keeps s0 (takeoverAfter s) := by
  unfold takeoverAfter
  with_reducible repeat' first | assumption | apply event_keeps | apply beginHandover_keeps | split | apply Keeps.plain

theorem handoverAfter_keeps {s0 s : State} (h : Keeps s0 s) : Keeps s0 (handoverAfter s) := by
  unfold handoverAfter
  with_reducible repeat' first | assumption | apply completeAny_keeps | split | apply Keeps.plain

theorem lowerReq_keeps {s0 s : State} (h : Keeps s0 s) : Keeps s0 (lowerReq s) := by
  unfold lowerReq
  with_reducible repeat' first | assumption | split | apply Keeps.plain

theorem heartbeatWork_keeps {s0 s : State} (h : Keeps s0 s) : Keeps s0 (heartbeatWork s) := by
  unfold heartbeatWork
  with_reducible repeat' first 
    | assumption | apply takeAck_keeps | apply lowerReq_keeps | apply takeoverAfter_keeps
    | apply handoverAfter_keeps | apply pairAfter_keeps | apply Keeps.plain

theorem execHeartbeatRx_keeps (payload : List Byte) {s0 s : State} (h : Keeps s0 s) :
    ResultKeeps s0 (execHeartbeatRx payload s) := by
  unfold execHeartbeatRx
  dsimp only
  repeat' first | (with_reducible first | assumption | apply raiseAlarm_keeps | apply heartbeatWork_keeps | apply Keeps.next) | split | (with_reducible apply Keeps.plain)

theorem execHeartbeatTimeout_keeps {s0 s : State} (h : Keeps s0 s) : ResultKeeps s0 (execHeartbeatTimeout s) := by
  unfold execHeartbeatTimeout
  with_reducible repeat' first | assumption | apply Keeps.next | split | apply Keeps.plain

theorem execPairNoneTimeout_keeps {s0 s : State} (h : Keeps s0 s) : ResultKeeps s0 (execPairNoneTimeout s) := by
  unfold execPairNoneTimeout
  with_reducible repeat' first | assumption | apply leavePair_keeps | apply raiseAlarm_keeps | apply Keeps.next | split | apply Keeps.plain

theorem custodyTo_keeps (h1 : Option Bool) {s0 s : State} (h : Keeps s0 s) : Keeps s0 (custodyTo h1 s) := by
  unfold custodyTo
  with_reducible repeat' first | assumption | apply setHolder_keeps | split | apply Keeps.plain

theorem execCustodyTransfer_keeps (twinReq : Bool) {s0 s : State} (h : Keeps s0 s) :
    ResultKeeps s0 (execCustodyTransfer twinReq s) := by
  unfold execCustodyTransfer
  with_reducible repeat' first | assumption | apply custodyTo_keeps | apply Keeps.next | apply Keeps.plain

theorem execGrantChange_keeps (high : Bool) {s0 s : State} (h : Keeps s0 s) : ResultKeeps s0 (execGrantChange high s) :=
  custodyTo_keeps _ h

theorem execAloneCustodyRequest_keeps {s0 s : State} (h : Keeps s0 s) : ResultKeeps s0 (execAloneCustodyRequest s) := by
  unfold execAloneCustodyRequest
  with_reducible repeat' first | assumption | apply Keeps.next | split | apply Keeps.plain

theorem execCustodyLogicFault_keeps {s0 s : State} (h : Keeps s0 s) : ResultKeeps s0 (execCustodyLogicFault s) := by
  unfold execCustodyLogicFault
  dsimp only
  repeat' first | (with_reducible first | assumption | apply raiseAlarm_keeps | apply leavePair_keeps | apply dropHold_keeps | apply Keeps.next) | split | (with_reducible apply Keeps.plain)

theorem execTransferPoint_keeps {s0 s : State} (h : Keeps s0 s) : ResultKeeps s0 (execTransferPoint s) := by
  unfold execTransferPoint
  with_reducible repeat' first | assumption | apply dropHold_keeps | apply Keeps.next | split | apply Keeps.plain

theorem execTakeoverRepeat_keeps {s0 s : State} (h : Keeps s0 s) : ResultKeeps s0 (execTakeoverRepeat s) := by
  unfold execTakeoverRepeat
  with_reducible repeat' first | assumption | apply Keeps.next | split | apply Keeps.plain

theorem execTwinHoldChange_keeps (high : Bool) {s0 s : State} (h : Keeps s0 s) :
    ResultKeeps s0 (execTwinHoldChange high s) := Keeps.plain h

theorem execRelayDelayExpiry_keeps {s0 s : State} (h : Keeps s0 s) : ResultKeeps s0 (execRelayDelayExpiry s) := by
  unfold execRelayDelayExpiry
  with_reducible repeat' first | assumption | apply raiseAlarm_keeps | apply Keeps.next | split | apply Keeps.plain

/-! ### Ext -/

theorem extLoadBody_keeps (f : Fetched) {s0 s : State} (h : Keeps s0 s) : BodyKeeps s0 (extLoadBody f s) := by
  unfold extLoadBody
  dsimp only
  split
  · exact illegal_keeps h
  · split
    · exact Keeps.bodyDone h _
    · split
      · exact Keeps.bodyDone h _
      · have a : Keeps s0 (if extCounter s < field (daddrRead s (f.desc.u64 0x10) (f.desc.u32 0x18)) 8 2 then
            advanceCounter (infoBase + 0x4020) (field (daddrRead s (f.desc.u64 0x10) (f.desc.u32 0x18)) 8 2) s else s) := by
          split
          · exact advanceCounter_keeps _ _ h
          · exact h
        refine Keeps.bodyDone (Keeps.upd (setCore_keeps 2 (loadedCore _) a fun _ => ?_) id id id fun g => ?_) _
        · exact Core.wf.fresh _ (memWriteN_wf _ _ _ _ rfl) (memWriteN_wf _ _ _ _ rfl) rfl rfl rfl rfl rfl
        · exact And.intro g.1 (Eq.refl true)

theorem execExtLoad_keeps (ring : RingIx) {s0 s : State} (h : Keeps s0 s) : ResultKeeps s0 (execExtLoad ring s) := by
  unfold execExtLoad
  with_reducible repeat' first | assumption | apply serve_keeps | apply extLoadBody_keeps | intro _ | apply Keeps.next

theorem execExtUnload_keeps (ring : RingIx) {s0 s : State} (h : Keeps s0 s) : ResultKeeps s0 (execExtUnload ring s) := by
  unfold execExtUnload
  try dsimp only
  repeat' first
    | (with_reducible first 
        | assumption | apply serve_keeps | apply unloadExt_keeps | apply illegal_keeps | apply Keeps.next
        | apply Keeps.bodyDone | apply Keeps.bodyRunning)
    | exact fun (g : MemSys.wf _) => g | exact fun (g : Flash.wf _) => g
    | exact fun (g : XShared.wf _) => g | exact fun (g : coresWf _) => g
    | intro _ | split | (with_reducible refine Keeps.upd ?_ ?_ ?_ ?_ ?_)

theorem execExtensionForwardedCommand_keeps (ring : RingIx) {s0 s : State} (h : Keeps s0 s) :
    ResultKeeps s0 (execExtensionForwardedCommand ring s) := by
  unfold execExtensionForwardedCommand
  try dsimp only
  repeat' first
    | (with_reducible first 
        | assumption | apply serve_keeps | apply setCore_keeps | apply illegal_keeps | apply Keeps.next
        | apply Keeps.bodyDone | apply Keeps.bodyRunning)
    | exact fun (g : MemSys.wf _) => g | exact fun (g : Flash.wf _) => g
    | exact fun (g : XShared.wf _) => g | exact fun (g : coresWf _) => g
    | (intro g; exact g.flashDone _)
    | (intro g; exact g.same rfl rfl rfl rfl rfl rfl rfl (Or.inl rfl) (Or.inl rfl))
    | (intro g; exact g.same rfl rfl rfl rfl rfl rfl rfl (Or.inr rfl) (Or.inl rfl))
    | (intro g; exact g.same rfl rfl rfl rfl rfl rfl rfl (Or.inr rfl) (Or.inr (by simp)))
    | intro _ | split | (with_reducible refine Keeps.upd ?_ ?_ ?_ ?_ ?_)

theorem execCoreWatchdog_keeps (core : CoreIx) {s0 s : State} (h : Keeps s0 s) :
    ResultKeeps s0 (execCoreWatchdog core s) := by
  unfold execCoreWatchdog
  dsimp only
  with_reducible repeat' first | assumption | apply afterTrap_keeps | apply recordTrap_keeps | apply Keeps.next | split

theorem countRestarts_keeps (k : CoreIx) {s0 s : State} (h : Keeps s0 s) : Keeps s0 (countRestarts k s) := by
  unfold countRestarts
  with_reducible repeat' first | assumption | apply requestTakeover_keeps | apply raiseAlarm_keeps | split

theorem restartPartners_keeps (k : CoreIx) {s0 s : State} (h : Keeps s0 s) : Keeps s0 (restartPartners k s) := by
  refine Keeps.upd h id id (fun g j => ?_) id
  simp only [Fin.getElem_fin, Vector.getElem_ofFn]
  split
  · exact (g _).same rfl rfl rfl rfl rfl rfl rfl (Or.inl rfl) (Or.inr (by simp))
  · exact g _

theorem execCoreRestartDone_keeps (core : CoreIx) {s0 s : State} (h : Keeps s0 s) : ResultKeeps s0 (execCoreRestartDone core s) := by
  unfold execCoreRestartDone
  split
  · exact h
  · exact countRestarts_keeps _ (restartPartners_keeps _ (coreEvent_keeps _ _ (setCore_restarted_keeps core h)))

theorem execDispatchDeadlineMiss_keeps (slotNo : W64) {s0 s : State} (h : Keeps s0 s) :
    ResultKeeps s0 (execDispatchDeadlineMiss slotNo s) := by
  unfold execDispatchDeadlineMiss
  try dsimp only
  repeat' first
    | (with_reducible first 
        | assumption | apply setCore_keeps | apply dropRadioSlot_keeps | apply failHandles_keeps | apply Keeps.next
        | apply Keeps.bodyDone | apply Keeps.bodyRunning)
    | exact fun (g : MemSys.wf _) => g | exact fun (g : Flash.wf _) => g
    | exact fun (g : XShared.wf _) => g | exact fun (g : coresWf _) => g
    | (intro g; exact g.flashDone _)
    | (intro g; exact g.same rfl rfl rfl rfl rfl rfl rfl (Or.inl rfl) (Or.inl rfl))
    | (intro g; exact g.same rfl rfl rfl rfl rfl rfl rfl (Or.inr rfl) (Or.inl rfl))
    | (intro g; exact g.same rfl rfl rfl rfl rfl rfl rfl (Or.inr rfl) (Or.inr (by simp)))
    | intro _ | split | (with_reducible refine Keeps.upd ?_ ?_ ?_ ?_ ?_)

theorem stopArmed_keeps (n : RingIx) (id1 : Nat) {s0 s : State} (h : Keeps s0 s) : Keeps s0 (stopArmed n id1 s) := by
  unfold stopArmed
  dsimp only
  repeat' first | (with_reducible first | assumption | apply settleShadow_keeps | apply Keeps.foldl | intro _ | exact Keeps.rfl) | split | (with_reducible apply Keeps.plain)

theorem stopSets_keeps (n : RingIx) (id : Nat) {s0 s : State} (h : Keeps s0 s) :
    Keeps s0 (stopSets n id s) := by
  unfold stopSets
  with_reducible repeat' first
    | assumption | apply releaseGroup_keeps | apply Keeps.foldl | intro _ | exact Keeps.rfl | split
    | apply Keeps.plain

theorem stopTiles_keeps (n : RingIx) (id1 : Nat) {s0 s : State} (h : Keeps s0 s) : Keeps s0 (stopTiles n id1 s) :=
  Keeps.plain h

theorem stopTray_keeps (id1 : Nat) {s0 s : State} (h : Keeps s0 s) : Keeps s0 (stopTray id1 s) := by
  unfold stopTray
  with_reducible repeat' first | assumption | split | apply Keeps.plain

theorem stopFlash_keeps (n : RingIx) (id1 : Nat) {s0 s : State} (h : Keeps s0 s) : Keeps s0 (stopFlash n id1 s) :=
  Keeps.upd h id id id id

theorem stopSlot_keeps (id1 : Nat) (code : W16) {s0 s : State} (h : Keeps s0 s) : Keeps s0 (stopSlot id1 code s) := by
  unfold stopSlot
  with_reducible repeat' first | assumption | apply endSet_keeps | apply dropJob_keeps | apply Keeps.foldl | intro _ | exact Keeps.rfl | split

theorem execDescriptorWatchdog_keeps (ring : RingIx) (id1 : Nat) {s0 s : State} (h : Keeps s0 s) :
    ResultKeeps s0 (execDescriptorWatchdog ring id1 s) := by
  unfold execDescriptorWatchdog
  with_reducible repeat' first 
    | assumption | apply coreEvent_keeps | apply unloadExt_keeps | apply complete_keeps | apply stopSlot_keeps
    | apply stopFlash_keeps | apply stopTray_keeps | apply stopTiles_keeps | apply stopSets_keeps
    | apply stopArmed_keeps | apply stopWork_keeps | apply Keeps.next | split

/-! ### HostBus -/

theorem reply_keeps (r : HostReply) {s0 s : State} (h : Keeps s0 s) : Keeps s0 (reply r s) := Keeps.plain h

theorem doorbellError_keeps (n : RingIx) {s0 s : State} (h : Keeps s0 s) : Keeps s0 (doorbellError n s) := by
  unfold doorbellError
  with_reducible repeat' first | assumption | apply raiseSq_keeps | apply event_keeps | apply setRing_keeps

theorem execSqDb_keeps (ring : RingIx) (value : W32) {s0 s : State} (h : Keeps s0 s) :
    ResultKeeps s0 (execSqDb ring value s) := by
  unfold execSqDb
  dsimp only
  with_reducible repeat' first | assumption | apply setRing_keeps | apply doorbellError_keeps | apply Keeps.next | split

theorem acknowledge_keeps (from_ : Nat) (k : Nat) {s0 s : State} (h : Keeps s0 s) : Keeps s0 (acknowledge from_ k s) := by
  unfold acknowledge
  dsimp only
  repeat' first | (with_reducible first | assumption | apply clearAlarm_keeps | apply Keeps.foldl | intro _ | exact Keeps.rfl) | split | (with_reducible apply Keeps.plain)

theorem creditGained_keeps (n : RingIx) {s0 s : State} (h : Keeps s0 s) : Keeps s0 (creditGained n s) := by
  unfold creditGained
  with_reducible repeat' first | assumption | apply drainCq_keeps | apply flushEvents_keeps | split

theorem execCqDb_keeps (ring : RingIx) (value : W32) {s0 s : State} (h : Keeps s0 s) :
    ResultKeeps s0 (execCqDb ring value s) := by
  unfold execCqDb
  dsimp only
  with_reducible repeat' first 
    | assumption | apply setRing_keeps | apply creditGained_keeps | apply acknowledge_keeps
    | apply doorbellError_keeps | apply Keeps.next | split

theorem execCoalesceTimeout_keeps (ring : RingIx) {s0 s : State} (h : Keeps s0 s) :
    ResultKeeps s0 (execCoalesceTimeout ring s) := by
  unfold execCoalesceTimeout
  with_reducible repeat' first | assumption | apply raiseCq_keeps | apply setRing_keeps | apply Keeps.next | split

theorem sampleRing_keeps (n : RingIx) {s0 s : State} (h : Keeps s0 s) : Keeps s0 (sampleRing s n) := by
  unfold sampleRing
  dsimp only
  with_reducible repeat' first | assumption | apply setRing_keeps | apply raiseSq_keeps | apply event_keeps | split

theorem execOccupancySample_keeps {s0 s : State} (h : Keeps s0 s) : ResultKeeps s0 (execOccupancySample s) := by
  unfold execOccupancySample
  with_reducible repeat' first | assumption | apply sampleRing_keeps | apply Keeps.foldl | intro _ | exact Keeps.rfl | apply Keeps.next

theorem cfgError_keeps {s0 s : State} (h : Keeps s0 s) : Keeps s0 (cfgError s) := setRing_keeps _ _ h

theorem enableRing0_keeps {s0 s : State} (h : Keeps s0 s) : Keeps s0 (enableRing0 s) := by
  unfold enableRing0
  dsimp only
  with_reducible repeat' first | assumption | apply cfgError_keeps | apply flushEvents_keeps | apply setRing_keeps | split

theorem execRingCtrlEnable_keeps {s0 s : State} (h : Keeps s0 s) : ResultKeeps s0 (execRingCtrlEnable s) := by
  unfold execRingCtrlEnable
  with_reducible repeat' first | assumption | apply enableRing0_keeps | apply Keeps.next | split

theorem resetRings_keeps {s0 s : State} (h : Keeps s0 s) : Keeps s0 (resetRings s) := by
  unfold resetRings
  with_reducible repeat' first | assumption | apply clearAlarm_keeps | apply Keeps.plain

theorem execRingCtrlReset_keeps {s0 s : State} (h : Keeps s0 s) : ResultKeeps s0 (execRingCtrlReset s) := by
  unfold execRingCtrlReset
  with_reducible repeat' first | assumption | apply resetRings_keeps | apply Keeps.next | split

theorem clearCounters_keeps (bits : W32) {s0 s : State} (h : Keeps s0 s) : Keeps s0 (clearCounters bits s) := by
  unfold clearCounters
  with_reducible repeat' first | assumption | split | apply Keeps.plain

theorem execCounterClear_keeps (bits : W32) {s0 s : State} (h : Keeps s0 s) : ResultKeeps s0 (execCounterClear bits s) := by
  unfold execCounterClear
  with_reducible repeat' first | assumption | apply clearCounters_keeps | apply Keeps.next | split

theorem latchTime_keeps {s0 s : State} (h : Keeps s0 s) : Keeps s0 (latchTime s) := Keeps.plain h

theorem execSymbolCountLoRead_keeps {s0 s : State} (h : Keeps s0 s) : ResultKeeps s0 (execSymbolCountLoRead s) := by
  unfold execSymbolCountLoRead
  with_reducible repeat' first | assumption | apply reply_keeps | apply latchTime_keeps | apply Keeps.next | split

theorem writeHkRound_keeps (value : W32) {s0 s : State} (h : Keeps s0 s) : Keeps s0 (writeHkRound value s) := by
  unfold writeHkRound
  with_reducible repeat' first | assumption | split | apply Keeps.plain

theorem execHkRoundWrite_keeps (value : W32) {s0 s : State} (h : Keeps s0 s) :
    ResultKeeps s0 (execHkRoundWrite value s) := by
  unfold execHkRoundWrite
  with_reducible repeat' first | assumption | apply writeHkRound_keeps | apply Keeps.next | split

theorem writeHbTimeout_keeps (value : W32) {s0 s : State} (h : Keeps s0 s) : Keeps s0 (writeHbTimeout value s) := by
  unfold writeHbTimeout
  with_reducible repeat' first | assumption | split | apply Keeps.plain

theorem execTwinHbTimeoutWrite_keeps (value : W32) {s0 s : State} (h : Keeps s0 s) :
    ResultKeeps s0 (execTwinHbTimeoutWrite value s) := by
  unfold execTwinHbTimeoutWrite
  with_reducible repeat' first | assumption | apply writeHbTimeout_keeps | apply Keeps.next | split

theorem writeRelayDelay_keeps (value : W32) {s0 s : State} (h : Keeps s0 s) : Keeps s0 (writeRelayDelay value s) := by
  unfold writeRelayDelay
  with_reducible repeat' first | assumption | split | apply Keeps.plain

theorem execTwinRelayDelayWrite_keeps (value : W32) {s0 s : State} (h : Keeps s0 s) :
    ResultKeeps s0 (execTwinRelayDelayWrite value s) := by
  unfold execTwinRelayDelayWrite
  with_reducible repeat' first | assumption | apply writeRelayDelay_keeps | apply Keeps.next | split

theorem sendPending_keeps {s0 s : State} (h : Keeps s0 s) : Keeps s0 (sendPending s) := by
  unfold sendPending
  dsimp only
  repeat' first | (with_reducible first | assumption | apply signalVector_keeps | apply Keeps.foldl | intro _ | exact Keeps.rfl) | split | (with_reducible apply Keeps.plain)

theorem execMsixUnmask_keeps (target : UnmaskTarget) {s0 s : State} (h : Keeps s0 s) :
    ResultKeeps s0 (execMsixUnmask target s) := by
  unfold execMsixUnmask
  with_reducible repeat' first | assumption | apply sendPending_keeps | apply Keeps.next | split | apply Keeps.plain

theorem writeMsix_keeps (off : Nat) (value : W32) {s0 s : State} (h : Keeps s0 s) : Keeps s0 (writeMsix off value s) := by
  unfold writeMsix
  with_reducible repeat' first | assumption | apply sendPending_keeps | split | apply Keeps.plain

theorem writeRing0_keeps (f : Ring → Ring) {s0 s : State} (h : Keeps s0 s) : Keeps s0 (writeRing0 f s) := by
  unfold writeRing0
  with_reducible repeat' first | assumption | apply setRing_keeps | apply cfgError_keeps | split

theorem writeRingReg_keeps (n : RingIx) (off : Nat) (value : W32) {s0 s : State} (h : Keeps s0 s) :
    Keeps s0 (writeRingReg n off value s) := by
  unfold writeRingReg
  repeat' with_reducible first
    | exact h
    | exact setRing_keeps _ _ h
    | exact writeRing0_keeps _ h
    | exact resetRings_keeps h
    | exact enableRing0_keeps h
    | apply Keeps.ite

theorem writeReg_keeps (off : Nat) (value : W32) {s0 s : State} (h : Keeps s0 s) : Keeps s0 (writeReg off value s) := by
  unfold writeReg
  with_reducible repeat' first 
    | assumption | apply writeMsix_keeps | apply clearCounters_keeps | apply writeRingReg_keeps
    | apply setTile_keeps | apply writeHkRound_keeps | apply writeHbTimeout_keeps | apply writeRelayDelay_keeps
    | split | apply Keeps.plain

theorem execRegisterWrite_keeps (offset : BitVec 22) (size : Nat) (value : W64) {s0 s : State} (h : Keeps s0 s) :
    ResultKeeps s0 (execRegisterWrite offset size value s) := by
  unfold execRegisterWrite
  with_reducible repeat' first | assumption | apply writeReg_keeps | apply Keeps.next | split

theorem bar4Error_keeps (stack : Nat) {s0 s : State} (h : Keeps s0 s) : Keeps s0 (bar4Error stack s) := by
  unfold bar4Error
  with_reducible repeat' first | assumption | apply event_keeps | apply Keeps.plain

theorem execBar4Read_keeps (offset : W64) (length : Nat) {s0 s : State} (h : Keeps s0 s) :
    ResultKeeps s0 (execBar4Read offset length s) := by
  unfold execBar4Read
  dsimp only
  with_reducible repeat' first | assumption | apply reply_keeps | apply bar4Error_keeps | apply Keeps.next | split | apply Keeps.plain

theorem execBar4Write_keeps (offset : W64) (data : List Byte) {s0 s : State} (h : Keeps s0 s) :
    ResultKeeps s0 (execBar4Write offset data s) := by
  unfold execBar4Write
  dsimp only
  with_reducible repeat' first | assumption | apply bar4Error_keeps | apply stackWrite_keeps | apply Keeps.next | split | apply Keeps.plain

theorem execPoisonedWrite_keeps (target : PoisonTarget) {s0 s : State} (h : Keeps s0 s) :
    ResultKeeps s0 (execPoisonedWrite target s) := by
  unfold execPoisonedWrite
  with_reducible repeat' first | assumption | apply doorbellError_keeps | apply Keeps.next | split | apply Keeps.plain

theorem endpointReset_keeps {s0 s : State} (h : Keeps s0 s) : Keeps s0 (endpointReset s) := by
  unfold endpointReset
  with_reducible repeat' first | assumption | apply resetRings_keeps | apply Keeps.plain

theorem execFunctionLevelReset_keeps (kind : ResetKind) {s0 s : State} (h : Keeps s0 s) :
    ResultKeeps s0 (execFunctionLevelReset kind s) := by
  unfold execFunctionLevelReset
  with_reducible repeat' first | assumption | apply endpointReset_keeps | apply Keeps.next | split | apply Keeps.plain

theorem execPerstAssert_keeps {s0 s : State} (h : Keeps s0 s) : ResultKeeps s0 (execPerstAssert s) :=
  endpointReset_keeps h

theorem configRead_keeps (o : Nat) {s0 s : State} (h : Keeps s0 s) : Keeps s0 (configRead o s) := by
  unfold configRead
  with_reducible repeat' first | assumption | apply reply_keeps | apply drawBytes_keeps | split

theorem execConfigurationRequest_keeps (access : ConfigAccess) {s0 s : State} (h : Keeps s0 s) :
    ResultKeeps s0 (execConfigurationRequest access s) := by
  unfold execConfigurationRequest
  dsimp only
  repeat' first | (with_reducible first | assumption | apply reply_keeps | apply configRead_keeps | apply sendPending_keeps | apply Keeps.next) | split | (with_reducible apply Keeps.plain)

theorem execHostLinkLoss_keeps {s0 s : State} (h : Keeps s0 s) : ResultKeeps s0 (execHostLinkLoss s) := by
  unfold execHostLinkLoss
  dsimp only
  repeat' first | (with_reducible first | assumption | apply requestTakeover_keeps | apply raiseAlarm_keeps | apply Keeps.next) | split | (with_reducible apply Keeps.plain)

theorem execHostLinkUp_keeps {s0 s : State} (h : Keeps s0 s) : ResultKeeps s0 (execHostLinkUp s) := by
  unfold execHostLinkUp
  dsimp only
  repeat' first | (with_reducible first | assumption | apply clearAlarm_keeps | apply endpointReset_keeps | apply Keeps.next) | split | (with_reducible apply Keeps.plain)

end Sys2Proof.Machine
end

