-- ==== Sys2Proof/Laws/KeepsE.lean ====
section
/-! SUPPORT. What the operations keep (Laws/Keeps), one lemma per operation: RingCmds, StartOps, Start, WoadOps, Woad, Thermal, Time. -/
namespace Sys2Proof.Machine

/-! ### RingCmds -/

theorem execIdentify_keeps (ring : RingIx) {s0 s : State} (h : Keeps s0 s) : ResultKeeps s0 (execIdentify ring s) := by
  unfold execIdentify
  refine serve_keeps _ _ _ _ h ?_
  intro f t g
  with_reducible exact writeThen_keeps _ _ _ g

theorem ringConfigBody_keeps (f : Fetched) {s0 s : State} (h : Keeps s0 s) : BodyKeeps s0 (ringConfigBody f s) := by
  unfold ringConfigBody
  dsimp only
  with_reducible repeat' first | assumption | apply setRing_keeps | apply Keeps.bodyDone | apply Keeps.bodyRunning | split

theorem execRingConfig_keeps (ring : RingIx) {s0 s : State} (h : Keeps s0 s) : ResultKeeps s0 (execRingConfig ring s) := by
  unfold execRingConfig
  with_reducible repeat' first | assumption | apply serve_keeps | apply ringConfigBody_keeps | intro _ | apply Keeps.next

theorem ringResetBody_keeps (f : Fetched) {s0 s : State} (h : Keeps s0 s) : BodyKeeps s0 (ringResetBody f s) := by
  unfold ringResetBody
  dsimp only
  repeat' first | (with_reducible first | assumption | apply setRing_keeps | apply completeAll_keeps | apply Keeps.bodyDone | apply Keeps.bodyRunning) | split | (with_reducible apply Keeps.plain)

theorem execRingReset_keeps (ring : RingIx) {s0 s : State} (h : Keeps s0 s) : ResultKeeps s0 (execRingReset ring s) := by
  unfold execRingReset
  with_reducible repeat' first | assumption | apply serve_keeps | apply ringResetBody_keeps | intro _ | apply Keeps.next

theorem execRingResetDone_keeps (ring : RingIx) {s0 s : State} (h : Keeps s0 s) :
    ResultKeeps s0 (execRingResetDone ring s) := by
  unfold execRingResetDone
  dsimp only
  with_reducible repeat' first | assumption | apply complete_keeps | apply setRing_keeps | apply Keeps.next | split

/-! ### StartOps -/

theorem recoverJournal_keeps (arr : FlashArray) {s0 s : State} (h : Keeps s0 s) : Keeps s0 (recoverJournal arr s) := by
  unfold recoverJournal
  try dsimp only
  repeat' first
    | (with_reducible first 
        | assumption | exact Keeps.rfl | apply Keeps.foldl | apply markUnit_keeps | apply setJournal_keeps
        | apply setJournalSeq_keeps | apply raiseAlarm_keeps)
    | exact fun (g : MemSys.wf _) => g | exact fun (g : Flash.wf _) => g
    | exact fun (g : XShared.wf _) => g | exact fun (g : coresWf _) => g
    | intro _ | split | (with_reducible refine Keeps.upd ?_ ?_ ?_ ?_ ?_)

theorem recoverJournals_keeps {s0 s : State} (h : Keeps s0 s) : Keeps s0 (recoverJournals s) := by
  unfold recoverJournals
  try dsimp only
  repeat' first
    | (with_reducible first | assumption | exact Keeps.rfl | apply Keeps.foldl | apply recoverJournal_keeps | apply enqueue_keeps)
    | exact fun (g : MemSys.wf _) => g | exact fun (g : Flash.wf _) => g
    | exact fun (g : XShared.wf _) => g | exact fun (g : coresWf _) => g
    | intro _ | split | (with_reducible refine Keeps.upd ?_ ?_ ?_ ?_ ?_)

theorem takeBlocks_keeps (t : TileIx) (kind : Nat) (slot : Option Nat) {s0 s : State} (h : Keeps s0 s) :
    Keeps s0 (takeBlocks t kind slot s) := setTile_keeps _ _ h

theorem selectRecords_keeps (t : TileIx) {s0 s : State} (h : Keeps s0 s) :
    Keeps s0 (selectRecords t s) := by
  unfold selectRecords
  dsimp only
  with_reducible repeat' first
    | assumption | apply raiseAlarm_keeps | apply setTile_keeps | apply tileEvent_keeps | apply takeBlocks_keeps
    | split | apply Keeps.plain

theorem powerTile_keeps (t : TileIx) {s0 s : State} (h : Keeps s0 s) :
    Keeps s0 (powerTile t s) := by
  unfold powerTile
  with_reducible repeat' first | assumption | apply powerDark_keeps | apply lightTile_keeps | split | apply Keeps.plain

theorem takeSmall_keeps {s0 s : State} (h : Keeps s0 s) : Keeps s0 (takeSmall s) := by
  unfold takeSmall
  try dsimp only
  repeat' first
    | (with_reducible first | assumption)
    | exact fun (g : MemSys.wf _) => g | exact fun (g : Flash.wf _) => g
    | exact fun (g : XShared.wf _) => g | exact fun (g : coresWf _) => g
    | intro _ | split | (with_reducible refine Keeps.upd ?_ ?_ ?_ ?_ ?_)

theorem applyJournal_keeps (j : ParkJournal) {s0 s : State} (h : Keeps s0 s) : Keeps s0 (applyJournal j s) := by
  unfold applyJournal
  with_reducible repeat' first | assumption | apply moveBoundary_keeps | apply applyCap_keeps | split | apply Keeps.plain

theorem openHeld_keeps {s0 s : State} (h : Keeps s0 s) : Keeps s0 (openHeld s) := Keeps.plain h

theorem failStart_keeps {s0 s : State} (h : Keeps s0 s) : Keeps s0 (failStart s) := by
  unfold failStart
  with_reducible repeat' first | assumption | apply raiseAlarm_keeps | apply Keeps.plain

theorem selfCheckFail_keeps (a1 : SelfCheckFail) {s0 s : State} (h : Keeps s0 s) : Keeps s0 (selfCheckFail s a1) := by
  unfold selfCheckFail
  try dsimp only
  repeat' first
    | (with_reducible first 
        | assumption | exact Keeps.rfl | apply Keeps.foldl | apply failStart_keeps | apply raiseAlarm_keeps
        | apply faultTile_keeps | apply enterTile_keeps | apply retireLane_keeps | apply portDown_keeps)
    | exact fun (g : MemSys.wf _) => g | exact fun (g : Flash.wf _) => g
    | exact fun (g : XShared.wf _) => g | exact fun (g : coresWf _) => g
    | intro _ | split | (with_reducible refine Keeps.upd ?_ ?_ ?_ ?_ ?_)

/-! ### Start -/

theorem execColdStart_keeps {s0 s : State} (h : Keeps s0 s) : ResultKeeps s0 (execColdStart s) := by
  unfold execColdStart
  with_reducible repeat' first | assumption | apply beginStart_keeps | apply Keeps.next | split

theorem execWarmRestart_keeps {s0 s : State} (h : Keeps s0 s) : ResultKeeps s0 (execWarmRestart s) := by
  unfold execWarmRestart
  with_reducible repeat' first | assumption | apply warmReset_keeps | apply Keeps.next | split

theorem execDeepSupplyLoss_keeps {s0 s : State} (h : Keeps s0 s) : ResultKeeps s0 (execDeepSupplyLoss s) := by
  unfold execDeepSupplyLoss
  with_reducible repeat' first | assumption | apply setMags_keeps | apply railsDown_keeps | apply Keeps.next | split | apply Keeps.plain

theorem execPhaseRomEnd_keeps {s0 s : State} (h : Keeps s0 s) : ResultKeeps s0 (execPhaseRomEnd s) := by
  unfold execPhaseRomEnd
  with_reducible repeat' first | assumption | apply Keeps.next | split | apply Keeps.plain

theorem verifyEffect_keeps {s0 s : State} (h : Keeps s0 s) : Keeps s0 (verifyEffect s) := by
  unfold verifyEffect
  try dsimp only
  repeat' first
    | (with_reducible first | assumption | apply failStart_keeps | apply raiseAlarm_keeps | apply event_keeps)
    | exact fun (g : MemSys.wf _) => g | exact fun (g : Flash.wf _) => g
    | exact fun (g : XShared.wf _) => g | exact fun (g : coresWf _) => g
    | intro _ | split | (with_reducible refine Keeps.upd ?_ ?_ ?_ ?_ ?_)

theorem execPhaseVerify_keeps {s0 s : State} (h : Keeps s0 s) : ResultKeeps s0 (execPhaseVerify s) := by
  unfold execPhaseVerify
  with_reducible repeat' first | assumption | apply verifyEffect_keeps | apply Keeps.next | split

theorem execStartFailed_keeps {s0 s : State} (h : Keeps s0 s) : ResultKeeps s0 (execStartFailed s) := by
  unfold execStartFailed
  with_reducible repeat' first | assumption | apply failStart_keeps | apply Keeps.next | split

theorem execPhaseFirmwareEnd_keeps {s0 s : State} (h : Keeps s0 s) : ResultKeeps s0 (execPhaseFirmwareEnd s) := by
  unfold execPhaseFirmwareEnd
  with_reducible repeat' first | assumption | apply Keeps.next | split | apply Keeps.plain

theorem execMemoryTrainingDone_keeps {s0 s : State} (h : Keeps s0 s) : ResultKeeps s0 (execMemoryTrainingDone s) := by
  unfold execMemoryTrainingDone
  try dsimp only
  repeat' first
    | (with_reducible first | assumption | apply Keeps.next | apply Keeps.bodyDone | apply Keeps.bodyRunning)
    | exact fun (g : MemSys.wf _) => g | exact fun (g : Flash.wf _) => g
    | exact fun (g : XShared.wf _) => g | exact fun (g : coresWf _) => g
    | intro _ | split | (with_reducible refine Keeps.upd ?_ ?_ ?_ ?_ ?_)

theorem restoreEffect_keeps {s0 s : State} (h : Keeps s0 s) :
    Keeps s0 (restoreEffect s) := by
  unfold restoreEffect
  with_reducible repeat' first
    | assumption | apply recoverJournals_keeps | apply selectRecords_keeps | apply powerTile_keeps
    | apply takeSmall_keeps | apply applyJournal_keeps | apply Keeps.foldl | intro _ | exact Keeps.rfl | split
    | apply Keeps.plain

theorem execPhaseRestore_keeps {s0 s : State} (h : Keeps s0 s) : ResultKeeps s0 (execPhaseRestore s) := by
  unfold execPhaseRestore
  with_reducible repeat' first | assumption | apply restoreEffect_keeps | apply Keeps.next | split

theorem execPhaseLockEnd_keeps {s0 s : State} (h : Keeps s0 s) : ResultKeeps s0 (execPhaseLockEnd s) := by
  unfold execPhaseLockEnd
  with_reducible repeat' first | assumption | apply Keeps.next | split | apply Keeps.plain

theorem execTileLockTimeout_keeps (tile : TileIx) {s0 s : State} (h : Keeps s0 s) :
    ResultKeeps s0 (execTileLockTimeout tile s) := by
  unfold execTileLockTimeout
  with_reducible repeat' first | assumption | apply failStripe_keeps | apply Keeps.next | split | apply Keeps.plain

theorem selfCheckEffect_keeps (failures : List SelfCheckFail) {s0 s : State} (h : Keeps s0 s) :
    Keeps s0 (selfCheckEffect failures s) := by
  unfold selfCheckEffect
  dsimp only
  repeat' first | (with_reducible first | assumption | apply selfCheckFail_keeps | apply Keeps.foldl | intro _ | exact Keeps.rfl) | split | (with_reducible apply Keeps.plain)

theorem execPhaseSelfcheck_keeps (failures : List SelfCheckFail) {s0 s : State} (h : Keeps s0 s) :
    ResultKeeps s0 (execPhaseSelfcheck failures s) := by
  unfold execPhaseSelfcheck
  with_reducible repeat' first | assumption | apply selfCheckEffect_keeps | apply Keeps.next | split

theorem readyTile_keeps (t : TileIx) {s0 s : State} (h : Keeps s0 s) : Keeps s0 (readyTile t s) := by
  unfold readyTile
  with_reducible repeat' first | assumption | apply enterTile_keeps | apply reloadResident_keeps | apply Keeps.plain

theorem execPhaseSettle_keeps {s0 s : State} (h : Keeps s0 s) : ResultKeeps s0 (execPhaseSettle s) := by
  unfold execPhaseSettle
  with_reducible repeat' first | assumption | apply readyTile_keeps | apply Keeps.foldl | intro _ | exact Keeps.rfl | apply Keeps.next | split

theorem execSettleTimeout_keeps (tile : TileIx) {s0 s : State} (h : Keeps s0 s) :
    ResultKeeps s0 (execSettleTimeout tile s) := by
  unfold execSettleTimeout
  with_reducible repeat' first | assumption | apply event_keeps | apply readyTile_keeps | apply Keeps.next | split

theorem tripReport_keeps {s0 s : State} (h : Keeps s0 s) : Keeps s0 (tripReport s) := by
  unfold tripReport
  with_reducible repeat' first | assumption | apply raiseAlarm_keeps | apply event_keeps | split | apply Keeps.plain

theorem uncleanReport_keeps {s0 s : State} (h : Keeps s0 s) : Keeps s0 (uncleanReport s) := by
  unfold uncleanReport
  with_reducible repeat' first | assumption | apply raiseAlarm_keeps | apply event_keeps | split

theorem advanceFw_keeps {s0 s : State} (h : Keeps s0 s) : Keeps s0 (advanceFw s) := by
  unfold advanceFw
  dsimp only
  with_reducible repeat' first | assumption | apply advanceCounter_keeps | split

theorem reEraseAll_keeps {s0 s : State} (h : Keeps s0 s) : Keeps s0 (reEraseAll s) := by
  unfold reEraseAll
  with_reducible repeat' first | assumption | apply enqueue_keeps | apply Keeps.foldl | intro _ | exact Keeps.rfl | split

theorem doneEffect_keeps {s0 s : State} (h : Keeps s0 s) : Keeps s0 (doneEffect s) := by
  unfold doneEffect
  with_reducible repeat' first 
    | assumption | apply reEraseAll_keeps | apply tripReport_keeps | apply uncleanReport_keeps
    | apply advanceFw_keeps | split | apply Keeps.plain

theorem execPhaseDone_keeps {s0 s : State} (h : Keeps s0 s) : ResultKeeps s0 (execPhaseDone s) := by
  unfold execPhaseDone
  with_reducible repeat' first | assumption | apply doneEffect_keeps | apply Keeps.next | split

theorem execStartPhaseLate_keeps {s0 s : State} (h : Keeps s0 s) : ResultKeeps s0 (execStartPhaseLate s) := by
  unfold execStartPhaseLate
  with_reducible repeat' first | assumption | apply event_keeps | apply Keeps.next | split | apply Keeps.plain

theorem execHeldStreamsOpen_keeps {s0 s : State} (h : Keeps s0 s) : ResultKeeps s0 (execHeldStreamsOpen s) := by
  unfold execHeldStreamsOpen
  with_reducible repeat' first | assumption | apply event_keeps | apply clearAlarm_keeps | apply openHeld_keeps | apply Keeps.next | split

theorem execHeldStreamsTimeout_keeps {s0 s : State} (h : Keeps s0 s) : ResultKeeps s0 (execHeldStreamsTimeout s) := by
  unfold execHeldStreamsTimeout
  with_reducible repeat' first | assumption | apply raiseAlarm_keeps | apply Keeps.next | split

/-! ### WoadOps -/

theorem applyShed_keeps {s0 s : State} (h : Keeps s0 s) : Keeps s0 (applyShed s) := by
  unfold applyShed
  with_reducible repeat' first | assumption | apply applyCap_keeps | apply Keeps.plain

theorem setRule_keeps (i : Fin 16) (f : RuleState → RuleState) {s0 s : State} (h : Keeps s0 s) :
    Keeps s0 (setRule i f s) := Keeps.plain h

theorem forceHandover_keeps {s0 s : State} (h : Keeps s0 s) : Keeps s0 (forceHandover s) := by
  unfold forceHandover
  with_reducible repeat' first | assumption | apply forceRelease_keeps | apply loseGrant_keeps | split | apply Keeps.plain

theorem requestDeep_keeps {s0 s : State} (h : Keeps s0 s) : Keeps s0 (requestDeep s) := by
  unfold requestDeep
  with_reducible repeat' first | assumption | apply leavePair_keeps | apply beginHandover_keeps | split | apply Keeps.plain

theorem fireRule_keeps (r : Rule) {s0 s : State} (h : Keeps s0 s) : Keeps s0 (fireRule r s) := by
  unfold fireRule
  with_reducible repeat' first 
    | assumption | apply beginStart_keeps | apply applyShed_keeps | apply requestDeep_keeps
    | apply forceHandover_keeps | split

theorem woadSample_keeps {s0 s : State} (h : Keeps s0 s) : Keeps s0 (woadSample s) := by
  unfold woadSample
  with_reducible repeat' first | assumption | apply applyShed_keeps | split | apply Keeps.plain

theorem tripEffect_keeps {s0 s : State} (h : Keeps s0 s) : Keeps s0 (tripEffect s) := by
  unfold tripEffect
  with_reducible repeat' first | assumption | apply raiseAlarm_keeps | apply enterS2_keeps | split | apply Keeps.plain

theorem armRules_keeps {s0 s : State} (h : Keeps s0 s) : Keeps s0 (armRules s) := by
  unfold armRules
  with_reducible repeat' first | assumption | split | apply Keeps.plain

theorem enterDeep_keeps {s0 s : State} (h : Keeps s0 s) : Keeps s0 (enterDeep s) := by
  unfold enterDeep
  dsimp only
  repeat' first | (with_reducible first | assumption | apply armRules_keeps | apply sendHeartbeat_keeps | apply leavePair_keeps | apply railsDown_keeps) | split | (with_reducible apply Keeps.plain)

/-! ### Woad -/

theorem restTiles_keeps {s0 s : State} (h : Keeps s0 s) : Keeps s0 (restTiles s) := by
  unfold restTiles
  dsimp only
  repeat' first | (with_reducible first | assumption | apply settleTile_keeps | apply Keeps.foldl | intro _ | exact Keeps.rfl) | split | (with_reducible apply Keeps.plain)

theorem lightTiles_keeps {s0 s : State} (h : Keeps s0 s) : Keeps s0 (lightTiles s) := by
  unfold lightTiles
  with_reducible repeat' first | assumption | apply lightTile_keeps | apply Keeps.foldl | intro _ | exact Keeps.rfl | split

theorem powerStateBody_keeps (f : Fetched) {s0 s : State} (h : Keeps s0 s) : BodyKeeps s0 (powerStateBody f s) := by
  unfold powerStateBody
  dsimp only
  with_reducible repeat' first 
    | assumption | apply tryPower_keeps | apply lightTiles_keeps | apply restTiles_keeps | apply Keeps.bodyDone
    | apply Keeps.bodyRunning | split | apply Keeps.plain

theorem execPowerState_keeps (ring : RingIx) {s0 s : State} (h : Keeps s0 s) : ResultKeeps s0 (execPowerState ring s) := by
  unfold execPowerState
  with_reducible repeat' first | assumption | apply serve_keeps | apply powerStateBody_keeps | intro _ | apply Keeps.next

theorem execDeepEntry_keeps {s0 s : State} (h : Keeps s0 s) : ResultKeeps s0 (execDeepEntry s) := by
  unfold execDeepEntry
  with_reducible repeat' first | assumption | apply completeAny_keeps | apply enterDeep_keeps | apply Keeps.next | split

theorem writeRule_keeps (i : Fin 16) (r : Rule) {s0 s : State} (h : Keeps s0 s) : Keeps s0 (writeRule i r s) := by
  unfold writeRule
  with_reducible repeat' first | assumption | apply storeRules_keeps | apply applyShed_keeps | apply setRule_keeps

theorem sentinelRuleBody_keeps (f : Fetched) {s0 s : State} (h : Keeps s0 s) : BodyKeeps s0 (sentinelRuleBody f s) := by
  unfold sentinelRuleBody
  dsimp only
  with_reducible repeat' first | assumption | apply writeRule_keeps | apply Keeps.bodyDone | apply Keeps.bodyRunning | split

theorem execSentinelRule_keeps (ring : RingIx) {s0 s : State} (h : Keeps s0 s) :
    ResultKeeps s0 (execSentinelRule ring s) := by
  unfold execSentinelRule
  with_reducible repeat' first | assumption | apply serve_keeps | apply sentinelRuleBody_keeps | intro _ | apply Keeps.next

theorem execWoadRuleSet_keeps (rule : Fin 16) {s0 s : State} (h : Keeps s0 s) :
    ResultKeeps s0 (execWoadRuleSet rule s) := by
  unfold execWoadRuleSet
  dsimp only
  with_reducible repeat' first | assumption | apply fireRule_keeps | apply setRule_keeps | apply Keeps.next | split

theorem execWoadRuleClear_keeps (rule : Fin 16) {s0 s : State} (h : Keeps s0 s) :
    ResultKeeps s0 (execWoadRuleClear rule s) := by
  unfold execWoadRuleClear
  dsimp only
  with_reducible repeat' first | assumption | apply applyShed_keeps | apply setRule_keeps | apply Keeps.next | split

theorem execWoadRuleParity_keeps {s0 s : State} (h : Keeps s0 s) : ResultKeeps s0 (execWoadRuleParity s) := by
  unfold execWoadRuleParity
  with_reducible repeat' first | assumption | apply raiseAlarm_keeps | apply applyShed_keeps | apply Keeps.next | split | apply Keeps.plain

theorem execMadderLivenessTimeout_keeps {s0 s : State} (h : Keeps s0 s) : ResultKeeps s0 (execMadderLivenessTimeout s) := by
  unfold execMadderLivenessTimeout
  dsimp only
  repeat' first | (with_reducible first | assumption | apply raiseAlarm_keeps | apply forceHandover_keeps | apply Keeps.next) | split | (with_reducible apply Keeps.plain)

theorem execThermalTrip_keeps {s0 s : State} (h : Keeps s0 s) : ResultKeeps s0 (execThermalTrip s) := by
  unfold execThermalTrip
  with_reducible repeat' first | assumption | apply tripEffect_keeps | apply Keeps.next | split

theorem execWoadPowerLoss_keeps {s0 s : State} (h : Keeps s0 s) : ResultKeeps s0 (execWoadPowerLoss s) := by
  unfold execWoadPowerLoss
  with_reducible repeat' first | assumption | apply Keeps.next | split | apply Keeps.plain

theorem execWoadPowerUp_keeps {s0 s : State} (h : Keeps s0 s) : ResultKeeps s0 (execWoadPowerUp s) := by
  unfold execWoadPowerUp
  with_reducible repeat' first | assumption | apply Keeps.next | split | apply Keeps.plain

theorem execServiceButtonPress_keeps {s0 s : State} (h : Keeps s0 s) : ResultKeeps s0 (execServiceButtonPress s) := by
  unfold execServiceButtonPress
  with_reducible repeat' first | assumption | apply Keeps.next | split | apply Keeps.plain

theorem execLocLampTimeout_keeps {s0 s : State} (h : Keeps s0 s) : ResultKeeps s0 (execLocLampTimeout s) :=
  Keeps.plain h

/-! ### Thermal -/

theorem takeReadings_keeps (rs : List HkReading) {s0 s : State} (h : Keeps s0 s) : Keeps s0 (takeReadings rs s) :=
  Keeps.upd h id id id id

theorem reportSensors_keeps (was : Vector HkChan 64) {s0 s : State} (h : Keeps s0 s) : Keeps s0 (reportSensors was s) := by
  unfold reportSensors
  with_reducible repeat' first | assumption | apply raiseAlarm_keeps | apply event_keeps | apply Keeps.foldl | intro _ | exact Keeps.rfl

theorem thresholdEvents_keeps (k : Nat) (was : Vector Threshold 23) (now : Vector Threshold 23) {s0 s : State} (h : Keeps s0 s) :
    Keeps s0 (thresholdEvents k was now s) := by
  unfold thresholdEvents
  with_reducible repeat' first | assumption | apply event_keeps | apply Keeps.foldl | intro _ | exact Keeps.rfl | split

theorem handoverActions_keeps (was : Vector Threshold 23) (now : Vector Threshold 23) {s0 s : State} (h : Keeps s0 s) :
    Keeps s0 (handoverActions was now s) := by
  unfold handoverActions
  dsimp only
  with_reducible repeat' first 
    | assumption | apply raiseAlarm_keeps | apply clearAlarm_keeps | apply requestTakeover_keeps
    | apply withdrawTakeover_keeps | apply Keeps.foldl | intro _ | exact Keeps.rfl | split

theorem stepThresholds_keeps {s0 s : State} (h : Keeps s0 s) : Keeps s0 (stepThresholds s) := by
  unfold stepThresholds
  with_reducible repeat' first | assumption | apply handoverActions_keeps | apply thresholdEvents_keeps | split | apply Keeps.plain

theorem countSkip_keeps {s0 s : State} (h : Keeps s0 s) :
    Keeps s0 (countSkip s) := by
  unfold countSkip
  with_reducible repeat' first
    | assumption | apply raiseAlarm_keeps | apply tileEvent_keeps | apply Keeps.foldl | intro _ | exact Keeps.rfl
    | split | apply Keeps.plain

theorem execFanFailure_keeps (fan : Fin 5) {s0 s : State} (h : Keeps s0 s) : ResultKeeps s0 (execFanFailure fan s) := by
  unfold execFanFailure
  with_reducible repeat' first | assumption | apply raiseAlarm_keeps | apply event_keeps | apply Keeps.next | split | apply Keeps.plain

theorem lossLocated_keeps (t : TileIx) (row g : Nat) {s0 s : State} (h : Keeps s0 s) :
    Keeps s0 (lossLocated t row g s) := by
  unfold lossLocated
  with_reducible repeat' first
    | assumption | apply setTile_keeps | apply event_keeps | apply openGap_keeps | apply settleTile_keeps
    | apply faultTile_keeps | split | apply Keeps.plain

theorem stepTaps_keeps {s0 s : State} (h : Keeps s0 s) :
    Keeps s0 (stepTaps s) := by
  unfold stepTaps
  with_reducible repeat' first
    | assumption | apply lossLocated_keeps | apply Keeps.foldl | intro _ | exact Keeps.rfl | split | apply Keeps.plain

theorem biasRound_keeps (t : TileIx) {s0 s : State} (h : Keeps s0 s) :
    Keeps s0 (biasRound s t) := by
  unfold biasRound
  with_reducible repeat' first
    | assumption | apply setTile_keeps | apply event_keeps | apply sealRecord_keeps | split | apply Keeps.plain

theorem trimRound_keeps (t : TileIx) {s0 s : State} (h : Keeps s0 s) :
    Keeps s0 (trimRound s t) := by
  unfold trimRound
  with_reducible repeat' first | assumption | apply setTile_keeps | apply event_keeps | split | apply Keeps.plain

theorem checkContacts_keeps (ok : Bool) {s0 s : State} (h : Keeps s0 s) : Keeps s0 (checkContacts ok s) := by
  unfold checkContacts
  with_reducible repeat' first | assumption | apply clearAlarm_keeps | apply raiseAlarm_keeps | apply event_keeps | split | apply Keeps.plain

theorem woadRound_keeps {s0 s : State} (h : Keeps s0 s) : Keeps s0 (woadRound s) := by
  unfold woadRound
  with_reducible repeat' first | assumption | apply clearAlarm_keeps | split | apply Keeps.plain

theorem execHousekeepingRoundEnd_keeps (readings : List HkReading) (contactOk : Bool) {s0 s : State} (h : Keeps s0 s) :
    ResultKeeps s0 (execHousekeepingRoundEnd readings contactOk s) := by
  unfold execHousekeepingRoundEnd
  with_reducible repeat' first
    | assumption | apply oscRound_keeps | apply takeReadings_keeps | apply reportSensors_keeps
    | apply stepThresholds_keeps | apply countSkip_keeps | apply stepTaps_keeps | apply biasRound_keeps
    | apply trimRound_keeps | apply checkContacts_keeps | apply woadRound_keeps | apply Keeps.foldl | intro _
    | exact Keeps.rfl | apply Keeps.next | split | apply Keeps.plain

theorem execSkipEscalation_keeps (tile : TileIx) {s0 s : State} (h : Keeps s0 s) :
    ResultKeeps s0 (execSkipEscalation tile s) := by
  unfold execSkipEscalation
  dsimp only
  with_reducible repeat' first | assumption | apply setTile_keeps | apply Keeps.next | split

/-! ### Time -/

theorem execRootPllLock_keeps {s0 s : State} (h : Keeps s0 s) : ResultKeeps s0 (execRootPllLock s) := by
  unfold execRootPllLock
  with_reducible repeat' first | assumption | apply Keeps.next | split | apply Keeps.plain

theorem execRootPllUnlock_keeps {s0 s : State} (h : Keeps s0 s) : ResultKeeps s0 (execRootPllUnlock s) := by
  unfold execRootPllUnlock
  with_reducible repeat' first | assumption | apply Keeps.next | split | apply Keeps.plain

theorem clockFaultEffect_keeps {s0 s : State} (h : Keeps s0 s) : Keeps s0 (clockFaultEffect s) := by
  unfold clockFaultEffect
  with_reducible repeat' first | assumption | apply forceRelease_keeps | apply raiseAlarm_keeps | apply Keeps.plain

theorem execClockFault_keeps {s0 s : State} (h : Keeps s0 s) : ResultKeeps s0 (execClockFault s) := by
  unfold execClockFault
  with_reducible repeat' first | assumption | apply clockFaultEffect_keeps | apply Keeps.next | split

theorem execWoadTrimCount_keeps (count : BitVec 17) {s0 s : State} (h : Keeps s0 s) :
    ResultKeeps s0 (execWoadTrimCount count s) := by
  unfold execWoadTrimCount
  dsimp only
  repeat' first | (with_reducible first | assumption | apply clockFaultEffect_keeps | apply raiseAlarm_keeps | apply Keeps.next) | split | (with_reducible apply Keeps.plain)

theorem selectMaster_keeps {s0 s : State} (h : Keeps s0 s) : Keeps s0 (selectMaster s) := by
  unfold selectMaster
  with_reducible repeat' first | assumption | apply enterSync_keeps | split | apply Keeps.plain

theorem steer_keeps {s0 s : State} (h : Keeps s0 s) : Keeps s0 (steer s) := by
  unfold steer
  with_reducible repeat' first | assumption | apply draw_keeps | split | apply Keeps.plain

theorem startSlew_keeps (off : Int) {s0 s : State} (h : Keeps s0 s) : Keeps s0 (startSlew off s) := Keeps.plain h

theorem returnMaster_keeps (off : Int) {s0 s : State} (h : Keeps s0 s) : Keeps s0 (returnMaster off s) := by
  unfold returnMaster
  with_reducible repeat' first | assumption | apply withdrawTakeover_keeps | apply enterSync_keeps | apply startSlew_keeps | apply Keeps.plain

theorem servoOffset_keeps (port : PortIx) (off : Int) {s0 s : State} (h : Keeps s0 s) :
    Keeps s0 (servoOffset port off s) := by
  unfold servoOffset
  dsimp only
  repeat' first | (with_reducible first | assumption | apply steer_keeps | apply returnMaster_keeps | apply event_keeps | apply startSlew_keeps) | split | (with_reducible apply Keeps.plain)

theorem ptpEffect_keeps (port : PortIx) (msg : PtpMessage) {s0 s : State} (h : Keeps s0 s) :
    Keeps s0 (ptpEffect port msg s) := by
  unfold ptpEffect
  dsimp only
  repeat' first | (with_reducible first | assumption | apply setPort_keeps | apply selectMaster_keeps | apply servoOffset_keeps) | split | (with_reducible apply Keeps.plain)

theorem execPtpMessageRx_keeps (port : PortIx) (msg : PtpMessage) {s0 s : State} (h : Keeps s0 s) :
    ResultKeeps s0 (execPtpMessageRx port msg s) := by
  unfold execPtpMessageRx
  with_reducible repeat' first | assumption | apply ptpEffect_keeps | apply Keeps.next | split

theorem startHoldover_keeps {s0 s : State} (h : Keeps s0 s) : Keeps s0 (startHoldover s) := Keeps.plain h

theorem boundState_keeps (out : Bool) {s0 s : State} (h : Keeps s0 s) : Keeps s0 (boundState out s) := by
  unfold boundState
  with_reducible repeat' first | assumption | apply enterSync_keeps | apply requestTakeover_keeps | split

theorem masterLost_keeps {s0 s : State} (h : Keeps s0 s) : Keeps s0 (masterLost s) := by
  unfold masterLost
  with_reducible repeat' first 
    | assumption | apply selectMaster_keeps | apply enterSync_keeps | apply startHoldover_keeps
    | apply boundState_keeps | split | apply Keeps.plain

theorem execAnnounceReceiptTimeout_keeps {s0 s : State} (h : Keeps s0 s) :
    ResultKeeps s0 (execAnnounceReceiptTimeout s) := by
  unfold execAnnounceReceiptTimeout
  with_reducible repeat' first | assumption | apply masterLost_keeps | apply Keeps.next | split

theorem execServoLocked_keeps {s0 s : State} (h : Keeps s0 s) : ResultKeeps s0 (execServoLocked s) := by
  unfold execServoLocked
  with_reducible repeat' first | assumption | apply startSlew_keeps | apply enterSync_keeps | apply Keeps.next | split | apply Keeps.plain

theorem execHoldoverLimitCrossed_keeps {s0 s : State} (h : Keeps s0 s) : ResultKeeps s0 (execHoldoverLimitCrossed s) := by
  unfold execHoldoverLimitCrossed
  with_reducible repeat' first | assumption | apply boundState_keeps | apply Keeps.next | split

theorem setSyncE_keeps (valid : Bool) {s0 s : State} (h : Keeps s0 s) : Keeps s0 (setSyncE valid s) := by
  unfold setSyncE
  with_reducible repeat' first | assumption | split | apply Keeps.plain

theorem execSynceLoss_keeps {s0 s : State} (h : Keeps s0 s) : ResultKeeps s0 (execSynceLoss s) := setSyncE_keeps _ h

theorem execSynceValid_keeps {s0 s : State} (h : Keeps s0 s) : ResultKeeps s0 (execSynceValid s) := by
  unfold execSynceValid
  with_reducible repeat' first | assumption | apply setSyncE_keeps | apply Keeps.next | split

theorem execTuningRangeLimit_keeps {s0 s : State} (h : Keeps s0 s) : ResultKeeps s0 (execTuningRangeLimit s) := by
  unfold execTuningRangeLimit
  dsimp only
  repeat' first | (with_reducible first | assumption | apply raiseAlarm_keeps | apply enterSync_keeps | apply startHoldover_keeps | apply Keeps.next) | split | (with_reducible apply Keeps.plain)

theorem execPhaseSlewEnd_keeps {s0 s : State} (h : Keeps s0 s) : ResultKeeps s0 (execPhaseSlewEnd s) := Keeps.plain h

theorem execEsmcMessageRx_keeps (port : PortIx) {s0 s : State} (h : Keeps s0 s) :
    ResultKeeps s0 (execEsmcMessageRx port s) := by
  unfold execEsmcMessageRx
  with_reducible repeat' first | assumption | apply setPort_keeps | apply Keeps.next | split

theorem applyTimeConfig_keeps (d : Descriptor) {s0 s : State} (h : Keeps s0 s) : Keeps s0 (applyTimeConfig d s) := by
  unfold applyTimeConfig
  dsimp only
  repeat' first | (with_reducible first | assumption | apply setSyncE_keeps | apply boundState_keeps | apply masterLost_keeps) | split | (with_reducible apply Keeps.plain)

theorem timeConfigBody_keeps (f : Fetched) {s0 s : State} (h : Keeps s0 s) : BodyKeeps s0 (timeConfigBody f s) := by
  unfold timeConfigBody
  dsimp only
  with_reducible repeat' first 
    | assumption | apply mirror_keeps | apply applyTimeConfig_keeps | apply Keeps.bodyDone
    | apply Keeps.bodyRunning | split

theorem execTimeConfig_keeps (ring : RingIx) {s0 s : State} (h : Keeps s0 s) : ResultKeeps s0 (execTimeConfig ring s) := by
  unfold execTimeConfig
  with_reducible repeat' first | assumption | apply serve_keeps | apply timeConfigBody_keeps | intro _ | apply Keeps.next

end Sys2Proof.Machine
end

