-- ==== Sys2Proof/Laws/KeepsF.lean ====
section
/-! SUPPORT. What the operations keep (Laws/Keeps), one lemma per operation: TwinLink, Xelin, XelinIo, Tick, Sclk. -/
namespace Sys2Proof.Machine

/-! ### TwinLink -/

theorem execAckFrameRx_keeps (x : RxHead) (nak : Bool) {s0 s : State} (h : Keeps s0 s) :
    ResultKeeps s0 (execAckFrameRx x nak s) :=
  takeLinkFrame_keeps x _ h fun _ g => by
    split
    · exact replay_keeps (releaseAcked_keeps _ g)
    · exact releaseAcked_keeps _ g

theorem execReplayTimeout_keeps {s0 s : State} (h : Keeps s0 s) : ResultKeeps s0 (execReplayTimeout s) := by
  unfold execReplayTimeout
  with_reducible repeat' first | assumption | apply replay_keeps | apply Keeps.next | split

theorem enterLink_keeps (l : LinkState) {s0 s : State} (h : Keeps s0 s) : Keeps s0 (enterLink l s) := by
  unfold enterLink
  with_reducible repeat' first | assumption | apply clearAlarm_keeps | apply event_keeps | apply raiseAlarm_keeps | split | apply Keeps.plain

theorem execLinkTrainingEnd_keeps (lanes : Fin 3) {s0 s : State} (h : Keeps s0 s) :
    ResultKeeps s0 (execLinkTrainingEnd lanes s) := by
  unfold execLinkTrainingEnd
  with_reducible repeat' first | assumption | apply enterLink_keeps | apply Keeps.next | split | apply Keeps.plain

theorem execLinkTrainingRetry_keeps {s0 s : State} (h : Keeps s0 s) : ResultKeeps s0 (execLinkTrainingRetry s) := by
  unfold execLinkTrainingRetry
  with_reducible repeat' first | assumption | apply raiseAlarm_keeps | apply Keeps.next | split | apply Keeps.plain

theorem execMirrorAckTimeout_keeps {s0 s : State} (h : Keeps s0 s) : ResultKeeps s0 (execMirrorAckTimeout s) := by
  unfold execMirrorAckTimeout
  with_reducible repeat' first 
    | assumption | apply tryFinishCommit_keeps | apply event_keeps | apply Keeps.foldl | intro _ | exact Keeps.rfl
    | apply Keeps.next | split | apply Keeps.plain

theorem freshId_keeps {s0 s : State} (h : Keeps s0 s) : Keeps s0 (freshId s).2 := Keeps.plain h

theorem mirrorEventSet_keeps (d : Descriptor) (entries : List Byte) {s0 s : State} (h : Keeps s0 s) :
    Keeps s0 (mirrorEventSet d entries s) := by
  unfold mirrorEventSet
  with_reducible repeat' first | assumption | apply freshId_keeps | apply settleShadow_keeps | apply setComparator_keeps | split

theorem mirrorEventCancel_keeps (d : Descriptor) {s0 s : State} (h : Keeps s0 s) : Keeps s0 (mirrorEventCancel d s) := by
  unfold mirrorEventCancel
  with_reducible repeat' first | assumption | apply cancelOne_keeps | apply Keeps.foldl | intro _ | exact Keeps.rfl | split

theorem mirrorCommand_keeps (d : Descriptor) (entries : List Byte) {s0 s : State} (h : Keeps s0 s) :
    Keeps s0 (mirrorCommand d entries s) := by
  unfold mirrorCommand
  with_reducible repeat' first 
    | assumption | apply setGroup_keeps | apply storeCrcs_keeps | apply settleShadow_keeps
    | apply loadMembers_keeps | apply applyMembers_keeps | apply applyTimeConfig_keeps | apply applyCap_keeps
    | apply mirrorEventSet_keeps | apply mirrorEventCancel_keeps | split | apply Keeps.plain

theorem mirroredSwap_keeps (g : GroupIx) (at_ : W64) {s0 s : State} (h : Keeps s0 s) :
    Keeps s0 (mirroredSwap g at_ s) := by
  unfold mirroredSwap
  dsimp only
  with_reducible repeat' first
    | assumption | apply event_keeps | apply setComparator_keeps | apply settleShadow_keeps | apply doSwap_keeps
    | apply waitSwap_keeps | apply markHeld_keeps | apply freshId_keeps | split | apply Keeps.plain

theorem applyMirror_keeps (item : MirrorItem) {s0 s : State} (h : Keeps s0 s) : Keeps s0 (applyMirror item s) := by
  unfold applyMirror
  with_reducible repeat' first | assumption | apply mirrorCommand_keeps | apply mirroredSwap_keeps | split | apply Keeps.plain

theorem execMirrorFrameRx_keeps (x : RxHead) (item : MirrorItem) {s0 s : State} (h : Keeps s0 s) :
    ResultKeeps s0 (execMirrorFrameRx x item s) := by
  unfold execMirrorFrameRx
  with_reducible repeat' first | assumption | apply receive_keeps | apply applyMirror_keeps | apply Keeps.next | split

theorem applyCopy_keeps (saddr : W64) (data : List Byte) {s0 s : State} (h : Keeps s0 s) :
    Keeps s0 (applyCopy saddr data s) := by
  unfold applyCopy
  with_reducible repeat' first | assumption | apply trySynced_keeps | apply stackWrite_keeps | split

theorem execMemcopyFrameRx_keeps (x : RxHead) (saddr : W64) (data : List Byte) {s0 s : State} (h : Keeps s0 s) :
    ResultKeeps s0 (execMemcopyFrameRx x saddr data s) := by
  unfold execMemcopyFrameRx
  with_reducible repeat' first | assumption | apply receive_keeps | apply applyCopy_keeps | apply Keeps.next | split

theorem applyHandover_keeps (at_ : W64) {s0 s : State} (h : Keeps s0 s) : Keeps s0 (applyHandover at_ s) := by
  unfold applyHandover
  with_reducible repeat' first | assumption | split | apply Keeps.plain

theorem execHandoverFrameRx_keeps (x : RxHead) (at_ : W64) {s0 s : State} (h : Keeps s0 s) :
    ResultKeeps s0 (execHandoverFrameRx x at_ s) := by
  unfold execHandoverFrameRx
  with_reducible repeat' first | assumption | apply receive_keeps | apply applyHandover_keeps | apply Keeps.next | split

theorem applyChain_keeps (sums : List (Nat × Nat × BitVec 48)) {s0 s : State} (h : Keeps s0 s) :
    Keeps s0 (applyChain sums s) := by
  unfold applyChain
  with_reducible repeat' first | assumption | split | apply Keeps.plain

theorem execChainFrameRx_keeps (x : RxHead) (sums : List (Nat × Nat × BitVec 48)) {s0 s : State} (h : Keeps s0 s) :
    ResultKeeps s0 (execChainFrameRx x sums s) := by
  unfold execChainFrameRx
  with_reducible repeat' first | assumption | apply receive_keeps | apply applyChain_keeps | apply Keeps.next | split

theorem applyResync_keeps (item : ResyncItem) {s0 s : State} (h : Keeps s0 s) : Keeps s0 (applyResync item s) := by
  unfold applyResync
  with_reducible repeat' first 
    | assumption | apply trySynced_keeps | apply moveBoundary_keeps | apply applyMembers_keeps
    | apply setGroup_keeps | apply settleShadow_keeps | split | apply Keeps.plain

theorem execResyncFrameRx_keeps (x : RxHead) (item : ResyncItem) {s0 s : State} (h : Keeps s0 s) :
    ResultKeeps s0 (execResyncFrameRx x item s) := by
  unfold execResyncFrameRx
  with_reducible repeat' first | assumption | apply receive_keeps | apply applyResync_keeps | apply Keeps.next | split

/-! ### Xelin -/

theorem execMoveOperand_keeps (core : CoreIx) (guard : BitVec 4) (dst : Byte) (src : MoveSrc) {s0 s : State} (h : Keeps s0 s) :
    ResultKeeps s0 (execMoveOperand core guard dst src s) := by
  unfold execMoveOperand
  split
  · exact h
  · refine xmove_core_keeps _ _ _ _ _ h fun _ _ _ _ _ e g => ?_
    cases e
    exact g.same rfl rfl rfl rfl rfl rfl rfl (Or.inl rfl) (Or.inl rfl)

theorem execLimmTInt_keeps (core : CoreIx) (guard : BitVec 4) (src : MoveSrc) {s0 s : State} (h : Keeps s0 s) :
    ResultKeeps s0 (execLimmTInt core guard src s) :=
  xmove_core_keeps _ _ _ _ _ h fun _ _ _ _ _ e g => by
    cases e
    exact g.same rfl rfl rfl rfl rfl rfl rfl (Or.inl rfl) (Or.inl rfl)

theorem execLimmTPtr_keeps (core : CoreIx) (guard : BitVec 4) (src : MoveSrc) {s0 s : State} (h : Keeps s0 s) :
    ResultKeeps s0 (execLimmTPtr core guard src s) :=
  xmove_core_keeps _ _ _ _ _ h fun _ _ _ _ _ e g => by
    cases e
    exact g.same rfl rfl rfl rfl rfl rfl rfl (Or.inl rfl) (Or.inl rfl)

theorem execLimmTCode_keeps (core : CoreIx) (guard : BitVec 4) (src : MoveSrc) {s0 s : State} (h : Keeps s0 s) :
    ResultKeeps s0 (execLimmTCode core guard src s) :=
  xmove_core_keeps _ _ _ _ _ h fun _ _ _ _ _ e g => by
    cases e
    exact g.same rfl rfl rfl rfl rfl rfl rfl (Or.inl rfl) (Or.inl rfl)

theorem execLimmTBits_keeps (core : CoreIx) (guard : BitVec 4) (src : MoveSrc) {s0 s : State} (h : Keeps s0 s) :
    ResultKeeps s0 (execLimmTBits core guard src s) :=
  xmove_core_keeps _ _ _ _ _ h fun _ _ _ _ _ e g => by
    cases e
    exact g.same rfl rfl rfl rfl rfl rfl rfl (Or.inl rfl) (Or.inl rfl)

theorem execAluAdd_keeps (core : CoreIx) (guard : BitVec 4) (src : MoveSrc) {s0 s : State} (h : Keeps s0 s) :
    ResultKeeps s0 (execAluAdd core guard src s) :=
  xmove_core_keeps _ _ _ _ _ h fun _ _ _ _ _ e g => by
    cases guarded_ok e
    exact g.same rfl rfl rfl rfl rfl rfl rfl (Or.inl rfl) (Or.inl rfl)

theorem execAluSub_keeps (core : CoreIx) (guard : BitVec 4) (src : MoveSrc) {s0 s : State} (h : Keeps s0 s) :
    ResultKeeps s0 (execAluSub core guard src s) :=
  xmove_core_keeps _ _ _ _ _ h fun _ _ _ _ _ e g => by
    cases guarded_ok e
    exact g.same rfl rfl rfl rfl rfl rfl rfl (Or.inl rfl) (Or.inl rfl)

theorem execAluNeg_keeps (core : CoreIx) (guard : BitVec 4) (src : MoveSrc) {s0 s : State} (h : Keeps s0 s) :
    ResultKeeps s0 (execAluNeg core guard src s) :=
  xmove_core_keeps _ _ _ _ _ h fun _ _ _ _ _ e g => by
    cases guarded_ok e
    exact g.same rfl rfl rfl rfl rfl rfl rfl (Or.inl rfl) (Or.inl rfl)

theorem execAluAnd_keeps (core : CoreIx) (guard : BitVec 4) (src : MoveSrc) {s0 s : State} (h : Keeps s0 s) :
    ResultKeeps s0 (execAluAnd core guard src s) :=
  xmove_core_keeps _ _ _ _ _ h fun _ _ _ _ _ e g => by
    cases guarded_ok e
    exact g.same rfl rfl rfl rfl rfl rfl rfl (Or.inl rfl) (Or.inl rfl)

theorem execAluOr_keeps (core : CoreIx) (guard : BitVec 4) (src : MoveSrc) {s0 s : State} (h : Keeps s0 s) :
    ResultKeeps s0 (execAluOr core guard src s) :=
  xmove_core_keeps _ _ _ _ _ h fun _ _ _ _ _ e g => by
    cases guarded_ok e
    exact g.same rfl rfl rfl rfl rfl rfl rfl (Or.inl rfl) (Or.inl rfl)

theorem execAluXor_keeps (core : CoreIx) (guard : BitVec 4) (src : MoveSrc) {s0 s : State} (h : Keeps s0 s) :
    ResultKeeps s0 (execAluXor core guard src s) :=
  xmove_core_keeps _ _ _ _ _ h fun _ _ _ _ _ e g => by
    cases guarded_ok e
    exact g.same rfl rfl rfl rfl rfl rfl rfl (Or.inl rfl) (Or.inl rfl)

theorem execAluNot_keeps (core : CoreIx) (guard : BitVec 4) (src : MoveSrc) {s0 s : State} (h : Keeps s0 s) :
    ResultKeeps s0 (execAluNot core guard src s) :=
  xmove_core_keeps _ _ _ _ _ h fun _ _ _ _ _ e g => by
    cases guarded_ok e
    exact g.same rfl rfl rfl rfl rfl rfl rfl (Or.inl rfl) (Or.inl rfl)

theorem execAluShl_keeps (core : CoreIx) (guard : BitVec 4) (src : MoveSrc) {s0 s : State} (h : Keeps s0 s) :
    ResultKeeps s0 (execAluShl core guard src s) :=
  xmove_core_keeps _ _ _ _ _ h fun _ _ _ _ _ e g => by
    cases guarded_ok e
    exact g.same rfl rfl rfl rfl rfl rfl rfl (Or.inl rfl) (Or.inl rfl)

theorem execAluShr_keeps (core : CoreIx) (guard : BitVec 4) (src : MoveSrc) {s0 s : State} (h : Keeps s0 s) :
    ResultKeeps s0 (execAluShr core guard src s) :=
  xmove_core_keeps _ _ _ _ _ h fun _ _ _ _ _ e g => by
    cases guarded_ok e
    exact g.same rfl rfl rfl rfl rfl rfl rfl (Or.inl rfl) (Or.inl rfl)

theorem execAluSar_keeps (core : CoreIx) (guard : BitVec 4) (src : MoveSrc) {s0 s : State} (h : Keeps s0 s) :
    ResultKeeps s0 (execAluSar core guard src s) :=
  xmove_core_keeps _ _ _ _ _ h fun _ _ _ _ _ e g => by
    cases guarded_ok e
    exact g.same rfl rfl rfl rfl rfl rfl rfl (Or.inl rfl) (Or.inl rfl)

theorem execMulMul_keeps (core : CoreIx) (guard : BitVec 4) (src : MoveSrc) {s0 s : State} (h : Keeps s0 s) :
    ResultKeeps s0 (execMulMul core guard src s) :=
  xmove_core_keeps _ _ _ _ _ h fun _ _ _ _ _ e g => by
    cases guarded_ok e
    exact g.same rfl rfl rfl rfl rfl rfl rfl (Or.inl rfl) (Or.inl rfl)

theorem execMulMulh_keeps (core : CoreIx) (guard : BitVec 4) (src : MoveSrc) {s0 s : State} (h : Keeps s0 s) :
    ResultKeeps s0 (execMulMulh core guard src s) :=
  xmove_core_keeps _ _ _ _ _ h fun _ _ _ _ _ e g => by
    cases guarded_ok e
    exact g.same rfl rfl rfl rfl rfl rfl rfl (Or.inl rfl) (Or.inl rfl)

theorem execMulDiv_keeps (core : CoreIx) (guard : BitVec 4) (src : MoveSrc) {s0 s : State} (h : Keeps s0 s) :
    ResultKeeps s0 (execMulDiv core guard src s) :=
  xmove_core_keeps _ _ _ _ _ h fun _ _ _ _ _ e g => by
    cases guarded_ok e
    exact g.same rfl rfl rfl rfl rfl rfl rfl (Or.inl rfl) (Or.inl rfl)

theorem execMulMod_keeps (core : CoreIx) (guard : BitVec 4) (src : MoveSrc) {s0 s : State} (h : Keeps s0 s) :
    ResultKeeps s0 (execMulMod core guard src s) :=
  xmove_core_keeps _ _ _ _ _ h fun _ _ _ _ _ e g => by
    cases guarded_ok e
    exact g.same rfl rfl rfl rfl rfl rfl rfl (Or.inl rfl) (Or.inl rfl)

theorem execCmpEq_keeps (core : CoreIx) (guard : BitVec 4) (src : MoveSrc) {s0 s : State} (h : Keeps s0 s) :
    ResultKeeps s0 (execCmpEq core guard src s) :=
  xmove_core_keeps _ _ _ _ _ h fun _ _ _ _ _ e g => cmpOp_wf e g

theorem execCmpNe_keeps (core : CoreIx) (guard : BitVec 4) (src : MoveSrc) {s0 s : State} (h : Keeps s0 s) :
    ResultKeeps s0 (execCmpNe core guard src s) :=
  xmove_core_keeps _ _ _ _ _ h fun _ _ _ _ _ e g => cmpOp_wf e g

theorem execCmpLt_keeps (core : CoreIx) (guard : BitVec 4) (src : MoveSrc) {s0 s : State} (h : Keeps s0 s) :
    ResultKeeps s0 (execCmpLt core guard src s) :=
  xmove_core_keeps _ _ _ _ _ h fun _ _ _ _ _ e g => cmpOp_wf e g

theorem execCmpLe_keeps (core : CoreIx) (guard : BitVec 4) (src : MoveSrc) {s0 s : State} (h : Keeps s0 s) :
    ResultKeeps s0 (execCmpLe core guard src s) :=
  xmove_core_keeps _ _ _ _ _ h fun _ _ _ _ _ e g => cmpOp_wf e g

theorem execCmpLtu_keeps (core : CoreIx) (guard : BitVec 4) (src : MoveSrc) {s0 s : State} (h : Keeps s0 s) :
    ResultKeeps s0 (execCmpLtu core guard src s) :=
  xmove_core_keeps _ _ _ _ _ h fun _ _ _ _ _ e g => cmpOp_wf e g

theorem execCmpLeu_keeps (core : CoreIx) (guard : BitVec 4) (src : MoveSrc) {s0 s : State} (h : Keeps s0 s) :
    ResultKeeps s0 (execCmpLeu core guard src s) :=
  xmove_core_keeps _ _ _ _ _ h fun _ _ _ _ _ e g => cmpOp_wf e g

theorem execCmpCarry_keeps (core : CoreIx) (guard : BitVec 4) (src : MoveSrc) {s0 s : State} (h : Keeps s0 s) :
    ResultKeeps s0 (execCmpCarry core guard src s) :=
  xmove_core_keeps _ _ _ _ _ h fun _ _ _ _ _ e g => cmpOp_wf e g

theorem execCmpOvf_keeps (core : CoreIx) (guard : BitVec 4) (src : MoveSrc) {s0 s : State} (h : Keeps s0 s) :
    ResultKeeps s0 (execCmpOvf core guard src s) :=
  xmove_core_keeps _ _ _ _ _ h fun _ _ _ _ _ e g => cmpOp_wf e g

theorem execCmpBit_keeps (core : CoreIx) (guard : BitVec 4) (src : MoveSrc) {s0 s : State} (h : Keeps s0 s) :
    ResultKeeps s0 (execCmpBit core guard src s) :=
  xmove_core_keeps _ _ _ _ _ h fun _ _ _ _ _ e g => cmpOp_wf e g

theorem execBrJump_keeps (core : CoreIx) (guard : BitVec 4) (src : MoveSrc) {s0 s : State} (h : Keeps s0 s) :
    ResultKeeps s0 (execBrJump core guard src s) :=
  xmove_core_keeps _ _ _ _ _ h fun _ _ _ _ _ e g => by
    cases guarded_ok e
    exact g.branchTo _

theorem execBrCall_keeps (core : CoreIx) (guard : BitVec 4) (src : MoveSrc) {s0 s : State} (h : Keeps s0 s) :
    ResultKeeps s0 (execBrCall core guard src s) :=
  xmove_core_keeps _ _ _ _ _ h fun _ _ _ _ r e g => by
    cases guarded_ok e
    exact (g.branchTo _).pushR (r.2 (Or.inl rfl)) _

theorem execBrReturn_keeps (core : CoreIx) (guard : BitVec 4) (src : MoveSrc) {s0 s : State} (h : Keeps s0 s) :
    ResultKeeps s0 (execBrReturn core guard src s) :=
  xmove_core_keeps _ _ _ _ _ h fun _ _ _ _ _ e g => by
    cases guarded_ok e
    exact (g.branchTo _).popR

theorem execDstkPush_keeps (core : CoreIx) (guard : BitVec 4) (src : MoveSrc) {s0 s : State} (h : Keeps s0 s) :
    ResultKeeps s0 (execDstkPush core guard src s) :=
  xmove_core_keeps _ _ _ _ _ h fun _ _ _ _ r e g => by
    cases e
    exact g.pushD (r.1 rfl) _

theorem execRstkPush_keeps (core : CoreIx) (guard : BitVec 4) (src : MoveSrc) {s0 s : State} (h : Keeps s0 s) :
    ResultKeeps s0 (execRstkPush core guard src s) :=
  xmove_core_keeps _ _ _ _ _ h fun _ _ _ _ r e g => by
    cases guarded_ok e
    exact g.pushR (r.2 (Or.inr rfl)) _

theorem execTagGettag_keeps (core : CoreIx) (guard : BitVec 4) (src : MoveSrc) {s0 s : State} (h : Keeps s0 s) :
    ResultKeeps s0 (execTagGettag core guard src s) :=
  xmove_core_keeps _ _ _ _ _ h fun _ _ _ _ _ e g => by
    cases e
    exact g.same rfl rfl rfl rfl rfl rfl rfl (Or.inl rfl) (Or.inl rfl)

theorem execTagToint_keeps (core : CoreIx) (guard : BitVec 4) (src : MoveSrc) {s0 s : State} (h : Keeps s0 s) :
    ResultKeeps s0 (execTagToint core guard src s) :=
  xmove_core_keeps _ _ _ _ _ h fun _ _ _ _ _ e g => by
    cases e
    exact g.same rfl rfl rfl rfl rfl rfl rfl (Or.inl rfl) (Or.inl rfl)

theorem execTagTobits_keeps (core : CoreIx) (guard : BitVec 4) (src : MoveSrc) {s0 s : State} (h : Keeps s0 s) :
    ResultKeeps s0 (execTagTobits core guard src s) :=
  xmove_core_keeps _ _ _ _ _ h fun _ _ _ _ _ e g => by
    cases e
    exact g.same rfl rfl rfl rfl rfl rfl rfl (Or.inl rfl) (Or.inl rfl)

theorem execTagWrapInt_keeps (core : CoreIx) (guard : BitVec 4) (src : MoveSrc) {s0 s : State} (h : Keeps s0 s) :
    ResultKeeps s0 (execTagWrapInt core guard src s) :=
  xmove_core_keeps _ _ _ _ _ h fun _ _ _ _ _ e g => by
    split at e <;> cases e <;> exact g.same rfl rfl rfl rfl rfl rfl rfl (Or.inl rfl) (Or.inl rfl)

theorem execTagToptr_keeps (core : CoreIx) (guard : BitVec 4) (src : MoveSrc) {s0 s : State} (h : Keeps s0 s) :
    ResultKeeps s0 (execTagToptr core guard src s) :=
  xmove_core_keeps _ _ _ _ _ h fun _ _ _ _ _ e g => by
    split at e <;> cases e <;> exact g.same rfl rfl rfl rfl rfl rfl rfl (Or.inl rfl) (Or.inl rfl)

theorem execTagTocode_keeps (core : CoreIx) (guard : BitVec 4) (src : MoveSrc) {s0 s : State} (h : Keeps s0 s) :
    ResultKeeps s0 (execTagTocode core guard src s) :=
  xmove_core_keeps _ _ _ _ _ h fun _ _ _ _ _ e g => by
    split at e <;> cases e <;> exact g.same rfl rfl rfl rfl rfl rfl rfl (Or.inl rfl) (Or.inl rfl)

theorem execTmrSampleSc_keeps (core : CoreIx) (guard : BitVec 4) (src : MoveSrc) {s0 s : State} (h : Keeps s0 s) :
    ResultKeeps s0 (execTmrSampleSc core guard src s) :=
  xmove_keeps _ _ _ _ _ h fun _ _ _ _ _ e => by
    cases e
    exact setCore_keeps _ _ Keeps.rfl fun g => g.same rfl rfl rfl rfl rfl rfl rfl (Or.inl rfl) (Or.inl rfl)

theorem execTmrSampleKc_keeps (core : CoreIx) (guard : BitVec 4) (src : MoveSrc) {s0 s : State} (h : Keeps s0 s) :
    ResultKeeps s0 (execTmrSampleKc core guard src s) :=
  xmove_core_keeps _ _ _ _ _ h fun _ _ _ _ _ e g => by
    cases e
    exact g.same rfl rfl rfl rfl rfl rfl rfl (Or.inl rfl) (Or.inl rfl)

theorem execTmrDelay_keeps (core : CoreIx) (guard : BitVec 4) (src : MoveSrc) {s0 s : State} (h : Keeps s0 s) :
    ResultKeeps s0 (execTmrDelay core guard src s) :=
  xmove_core_keeps _ _ _ _ _ h fun _ _ _ _ _ e g => by
    cases guarded_ok e
    exact g.same rfl rfl rfl rfl rfl rfl rfl (Or.inl rfl) (Or.inl rfl)

theorem execTmrDelayDone_keeps (core : CoreIx) {s0 s : State} (h : Keeps s0 s) :
    ResultKeeps s0 (execTmrDelayDone core s) := by
  unfold execTmrDelayDone
  try dsimp only
  repeat' first
    | (with_reducible first | assumption | apply setCore_keeps | apply Keeps.next | apply Keeps.bodyDone | apply Keeps.bodyRunning)
    | exact fun (g : MemSys.wf _) => g | exact fun (g : Flash.wf _) => g
    | exact fun (g : XShared.wf _) => g | exact fun (g : coresWf _) => g
    | (intro g; exact g.flashDone _)
    | (intro g; exact g.same rfl rfl rfl rfl rfl rfl rfl (Or.inl rfl) (Or.inl rfl))
    | (intro g; exact g.same rfl rfl rfl rfl rfl rfl rfl (Or.inr rfl) (Or.inl rfl))
    | (intro g; exact g.same rfl rfl rfl rfl rfl rfl rfl (Or.inr rfl) (Or.inr (by simp)))
    | intro _ | split | (with_reducible refine Keeps.upd ?_ ?_ ?_ ?_ ?_)

theorem csrDeliver_keeps (k : CoreIx) (tg : Bool) (v : W32) {s0 s : State} (h : Keeps s0 s) :
    Keeps s0 (csrDeliver k tg v s) := by
  have e (x : W32) {t : State} (g : Keeps s0 t) : Keeps s0 (setCore k (fun c => { c with res := { c.res with csr := x } }) t) :=
    setCore_keeps k _ g fun w => w.same rfl rfl rfl rfl rfl rfl rfl (Or.inl rfl) (Or.inl rfl)
  unfold csrDeliver
  dsimp only
  split
  · exact e _ (draw_keeps h)
  · exact e _ h

theorem execCsrRead_keeps (core : CoreIx) (guard : BitVec 4) (src : MoveSrc) {s0 s : State} (h : Keeps s0 s) :
    ResultKeeps s0 (execCsrRead core guard src s) :=
  xmove_keeps _ _ _ _ _ h fun _ _ _ _ _ e => by
    cases e
    exact csrDeliver_keeps _ _ _ Keeps.rfl

theorem execCsrWrite_keeps (core : CoreIx) (guard : BitVec 4) (src : MoveSrc) {s0 s : State} (h : Keeps s0 s) :
    ResultKeeps s0 (execCsrWrite core guard src s) :=
  xmove_core_keeps _ _ _ _ _ h fun _ _ _ _ _ e g => by
    cases e
    exact g.csrWrite _ _

/-! ### XelinIo -/

theorem lsuOut_keeps (k : CoreIx) (v : W32) {s0 s : State} (h : Keeps s0 s) : Keeps s0 (lsuOut k v s) := by
  unfold lsuOut
  repeat' first | (with_reducible first | assumption | apply setCore_keeps | apply Keeps.plain) | (intro g; first | exact g.flashDone _ | exact g.same rfl rfl rfl rfl rfl rfl rfl (Or.inl rfl) (Or.inl rfl))

theorem execLsuLdw_keeps (core : CoreIx) (guard : BitVec 4) (src : MoveSrc) {s0 s : State} (h : Keeps s0 s) :
    ResultKeeps s0 (execLsuLdw core guard src s) :=
  xmove_keeps _ _ _ _ _ h fun _ _ _ _ _ e => by
    cases guarded_ok e
    exact lsuOut_keeps _ _ (localRead_keeps _ _ _ Keeps.rfl)

theorem execLsuStw_keeps (core : CoreIx) (guard : BitVec 4) (src : MoveSrc) {s0 s : State} (h : Keeps s0 s) :
    ResultKeeps s0 (execLsuStw core guard src s) :=
  xmove_keeps _ _ _ _ _ h fun _ _ _ _ _ e => by
    cases guarded_ok e
    exact lsuOut_keeps _ _ (localWrite_keeps _ _ _ Keeps.rfl)

theorem execLsuLdb_keeps (core : CoreIx) (guard : BitVec 4) (src : MoveSrc) {s0 s : State} (h : Keeps s0 s) :
    ResultKeeps s0 (execLsuLdb core guard src s) :=
  xmove_keeps _ _ _ _ _ h fun _ _ _ _ _ e => by
    cases guarded_ok e
    exact lsuOut_keeps _ _ (localRead_keeps _ _ _ Keeps.rfl)

theorem execLsuLdbu_keeps (core : CoreIx) (guard : BitVec 4) (src : MoveSrc) {s0 s : State} (h : Keeps s0 s) :
    ResultKeeps s0 (execLsuLdbu core guard src s) :=
  xmove_keeps _ _ _ _ _ h fun _ _ _ _ _ e => by
    cases guarded_ok e
    exact lsuOut_keeps _ _ (localRead_keeps _ _ _ Keeps.rfl)

theorem execLsuLdh_keeps (core : CoreIx) (guard : BitVec 4) (src : MoveSrc) {s0 s : State} (h : Keeps s0 s) :
    ResultKeeps s0 (execLsuLdh core guard src s) :=
  xmove_keeps _ _ _ _ _ h fun _ _ _ _ _ e => by
    cases guarded_ok e
    exact lsuOut_keeps _ _ (localRead_keeps _ _ _ Keeps.rfl)

theorem execLsuLdhu_keeps (core : CoreIx) (guard : BitVec 4) (src : MoveSrc) {s0 s : State} (h : Keeps s0 s) :
    ResultKeeps s0 (execLsuLdhu core guard src s) :=
  xmove_keeps _ _ _ _ _ h fun _ _ _ _ _ e => by
    cases guarded_ok e
    exact lsuOut_keeps _ _ (localRead_keeps _ _ _ Keeps.rfl)

theorem execLsuStb_keeps (core : CoreIx) (guard : BitVec 4) (src : MoveSrc) {s0 s : State} (h : Keeps s0 s) :
    ResultKeeps s0 (execLsuStb core guard src s) :=
  xmove_keeps _ _ _ _ _ h fun _ _ _ _ _ e => by
    cases guarded_ok e
    exact lsuOut_keeps _ _ (localWrite_keeps _ _ _ Keeps.rfl)

theorem execLsuSth_keeps (core : CoreIx) (guard : BitVec 4) (src : MoveSrc) {s0 s : State} (h : Keeps s0 s) :
    ResultKeeps s0 (execLsuSth core guard src s) :=
  xmove_keeps _ _ _ _ _ h fun _ _ _ _ _ e => by
    cases guarded_ok e
    exact lsuOut_keeps _ _ (localWrite_keeps _ _ _ Keeps.rfl)

theorem execLsuLea_keeps (core : CoreIx) (guard : BitVec 4) (src : MoveSrc) {s0 s : State} (h : Keeps s0 s) :
    ResultKeeps s0 (execLsuLea core guard src s) :=
  xmove_core_keeps _ _ _ _ _ h fun _ _ _ _ _ e g => by
    cases guarded_ok e
    exact g.same rfl rfl rfl rfl rfl rfl rfl (Or.inl rfl) (Or.inl rfl)

theorem mbxOut_keeps (k : CoreIx) (v : W32) {s0 s : State} (h : Keeps s0 s) : Keeps s0 (mbxOut k v s) := by
  unfold mbxOut
  repeat' first | (with_reducible first | assumption | apply setCore_keeps | apply Keeps.plain) | (intro g; first | exact g.flashDone _ | exact g.same rfl rfl rfl rfl rfl rfl rfl (Or.inl rfl) (Or.inl rfl))

theorem handOver_keeps (k : CoreIx) (n : RingIx) (f : Fetched) {s0 s : State} (h : Keeps s0 s) :
    Keeps s0 (handOver k n f s) := by
  unfold handOver
  repeat' first | (with_reducible first | assumption | apply setCore_keeps | apply Keeps.plain) | (intro g; first | exact g.flashDone _ | exact g.same rfl rfl rfl rfl rfl rfl rfl (Or.inl rfl) (Or.inl rfl))

theorem execMbxRecv_keeps (core : CoreIx) (guard : BitVec 4) (src : MoveSrc) {s0 s : State} (h : Keeps s0 s) :
    ResultKeeps s0 (execMbxRecv core guard src s) :=
  xmove_keeps _ _ _ _ _ h fun _ _ _ _ _ e => by
    cases guarded_ok e
    exact setCore_keeps _ _ Keeps.rfl fun g => g.same rfl rfl rfl rfl rfl rfl rfl (Or.inl rfl) (Or.inl rfl)

theorem execMbxRecvDelivery_keeps (core : CoreIx) {s0 s : State} (h : Keeps s0 s) :
    ResultKeeps s0 (execMbxRecvDelivery core s) := by
  unfold execMbxRecvDelivery
  repeat' first | (with_reducible first 
    | assumption | apply setCore_keeps | apply handOver_keeps | apply dispatch_keeps | apply Keeps.next
    | apply Keeps.plain) | (intro g; first | exact g.flashDone _ | exact g.same rfl rfl rfl rfl rfl rfl rfl (Or.inl rfl) (Or.inl rfl)) | split

theorem execMbxArg16_keeps (core : CoreIx) (guard : BitVec 4) (src : MoveSrc) {s0 s : State} (h : Keeps s0 s) :
    ResultKeeps s0 (execMbxArg16 core guard src s) :=
  xmove_keeps _ _ _ _ _ h fun _ _ _ _ _ e => by
    cases guarded_ok e
    exact mbxOut_keeps _ _ Keeps.rfl

theorem execMbxComplete_keeps (core : CoreIx) (guard : BitVec 4) (src : MoveSrc) {s0 s : State} (h : Keeps s0 s) :
    ResultKeeps s0 (execMbxComplete core guard src s) :=
  xmove_keeps _ _ _ _ _ h fun _ _ _ _ _ e => by
    dsimp only at e
    split at e
    · cases guarded_ok e
      exact Keeps.rfl
    · cases guarded_ok e
      exact complete_keeps _ _ _ (mbxOut_keeps _ _ (setCore_keeps _ _ Keeps.rfl fun g => g.same rfl rfl rfl rfl rfl rfl rfl (Or.inl rfl) (Or.inl rfl)))

theorem submit_keeps (k : CoreIx) (h1 : CmdHandle) (d : Descriptor) {s0 s : State} (h : Keeps s0 s) :
    Keeps s0 (submit k h1 d s) := by
  unfold submit
  try dsimp only
  repeat' first
    | (with_reducible first | assumption | apply setCore_keeps | apply admitOne_keeps)
    | exact fun (g : MemSys.wf _) => g | exact fun (g : Flash.wf _) => g
    | exact fun (g : XShared.wf _) => g | exact fun (g : coresWf _) => g
    | (intro g; exact g.flashDone _)
    | (intro g; exact g.same rfl rfl rfl rfl rfl rfl rfl (Or.inl rfl) (Or.inl rfl))
    | (intro g; exact g.same rfl rfl rfl rfl rfl rfl rfl (Or.inr rfl) (Or.inl rfl))
    | (intro g; exact g.same rfl rfl rfl rfl rfl rfl rfl (Or.inr rfl) (Or.inr (by simp)))
    | intro _ | split | (with_reducible refine Keeps.upd ?_ ?_ ?_ ?_ ?_)

theorem execMbxSubmit_keeps (core : CoreIx) (guard : BitVec 4) (src : MoveSrc) {s0 s : State} (h : Keeps s0 s) :
    ResultKeeps s0 (execMbxSubmit core guard src s) :=
  xmove_keeps _ _ _ _ _ h fun _ _ _ _ _ e => by
    dsimp only at e
    split at e
    · cases guarded_ok e
      exact Keeps.rfl
    · cases guarded_ok e
      exact submit_keeps _ _ _ Keeps.rfl

theorem execMbxWait_keeps (core : CoreIx) (guard : BitVec 4) (src : MoveSrc) {s0 s : State} (h : Keeps s0 s) :
    ResultKeeps s0 (execMbxWait core guard src s) :=
  xmove_keeps _ _ _ _ _ h fun _ _ _ _ _ e => by
    cases guarded_ok e
    exact setCore_keeps _ _ Keeps.rfl fun g => g.same rfl rfl rfl rfl rfl rfl rfl (Or.inl rfl) (Or.inl rfl)

theorem execMbxWaitDone_keeps (core : CoreIx) {s0 s : State} (h : Keeps s0 s) :
    ResultKeeps s0 (execMbxWaitDone core s) := by
  unfold execMbxWaitDone
  repeat' first | (with_reducible first | assumption | apply mbxOut_keeps | apply setCore_keeps | apply Keeps.next | apply Keeps.plain) | (intro g; first | exact g.flashDone _ | exact g.same rfl rfl rfl rfl rfl rfl rfl (Or.inl rfl) (Or.inl rfl)) | split

theorem execMbxEvent_keeps (core : CoreIx) (guard : BitVec 4) (src : MoveSrc) {s0 s : State} (h : Keeps s0 s) :
    ResultKeeps s0 (execMbxEvent core guard src s) :=
  xmove_keeps _ _ _ _ _ h fun _ _ _ _ _ e => by
    cases guarded_ok e
    exact mbxOut_keeps _ _ (event_keeps _ _ _ Keeps.rfl)

theorem execMbxFetch_keeps (core : CoreIx) (guard : BitVec 4) (src : MoveSrc) {s0 s : State} (h : Keeps s0 s) :
    ResultKeeps s0 (execMbxFetch core guard src s) :=
  xmove_keeps _ _ _ _ _ h fun _ _ _ _ _ e => by
    cases guarded_ok e
    split
    · exact handOver_keeps _ _ _ (dispatch_keeps _ _ Keeps.rfl)
    · exact mbxOut_keeps _ _ Keeps.rfl

theorem execXfrRead_keeps (core : CoreIx) (guard : BitVec 4) (src : MoveSrc) {s0 s : State} (h : Keeps s0 s) :
    ResultKeeps s0 (execXfrRead core guard src s) :=
  xmove_keeps _ _ _ _ _ h fun _ _ _ _ _ e => by
    cases guarded_ok e
    exact setCore_keeps _ _ Keeps.rfl fun g => by
      split <;> exact g.same rfl rfl rfl rfl rfl rfl rfl (Or.inl rfl) (Or.inl rfl)

theorem execXfrWrite_keeps (core : CoreIx) (guard : BitVec 4) (src : MoveSrc) {s0 s : State} (h : Keeps s0 s) :
    ResultKeeps s0 (execXfrWrite core guard src s) :=
  xmove_keeps _ _ _ _ _ h fun _ _ _ _ _ e => by
    cases guarded_ok e
    exact setCore_keeps _ _ Keeps.rfl fun g => by
      split <;> exact g.same rfl rfl rfl rfl rfl rfl rfl (Or.inl rfl) (Or.inl rfl)

theorem xfrEnd_keeps (k : CoreIx) (discard : Bool) (code : W16) {s0 s : State} (h : Keeps s0 s) :
    Keeps s0 (xfrEnd k discard code s) := by
  unfold xfrEnd
  repeat' first | (with_reducible first | assumption | apply setCore_keeps | apply Keeps.plain) | (intro g; first | exact g.flashDone _ | exact g.same rfl rfl rfl rfl rfl rfl rfl (Or.inl rfl) (Or.inl rfl)) | split

theorem execXfrDone_keeps (core : CoreIx) (failed : Bool) {s0 s : State} (h : Keeps s0 s) :
    ResultKeeps s0 (execXfrDone core failed s) := by
  unfold execXfrDone
  with_reducible repeat' first 
    | assumption | apply xfrEnd_keeps | apply localRead_keeps | apply daddrWrite_keeps | apply localWrite_keeps
    | apply Keeps.next | split

theorem flsStatus_keeps (k : CoreIx) (code : W16) {s0 s : State} (h : Keeps s0 s) : Keeps s0 (flsStatus k code s) := by
  unfold flsStatus
  repeat' first | (with_reducible first | assumption | apply setCore_keeps | apply Keeps.plain) | (intro g; first | exact g.flashDone _ | exact g.same rfl rfl rfl rfl rfl rfl rfl (Or.inl rfl) (Or.inl rfl))

theorem flsRun_keeps (k : CoreIx) (st : FlashStep) {s0 s : State} (h : Keeps s0 s) : Keeps s0 (flsRun k st s) := by
  unfold flsRun
  repeat' first | (with_reducible first | assumption | apply enqueue_keeps | apply setCore_keeps | apply Keeps.plain) | (intro g; first | exact g.flashDone _ | exact g.same rfl rfl rfl rfl rfl rfl rfl (Or.inl rfl) (Or.inl rfl))

theorem execFlsRead_keeps (core : CoreIx) (guard : BitVec 4) (src : MoveSrc) {s0 s : State} (h : Keeps s0 s) :
    ResultKeeps s0 (execFlsRead core guard src s) :=
  xmove_keeps _ _ _ _ _ h fun _ _ _ _ _ e => by
    cases guarded_ok e
    repeat' first
      | (with_reducible first
          | exact flsStatus_keeps _ _ Keeps.rfl
          | exact flsStatus_keeps _ _ (localWrite_keeps _ _ _ Keeps.rfl)
          | exact flsRun_keeps _ _ Keeps.rfl)
      | dsimp only
      | split

theorem execFlsProgram_keeps (core : CoreIx) (guard : BitVec 4) (src : MoveSrc) {s0 s : State} (h : Keeps s0 s) :
    ResultKeeps s0 (execFlsProgram core guard src s) :=
  xmove_keeps _ _ _ _ _ h fun _ _ _ _ _ e => by
    cases guarded_ok e
    repeat' first
      | (with_reducible first
          | exact flsStatus_keeps _ _ Keeps.rfl
          | exact flsStatus_keeps _ _ (localWrite_keeps _ _ _ Keeps.rfl)
          | exact flsRun_keeps _ _ Keeps.rfl)
      | dsimp only
      | split

theorem execFlsErase_keeps (core : CoreIx) (guard : BitVec 4) (src : MoveSrc) {s0 s : State} (h : Keeps s0 s) :
    ResultKeeps s0 (execFlsErase core guard src s) :=
  xmove_keeps _ _ _ _ _ h fun _ _ _ _ _ e => by
    simp only [flsEraseOp] at e
    repeat' first
      | (cases e; with_reducible first
          | exact flsStatus_keeps _ _ Keeps.rfl
          | exact flsRun_keeps _ _ Keeps.rfl)
      | split at e

theorem execFlsMargin_keeps (core : CoreIx) (guard : BitVec 4) (src : MoveSrc) {s0 s : State} (h : Keeps s0 s) :
    ResultKeeps s0 (execFlsMargin core guard src s) :=
  xmove_keeps _ _ _ _ _ h fun _ _ _ _ _ e => by
    simp only [flsMarginOp] at e
    repeat' first
      | (cases e; with_reducible first
          | exact flsStatus_keeps _ _ Keeps.rfl
          | exact flsRun_keeps _ _ Keeps.rfl)
      | split at e

theorem execFlsPoll_keeps (core : CoreIx) (guard : BitVec 4) (src : MoveSrc) {s0 s : State} (h : Keeps s0 s) :
    ResultKeeps s0 (execFlsPoll core guard src s) :=
  xmove_core_keeps _ _ _ _ _ h fun _ _ _ _ _ e g => by
    split at e <;> cases e <;> exact g.same rfl rfl rfl rfl rfl rfl rfl (Or.inl rfl) (Or.inl rfl)

/-! ### Tick -/

theorem rollRates_keeps {s0 s : State} (h : Keeps s0 s) : Keeps s0 (rollRates s) := Keeps.plain h

theorem slewOn_keeps {s0 s : State} (h : Keeps s0 s) : Keeps s0 (slewOn s) := Keeps.plain h

theorem tickTod_keeps {s0 s : State} (h : Keeps s0 s) : Keeps s0 (tickTod s) := by
  unfold tickTod
  with_reducible repeat' first | assumption | apply rollRates_keeps | apply slewOn_keeps | split | apply Keeps.plain

theorem tickKclk_keeps {s0 s : State} (h : Keeps s0 s) : Keeps s0 (tickKclk s) := by
  unfold tickKclk
  split
  · refine Keeps.upd h id id (fun g j => ?_) id
    simp only [Fin.getElem_fin, Vector.getElem_map]
    exact (g j).same rfl rfl rfl rfl rfl rfl rfl (Or.inl rfl) (Or.inl rfl)
  · exact h

theorem tickHeaters_keeps {s0 s : State} (h : Keeps s0 s) :
    Keeps s0 (tickHeaters s) := by
  unfold tickHeaters
  with_reducible repeat' first | assumption | split | apply Keeps.plain

theorem tickBuckets_keeps {s0 s : State} (h : Keeps s0 s) : Keeps s0 (tickBuckets s) := Keeps.plain h

theorem tickWoad_keeps {s0 s : State} (h : Keeps s0 s) : Keeps s0 (tickWoad s) := by
  unfold tickWoad
  with_reducible repeat' first | assumption | apply woadSample_keeps | split

theorem tick_keeps {s0 s : State} (h : Keeps s0 s) :
    Keeps s0 (tick s) := by
  unfold tick
  dsimp only
  repeat' first | (with_reducible first
      | assumption | apply tickTod_keeps | apply tickKclk_keeps | apply tickHeaters_keeps | apply tickBuckets_keeps
      | apply tickWoad_keeps) | split | (with_reducible apply Keeps.plain)

/-! ### Sclk -/

/-- A command that arrives changes the queue alone. -/
theorem arrive_good (c : Instr) {s : State} (h : s.good) : (arrive c s).good := ⟨h.mem, h.flash, h.cores, h.xshared⟩

end Sys2Proof.Machine
end

