-- ==== Sys2Proof/Machine/Optics.lean ====
section
/-! DEFINITION. Light in a tile (R37 to R47, R54, R57, R58, R67, R138), as relations between complex fields: no command reads or
writes a field, and the raw samples of a pass are an operand of SAMPLE_FOLD, so that these relations say what a phase image means
and are what a statement about samples has for its hypothesis. -/
namespace Sys2Proof.Machine

/-- The fields on the 128 ports. -/
abbrev Fields : Type := Fin 128 → ℂ

/-! ### Phases (R47, R48) -/

/-- `ph` is the phase that code `c` adds to its arm above the calibrated zero, in radians. -/
def codePhase (c : BitVec 10) (ph : ℝ) : Prop := ph = 2 * Real.pi * c.toNat / 1024

/-- `ph` is the phase that a selection drives under a segment map. -/
def drivenPhase (m : SegMap) (sel : BitVec 13) (ph : ℝ) : Prop := ph = 2 * Real.pi * selectionPhase m sel / 4096

/-! ### Elements (R44, R45) -/

/-- An interferometer of a unitary section with phases θ and φ takes the fields of its lower and its upper port to `out`. -/
def interferes (θ φ : ℝ) (inp out : ℂ × ℂ) : Prop :=
  let f := Complex.I * Complex.exp (Complex.I * θ / 2)
  let e := Complex.exp (Complex.I * φ)
  out.1 = f * (e * Complex.sin (θ / 2) * inp.1 + Complex.cos (θ / 2) * inp.2) ∧
  out.2 = f * (e * Complex.cos (θ / 2) * inp.1 - Complex.sin (θ / 2) * inp.2)

/-- The D element of a port with phases θ and φ. -/
def attenuates (θ φ : ℝ) (inp out : ℂ) : Prop := out = Complex.sin (θ / 2) * Complex.exp (Complex.I * φ) * inp

/-! ### Layers, columns and sections (R41, R46) -/

/-- Phases of the places of a column: 128 of its even layer, 126 of its odd one (Table 2-2). -/
abbrev ColumnPhases : Type := Nat → ℝ

/-- A layer takes fields to fields: every interferometer its two ports; ports 0 and 127 pass straight through the odd one. -/
def layerMaps (odd : Bool) (ph : ColumnPhases) (inp out : Fields) : Prop :=
  (∀ (p : Nat) (lo hi : Fin 128), p < layerSize odd → lo.val = lowerPort odd p → hi.val = lowerPort odd p + 1 →
    interferes (ph (shifterPlace odd false p)) (ph (shifterPlace odd true p)) (inp lo, inp hi) (out lo, out hi)) ∧
  (odd = true → out 0 = inp 0 ∧ out 127 = inp 127)

/-- A column: its even layer, then its odd layer. -/
def columnMaps (ph : ColumnPhases) (inp out : Fields) : Prop :=
  ∃ mid, layerMaps false ph inp mid ∧ layerMaps true ph mid out

/-- A section: its physical columns in order from input to output. -/
def sectionMaps (ph : Fin 66 → ColumnPhases) (inp out : Fields) : Prop :=
  ∃ f : Fin 67 → Fields, f 0 = inp ∧ f (Fin.last 66) = out ∧ ∀ c : Fin 66, columnMaps (ph c) (f c.castSucc) (f c.succ)

/-- The mesh, y = U·D·V·x, with a phase for every physical shifter (R154). -/
def meshMaps (ph : Nat → ℝ) (x y : Fields) : Prop :=
  ∃ v d : Fields, sectionMaps (fun c o => ph (254 * c.val + o)) x v ∧
    (∀ m : Fin 128, attenuates (ph (16764 + 2 * m.val)) (ph (16764 + 2 * m.val + 1)) (v m) (d m)) ∧
    sectionMaps (fun c o => ph (17020 + 254 * c.val + o)) d y

/-! ### What an image means (R46, R54, R55) -/

/-- The phases that a phase image asks of the physical shifters; columns that the mapping does not use are held at identity. -/
def imagePhases (retiredV retiredU : List (Fin 66)) (im : Image) (ph : Nat → ℝ) : Prop :=
  ∀ i, i < shifterCount → codePhase (physicalCode retiredV retiredU im i) (ph i)

/-- The phases that a tile's active latches drive (R48, R60). -/
def latchedPhases (t : TileIx) (x : Tile) (ph : Nat → ℝ) : Prop :=
  ∀ i, i < shifterCount → drivenPhase (umberMap t x i) (x.mesh.active.sel.getD i 0) (ph i)

/-- An image with its scale is a matrix: whatever phases its codes are, s times the mesh's output is M·x (R54). -/
def imageIs (im : Image) (s : ℝ) (M : Matrix (Fin 128) (Fin 128) ℂ) : Prop :=
  ∀ (ph : Nat → ℝ) (x y : Fields), imagePhases [] [] im ph → meshMaps ph x y → ∀ k, (s : ℂ) * y k = M.mulVec x k

/-! ### Input and output (R38, R57, R58) -/

/-- The field of modulator m is proportional to I_m + i·Q_m: the fields that a lane word presents. -/
def presents (codes : List (Int × Int)) (x : Fields) : Prop :=
  ∀ m : Fin 128, x m = (codes.getD m.val (0, 0)).1 + Complex.I * (codes.getD m.val (0, 0)).2

/-- The input vector that codes and a block exponent stand for (R57, R79). -/
def inputVector (codes : List (Int × Int)) (e : Int) (x : Fields) : Prop :=
  ∀ m : Fin 128, x m = ((codes.getD m.val (0, 0)).1 + Complex.I * (codes.getD m.val (0, 0)).2) * (2 : ℂ) ^ e

/-- Paired-real mode: W is real, xa stands in the I codes and xb in the Q codes; the I outputs carry W·xa, the Q outputs W·xb. -/
def pairedOutputs (W : Matrix (Fin 128) (Fin 128) ℝ) (xa xb : Fin 128 → ℝ) (y : Fields) : Prop :=
  ∀ k, (y k).re = W.mulVec xa k ∧ (y k).im = W.mulVec xb k

/-! ### Power and covariance (R67, R138) -/

/-- The power of some fields. -/
def hasPower (x : Fields) (p : ℝ) : Prop := p = ∑ k, Complex.normSq (x k)

/-- The output covariance that firmware predicts from the input's: M·R_x·M^H. -/
def predictsCovariance (M rx ry : Matrix (Fin 128) (Fin 128) ℂ) : Prop := ry = M * rx * M.conjTranspose

/-- The entries of it that are compared: the 128 diagonal and the 127 first off-diagonal ones. -/
def covarianceEntry (i j : Fin 128) : Bool := decide (i = j) || decide (j.val = i.val + 1)

end Sys2Proof.Machine
end

