-- ==== Sys2Proof/Laws/Optics.lean ====
section
/-! SUPPORT. What the optics and the translator give: the identity interferometer (R44), the closed D element (R55), conservation
of power (R67), paired-real outputs (R58), and the residual of a sound shifter (R50, R51). -/
namespace Sys2Proof.Laws
open Sys2Proof.Machine

/-- Code 512 is the phase π. -/
theorem identityCode_phase {ph : ℝ} (h : codePhase identityCode ph) : ph = Real.pi := by
  have e : (identityCode.toNat : ℝ) = 512 := by norm_num [show identityCode.toNat = 512 from rfl]
  rw [codePhase, e] at h
  rw [h]
  ring

/-- At θ = π and φ = π an interferometer is the identity (R44). -/
theorem interferes_identity {inp out : ℂ × ℂ} (h : interferes Real.pi Real.pi inp out) : out = inp := by
  obtain ⟨h1, h2⟩ := h
  have e : Complex.exp (Complex.I * (Real.pi : ℂ) / 2) = Complex.I := by
    have : Complex.I * (Real.pi : ℂ) / 2 = (Real.pi : ℂ) / 2 * Complex.I := by ring
    rw [this, Complex.exp_pi_div_two_mul_I]
  have e' : Complex.exp (Complex.I * (Real.pi : ℂ)) = -1 := by
    rw [mul_comm, Complex.exp_pi_mul_I]
  rw [e, e', Complex.sin_pi_div_two, Complex.cos_pi_div_two] at h1
  rw [e, e', Complex.sin_pi_div_two, Complex.cos_pi_div_two] at h2
  refine Prod.ext ?_ ?_
  · rw [h1, Complex.I_mul_I]; ring
  · rw [h2, Complex.I_mul_I]; ring

/-- At θ = 0 an interferometer crosses its ports with a factor of i (R44). -/
theorem interferes_cross {inp out : ℂ × ℂ} (h : interferes 0 0 inp out) :
    out = (Complex.I * inp.2, Complex.I * inp.1) := by
  obtain ⟨h1, h2⟩ := h
  refine Prod.ext ?_ ?_
  · simpa using h1
  · simpa using h2

/-- A number of modulus one. -/
theorem normSq_exp_I (x : ℝ) : Complex.normSq (Complex.exp (Complex.I * x)) = 1 := by
  rw [mul_comm, Complex.normSq_eq_norm_sq, Complex.norm_exp_ofReal_mul_I, one_pow]

/-- The two outputs of a rotation by real s and c carry the power of its inputs. -/
theorem normSq_rotate (s c : ℝ) (u b : ℂ) (h : s ^ 2 + c ^ 2 = 1) :
    Complex.normSq (s * u + c * b) + Complex.normSq (c * u - s * b) = Complex.normSq u + Complex.normSq b := by
  simp only [Complex.normSq_apply, Complex.add_re, Complex.add_im, Complex.sub_re, Complex.sub_im, Complex.re_ofReal_mul,
    Complex.im_ofReal_mul]
  linear_combination (u.re ^ 2 + u.im ^ 2 + b.re ^ 2 + b.im ^ 2) * h

/-- An interferometer conserves power (R67). -/
theorem interferes_power {θ φ : ℝ} {inp out : ℂ × ℂ} (h : interferes θ φ inp out) :
    Complex.normSq out.1 + Complex.normSq out.2 = Complex.normSq inp.1 + Complex.normSq inp.2 := by
  obtain ⟨h1, h2⟩ := h
  have hs : Complex.sin ((θ : ℂ) / 2) = (Real.sin (θ / 2) : ℂ) := by push_cast; rfl
  have hc : Complex.cos ((θ : ℂ) / 2) = (Real.cos (θ / 2) : ℂ) := by push_cast; rfl
  have hf : Complex.normSq (Complex.I * Complex.exp (Complex.I * θ / 2)) = 1 := by
    have e : Complex.I * (θ : ℂ) / 2 = Complex.I * ((θ / 2 : ℝ) : ℂ) := by push_cast; ring
    rw [Complex.normSq_mul, e, normSq_exp_I, Complex.normSq_I, one_mul]
  have hr := normSq_rotate (Real.sin (θ / 2)) (Real.cos (θ / 2)) (Complex.exp (Complex.I * φ) * inp.1) inp.2
    (Real.sin_sq_add_cos_sq _)
  rw [Complex.normSq_mul (Complex.exp _), normSq_exp_I, one_mul] at hr
  rw [h1, h2, Complex.normSq_mul (Complex.I * _), Complex.normSq_mul (Complex.I * _), hf, one_mul, one_mul, hs, hc, ← hr]
  congr 2 <;> ring

/-- The D element of codes 0 lets nothing through (R55). -/
theorem attenuates_zero {φ : ℝ} {a b : ℂ} (h : attenuates 0 φ a b) : b = 0 := by
  simpa [attenuates] using h

/-- A real matrix takes the I codes to the I outputs and the Q codes to the Q outputs (R58). -/
theorem paired_real (W : Matrix (Fin 128) (Fin 128) ℝ) (xa xb : Fin 128 → ℝ) :
    pairedOutputs W xa xb ((W.map (fun w => (w : ℂ))).mulVec (fun m => (xa m : ℂ) + Complex.I * xb m)) := by
  intro k
  constructor <;> simp [Matrix.mulVec, dotProduct]

/-- The greedy rule leaves at most two quarter-steps when the weights cover each other (R50, R51). -/
theorem selectGo_residual (es : List (Nat × Nat)) (r : Int) (sel : BitVec 13) (hc : weightsCovered es = true)
    (hlo : -2 ≤ r) (hhi : r ≤ weightSum es + 2) : -2 ≤ (selectGo es r sel).2 ∧ (selectGo es r sel).2 ≤ 2 := by
  induction es generalizing r sel with
  | nil => simp only [selectGo]; simp [weightSum] at hhi; omega
  | cons e es ih =>
    simp only [weightsCovered, Bool.and_eq_true, decide_eq_true_eq] at hc
    have hs : weightSum (e :: es) = e.2 + weightSum es := by simp [weightSum]
    simp only [selectGo]
    split
    · exact ih _ _ hc.2 (by omega) (by omega)
    · exact ih _ _ hc.2 hlo (by omega)

/-- A sound shifter meets every code within half a step (R51). -/
theorem translate_residual (m : SegMap) (code : BitVec 10) (h : soundMap m = true) :
    -2 ≤ (translate m code).2 ∧ (translate m code).2 ≤ 2 := by
  simp only [soundMap, Bool.and_eq_true, decide_eq_true_eq] at h
  have ht : targetOf m.offset code < 4096 := by unfold targetOf; omega
  exact selectGo_residual _ _ _ h.2 (by omega) (by omega)

end Sys2Proof.Laws
end

