-- ==== Sys2Proof/Laws/State.lean ====
section
/-! SUPPORT. What an update of one entry of a bank leaves: every other field of the state, every other entry of the bank. -/
namespace Sys2Proof.Machine

/-- Entry `i` of an updated bank, and the others. -/
@[simp] theorem upd_self {α : Type} {n : Nat} (v : Vector α n) (i : Fin n) (f : α → α) : (upd v i f)[i] = f v[i] := by
  simp [upd]

theorem upd_other {α : Type} {n : Nat} (v : Vector α n) (i j : Fin n) (f : α → α) (h : j ≠ i) : (upd v i f)[j] = v[j] := by
  have : i.val ≠ j.val := fun e => h (Fin.ext e.symm)
  simp [upd, this]

theorem upd_upd {α : Type} {n : Nat} (v : Vector α n) (i : Fin n) (f g : α → α) : upd (upd v i f) i g = upd v i (fun x => g (f x)) := by
  ext j hj
  simp only [upd, Vector.getElem_set]
  split <;> simp

/-- Two functions that agree on the entry update a bank alike. -/
theorem upd_congr {α : Type} {n : Nat} {v : Vector α n} {i : Fin n} {f g : α → α} (h : f v[i] = g v[i]) : upd v i f = upd v i g := by
  have h' : f v[i.val] = g v[i.val] := h
  simp only [upd, h']

@[simp] theorem put_self {α : Type} {n : Nat} (v : Vector α n) (i : Fin n) (x : α) : (put v i x)[i] = x := by simp [put]

theorem put_other {α : Type} {n : Nat} (v : Vector α n) (i j : Fin n) (x : α) (h : j ≠ i) : (put v i x)[j] = v[j] := by
  have : i.val ≠ j.val := fun e => h (Fin.ext e.symm)
  simp [put, this]

/-! ### setRing -/

@[simp] theorem setRing_time (n : RingIx) (f : Ring → Ring) (s : State) : (setRing n f s).time = s.time := rfl
@[simp] theorem setRing_host (n : RingIx) (f : Ring → Ring) (s : State) : (setRing n f s).host = s.host := rfl
@[simp] theorem setRing_mem (n : RingIx) (f : Ring → Ring) (s : State) : (setRing n f s).mem = s.mem := rfl
@[simp] theorem setRing_out (n : RingIx) (f : Ring → Ring) (s : State) : (setRing n f s).out = s.out := rfl
@[simp] theorem setRing_kermes (n : RingIx) (f : Ring → Ring) (s : State) : (setRing n f s).kermes = s.kermes := rfl
@[simp] theorem setRing_tiles (n : RingIx) (f : Ring → Ring) (s : State) : (setRing n f s).tiles = s.tiles := rfl
@[simp] theorem setRing_sets (n : RingIx) (f : Ring → Ring) (s : State) : (setRing n f s).sets = s.sets := rfl
@[simp] theorem setRing_jobs (n : RingIx) (f : Ring → Ring) (s : State) : (setRing n f s).jobs = s.jobs := rfl
@[simp] theorem setRing_sepia (n : RingIx) (f : Ring → Ring) (s : State) : (setRing n f s).sepia = s.sepia := rfl
@[simp] theorem setRing_radio (n : RingIx) (f : Ring → Ring) (s : State) : (setRing n f s).radio = s.radio := rfl
@[simp] theorem setRing_sched (n : RingIx) (f : Ring → Ring) (s : State) : (setRing n f s).sched = s.sched := rfl
@[simp] theorem setRing_power (n : RingIx) (f : Ring → Ring) (s : State) : (setRing n f s).power = s.power := rfl
@[simp] theorem setRing_tray (n : RingIx) (f : Ring → Ring) (s : State) : (setRing n f s).tray = s.tray := rfl
@[simp] theorem setRing_woad (n : RingIx) (f : Ring → Ring) (s : State) : (setRing n f s).woad = s.woad := rfl
@[simp] theorem setRing_flash (n : RingIx) (f : Ring → Ring) (s : State) : (setRing n f s).flash = s.flash := rfl
@[simp] theorem setRing_thermal (n : RingIx) (f : Ring → Ring) (s : State) : (setRing n f s).thermal = s.thermal := rfl
@[simp] theorem setRing_twin (n : RingIx) (f : Ring → Ring) (s : State) : (setRing n f s).twin = s.twin := rfl
@[simp] theorem setRing_cores (n : RingIx) (f : Ring → Ring) (s : State) : (setRing n f s).cores = s.cores := rfl
@[simp] theorem setRing_ext (n : RingIx) (f : Ring → Ring) (s : State) : (setRing n f s).ext = s.ext := rfl
@[simp] theorem setRing_xshared (n : RingIx) (f : Ring → Ring) (s : State) : (setRing n f s).xshared = s.xshared := rfl
@[simp] theorem setRing_nextId (n : RingIx) (f : Ring → Ring) (s : State) : (setRing n f s).nextId = s.nextId := rfl
@[simp] theorem setRing_free (n : RingIx) (f : Ring → Ring) (s : State) : (setRing n f s).free = s.free := rfl
@[simp] theorem setRing_pending (n : RingIx) (f : Ring → Ring) (s : State) : (setRing n f s).pending = s.pending := rfl

@[simp] theorem setRing_self (n : RingIx) (f : Ring → Ring) (s : State) : (setRing n f s).rings[n] = f s.rings[n] := upd_self _ _ _
theorem setRing_other (n j : RingIx) (f : Ring → Ring) (s : State) (h : j ≠ n) :
    (setRing n f s).rings[j] = s.rings[j] := upd_other _ _ _ _ h
theorem setRing_setRing (n : RingIx) (f g : Ring → Ring) (s : State) : setRing n g (setRing n f s) = setRing n (fun x => g (f x)) s := by
  simp [setRing, upd_upd]
theorem setRing_congr {n : RingIx} {f g : Ring → Ring} {s : State} (h : f s.rings[n] = g s.rings[n]) :
    setRing n f s = setRing n g s := by
  simp only [setRing, upd_congr h]

/-! ### setTile -/

@[simp] theorem setTile_time (t : TileIx) (f : Tile → Tile) (s : State) : (setTile t f s).time = s.time := rfl
@[simp] theorem setTile_rings (t : TileIx) (f : Tile → Tile) (s : State) : (setTile t f s).rings = s.rings := rfl
@[simp] theorem setTile_host (t : TileIx) (f : Tile → Tile) (s : State) : (setTile t f s).host = s.host := rfl
@[simp] theorem setTile_mem (t : TileIx) (f : Tile → Tile) (s : State) : (setTile t f s).mem = s.mem := rfl
@[simp] theorem setTile_out (t : TileIx) (f : Tile → Tile) (s : State) : (setTile t f s).out = s.out := rfl
@[simp] theorem setTile_kermes (t : TileIx) (f : Tile → Tile) (s : State) : (setTile t f s).kermes = s.kermes := rfl
@[simp] theorem setTile_sets (t : TileIx) (f : Tile → Tile) (s : State) : (setTile t f s).sets = s.sets := rfl
@[simp] theorem setTile_jobs (t : TileIx) (f : Tile → Tile) (s : State) : (setTile t f s).jobs = s.jobs := rfl
@[simp] theorem setTile_sepia (t : TileIx) (f : Tile → Tile) (s : State) : (setTile t f s).sepia = s.sepia := rfl
@[simp] theorem setTile_radio (t : TileIx) (f : Tile → Tile) (s : State) : (setTile t f s).radio = s.radio := rfl
@[simp] theorem setTile_sched (t : TileIx) (f : Tile → Tile) (s : State) : (setTile t f s).sched = s.sched := rfl
@[simp] theorem setTile_power (t : TileIx) (f : Tile → Tile) (s : State) : (setTile t f s).power = s.power := rfl
@[simp] theorem setTile_tray (t : TileIx) (f : Tile → Tile) (s : State) : (setTile t f s).tray = s.tray := rfl
@[simp] theorem setTile_woad (t : TileIx) (f : Tile → Tile) (s : State) : (setTile t f s).woad = s.woad := rfl
@[simp] theorem setTile_flash (t : TileIx) (f : Tile → Tile) (s : State) : (setTile t f s).flash = s.flash := rfl
@[simp] theorem setTile_thermal (t : TileIx) (f : Tile → Tile) (s : State) : (setTile t f s).thermal = s.thermal := rfl
@[simp] theorem setTile_twin (t : TileIx) (f : Tile → Tile) (s : State) : (setTile t f s).twin = s.twin := rfl
@[simp] theorem setTile_cores (t : TileIx) (f : Tile → Tile) (s : State) : (setTile t f s).cores = s.cores := rfl
@[simp] theorem setTile_ext (t : TileIx) (f : Tile → Tile) (s : State) : (setTile t f s).ext = s.ext := rfl
@[simp] theorem setTile_xshared (t : TileIx) (f : Tile → Tile) (s : State) : (setTile t f s).xshared = s.xshared := rfl
@[simp] theorem setTile_nextId (t : TileIx) (f : Tile → Tile) (s : State) : (setTile t f s).nextId = s.nextId := rfl
@[simp] theorem setTile_free (t : TileIx) (f : Tile → Tile) (s : State) : (setTile t f s).free = s.free := rfl
@[simp] theorem setTile_pending (t : TileIx) (f : Tile → Tile) (s : State) : (setTile t f s).pending = s.pending := rfl

@[simp] theorem setTile_self (t : TileIx) (f : Tile → Tile) (s : State) : (setTile t f s).tiles[t] = f s.tiles[t] := upd_self _ _ _
theorem setTile_other (t j : TileIx) (f : Tile → Tile) (s : State) (h : j ≠ t) :
    (setTile t f s).tiles[j] = s.tiles[j] := upd_other _ _ _ _ h
theorem setTile_setTile (t : TileIx) (f g : Tile → Tile) (s : State) : setTile t g (setTile t f s) = setTile t (fun x => g (f x)) s := by
  simp [setTile, upd_upd]
theorem setTile_congr {t : TileIx} {f g : Tile → Tile} {s : State} (h : f s.tiles[t] = g s.tiles[t]) :
    setTile t f s = setTile t g s := by
  simp only [setTile, upd_congr h]

/-! ### setCore -/

@[simp] theorem setCore_time (k : CoreIx) (f : Core → Core) (s : State) : (setCore k f s).time = s.time := rfl
@[simp] theorem setCore_rings (k : CoreIx) (f : Core → Core) (s : State) : (setCore k f s).rings = s.rings := rfl
@[simp] theorem setCore_host (k : CoreIx) (f : Core → Core) (s : State) : (setCore k f s).host = s.host := rfl
@[simp] theorem setCore_mem (k : CoreIx) (f : Core → Core) (s : State) : (setCore k f s).mem = s.mem := rfl
@[simp] theorem setCore_out (k : CoreIx) (f : Core → Core) (s : State) : (setCore k f s).out = s.out := rfl
@[simp] theorem setCore_kermes (k : CoreIx) (f : Core → Core) (s : State) : (setCore k f s).kermes = s.kermes := rfl
@[simp] theorem setCore_tiles (k : CoreIx) (f : Core → Core) (s : State) : (setCore k f s).tiles = s.tiles := rfl
@[simp] theorem setCore_sets (k : CoreIx) (f : Core → Core) (s : State) : (setCore k f s).sets = s.sets := rfl
@[simp] theorem setCore_jobs (k : CoreIx) (f : Core → Core) (s : State) : (setCore k f s).jobs = s.jobs := rfl
@[simp] theorem setCore_sepia (k : CoreIx) (f : Core → Core) (s : State) : (setCore k f s).sepia = s.sepia := rfl
@[simp] theorem setCore_radio (k : CoreIx) (f : Core → Core) (s : State) : (setCore k f s).radio = s.radio := rfl
@[simp] theorem setCore_sched (k : CoreIx) (f : Core → Core) (s : State) : (setCore k f s).sched = s.sched := rfl
@[simp] theorem setCore_power (k : CoreIx) (f : Core → Core) (s : State) : (setCore k f s).power = s.power := rfl
@[simp] theorem setCore_tray (k : CoreIx) (f : Core → Core) (s : State) : (setCore k f s).tray = s.tray := rfl
@[simp] theorem setCore_woad (k : CoreIx) (f : Core → Core) (s : State) : (setCore k f s).woad = s.woad := rfl
@[simp] theorem setCore_flash (k : CoreIx) (f : Core → Core) (s : State) : (setCore k f s).flash = s.flash := rfl
@[simp] theorem setCore_thermal (k : CoreIx) (f : Core → Core) (s : State) : (setCore k f s).thermal = s.thermal := rfl
@[simp] theorem setCore_twin (k : CoreIx) (f : Core → Core) (s : State) : (setCore k f s).twin = s.twin := rfl
@[simp] theorem setCore_ext (k : CoreIx) (f : Core → Core) (s : State) : (setCore k f s).ext = s.ext := rfl
@[simp] theorem setCore_xshared (k : CoreIx) (f : Core → Core) (s : State) : (setCore k f s).xshared = s.xshared := rfl
@[simp] theorem setCore_nextId (k : CoreIx) (f : Core → Core) (s : State) : (setCore k f s).nextId = s.nextId := rfl
@[simp] theorem setCore_free (k : CoreIx) (f : Core → Core) (s : State) : (setCore k f s).free = s.free := rfl
@[simp] theorem setCore_pending (k : CoreIx) (f : Core → Core) (s : State) : (setCore k f s).pending = s.pending := rfl

@[simp] theorem setCore_self (k : CoreIx) (f : Core → Core) (s : State) : (setCore k f s).cores[k] = f s.cores[k] := upd_self _ _ _
theorem setCore_other (k j : CoreIx) (f : Core → Core) (s : State) (h : j ≠ k) :
    (setCore k f s).cores[j] = s.cores[j] := upd_other _ _ _ _ h
theorem setCore_setCore (k : CoreIx) (f g : Core → Core) (s : State) : setCore k g (setCore k f s) = setCore k (fun x => g (f x)) s := by
  simp [setCore, upd_upd]
theorem setCore_congr {k : CoreIx} {f g : Core → Core} {s : State} (h : f s.cores[k] = g s.cores[k]) :
    setCore k f s = setCore k g s := by
  simp only [setCore, upd_congr h]

/-! ### setPort -/

@[simp] theorem setPort_time (p : PortIx) (f : Port → Port) (s : State) : (setPort p f s).time = s.time := rfl
@[simp] theorem setPort_rings (p : PortIx) (f : Port → Port) (s : State) : (setPort p f s).rings = s.rings := rfl
@[simp] theorem setPort_host (p : PortIx) (f : Port → Port) (s : State) : (setPort p f s).host = s.host := rfl
@[simp] theorem setPort_mem (p : PortIx) (f : Port → Port) (s : State) : (setPort p f s).mem = s.mem := rfl
@[simp] theorem setPort_out (p : PortIx) (f : Port → Port) (s : State) : (setPort p f s).out = s.out := rfl
@[simp] theorem setPort_kermes (p : PortIx) (f : Port → Port) (s : State) : (setPort p f s).kermes = s.kermes := rfl
@[simp] theorem setPort_tiles (p : PortIx) (f : Port → Port) (s : State) : (setPort p f s).tiles = s.tiles := rfl
@[simp] theorem setPort_sets (p : PortIx) (f : Port → Port) (s : State) : (setPort p f s).sets = s.sets := rfl
@[simp] theorem setPort_jobs (p : PortIx) (f : Port → Port) (s : State) : (setPort p f s).jobs = s.jobs := rfl
@[simp] theorem setPort_sepia (p : PortIx) (f : Port → Port) (s : State) : (setPort p f s).sepia = s.sepia := rfl
@[simp] theorem setPort_sched (p : PortIx) (f : Port → Port) (s : State) : (setPort p f s).sched = s.sched := rfl
@[simp] theorem setPort_power (p : PortIx) (f : Port → Port) (s : State) : (setPort p f s).power = s.power := rfl
@[simp] theorem setPort_tray (p : PortIx) (f : Port → Port) (s : State) : (setPort p f s).tray = s.tray := rfl
@[simp] theorem setPort_woad (p : PortIx) (f : Port → Port) (s : State) : (setPort p f s).woad = s.woad := rfl
@[simp] theorem setPort_flash (p : PortIx) (f : Port → Port) (s : State) : (setPort p f s).flash = s.flash := rfl
@[simp] theorem setPort_thermal (p : PortIx) (f : Port → Port) (s : State) : (setPort p f s).thermal = s.thermal := rfl
@[simp] theorem setPort_twin (p : PortIx) (f : Port → Port) (s : State) : (setPort p f s).twin = s.twin := rfl
@[simp] theorem setPort_cores (p : PortIx) (f : Port → Port) (s : State) : (setPort p f s).cores = s.cores := rfl
@[simp] theorem setPort_ext (p : PortIx) (f : Port → Port) (s : State) : (setPort p f s).ext = s.ext := rfl
@[simp] theorem setPort_xshared (p : PortIx) (f : Port → Port) (s : State) : (setPort p f s).xshared = s.xshared := rfl
@[simp] theorem setPort_nextId (p : PortIx) (f : Port → Port) (s : State) : (setPort p f s).nextId = s.nextId := rfl
@[simp] theorem setPort_free (p : PortIx) (f : Port → Port) (s : State) : (setPort p f s).free = s.free := rfl
@[simp] theorem setPort_pending (p : PortIx) (f : Port → Port) (s : State) : (setPort p f s).pending = s.pending := rfl

@[simp] theorem setPort_self (p : PortIx) (f : Port → Port) (s : State) : (setPort p f s).radio.ports[p] = f s.radio.ports[p] := upd_self _ _ _
theorem setPort_other (p j : PortIx) (f : Port → Port) (s : State) (h : j ≠ p) :
    (setPort p f s).radio.ports[j] = s.radio.ports[j] := upd_other _ _ _ _ h
theorem setPort_setPort (p : PortIx) (f g : Port → Port) (s : State) : setPort p g (setPort p f s) = setPort p (fun x => g (f x)) s := by
  simp [setPort, upd_upd]
theorem setPort_congr {p : PortIx} {f g : Port → Port} {s : State} (h : f s.radio.ports[p] = g s.radio.ports[p]) :
    setPort p f s = setPort p g s := by
  simp only [setPort, upd_congr h]

/-! ### setGroup -/

@[simp] theorem setGroup_time (g : GroupIx) (f : SwapGroup → SwapGroup) (s : State) : (setGroup g f s).time = s.time := rfl
@[simp] theorem setGroup_rings (g : GroupIx) (f : SwapGroup → SwapGroup) (s : State) : (setGroup g f s).rings = s.rings := rfl
@[simp] theorem setGroup_host (g : GroupIx) (f : SwapGroup → SwapGroup) (s : State) : (setGroup g f s).host = s.host := rfl
@[simp] theorem setGroup_mem (g : GroupIx) (f : SwapGroup → SwapGroup) (s : State) : (setGroup g f s).mem = s.mem := rfl
@[simp] theorem setGroup_out (g : GroupIx) (f : SwapGroup → SwapGroup) (s : State) : (setGroup g f s).out = s.out := rfl
@[simp] theorem setGroup_kermes (g : GroupIx) (f : SwapGroup → SwapGroup) (s : State) : (setGroup g f s).kermes = s.kermes := rfl
@[simp] theorem setGroup_tiles (g : GroupIx) (f : SwapGroup → SwapGroup) (s : State) : (setGroup g f s).tiles = s.tiles := rfl
@[simp] theorem setGroup_jobs (g : GroupIx) (f : SwapGroup → SwapGroup) (s : State) : (setGroup g f s).jobs = s.jobs := rfl
@[simp] theorem setGroup_sepia (g : GroupIx) (f : SwapGroup → SwapGroup) (s : State) : (setGroup g f s).sepia = s.sepia := rfl
@[simp] theorem setGroup_radio (g : GroupIx) (f : SwapGroup → SwapGroup) (s : State) : (setGroup g f s).radio = s.radio := rfl
@[simp] theorem setGroup_sched (g : GroupIx) (f : SwapGroup → SwapGroup) (s : State) : (setGroup g f s).sched = s.sched := rfl
@[simp] theorem setGroup_power (g : GroupIx) (f : SwapGroup → SwapGroup) (s : State) : (setGroup g f s).power = s.power := rfl
@[simp] theorem setGroup_tray (g : GroupIx) (f : SwapGroup → SwapGroup) (s : State) : (setGroup g f s).tray = s.tray := rfl
@[simp] theorem setGroup_woad (g : GroupIx) (f : SwapGroup → SwapGroup) (s : State) : (setGroup g f s).woad = s.woad := rfl
@[simp] theorem setGroup_flash (g : GroupIx) (f : SwapGroup → SwapGroup) (s : State) : (setGroup g f s).flash = s.flash := rfl
@[simp] theorem setGroup_thermal (g : GroupIx) (f : SwapGroup → SwapGroup) (s : State) : (setGroup g f s).thermal = s.thermal := rfl
@[simp] theorem setGroup_twin (g : GroupIx) (f : SwapGroup → SwapGroup) (s : State) : (setGroup g f s).twin = s.twin := rfl
@[simp] theorem setGroup_cores (g : GroupIx) (f : SwapGroup → SwapGroup) (s : State) : (setGroup g f s).cores = s.cores := rfl
@[simp] theorem setGroup_ext (g : GroupIx) (f : SwapGroup → SwapGroup) (s : State) : (setGroup g f s).ext = s.ext := rfl
@[simp] theorem setGroup_xshared (g : GroupIx) (f : SwapGroup → SwapGroup) (s : State) : (setGroup g f s).xshared = s.xshared := rfl
@[simp] theorem setGroup_nextId (g : GroupIx) (f : SwapGroup → SwapGroup) (s : State) : (setGroup g f s).nextId = s.nextId := rfl
@[simp] theorem setGroup_free (g : GroupIx) (f : SwapGroup → SwapGroup) (s : State) : (setGroup g f s).free = s.free := rfl
@[simp] theorem setGroup_pending (g : GroupIx) (f : SwapGroup → SwapGroup) (s : State) : (setGroup g f s).pending = s.pending := rfl

@[simp] theorem setGroup_self (g : GroupIx) (f : SwapGroup → SwapGroup) (s : State) : (setGroup g f s).sets.groups[g] = f s.sets.groups[g] := upd_self _ _ _
theorem setGroup_other (g j : GroupIx) (f : SwapGroup → SwapGroup) (s : State) (h : j ≠ g) :
    (setGroup g f s).sets.groups[j] = s.sets.groups[j] := upd_other _ _ _ _ h
theorem setGroup_setGroup (i : GroupIx) (f g : SwapGroup → SwapGroup) (s : State) : setGroup i g (setGroup i f s) = setGroup i (fun x => g (f x)) s := by
  simp [setGroup, upd_upd]
theorem setGroup_congr {i : GroupIx} {f g : SwapGroup → SwapGroup} {s : State} (h : f s.sets.groups[i] = g s.sets.groups[i]) :
    setGroup i f s = setGroup i g s := by
  simp only [setGroup, upd_congr h]

end Sys2Proof.Machine
end

