-- ==== Sys2Proof/Laws/Serve.lean ====
section
/-! SUPPORT. What serving an accepted descriptor answers, and what an issued move answers, said once. -/
namespace Sys2Proof.Machine

theorem least_eq_none {l : List Nat} : least l = none ↔ l = [] := by
  cases l with
  | nil => simp [least]
  | cons x xs =>
    simp only [least]
    split <;> simp

/-- No check fails where the list of failing offsets is empty. -/
theorem firstFailing_eq_none {cs : List (Nat × Bool)} : firstFailing cs = none ↔ allPass cs := by
  unfold firstFailing allPass
  rw [least_eq_none, List.map_eq_nil_iff, List.filter_eq_nil_iff]
  simp

theorem allPass_append {a b : List (Nat × Bool)} : allPass (a ++ b) ↔ allPass a ∧ allPass b := by
  unfold allPass
  simp only [List.mem_append]
  exact ⟨fun h => ⟨fun c hc => h c (Or.inl hc), fun c hc => h c (Or.inr hc)⟩, fun h c hc => hc.elim (h.1 c) (h.2 c)⟩

@[simp] theorem allPass_nil : allPass [] ↔ True := by simp [allPass]

@[simp] theorem allPass_cons {o : Nat} {b : Bool} {l : List (Nat × Bool)} : allPass (chk o b :: l) ↔ b = false ∧ allPass l := by
  simp [allPass, chk]

@[simp] theorem dispatch_tray (n : RingIx) (f : Fetched) (s : State) : (dispatch n f s).tray = s.tray := rfl
@[simp] theorem dispatch_twin (n : RingIx) (f : Fetched) (s : State) : (dispatch n f s).twin = s.twin := rfl

theorem reservedChecks_pass {i : CmdInfo} {d : Descriptor} (h : ∀ o < 64, 8 ≤ o → inFields i.fields o = false → d.u8 o = 0) :
    allPass (reservedChecks i d) := by
  intro c hc
  simp only [reservedChecks, List.mem_map, List.mem_range] at hc
  obtain ⟨o, ho, rfl⟩ := hc
  by_cases h8 : 8 ≤ o
  · by_cases hf : inFields i.fields o = false
    · simp [h o ho h8 hf]
    · simp [Bool.not_eq_false _ ▸ hf]
  · simp [h8]

/-- An accepted descriptor with its arguments in range: the command's own body decides. -/
theorem serve_accepted {op : Nat} {n : RingIx} {f : Fetched} {i : CmdInfo} {s : State} {args : Fetched → State → List (Nat × Bool)}
    {body : Fetched → State → Body} (h : Accepted op n f i s) (ha : allPass (args f (dispatch n f s))) :
    serve (isOp op) n args body s = match body f (dispatch n f s) with
      | .running t => .next t
      | .done t r => .next (complete n f r t) := by
  have hf : firstFailing (reservedChecks i f.desc ++ args f (dispatch n f s)) = none :=
    firstFailing_eq_none.2 (allPass_append.2 ⟨reservedChecks_pass h.clean, ha⟩)
  have hl : legalityCode i.legal (dispatch n f s).tray.powerState (decide ((dispatch n f s).twin.role = .standby))
      (dispatch n f s).tray.debugOn = none := h.legal
  simp only [serve, h.runs, h.next, h.info, hf, hl, Bool.not_true, Bool.false_eq_true, if_false]
  all_goals (cases body f (dispatch n f s) <;> rfl)

/-- An issued move: its operation decides. -/
theorem xmove_issued {k : CoreIx} {g : BitVec 4} {dst : Nat} {src : MoveSrc} {s : State} (op : XOp) (h : Issued k g dst src s) :
    xmove k g dst src op s = match op k (runsTagged s k) (moveValue s k src) (setCore k (fun c => (readSource c src).2) s) with
      | .error t => .next (trap k t s)
      | .ok s1 => .next (setCore k nextPc s1) := by
  simp only [xmove, h.clocked, h.fetched, h.guarded, h.roomy, h.ready, Bool.not_true, Bool.false_eq_true, if_false]
  rfl

/-- An issued move whose operation is on the core alone and meets no trap. -/
theorem xmove_issued_ok {k : CoreIx} {g : BitVec 4} {dst : Nat} {src : MoveSrc} {s : State}
    {f : Bool → W32 → Core → Except XTrap Core} {r : Core → Core} (h : Issued k g dst src s)
    (hf : f (runsTagged s k) (moveValue s k src) (readSource s.cores[k] src).2 = .ok (r (readSource s.cores[k] src).2)) :
    xmove k g dst src (onCore f) s = .next (moved k src r s) := by
  rw [xmove_issued _ h]
  simp only [onCore, setCore_self, hf, setCore_setCore, moved]
  simp only [setCore, upd, Fin.getElem_fin]

/-- Every command that firmware serves is `serve` of its opcode on its ring. -/
theorem servedBy_serve {c : Instr} {op : Nat} {n : RingIx} (h : servedBy c = some (op, n)) :
    ∃ (args : Fetched → State → List (Nat × Bool)) (body : Fetched → State → Body), ∀ s, exec c s = serve (isOp op) n args body s := by
  cases c <;> simp only [servedBy, reduceCtorEq, Option.some.injEq, Prod.mk.injEq] at h
  case identify r =>
    obtain ⟨rfl, rfl⟩ := h
    exact ⟨_, _, fun s => execIdentify.eq_1 r s⟩
  case ringConfig r =>
    obtain ⟨rfl, rfl⟩ := h
    exact ⟨_, _, fun s => execRingConfig.eq_1 r s⟩
  case ringReset r =>
    obtain ⟨rfl, rfl⟩ := h
    exact ⟨_, _, fun s => execRingReset.eq_1 r s⟩
  case setOpen r =>
    obtain ⟨rfl, rfl⟩ := h
    exact ⟨_, _, fun s => execSetOpen.eq_1 r s⟩
  case setStage r =>
    obtain ⟨rfl, rfl⟩ := h
    exact ⟨_, _, fun s => execSetStage.eq_1 r s⟩
  case setCommit r =>
    obtain ⟨rfl, rfl⟩ := h
    exact ⟨_, _, fun s => execSetCommit.eq_1 r s⟩
  case setDiscard r =>
    obtain ⟨rfl, rfl⟩ := h
    exact ⟨_, _, fun s => execSetDiscard.eq_1 r s⟩
  case setSwap r =>
    obtain ⟨rfl, rfl⟩ := h
    exact ⟨_, _, fun s => execSetSwap.eq_1 r s⟩
  case setRead r =>
    obtain ⟨rfl, rfl⟩ := h
    exact ⟨_, _, fun s => execSetRead.eq_1 r s⟩
  case setMember r =>
    obtain ⟨rfl, rfl⟩ := h
    exact ⟨_, _, fun s => execSetMember.eq_1 r s⟩
  case decompose r =>
    obtain ⟨rfl, rfl⟩ := h
    exact ⟨_, _, fun s => execDecompose.eq_1 r s⟩
  case imageRead r =>
    obtain ⟨rfl, rfl⟩ := h
    exact ⟨_, _, fun s => execImageRead.eq_1 r s⟩
  case modelCheck r =>
    obtain ⟨rfl, rfl⟩ := h
    exact ⟨_, _, fun s => execModelCheck.eq_1 r s⟩
  case matmul r =>
    obtain ⟨rfl, rfl⟩ := h
    exact ⟨_, _, fun s => execMatmul.eq_1 r s⟩
  case resident r =>
    obtain ⟨rfl, rfl⟩ := h
    exact ⟨_, _, fun s => execResident.eq_1 r s⟩
  case reduce r =>
    obtain ⟨rfl, rfl⟩ := h
    exact ⟨_, _, fun s => execReduce.eq_1 r s⟩
  case tree r =>
    obtain ⟨rfl, rfl⟩ := h
    exact ⟨_, _, fun s => execTree.eq_1 r s⟩
  case jobAbort r =>
    obtain ⟨rfl, rfl⟩ := h
    exact ⟨_, _, fun s => execJobAbort.eq_1 r s⟩
  case slot r =>
    obtain ⟨rfl, rfl⟩ := h
    exact ⟨_, _, fun s => execSlot.eq_1 r s⟩
  case eventSet r =>
    obtain ⟨rfl, rfl⟩ := h
    exact ⟨_, _, fun s => execEventSet.eq_1 r s⟩
  case eventCancel r =>
    obtain ⟨rfl, rfl⟩ := h
    exact ⟨_, _, fun s => execEventCancel.eq_1 r s⟩
  case gapDeclare r =>
    obtain ⟨rfl, rfl⟩ := h
    exact ⟨_, _, fun s => execGapDeclare.eq_1 r s⟩
  case timeConfig r =>
    obtain ⟨rfl, rfl⟩ := h
    exact ⟨_, _, fun s => execTimeConfig.eq_1 r s⟩
  case coefRead r =>
    obtain ⟨rfl, rfl⟩ := h
    exact ⟨_, _, fun s => execCoefRead.eq_1 r s⟩
  case recordRead r =>
    obtain ⟨rfl, rfl⟩ := h
    exact ⟨_, _, fun s => execRecordRead.eq_1 r s⟩
  case calTune r =>
    obtain ⟨rfl, rfl⟩ := h
    exact ⟨_, _, fun s => execCalTune.eq_1 r s⟩
  case charRequest r =>
    obtain ⟨rfl, rfl⟩ := h
    exact ⟨_, _, fun s => execCharRequest.eq_1 r s⟩
  case tileControl r =>
    obtain ⟨rfl, rfl⟩ := h
    exact ⟨_, _, fun s => execTileControl.eq_1 r s⟩
  case powerState r =>
    obtain ⟨rfl, rfl⟩ := h
    exact ⟨_, _, fun s => execPowerState.eq_1 r s⟩
  case powerCap r =>
    obtain ⟨rfl, rfl⟩ := h
    exact ⟨_, _, fun s => execPowerCap.eq_1 r s⟩
  case twinRole r =>
    obtain ⟨rfl, rfl⟩ := h
    exact ⟨_, _, fun s => execTwinRole.eq_1 r s⟩
  case handover r =>
    obtain ⟨rfl, rfl⟩ := h
    exact ⟨_, _, fun s => execHandover.eq_1 r s⟩
  case relayCycle r =>
    obtain ⟨rfl, rfl⟩ := h
    exact ⟨_, _, fun s => execRelayCycle.eq_1 r s⟩
  case sentinelRule r =>
    obtain ⟨rfl, rfl⟩ := h
    exact ⟨_, _, fun s => execSentinelRule.eq_1 r s⟩
  case fwUpdate r =>
    obtain ⟨rfl, rfl⟩ := h
    exact ⟨_, _, fun s => execFwUpdate.eq_1 r s⟩
  case fwActivate r =>
    obtain ⟨rfl, rfl⟩ := h
    exact ⟨_, _, fun s => execFwActivate.eq_1 r s⟩
  case archiveRead r =>
    obtain ⟨rfl, rfl⟩ := h
    exact ⟨_, _, fun s => execArchiveRead.eq_1 r s⟩
  case extEnroll r =>
    obtain ⟨rfl, rfl⟩ := h
    exact ⟨_, _, fun s => execExtEnroll.eq_1 r s⟩
  case extLoad r =>
    obtain ⟨rfl, rfl⟩ := h
    exact ⟨_, _, fun s => execExtLoad.eq_1 r s⟩
  case extUnload r =>
    obtain ⟨rfl, rfl⟩ := h
    exact ⟨_, _, fun s => execExtUnload.eq_1 r s⟩
  case debugChallenge r =>
    obtain ⟨rfl, rfl⟩ := h
    exact ⟨_, _, fun s => execDebugChallenge.eq_1 r s⟩
  case debugUnlock r =>
    obtain ⟨rfl, rfl⟩ := h
    exact ⟨_, _, fun s => execDebugUnlock.eq_1 r s⟩
  case debugLock r =>
    obtain ⟨rfl, rfl⟩ := h
    exact ⟨_, _, fun s => execDebugLock.eq_1 r s⟩
  case accRead r =>
    obtain ⟨rfl, rfl⟩ := h
    exact ⟨_, _, fun s => execAccRead.eq_1 r s⟩
  case accWrite r =>
    obtain ⟨rfl, rfl⟩ := h
    exact ⟨_, _, fun s => execAccWrite.eq_1 r s⟩
  case vecRaw r =>
    obtain ⟨rfl, rfl⟩ := h
    exact ⟨_, _, fun s => execVecRaw.eq_1 r s⟩
  case coefWrite r =>
    obtain ⟨rfl, rfl⟩ := h
    exact ⟨_, _, fun s => execCoefWrite.eq_1 r s⟩

/-- Every move is `xmove` of its core, guard, port and source. -/
theorem moveOf_xmove {c : Instr} {k : CoreIx} {g : BitVec 4} {dst : Nat} {src : MoveSrc} (h : moveOf c = some (k, g, dst, src)) :
    ∃ op, ∀ s, exec c s = xmove k g dst src op s := by
  cases c <;> simp only [moveOf, reduceCtorEq, Option.some.injEq, Prod.mk.injEq] at h
  case moveOperand core guard d src' =>
    split at h
    · cases h
    · rename_i hd
      simp only [Option.some.injEq, Prod.mk.injEq] at h
      obtain ⟨rfl, rfl, rfl, rfl⟩ := h
      exact ⟨_, fun s => by simp only [exec, execMoveOperand, if_neg hd]; rfl⟩
  case limmTInt k' g' src' =>
    obtain ⟨rfl, rfl, rfl, rfl⟩ := h
    exact ⟨_, fun s => execLimmTInt.eq_1 k' g' src' s⟩
  case limmTPtr k' g' src' =>
    obtain ⟨rfl, rfl, rfl, rfl⟩ := h
    exact ⟨_, fun s => execLimmTPtr.eq_1 k' g' src' s⟩
  case limmTCode k' g' src' =>
    obtain ⟨rfl, rfl, rfl, rfl⟩ := h
    exact ⟨_, fun s => execLimmTCode.eq_1 k' g' src' s⟩
  case limmTBits k' g' src' =>
    obtain ⟨rfl, rfl, rfl, rfl⟩ := h
    exact ⟨_, fun s => execLimmTBits.eq_1 k' g' src' s⟩
  case aluAdd k' g' src' =>
    obtain ⟨rfl, rfl, rfl, rfl⟩ := h
    exact ⟨_, fun s => execAluAdd.eq_1 k' g' src' s⟩
  case aluSub k' g' src' =>
    obtain ⟨rfl, rfl, rfl, rfl⟩ := h
    exact ⟨_, fun s => execAluSub.eq_1 k' g' src' s⟩
  case aluNeg k' g' src' =>
    obtain ⟨rfl, rfl, rfl, rfl⟩ := h
    exact ⟨_, fun s => execAluNeg.eq_1 k' g' src' s⟩
  case aluAnd k' g' src' =>
    obtain ⟨rfl, rfl, rfl, rfl⟩ := h
    exact ⟨_, fun s => execAluAnd.eq_1 k' g' src' s⟩
  case aluOr k' g' src' =>
    obtain ⟨rfl, rfl, rfl, rfl⟩ := h
    exact ⟨_, fun s => execAluOr.eq_1 k' g' src' s⟩
  case aluXor k' g' src' =>
    obtain ⟨rfl, rfl, rfl, rfl⟩ := h
    exact ⟨_, fun s => execAluXor.eq_1 k' g' src' s⟩
  case aluNot k' g' src' =>
    obtain ⟨rfl, rfl, rfl, rfl⟩ := h
    exact ⟨_, fun s => execAluNot.eq_1 k' g' src' s⟩
  case aluShl k' g' src' =>
    obtain ⟨rfl, rfl, rfl, rfl⟩ := h
    exact ⟨_, fun s => execAluShl.eq_1 k' g' src' s⟩
  case aluShr k' g' src' =>
    obtain ⟨rfl, rfl, rfl, rfl⟩ := h
    exact ⟨_, fun s => execAluShr.eq_1 k' g' src' s⟩
  case aluSar k' g' src' =>
    obtain ⟨rfl, rfl, rfl, rfl⟩ := h
    exact ⟨_, fun s => execAluSar.eq_1 k' g' src' s⟩
  case mulMul k' g' src' =>
    obtain ⟨rfl, rfl, rfl, rfl⟩ := h
    exact ⟨_, fun s => execMulMul.eq_1 k' g' src' s⟩
  case mulMulh k' g' src' =>
    obtain ⟨rfl, rfl, rfl, rfl⟩ := h
    exact ⟨_, fun s => execMulMulh.eq_1 k' g' src' s⟩
  case mulDiv k' g' src' =>
    obtain ⟨rfl, rfl, rfl, rfl⟩ := h
    exact ⟨_, fun s => execMulDiv.eq_1 k' g' src' s⟩
  case mulMod k' g' src' =>
    obtain ⟨rfl, rfl, rfl, rfl⟩ := h
    exact ⟨_, fun s => execMulMod.eq_1 k' g' src' s⟩
  case cmpEq k' g' src' =>
    obtain ⟨rfl, rfl, rfl, rfl⟩ := h
    exact ⟨_, fun s => execCmpEq.eq_1 k' g' src' s⟩
  case cmpNe k' g' src' =>
    obtain ⟨rfl, rfl, rfl, rfl⟩ := h
    exact ⟨_, fun s => execCmpNe.eq_1 k' g' src' s⟩
  case cmpLt k' g' src' =>
    obtain ⟨rfl, rfl, rfl, rfl⟩ := h
    exact ⟨_, fun s => execCmpLt.eq_1 k' g' src' s⟩
  case cmpLe k' g' src' =>
    obtain ⟨rfl, rfl, rfl, rfl⟩ := h
    exact ⟨_, fun s => execCmpLe.eq_1 k' g' src' s⟩
  case cmpLtu k' g' src' =>
    obtain ⟨rfl, rfl, rfl, rfl⟩ := h
    exact ⟨_, fun s => execCmpLtu.eq_1 k' g' src' s⟩
  case cmpLeu k' g' src' =>
    obtain ⟨rfl, rfl, rfl, rfl⟩ := h
    exact ⟨_, fun s => execCmpLeu.eq_1 k' g' src' s⟩
  case cmpCarry k' g' src' =>
    obtain ⟨rfl, rfl, rfl, rfl⟩ := h
    exact ⟨_, fun s => execCmpCarry.eq_1 k' g' src' s⟩
  case cmpOvf k' g' src' =>
    obtain ⟨rfl, rfl, rfl, rfl⟩ := h
    exact ⟨_, fun s => execCmpOvf.eq_1 k' g' src' s⟩
  case cmpBit k' g' src' =>
    obtain ⟨rfl, rfl, rfl, rfl⟩ := h
    exact ⟨_, fun s => execCmpBit.eq_1 k' g' src' s⟩
  case brJump k' g' src' =>
    obtain ⟨rfl, rfl, rfl, rfl⟩ := h
    exact ⟨_, fun s => execBrJump.eq_1 k' g' src' s⟩
  case brCall k' g' src' =>
    obtain ⟨rfl, rfl, rfl, rfl⟩ := h
    exact ⟨_, fun s => execBrCall.eq_1 k' g' src' s⟩
  case brReturn k' g' src' =>
    obtain ⟨rfl, rfl, rfl, rfl⟩ := h
    exact ⟨_, fun s => execBrReturn.eq_1 k' g' src' s⟩
  case dstkPush k' g' src' =>
    obtain ⟨rfl, rfl, rfl, rfl⟩ := h
    exact ⟨_, fun s => execDstkPush.eq_1 k' g' src' s⟩
  case rstkPush k' g' src' =>
    obtain ⟨rfl, rfl, rfl, rfl⟩ := h
    exact ⟨_, fun s => execRstkPush.eq_1 k' g' src' s⟩
  case tagGettag k' g' src' =>
    obtain ⟨rfl, rfl, rfl, rfl⟩ := h
    exact ⟨_, fun s => execTagGettag.eq_1 k' g' src' s⟩
  case tagToint k' g' src' =>
    obtain ⟨rfl, rfl, rfl, rfl⟩ := h
    exact ⟨_, fun s => execTagToint.eq_1 k' g' src' s⟩
  case tagTobits k' g' src' =>
    obtain ⟨rfl, rfl, rfl, rfl⟩ := h
    exact ⟨_, fun s => execTagTobits.eq_1 k' g' src' s⟩
  case tagWrapInt k' g' src' =>
    obtain ⟨rfl, rfl, rfl, rfl⟩ := h
    exact ⟨_, fun s => execTagWrapInt.eq_1 k' g' src' s⟩
  case tagToptr k' g' src' =>
    obtain ⟨rfl, rfl, rfl, rfl⟩ := h
    exact ⟨_, fun s => execTagToptr.eq_1 k' g' src' s⟩
  case tagTocode k' g' src' =>
    obtain ⟨rfl, rfl, rfl, rfl⟩ := h
    exact ⟨_, fun s => execTagTocode.eq_1 k' g' src' s⟩
  case tmrSampleSc k' g' src' =>
    obtain ⟨rfl, rfl, rfl, rfl⟩ := h
    exact ⟨_, fun s => execTmrSampleSc.eq_1 k' g' src' s⟩
  case tmrSampleKc k' g' src' =>
    obtain ⟨rfl, rfl, rfl, rfl⟩ := h
    exact ⟨_, fun s => execTmrSampleKc.eq_1 k' g' src' s⟩
  case tmrDelay k' g' src' =>
    obtain ⟨rfl, rfl, rfl, rfl⟩ := h
    exact ⟨_, fun s => execTmrDelay.eq_1 k' g' src' s⟩
  case csrRead k' g' src' =>
    obtain ⟨rfl, rfl, rfl, rfl⟩ := h
    exact ⟨_, fun s => execCsrRead.eq_1 k' g' src' s⟩
  case csrWrite k' g' src' =>
    obtain ⟨rfl, rfl, rfl, rfl⟩ := h
    exact ⟨_, fun s => execCsrWrite.eq_1 k' g' src' s⟩
  case lsuLdw k' g' src' =>
    obtain ⟨rfl, rfl, rfl, rfl⟩ := h
    exact ⟨_, fun s => execLsuLdw.eq_1 k' g' src' s⟩
  case lsuStw k' g' src' =>
    obtain ⟨rfl, rfl, rfl, rfl⟩ := h
    exact ⟨_, fun s => execLsuStw.eq_1 k' g' src' s⟩
  case lsuLdb k' g' src' =>
    obtain ⟨rfl, rfl, rfl, rfl⟩ := h
    exact ⟨_, fun s => execLsuLdb.eq_1 k' g' src' s⟩
  case lsuLdbu k' g' src' =>
    obtain ⟨rfl, rfl, rfl, rfl⟩ := h
    exact ⟨_, fun s => execLsuLdbu.eq_1 k' g' src' s⟩
  case lsuLdh k' g' src' =>
    obtain ⟨rfl, rfl, rfl, rfl⟩ := h
    exact ⟨_, fun s => execLsuLdh.eq_1 k' g' src' s⟩
  case lsuLdhu k' g' src' =>
    obtain ⟨rfl, rfl, rfl, rfl⟩ := h
    exact ⟨_, fun s => execLsuLdhu.eq_1 k' g' src' s⟩
  case lsuStb k' g' src' =>
    obtain ⟨rfl, rfl, rfl, rfl⟩ := h
    exact ⟨_, fun s => execLsuStb.eq_1 k' g' src' s⟩
  case lsuSth k' g' src' =>
    obtain ⟨rfl, rfl, rfl, rfl⟩ := h
    exact ⟨_, fun s => execLsuSth.eq_1 k' g' src' s⟩
  case lsuLea k' g' src' =>
    obtain ⟨rfl, rfl, rfl, rfl⟩ := h
    exact ⟨_, fun s => execLsuLea.eq_1 k' g' src' s⟩
  case mbxRecv k' g' src' =>
    obtain ⟨rfl, rfl, rfl, rfl⟩ := h
    exact ⟨_, fun s => execMbxRecv.eq_1 k' g' src' s⟩
  case mbxArg16 k' g' src' =>
    obtain ⟨rfl, rfl, rfl, rfl⟩ := h
    exact ⟨_, fun s => execMbxArg16.eq_1 k' g' src' s⟩
  case mbxComplete k' g' src' =>
    obtain ⟨rfl, rfl, rfl, rfl⟩ := h
    exact ⟨_, fun s => execMbxComplete.eq_1 k' g' src' s⟩
  case mbxSubmit k' g' src' =>
    obtain ⟨rfl, rfl, rfl, rfl⟩ := h
    exact ⟨_, fun s => execMbxSubmit.eq_1 k' g' src' s⟩
  case mbxWait k' g' src' =>
    obtain ⟨rfl, rfl, rfl, rfl⟩ := h
    exact ⟨_, fun s => execMbxWait.eq_1 k' g' src' s⟩
  case mbxEvent k' g' src' =>
    obtain ⟨rfl, rfl, rfl, rfl⟩ := h
    exact ⟨_, fun s => execMbxEvent.eq_1 k' g' src' s⟩
  case mbxFetch k' g' src' =>
    obtain ⟨rfl, rfl, rfl, rfl⟩ := h
    exact ⟨_, fun s => execMbxFetch.eq_1 k' g' src' s⟩
  case xfrRead k' g' src' =>
    obtain ⟨rfl, rfl, rfl, rfl⟩ := h
    exact ⟨_, fun s => execXfrRead.eq_1 k' g' src' s⟩
  case xfrWrite k' g' src' =>
    obtain ⟨rfl, rfl, rfl, rfl⟩ := h
    exact ⟨_, fun s => execXfrWrite.eq_1 k' g' src' s⟩
  case flsRead k' g' src' =>
    obtain ⟨rfl, rfl, rfl, rfl⟩ := h
    exact ⟨_, fun s => execFlsRead.eq_1 k' g' src' s⟩
  case flsProgram k' g' src' =>
    obtain ⟨rfl, rfl, rfl, rfl⟩ := h
    exact ⟨_, fun s => execFlsProgram.eq_1 k' g' src' s⟩
  case flsErase k' g' src' =>
    obtain ⟨rfl, rfl, rfl, rfl⟩ := h
    exact ⟨_, fun s => execFlsErase.eq_1 k' g' src' s⟩
  case flsMargin k' g' src' =>
    obtain ⟨rfl, rfl, rfl, rfl⟩ := h
    exact ⟨_, fun s => execFlsMargin.eq_1 k' g' src' s⟩
  case flsPoll k' g' src' =>
    obtain ⟨rfl, rfl, rfl, rfl⟩ := h
    exact ⟨_, fun s => execFlsPoll.eq_1 k' g' src' s⟩

/-! ### Completion entries -/

@[simp] theorem signalVector_mem (v : Fin 128) (s : State) : (signalVector v s).mem = s.mem := by
  unfold signalVector; split_ifs <;> rfl
@[simp] theorem signalVector_rings (v : Fin 128) (s : State) : (signalVector v s).rings = s.rings := by
  unfold signalVector; split_ifs <;> rfl
@[simp] theorem raiseCq_mem (n : RingIx) (s : State) : (raiseCq n s).mem = s.mem := by
  unfold raiseCq; split_ifs <;> simp
@[simp] theorem raiseCq_rings (n : RingIx) (s : State) : (raiseCq n s).rings = s.rings := by
  unfold raiseCq; split_ifs <;> simp
@[simp] theorem moderate_mem (n : RingIx) (q : Bool) (s : State) : (moderate n q s).mem = s.mem := by
  unfold moderate; split_ifs <;> simp

/-- Moderation changes no index of its ring and nothing that waits on it. -/
theorem moderate_ring (n : RingIx) (q : Bool) (s : State) : (moderate n q s).rings[n].waiting = s.rings[n].waiting ∧
    (moderate n q s).rings[n].cqTail = s.rings[n].cqTail ∧ (moderate n q s).rings[n].phase = s.rings[n].phase := by
  unfold moderate
  split
  · exact ⟨rfl, rfl, rfl⟩
  · split
    · simp only [raiseCq_rings, setRing_self, and_self]
    · simp only [setRing_self, and_self]

/-- One entry written: its 16 bytes go to the CQ tail in host memory. -/
theorem writeEntry_mem (n : RingIx) (e : Entry) (s : State) : (writeEntry n e s).mem = { s.mem with
    hostMem := memWriteN zeroByte s.mem.hostMem (s.rings[n].cqBase.toNat + 16 * s.rings[n].cqTail.toNat) (entryBytes s.rings[n] e) } := by
  simp only [writeEntry, moderate_mem]
  rfl

theorem advanceCq_waiting (r : Ring) : r.advanceCq.waiting = r.waiting := by unfold Ring.advanceCq; split <;> rfl

/-- One entry written: the tail advances, and PHASE inverts at the wrap (R292). -/
theorem writeEntry_ring (n : RingIx) (e : Entry) (s : State) : (writeEntry n e s).rings[n].waiting = s.rings[n].waiting ∧
    (writeEntry n e s).rings[n].cqTail = s.rings[n].advanceCq.cqTail ∧
    (writeEntry n e s).rings[n].phase = s.rings[n].advanceCq.phase := by
  unfold writeEntry
  simp only
  obtain ⟨a, b, c⟩ := moderate_ring n e.noIrq (setRing n Ring.advanceCq
    (hostWrite (s.rings[n].cqBase.toNat + 16 * s.rings[n].cqTail.toNat) (entryBytes s.rings[n] e) s))
  have hr : ∀ (a : Nat) (bs : List Byte), (hostWrite a bs s).rings[n] = s.rings[n] := fun a bs => by simp only [hostWrite]
  rw [a, b, c, setRing_self, hr]
  exact ⟨advanceCq_waiting _, Eq.refl _, Eq.refl _⟩

theorem leBytes_length (k x : Nat) : (leBytes k x).length = k := by
  induction k generalizing x with
  | zero => rfl
  | succ m ih => simp [leBytes, ih]

theorem leNat_leBytes (k x : Nat) : leNat (leBytes k x) = x % 256 ^ k := by
  induction k generalizing x with
  | zero => simp [leBytes, leNat, Nat.mod_one]
  | succ m ih =>
    simp only [leBytes, leNat, ih, BitVec.toNat_ofNat]
    rw [show 2 ^ 8 = 256 from rfl, pow_succ, Nat.mul_comm (256 ^ m) 256, Nat.mod_mul]

theorem entryBytes_length (q : Ring) (e : Entry) : (entryBytes q e).length = 16 := by simp [entryBytes, leBytes_length]

/-- Whether there is room depends on the indices and the depth alone. -/
theorem hasRoom_congr {q r : Ring} (h1 : q.cqTail = r.cqTail) (h2 : q.cqHead = r.cqHead) (h3 : q.log2Depth = r.log2Depth) :
    q.hasRoom = r.hasRoom := by
  have d : q.depth = r.depth := by unfold Ring.depth; rw [h3]
  unfold Ring.hasRoom Ring.unreleased
  rw [h1, h2, d]

/-- A completion that goes to a completion ring on which nothing waits: the entry alone waits, and is written where it can be. -/
theorem complete_posts {n : RingIx} {f : Fetched} {r : Reply} {s : State} (h1 : (s.rings[n]).holds f.id = true)
    (h2 : submitter n f.id s = none) (h3 : (s.rings[n]).posts = true) (h4 : (s.rings[n]).waiting = []) :
    ∃ q : Ring, complete n f r s = drainCq n 1 (setRing n (fun _ => { q with waiting := [r.entry f.desc] }) s) ∧
      q.sqHead = s.rings[n].sqHead ∧ q.phase = s.rings[n].phase ∧ q.cqBase = s.rings[n].cqBase ∧
      q.cqTail = s.rings[n].cqTail ∧ q.cqHead = s.rings[n].cqHead ∧ q.log2Depth = s.rings[n].log2Depth := by
  have hp : ∀ q : Ring → Ring, (q s.rings[n]).state = s.rings[n].state → (q s.rings[n]).haltedReset = s.rings[n].haltedReset →
      (q s.rings[n]).waiting = [] →
      (if (setRing n q s).rings[n].posts = true then
        postEntry n (r.entry f.desc) (setRing n (Ring.count r.code (!r.more)) (setRing n q s)) else setRing n q s) =
      drainCq n 1 (setRing n (fun _ => { Ring.count r.code (!r.more) (q s.rings[n]) with waiting := [r.entry f.desc] }) s) := by
    intro q e1 e2 e3
    have p1 : (setRing n q s).rings[n].posts = true := by
      rw [setRing_self]; simp only [Ring.posts, e1, e2]; exact h3
    rw [if_pos p1]
    unfold postEntry
    have p2 : (setRing n (Ring.count r.code (!r.more)) (setRing n q s)).rings[n].posts = true := by
      rw [setRing_self, setRing_self]; simp only [Ring.posts, Ring.count, e1, e2]; exact h3
    rw [if_pos p2, setRing_self, setRing_self]
    simp only [Ring.count, e3, List.length_nil, setRing_setRing]
    congr 1
    exact setRing_congr (by simp [-Fin.getElem_fin, e3])
  unfold complete
  rw [if_pos h1]
  unfold finish
  rw [h2]
  refine ⟨_, hp (fun q => if r.more then { q with queue := payOne f.id q.queue, dispatched := payOne f.id q.dispatched }
    else { q with queue := dropId f.id q.queue, dispatched := dropId f.id q.dispatched }) ?_ ?_ ?_, ?_, ?_, ?_, ?_, ?_, ?_⟩ <;>
    cases r.more <;> first | rfl | exact h4

end Sys2Proof.Machine
end

