-- ==== Sys2Proof/Laws/Xelin.lean ====
section
/-! SUPPORT. Small facts about Xelin moves: what the read of a source can change, and when the checks of a unit let a move go on. -/
namespace Sys2Proof.Machine

/-- The read of a source changes the two stacks at most. -/
theorem readSource_stacks (c : Core) (src : MoveSrc) :
    (readSource c src).2 = { c with dstack := (readSource c src).2.dstack, rstack := (readSource c src).2.rstack } := by
  rw [readSource_snd]
  split_ifs <;> rfl

@[simp] theorem readSource_ops (c : Core) (src : MoveSrc) : (readSource c src).2.ops = c.ops := by rw [readSource_stacks]
@[simp] theorem readSource_res (c : Core) (src : MoveSrc) : (readSource c src).2.res = c.res := by rw [readSource_stacks]
@[simp] theorem readSource_guards (c : Core) (src : MoveSrc) : (readSource c src).2.guards = c.guards := by rw [readSource_stacks]
@[simp] theorem readSource_pc (c : Core) (src : MoveSrc) : (readSource c src).2.pc = c.pc := by rw [readSource_stacks]
@[simp] theorem readSource_handles (c : Core) (src : MoveSrc) : (readSource c src).2.handles = c.handles := by rw [readSource_stacks]
@[simp] theorem readSource_subs (c : Core) (src : MoveSrc) : (readSource c src).2.subs = c.subs := by rw [readSource_stacks]
@[simp] theorem readSource_fls (c : Core) (src : MoveSrc) : (readSource c src).2.fls = c.fls := by rw [readSource_stacks]
@[simp] theorem readSource_dataTagged (c : Core) (src : MoveSrc) : (readSource c src).2.dataTagged = c.dataTagged := by
  rw [readSource_stacks]
@[simp] theorem readSource_dataRam (c : Core) (src : MoveSrc) : (readSource c src).2.dataRam = c.dataRam := by rw [readSource_stacks]

/-- A tag check passes from a RAW page, and where the class accepts the tag. -/
theorem checkTag_none {tg : Bool} {p : Nat} {v : W32} {cls : Nat} :
    checkTag tg p v cls = none ↔ (tg = true → accepts cls (tagOf v) = true) := by
  cases tg <;> simp [checkTag]

/-- Checks that all pass let the operation go on. -/
theorem guarded_passes {α : Type} {cs : List (Option XTrap)} {x : α} (h : ∀ c ∈ cs, c = none) : guarded cs x = .ok x := by
  have : firstTrap cs = none := by
    induction cs with
    | nil => rfl
    | cons a l ih =>
      have ha := h a (by simp)
      subst ha
      simpa [firstTrap] using ih (fun c hc => h c (by simp [hc]))
  simp [guarded, this]

/-- The first check that fails decides. -/
theorem guarded_error {α : Type} {cs : List (Option XTrap)} {x : α} {t : XTrap} (h : firstTrap cs = some t) :
    guarded cs x = .error t := by simp [guarded, h]

theorem accessTrap_readSource (c : Core) (src : MoveSrc) (k : CoreIx) (tg : Bool) (p n a : Nat) :
    accessTrap (readSource c src).2 k tg p n a = accessTrap c k tg p n a := by rw [readSource_stacks]; rfl

/-- An issued store whose checks pass: the bytes are written at the effective address, which goes to LSU.OUT. -/
theorem store_issued {k : CoreIx} {g : BitVec 4} {dst n : Nat} {src : MoveSrc} {s : State} (h : Issued k g dst src s)
    (ht : runsTagged s k = true → tagOf s.cores[k].ops.lsuBase = 1 ∧ tagOf (moveValue s k src) = 0)
    (ha : accessTrap s.cores[k] k (runsTagged s k) dst n
      (effAddr (runsTagged s k) s.cores[k].ops.lsuBase (moveValue s k src)) = none) :
    xmove k g dst src (lsuStore dst n) s = .next (setCore k (fun c => nextPc { c with
      res := { c.res with lsu := mkVal (runsTagged s k) 1 (effAddr (runsTagged s k) s.cores[k].ops.lsuBase (moveValue s k src)) } })
      (localWrite k (effAddr (runsTagged s k) s.cores[k].ops.lsuBase (moveValue s k src)) (leBytes n s.cores[k].ops.lsuData.toNat)
        (setCore k (fun c => (readSource c src).2) s))) := by
  rw [xmove_issued _ h]
  simp only [lsuStore, setCore_self, accessTrap_readSource, readSource_ops]
  rw [guarded_passes (by
    simp only [List.mem_cons, List.not_mem_nil, or_false, forall_eq_or_imp, forall_eq, checkTag_none]
    exact ⟨fun e => by simp [-Fin.getElem_fin, accepts, (ht e).1], fun e => by simp [-Fin.getElem_fin, accepts, (ht e).2], ha⟩)]
  simp only [lsuOut, setCore_setCore]

/-- The same of a load. -/
theorem load_issued {k : CoreIx} {g : BitVec 4} {dst n : Nat} {src : MoveSrc} {s : State} (ext : Nat → W32)
    (h : Issued k g dst src s)
    (ht : runsTagged s k = true → tagOf s.cores[k].ops.lsuBase = 1 ∧ tagOf (moveValue s k src) = 0)
    (ha : accessTrap s.cores[k] k (runsTagged s k) dst n
      (effAddr (runsTagged s k) s.cores[k].ops.lsuBase (moveValue s k src)) = none) :
    ∃ r, r = localRead k (effAddr (runsTagged s k) s.cores[k].ops.lsuBase (moveValue s k src)) n
        (setCore k (fun c => (readSource c src).2) s) ∧
      xmove k g dst src (lsuLoad dst n ext) s = .next (setCore k (fun c => nextPc { c with
        res := { c.res with lsu := ext (leNat r.1) } }) r.2) := by
  refine ⟨_, Eq.refl _, ?_⟩
  rw [xmove_issued _ h]
  simp only [lsuLoad, setCore_self, accessTrap_readSource, readSource_ops]
  rw [guarded_passes (by
    simp only [List.mem_cons, List.not_mem_nil, or_false, forall_eq_or_imp, forall_eq, checkTag_none]
    exact ⟨fun e => by simp [-Fin.getElem_fin, accepts, (ht e).1], fun e => by simp [-Fin.getElem_fin, accepts, (ht e).2], ha⟩)]
  simp only [lsuOut, setCore_setCore]

@[simp] theorem nextPc_dataRam (c : Core) : (nextPc c).dataRam = c.dataRam := by
  unfold nextPc; split
  · rfl
  · split <;> rfl

/-! ### What a completion does to the cores -/

@[simp] theorem signalVector_cores (v : Fin 128) (s : State) : (signalVector v s).cores = s.cores := by
  unfold signalVector; split_ifs <;> rfl

@[simp] theorem raiseCq_cores (n : RingIx) (s : State) : (raiseCq n s).cores = s.cores := by
  unfold raiseCq; split_ifs <;> simp

@[simp] theorem moderate_cores (n : RingIx) (q : Bool) (s : State) : (moderate n q s).cores = s.cores := by
  unfold moderate; split_ifs <;> simp

@[simp] theorem writeEntry_cores (n : RingIx) (e : Entry) (s : State) : (writeEntry n e s).cores = s.cores := by
  simp [writeEntry, hostWrite]

@[simp] theorem drainCq_cores (n : RingIx) (fuel : Nat) (s : State) : (drainCq n fuel s).cores = s.cores := by
  induction fuel generalizing s with
  | zero => rfl
  | succ m ih =>
    unfold drainCq
    split
    · rfl
    · split_ifs
      · rw [ih]; simp
      · rfl

@[simp] theorem postEntry_cores (n : RingIx) (e : Entry) (s : State) : (postEntry n e s).cores = s.cores := by
  unfold postEntry; split_ifs <;> simp

/-- A completion changes a core where it answers one of the core's submissions, and nowhere else. -/
theorem complete_core (n : RingIx) (f : Fetched) (r : Reply) (s : State) (k : CoreIx) :
    ∃ l, (complete n f r s).cores[k] = { s.cores[k] with subs := l } := by
  unfold complete
  split_ifs
  · unfold finish
    split
    · rename_i j _
      by_cases h : j = k
      · subst h; exact ⟨_, by simp only [setCore_self]; rfl⟩
      · exact ⟨s.cores[k].subs, by rw [setCore_other _ _ _ _ (Ne.symm h)]; rfl⟩
    · simp only
      refine ⟨s.cores[k].subs, Eq.trans (congrArg (fun v : Vector Core 4 => v[k]) (?_ : _ = s.cores)) rfl⟩
      cases r.more <;> simp only [Bool.false_eq_true, if_true, if_false] <;> split <;> first | rfl | exact postEntry_cores _ _ _
  · exact ⟨s.cores[k].subs, rfl⟩

/-- A core's handles completed with a code: they are gone, and the rest of every core but its submissions stands. -/
theorem failHandles_core (k : CoreIx) (code : W16) (s : State) :
    ∃ l, (failHandles k code s).cores[k] = { s.cores[k] with handles := [], subs := l } := by
  unfold failHandles
  simp only
  generalize s.cores[k].handles = hs
  suffices h : ∀ (hs : List CmdHandle) (u : State),
      ∃ l, (hs.foldl (fun s h => complete h.ring h.cmd (Reply.of code) s) u).cores[k] = { u.cores[k] with subs := l } by
    obtain ⟨l, e⟩ := h hs (setCore k (fun c => { c with handles := [] }) s)
    exact ⟨l, by rw [e]; simp only [setCore_self]⟩
  intro hs
  induction hs with
  | nil => intro u; exact ⟨u.cores[k].subs, rfl⟩
  | cons a t ih =>
    intro u
    obtain ⟨l, e⟩ := ih (complete a.ring a.cmd (Reply.of code) u)
    obtain ⟨l', e'⟩ := complete_core a.ring a.cmd (Reply.of code) u k
    exact ⟨l, by rw [List.foldl_cons, e, e']⟩

end Sys2Proof.Machine
end

