-- ==== Sys2Proof/WellFormed.lean ====
section
/-! DEFINITION. Which commands are well formed: operands whose ranges the spec gives and the type of the operand does not
already hold. A meaning is total on ill-formed commands too; these checks say what a sender may send. -/
namespace Sys2Proof

/-- Register writes are of 1, 2, 4 or 8 bytes, aligned (R548). -/
def wfAccess (offset size : Nat) : Bool :=
  (decide (size = 1) || decide (size = 2) || decide (size = 4) || decide (size = 8)) && decide (offset % size = 0)

/-- Samples of one pass: 256 values, I and Q of 128 receivers (R90). -/
def wfSamples (n : Nat) : Bool := decide (n = 256)

/-- Raw samples of a stream in one pass: its 1, 4, 16 or 64 symbols, the one before and the one after (R85, R88). -/
def wfStreams (xs : List (List Byte)) : Bool :=
  [3, 6, 18, 66].any (fun n => xs.all (fun r => decide (r.length = n)))

/-- A monitor round brings conversions of every channel but those of the selected receiver (R93, R98). -/
def wfRound (convs : List (Fin 64 × Conversions)) : Bool :=
  (List.finRange 64).all (fun k => decide (k.val = 50 ∨ k.val = 51 ∨ 61 ≤ k.val) || convs.any (fun p => decide (p.1 = k)))

/-- A heartbeat payload is 32 bytes (Table 18-5). -/
def wfHeartbeat (n : Nat) : Bool := decide (n = 32)

/-- A memory-copy frame carries at most 4,096 bytes, aligned at 64 (R467). -/
def wfCopy (addr n : Nat) : Bool := decide (addr % 64 = 0) && decide (n ≤ 4096)

/-- A received frame's TYPE is the one its row names, or a reserved one (Table 18-3). -/
def wfHead (type : Byte) (h : RxHead) : Bool := decide (h.type = type ∨ h.type = 0 ∨ 7 < h.type.toNat)

/-- The well-formedness of a command. -/
def Instr.wf : Instr → Bool
  | .registerWrite o n _ => wfAccess o.toNat n
  | .sampleFold _ _ _ _ _ xs _ => wfSamples xs.length && wfStreams xs
  | .monitorRoundEnd _ convs _ _ => wfRound convs.chans
  | .heartbeatRx p => wfHeartbeat p.length
  | .ackFrameRx h _ => wfHead 2 h
  | .mirrorFrameRx h _ => wfHead 3 h
  | .memcopyFrameRx h a bs => wfHead 4 h && wfCopy a.toNat bs.length
  | .handoverFrameRx h _ => wfHead 5 h
  | .chainFrameRx h _ => wfHead 6 h
  | .resyncFrameRx h _ => wfHead 7 h
  | _ => true

end Sys2Proof
end

