-- ==== Sys2Proof/Tests/Slice0.lean ====
section
/-! SUPPORT. Tests: ill-formed commands, small steps with results from the spec, and for every statement with premises states
and operands that meet them. -/
namespace Sys2Proof.Tests
open Sys2Proof Sys2Proof.Machine
set_option Elab.async false
set_option linter.unusedVariables false

/-! ### Small states for the witnesses -/

/-- A descriptor: opcode, then fields as (offset, bytes, value). -/
def tDesc (op : Nat) (args : List (Nat × Nat × Nat)) : Descriptor :=
  ⟨args.foldl (fun b a => b.take a.1 ++ leBytes a.2.1 a.2.2 ++ b.drop (a.1 + a.2.1)) (leBytes 2 op ++ List.replicate 62 0)⟩
def tCmd (op : Nat) (args : List (Nat × Nat × Nat)) : Fetched := ⟨0, tDesc op args, 1⟩
def tInfo (op : Nat) : CmdInfo := (cmdInfo op).getD ⟨.a, false, 0, []⟩

/-- Firmware runs, in RUN, and the host reaches the BARs. -/
def tUp : State := { State.reset with
  tray := { State.reset.tray with phase := .done, powerState := .run, memReady := true, selfChecked := true },
  host := { State.reset.host with cfgValid := true, barsAssigned := true } }

/-- Ring `n` ENABLED at depth 16 with `q` queued. -/
def tRing (n : RingIx) (q : List Fetched) (s : State) : State :=
  setRing n (fun r => { r with state := .enabled, log2Depth := 4, queue := q }) s
/-- `tUp` with one descriptor waiting on ring 1. -/
def tAsk (op : Nat) (args : List (Nat × Nat × Nat)) (s : State) : State := tRing 1 [tCmd op args] s
def tGroup (g : GroupIx) (f : SwapGroup → SwapGroup) (s : State) : State :=
  { s with sets := { s.sets with groups := upd s.sets.groups g f } }

def tMem (m : MemSys → MemSys) (s : State) : State := { s with mem := m s.mem }
def tEcc : State := tMem (fun m => { m with eccUnits := [128] }) tUp
def tHost (f : HostIf → HostIf) (s : State) : State := { s with host := f s.host }
def tJob (k : JobKind) : Job :=
  { id := 0, ring := 1, desc := tDesc opMatmul [], kind := k, level := 4, params := JobParams.none, fusion := none,
    fusionEpoch := 0, fusionBound := false, model := none, modelEpoch := 0, modelBound := false, tree := TreeRun.init, accs := [],
    held := [], segments := [], blocks := [], splits := [], psum := 0, psumDies := 0, passesDone := 0, chained := false,
    tilesUsed := 0, work := 0, cost := 0, startSC := 0, started := false, sat := false, stale := false, epoch := 0,
    precision := false, degraded := false, subBatch := false, convSat := 0, convNan := 0, nanSkipped := 0, firstNewJ := none,
    peak := 0, staged := [], vecDone := 0 }
def tTile (t : TileIx) (f : Tile → Tile) (s : State) : State := setTile t f s
/-- A slot in work of group 0 in slot 0. -/
def tSlot : RadioSlot :=
  { group := 0, ring := 1, id := 0, desc := tDesc opSlot [], slotNo := 0, mapEpoch := 0, entry := GroupEntry.closed, cplane := [],
    weights := [], layers := [], fetched := false, prbs := [], sets := [⟨0, false, false, 0, none, 0, false, 0, false⟩],
    posted := 0, txSkipped := [], txSent := [], cplaneSent := false, cplaneHeld := none }
theorem tCoreWf (st : CoreState) : (Core.init st).wf :=
  ⟨rfl, rfl, (by cases st <;> rfl), rfl, (fun _ h => by cases h), Nat.zero_le _, Nat.zero_le _, (fun _ => Nat.zero_le _), (fun _ => Nat.zero_le _)⟩
theorem tGood (s : State) (h1 : s.mem = MemSys.init) (h2 : s.flash = Flash.init) (h3 : s.cores = coresInit)
    (h4 : s.xshared = ⟨[], []⟩) : s.good :=
  ⟨h1 ▸ ⟨rfl, rfl⟩, h2 ▸ ⟨rfl, rfl, rfl, rfl, rfl⟩,
   fun k => by rw [h3]; simp only [coresInit, Fin.getElem_fin, Vector.getElem_ofFn]; exact tCoreWf _, h4 ▸ ⟨rfl, rfl⟩⟩

def tFusion : FusionEntry := ⟨0, 0, 0, 0, 0, 0, 0, 0⟩
/-- Fusion entry 63 is loaded; a job table of one block stands at 0x1000; tile 9 belongs to group 15, with an image. -/
def tMat : State := { tUp with
  sets := { tUp.sets with fusionActive := put tUp.sets.fusionActive 63 (some tFusion), imageActive := put tUp.sets.imageActive 9 (some ⟨0, 0⟩) },
  mem := { tUp.mem with stackMem := [(0x1004, 1), (0x1008, 1)] },
  tiles := upd tUp.tiles 9 (fun x => { x with group := some 15, state := .ready }) }
/-- A job of one pass of one block, its fusion set bound. -/
def tRun (k : JobKind) : Job := { tJob k with
  params := { JobParams.none with nvec := 1, inStride := 64, outStride := 64, nrows := 1, ncols := 1, scales := [0], images := [0], accExp := 3 },
  fusion := some tFusion, fusionBound := true }
def tJobs (js : List Job) (s : State) : State := { s with jobs := js }
/-- Tile 0 in service and locked. -/
def tReady : State := tTile 0 (fun x => { x with state := .ready, laser := { x.laser with locked := true } }) tUp

/-- Fields as (offset, bytes, value) over zeros. -/
def tBlock (n : Nat) (args : List (Nat × Nat × Nat)) : List Byte :=
  args.foldl (fun b a => b.take a.1 ++ leBytes a.2.1 a.2.2 ++ b.drop (a.1 + a.2.1)) (List.replicate n 0)
/-- A model of one tree of one node at 0x1000, in slot 15 with check word 0. -/
def tTree : State := stackWrite 0x1080 (tBlock 64 [(0, 4, 64), (8, 2, 1), (0xA, 1, 1)])
  (stackWrite 0x1000 (tBlock 64 [(0x0, 4, 0x45545a51), (0x4, 2, 0x1), (0x7, 1, 0x1), (0x8, 4, 0x1), (0xc, 2, 0x1), (0x10, 1, 0x1), (0x18, 4, 0x40), (0x28, 8, 0x80), (0x30, 8, 0x40), (0x38, 4, 0x92a31e74)])
  { tUp with sets := { tUp.sets with modelActive := put tUp.sets.modelActive 15 (some ⟨0x1000, 0⟩) } })
def tTreeJob (planned : Bool) : Job := { tJob .tree with
  desc := tDesc opTree [(8, 1, 15), (0xC, 4, 1), (0x10, 8, 0x2000), (0x18, 4, 4), (0x1C, 4, 4), (0x20, 8, 0x3000), (0x28, 8, 0x4000)]
  params := { JobParams.none with nvec := 1 }, model := some ⟨0x1000, 0⟩, modelBound := true
  tree := { TreeRun.init with planned := planned, waveSize := if planned then 1 else 0 } }

def tStream : StreamEntry := { StreamEntry.closed with en := true, port := 3, ulGroup := 15, dlGroup := 15, eaxcUl := 0xABCD, eaxcDl := 0xABCD }
/-- Group 15 of kind `kind` with one PRB on ring 1 and stream 63 on port 3, which is up. -/
def tRadio (kind : BitVec 2) : State := { tUp with
  sets := { tUp.sets with radioActive := ⟨put tUp.sets.radioActive.streams 63 tStream,
    put tUp.sets.radioActive.groups 15 { GroupEntry.closed with en := true, kind := kind, nprb := 1, ring := 1, rxOpen := 0, rxClose := 0 }⟩ },
  radio := { tUp.radio with ports := put tUp.radio.ports 3 { Port.init with linkUp := true, signal := true, powered := true } } }
def tSlots (x : RadioSlot) (s : State) : State := { s with radio := { s.radio with slots := [x] } }
def tFrame (b : List Byte) : List Byte := List.replicate 12 0 ++ [0xAE, 0xFE] ++ b
def tDown : RadioSlot := { tSlot with entry := { GroupEntry.closed with kind := 1 } }
def tArmed (a : EventAction) : ArmedEvent := ⟨.absolute 0, a, 1, 0, 0⟩
def tArm (c : Fin 64) (a : EventAction) (s : State) : State := { s with time := { s.time with comparators := put s.time.comparators c (some (tArmed a)) } }
def tTime (f : TimeUnit → TimeUnit) (s : State) : State := { s with time := f s.time }
def tWoad (f : Woad → Woad) (s : State) : State := { s with woad := f s.woad }
def tMaster : Master := ⟨3, 0, 0, 2⟩

/-- A rule record of 16 bytes with its check word at 0x1000. -/
def tRule : State := stackWrite 0x1000 (tBlock 16 [(8, 2, 1), (10, 2, 1), (12, 4, 0xe5878792)]) tUp
def tHead : List Byte := tBlock 16 [(0, 4, 0x52575A51), (4, 2, 1), (12, 4, 276)]
/-- A stored rule set of zeros with its check word. -/
def tStored : State := { tUp with flash := { tUp.flash with
  archive := ((List.range 276).zip (tHead ++ List.replicate 256 0 ++ leBytes 4 0xbebe2050)).map (fun p => (0x42000 + p.1, p.2)) } }
theorem tRulesCrc : crc32c (tHead ++ List.replicate 256 0) = 0xbebe2050 := by
  have z : (List.replicate 256 0 : List Byte) = List.replicate 32 0 ++ (List.replicate 32 0 ++ (List.replicate 32 0 ++
    (List.replicate 32 0 ++ (List.replicate 32 0 ++ (List.replicate 32 0 ++ (List.replicate 32 0 ++ List.replicate 32 0)))))) := by decide +kernel
  rw [crc32c, z]
  simp only [List.foldl_append]
  rw [(by decide +kernel : tHead.foldl crcByte 0xFFFFFFFF#32 = 0xd1140b78#32)]
  rw [(by decide +kernel : (List.replicate 32 0 : List Byte).foldl crcByte 0xd1140b78#32 = 0x41d38ef6#32)]
  rw [(by decide +kernel : (List.replicate 32 0 : List Byte).foldl crcByte 0x41d38ef6#32 = 0x7a616e5a#32)]
  rw [(by decide +kernel : (List.replicate 32 0 : List Byte).foldl crcByte 0x7a616e5a#32 = 0xce5eb480#32)]
  rw [(by decide +kernel : (List.replicate 32 0 : List Byte).foldl crcByte 0xce5eb480#32 = 0x7746a401#32)]
  rw [(by decide +kernel : (List.replicate 32 0 : List Byte).foldl crcByte 0x7746a401#32 = 0x4850018b#32)]
  rw [(by decide +kernel : (List.replicate 32 0 : List Byte).foldl crcByte 0x4850018b#32 = 0xc5389861#32)]
  rw [(by decide +kernel : (List.replicate 32 0 : List Byte).foldl crcByte 0xc5389861#32 = 0xf41797d#32)]
  rw [(by decide +kernel : (List.replicate 32 0 : List Byte).foldl crcByte 0xf41797d#32 = 0x4141dfaf#32)]
  decide +kernel
theorem tStoredRules : bestSmall tStored 0x52575A51 0x42000 256 = some 0 := by
  have a : smallValid tStored 0x52575A51 0x42000 256 = true := by
    have h : (flashRead tStored .archive 0x42000 276).take 272 = tHead ++ List.replicate 256 0 := by decide +kernel
    have e : field (flashRead tStored .archive 0x42000 276) 0 4 = 0x52575A51 := by decide +kernel
    have k : field (flashRead tStored .archive 0x42000 276) 272 4 = 0xbebe2050 := by decide +kernel
    have l : field (flashRead tStored .archive 0x42000 276) 4 2 = 1 ∧ field (flashRead tStored .archive 0x42000 276) 12 4 = 276 := by decide +kernel
    have g : ¬((halfErasedIn tStored .archive 0x42000 4096 = true) ∨ tStored.flash.archUnread = true) := by decide +kernel
    simp only [smallValid, h, e, k, l, tRulesCrc, if_neg g, ne_eq, not_true_eq_false, if_false]
    decide +kernel
  have b : smallValid tStored 0x52575A51 0x43000 256 = false := by decide +kernel
  simp only [bestSmall, a, b, if_true, Bool.false_and, Bool.false_eq_true, if_false]
/-- Interleave coefficients of `n` pairs: offsets 0, gains 1, skew 0. -/
def tPairs : Nat → List Byte
  | 0 => []
  | n + 1 => [0, 0, 0, 0, 0, 0x80, 0, 0x80, 0, 0] ++ tPairs n
theorem tPairs_length (n : Nat) : (tPairs n).length = 10 * n := by
  induction n with
  | zero => rfl
  | succ m ih => simp [tPairs, ih]; omega
theorem tPairs_drop (n k : Nat) (h : k < n) : (tPairs n).drop (10 * k) = tPairs (n - k) := by
  induction k generalizing n with
  | zero => rfl
  | succ m ih =>
    obtain ⟨j, rfl⟩ : ∃ j, n = j + 1 := ⟨n - 1, by omega⟩
    have e : 10 * (m + 1) = 10 + 10 * m := by omega
    rw [e, ← List.drop_drop, show (tPairs (j + 1)).drop 10 = tPairs j from rfl, ih j (by omega)]
    congr 1; omega
theorem tPairsRead (k n a : Nat) (s : State) (hk : k = 0x0101) (hn : n = 2560) (ha : a = 2 ^ 63 + 0x2000)
    (hs : s.mem.stackMem = memWriteN zeroByte [] 0x2000 (tPairs 256)) : badCoef k (daddrRead s a n) = false := by
  subst hk hn ha
  have r : daddrRead s (2 ^ 63 + 0x2000) 2560 = tPairs 256 := by
    have h1 : daddrIsStack (2 ^ 63 + 0x2000) = true := by decide +kernel
    have h2 : daddrOff (2 ^ 63 + 0x2000) = 0x2000 := by decide +kernel
    have h3 := memReadN_memWriteN zeroByte (tPairs 256) [] 0x2000 rfl
    rw [tPairs_length] at h3
    simp only [daddrRead, h1, if_true, h2, stackRead, hs]; exact h3
  rw [r]
  simp only [badCoef, Nat.reduceEqDiff, reduceIte, List.any_eq_false]
  intro i hi
  have hi : i < 256 := List.mem_range.1 hi
  obtain ⟨m, hm⟩ : ∃ m, 256 - i = m + 1 := ⟨255 - i, by omega⟩
  have d : ∀ o, (tPairs 256).drop (10 * i + o) = (tPairs (m + 1)).drop o := by
    intro o; rw [← List.drop_drop, tPairs_drop 256 i hi, hm]
  have g : ∀ o, (tPairs 256).getD (10 * i + o) 0 = (tPairs (m + 1)).getD o 0 := by
    intro o; simp only [List.getD_eq_getElem?_getD, ← List.getElem?_drop, tPairs_drop 256 i hi, hm]
  have d0 := d 0
  simp only [Nat.add_zero] at d0
  generalize tPairs 256 = P at d d0 g ⊢
  simp only [s16Out, s16At, field, byteAt, d, d0, g, tPairs]
  generalize tPairs m = T
  exact Bool.false_ne_true

/-- Group 15 of the active mapping is enabled and names tile 9 as ALT_TILE. -/
def tNamed : State := { tUp with sets := { tUp.sets with radioActive := { tUp.sets.radioActive with
  groups := put tUp.sets.radioActive.groups 15 { GroupEntry.closed with en := true, altTile := 9 } } } }

theorem tNoKey (s : State) (h : s.flash = Flash.init) : keyEnrolled s = false := by
  have k : extKey s = List.replicate 50 0xFF ++ List.replicate 47 0xFF := by
    have e : extKey s = extKey { tUp with flash := Flash.init } := by simp only [extKey, flashRead, h]
    rw [e]; decide +kernel
  have q : leNat (flashRead s .code0 (infoBase + 0x40A4) 4) = 0xFFFFFFFF := by
    have e : flashRead s .code0 (infoBase + 0x40A4) 4 = flashRead { tUp with flash := Flash.init } .code0 (infoBase + 0x40A4) 4 := by
      simp only [flashRead, h]
    rw [e]; decide +kernel
  rw [keyEnrolled, k, q, crc32c, List.foldl_append]
  generalize hc : (List.replicate 50 0xFF : List Byte).foldl crcByte 0xFFFFFFFF#32 = c
  have : c = 0xc3540d0a#32 := hc.symm.trans (by decide +kernel)
  subst this; decide +kernel

/-- The twin's heartbeat: role, power state, stage, flags; FW_REL major 2, variant B, the other slot. -/
def tHb (role flags : Byte) : List Byte := [role, 4, 0, flags, 0, 0, 0, 2] ++ List.replicate 20 0 ++ [0, 1, 0, 0]
/-- A twin heard from, on a link that is up. -/
def tTwin (role flags : Byte) (f : Twin → Twin) (s : State) : State :=
  { s with twin := f { s.twin with hbRx := 1, pairState := .synced, linkState := .up, hbRunning := true, hbLast := tHb role flags } }

/-- Operand ports that hold INT 0, pointers into data RAM and the handle 5; an empty FLS.ARRAY names the archive. -/
def tOps : Operands :=
  { limmHi := 0, aluA := 0, mulA := 0, cmpA := 0, cmpG := 1, lsuBase := mkTagged 1 0x1000, lsuData := 0, mbxH := mkTagged 3 5,
    mbxResult := 0, mbxReshi := 0, mbxDetail := 0, mbxFlags := 0, xfrLocal := mkTagged 1 0x1000, xfrFar0 := 64, xfrFar1 := 0,
    xfrFar2 := 0, xfrFar3 := 0, xfrLen := 64, flsArray := 0, flsAddrLo := 0, flsAddrHi := 0xB0, flsLocal := mkTagged 1 0x1000,
    flsLen := 4096, csrData := 0 }
/-- Core `k` of `s` with those operand ports and the word `v` in ALU.OUT, changed by `f`. -/
def tCore (k : CoreIx) (v : W32) (f : Core → Core) (s : State) : State :=
  setCore k (fun c => f { c with ops := tOps, res := { c.res with alu := v } }) s
def tEntry : Entry := ⟨0, 0, 0, 0, 0, false, false, false, false⟩
def tNext (o : Host.Outcome State Fault Refusal) : State := match o with | .next t => t | _ => State.reset
def tIsNext (o : Host.Outcome State Fault Refusal) : Bool := match o with | .next _ => true | _ => false
theorem tNext_eq (o : Host.Outcome State Fault Refusal) (h : tIsNext o = true) : o = .next (tNext o) := by
  cases o with
  | next _ => rfl
  | _ => cases h
theorem tGoodCore (k : CoreIx) (o : Operands) (r : Results) (s : State) (h1 : s.mem = MemSys.init) (h2 : s.flash = Flash.init)
    (h3 : s.cores = upd coresInit k (fun c => { c with ops := o, res := r })) (h4 : s.xshared = ⟨[], []⟩) : s.good := by
  refine ⟨h1 ▸ ⟨rfl, rfl⟩, h2 ▸ ⟨rfl, rfl, rfl, rfl, rfl⟩, fun j => ?_, h4 ▸ ⟨rfl, rfl⟩⟩
  rw [h3]
  by_cases h : j = k
  · subst h; rw [upd_self]
    have := tCoreWf (if j.val = 2 then .halted else .running)
    simp only [coresInit, Fin.getElem_fin, Vector.getElem_ofFn]
    exact ⟨this.1, this.2, this.3, this.4, this.5, this.6, this.7, this.8, this.9⟩
  · rw [upd_other _ _ _ _ h]; simp only [coresInit, Fin.getElem_fin, Vector.getElem_ofFn]; exact tCoreWf _
theorem tGoodRaw (k : CoreIx) (o : Operands) (r : Results) (s : State) (h1 : s.mem = MemSys.init) (h2 : s.flash = Flash.init)
    (h3 : s.cores = upd coresInit k (fun c => { c with ops := o, res := r, codeTagged := Vector.replicate 64 false, dataTagged := Vector.replicate 32 false })) (h4 : s.xshared = ⟨[], []⟩) : s.good := by
  refine ⟨h1 ▸ ⟨rfl, rfl⟩, h2 ▸ ⟨rfl, rfl, rfl, rfl, rfl⟩, fun j => ?_, h4 ▸ ⟨rfl, rfl⟩⟩
  rw [h3]
  by_cases h : j = k
  · subst h; rw [upd_self]
    have := tCoreWf (if j.val = 2 then .halted else .running)
    simp only [coresInit, Fin.getElem_fin, Vector.getElem_ofFn]
    exact ⟨this.1, rfl, this.3, this.4, this.5, this.6, this.7, this.8, this.9⟩
  · rw [upd_other _ _ _ _ h]; simp only [coresInit, Fin.getElem_fin, Vector.getElem_ofFn]; exact tCoreWf _

/-- An enrolled key of erased bytes, and an extension image of one code page at 0x1000 of the stacks. -/
def tExt : State := stackWrite 0x1000 (tBlock 0xF0 [(0, 4, 0x58455A51), (4, 2, 1), (0xC, 4, 4448), (0x10, 4, 0x100), (0x40, 2, 1), (0x44, 1, 1)])
  { tUp with flash := { tUp.flash with info0 := ((List.range 4).zip (leBytes 4 0x5569875)).map (fun p => (0x40A4 + p.1, p.2)) } }
theorem tExtKey (s : State) (h : s.flash = tExt.flash) : keyEnrolled s = true := by
  have k : extKey s = List.replicate 50 0xFF ++ List.replicate 47 0xFF := by
    have e : extKey s = extKey tExt := by simp only [extKey, flashRead, h]
    rw [e]; decide +kernel
  have q : leNat (flashRead s .code0 (infoBase + 0x40A4) 4) = 0x5569875 := by
    have e : flashRead s .code0 (infoBase + 0x40A4) 4 = flashRead tExt .code0 (infoBase + 0x40A4) 4 := by
      simp only [flashRead, h]
    rw [e]; decide +kernel
  rw [keyEnrolled, k, q, crc32c, List.foldl_append]
  generalize hc : (List.replicate 50 0xFF : List Byte).foldl crcByte 0xFFFFFFFF#32 = c
  have : c = 0xc3540d0a#32 := hc.symm.trans (by decide +kernel)
  subst this; decide +kernel

/-! ### Ill-formed commands -/

/-- A register write of three bytes (R548). -/
theorem test_wf_register_write_size : Instr.wf (.registerWrite 0x108 3 0) = false := by decide
/-- A register write of 8 bytes that is not aligned (R548). -/
theorem test_wf_register_write_aligned : Instr.wf (.registerWrite 0x104 8 0) = false ∧ Instr.wf (.registerWrite 0x108 8 0) = true := by
  decide
/-- A heartbeat of 31 bytes (Table 18-5). -/
theorem test_wf_heartbeat : Instr.wf (.heartbeatRx (List.replicate 31 0)) = false := by decide
/-- A memory copy at an address that is not a multiple of 64 (R467). -/
theorem test_wf_memcopy_address : Instr.wf (.memcopyFrameRx ⟨3, 1, 0, true⟩ 32 [0]) = false := by decide
/-- A memory copy of 4,097 bytes (R467). -/
theorem test_wf_memcopy_length : Instr.wf (.memcopyFrameRx ⟨3, 1, 0, true⟩ 64 (List.replicate 4097 0)) = false := by decide +kernel

/-! ### Small steps -/

/-- An empty queue with the root PLL locked: one SCLK passes (R230). -/
theorem test_step_idle : ∃ t, step (tTime (fun t => { t with rootLock := true }) tUp) = .next t ∧ t.time.symbolCount = 1 := ⟨_, rfl, by decide +kernel⟩
/-- CMDSET_REV and the magic of the identity block (Table 12-4): "QZID" in the first four bytes. -/
theorem test_identity_magic : leNat ((identityBlock tUp).take 4) = 0x44495A51 := by decide +kernel
/-- The symbol counter starts at 0 and the time of day at the GPS epoch (R230, R231). -/
theorem test_reset_time : State.reset.time.symbolCount = 0 ∧ State.reset.time.todSec = 315964819 := by decide
/-- ALU.ADD wraps at 29 bits: 2^28 - 1 plus 1 is -2^28 (R498). -/
theorem test_alu_add_wraps : aluAdd true (mkTagged 0 0xFFFFFFF) (mkTagged 0 1) = mkTagged 0 0x10000000 := by decide +kernel
/-- A short immediate of all ones is -1: payload 0x1FFFFFFF (R521). -/
theorem test_short_immediate : (readSource (Core.init .running) (.imm 0x7FFFF)).1 = 0x1FFFFFFF := by decide +kernel
/-- Half precision: 1.5 is 0x3E00, the largest finite value 65,504 is 0x7BFF. -/
theorem test_fp16 : fp16.encode (fp16.fit (fp16.decode 0x3E00)) = 0x3E00 ∧ fp16.encode (fp16.fit (ofInt 65504 0)) = 0x7BFF := by
  decide +kernel
/-- A doorbell past the depth of its ring is discarded and reported (R296). -/
theorem test_doorbell_range : ∃ t, exec (.sqDb 1 16) (tRing 1 [] tUp) = .next t ∧ (t.rings[(1 : RingIx)]).dbError = true ∧
    (t.rings[(1 : RingIx)]).sqTail = 0 := ⟨_, rfl, by decide +kernel, by decide +kernel⟩
/-- A doorbell inside it moves SQ_TAIL (R294). -/
theorem test_doorbell : ∃ t, exec (.sqDb 1 15) (tRing 1 [] tUp) = .next t ∧ (t.rings[(1 : RingIx)]).sqTail = 15 :=
  ⟨_, rfl, by decide +kernel⟩
/-- The table gives no row any bits. -/
theorem test_no_bits : decodeTableWord 32 0 = none := by decide

/-- Nothing retired: V logical column k is physical column k, and U logical column k is physical column k + 2 (R43). -/
theorem test_columns_in_place : physicalColumn false [] 63 = some 63 ∧ physicalColumn true [] 0 = some 2 := by decide +kernel
/-- A retired column moves the columns between it and D one place toward D, and a spare stands in (R42, R43). -/
theorem test_columns_past_a_retired_one : physicalColumn false [10] 10 = some 11 ∧ physicalColumn false [10] 9 = some 9 ∧
    physicalColumn true [10] 8 = some 9 ∧ physicalColumn true [10] 9 = some 11 := by decide +kernel
/-- A map of thirteen nominal weights: code 1,023 is 4,092 quarter-steps, met exactly; offset 8 takes 2 steps off (R48, R50). -/
theorem test_translate : (translate ⟨0, [9, 8, 12, 7, 11, 6, 10, 5, 4, 3, 2, 1, 0].map (fun k => (k, nominalWeight k))⟩ 1023).2 = 0 ∧
    targetOf 8 1 = 4092 := by decide +kernel
/-- Words of Table 20-13: imm 0 to LSU.LDW, and LSU.OUT to ALU.ADD under guard 1. -/
theorem test_move_words : decodeMove 0x03A80000 = ⟨0, 0x3A, .imm 0⟩ ∧ decodeMove 0x11100038 = ⟨1, 0x11, .port 0x38⟩ ∧
    encodeMove ⟨1, 0x48, .port 0x08⟩ = 0x14800008 := by decide +kernel
/-- A move of Table 20-14: imm 8 to MBX.ARG16. -/
theorem test_move_word_of_a_handler : decodeMove 0x06580008 = ⟨0, 0x65, .imm 8⟩ := by decide +kernel
/-- A raw code of +127 clips its pass, codes of 0 do not (R89). -/
theorem test_clip : (detectPass Convert.init 1 false [[0, 0x7F, 0]]).2 = true ∧ (detectPass Convert.init 1 false [[0, 0, 0]]).2 = false := by
  decide +kernel
/-- The acknowledgement of a frame whose CHECK fails is a NAK and nothing else is taken (R7, R458). -/
theorem test_bad_check_is_not_applied : ∃ t, exec (.memcopyFrameRx ⟨3, 0, 0, false⟩ 64 [1]) (tTwin 2 0 (fun x => { x with role := .standby }) tUp) = .next t ∧
    t.mem.stackMem = [] := ⟨_, rfl, by decide +kernel⟩

/-! ### Witnesses -/

/-- The premises of ConfigurationSetCommandsTakeEffect can be met. -/
theorem witness_ConfigurationSetCommandsTakeEffect :
  (∃ (n : RingIx) (f : Fetched) (i : CmdInfo) (s : State) (u : State), Accepted opSetOpen n f i s ∧ u = dispatch n f s ∧ f.desc.u8 8 ≤ 15 ∧ f.desc.u8 9 ≤ 1 ∧ u.sets.groups[groupOf f.desc].shadow ≠ .pending ∧ committing u (groupOf f.desc) = false ∧ inUse u (groupOf f.desc) = false) ∧
  (∃ (n : RingIx) (f : Fetched) (i : CmdInfo) (s : State) (u : State), Accepted opSetStage n f i s ∧ u = dispatch n f s ∧ allPass (setStageArgs f u) ∧ u.sets.groups[groupOf f.desc].shadow = .opened ∧ committing u (groupOf f.desc) = false ∧ inUse u (groupOf f.desc) = false ∧ readFails u (f.desc.u64 0x10) (f.desc.u16 0x0C * entrySize (f.desc.u8 9)) = none ∧ stagedReserved (f.desc.u8 9) (f.desc.u16 0x0A) (daddrRead u (f.desc.u64 0x10) (f.desc.u16 0x0C * entrySize (f.desc.u8 9))) (f.desc.u16 0x0C) = none) ∧
  (∃ (n : RingIx) (f : Fetched) (i : CmdInfo) (s : State) (u : State), Accepted opSetCommit n f i s ∧ u = dispatch n f s ∧ f.desc.u8 8 ≤ 15 ∧ u.sets.groups[groupOf f.desc].shadow = .opened ∧ committing u (groupOf f.desc) = false ∧ commitFault u (groupOf f.desc) = none) ∧
  (∃ (n : RingIx) (f : Fetched) (i : CmdInfo) (s : State) (u : State), Accepted opSetDiscard n f i s ∧ u = dispatch n f s ∧ f.desc.u8 8 ≤ 15 ∧ u.sets.groups[groupOf f.desc].shadow ≠ .pending ∧ committing u (groupOf f.desc) = false ∧ inUse u (groupOf f.desc) = false) ∧
  (∃ (n : RingIx) (f : Fetched) (i : CmdInfo) (s : State) (u : State), Accepted opSetSwap n f i s ∧ u = dispatch n f s ∧ f.desc.u8 8 ≤ 15 ∧ (u.sets.groups[groupOf f.desc].shadow = .staged ∨ u.sets.groups[groupOf f.desc].shadow = .pending) ∧ committing u (groupOf f.desc) = false ∧ groupOf f.desc ≠ 0 ∧ groupHeld u (groupOf f.desc) = false) ∧
  (∃ (n : RingIx) (f : Fetched) (i : CmdInfo) (s : State) (u : State), Accepted opSetSwap n f i s ∧ u = dispatch n f s ∧ f.desc.u8 8 ≤ 15 ∧ (u.sets.groups[groupOf f.desc].shadow = .staged ∨ u.sets.groups[groupOf f.desc].shadow = .pending) ∧ committing u (groupOf f.desc) = false ∧ groupOf f.desc ≠ 0 ∧ groupHeld u (groupOf f.desc) = true) ∧
  (∃ (n : RingIx) (f : Fetched) (i : CmdInfo) (s : State) (u : State) (c : _) (cs : _), Accepted opSetSwap n f i s ∧ u = dispatch n f s ∧ f.desc.u8 8 ≤ 15 ∧ (u.sets.groups[groupOf f.desc].shadow = .staged ∨ u.sets.groups[groupOf f.desc].shadow = .pending) ∧ committing u (groupOf f.desc) = false ∧ groupOf f.desc = 0 ∧ freeComparators u = c :: cs) ∧
  (∃ (n : RingIx) (f : Fetched) (i : CmdInfo) (s : State) (u : State), Accepted opSetRead n f i s ∧ u = dispatch n f s ∧ f.desc.u8 8 ≤ 15 ∧ f.desc.u8 9 ≤ 1 ∧ badDaddr u.tray.variant (f.desc.u64 0x10) 64 = false ∧ committing u (groupOf f.desc) = false ∧ writeFails u (f.desc.u64 0x10) (setBytes u.sets (groupOf f.desc) (decide (f.desc.u8 9 = 1))).length = none) ∧
  (∃ (n : RingIx) (f : Fetched) (i : CmdInfo) (s : State) (u : State), Accepted opSetMember n f i s ∧ u = dispatch n f s ∧ 3 ≤ f.desc.u8 8 ∧ f.desc.u8 8 ≤ 15 ∧ f.desc.u16 0x0A < 1024 ∧ u.sets.groups[groupOf f.desc].shadow = .empty ∧ committing u (groupOf f.desc) = false ∧ u.sets.groups[groupOf f.desc].joining = none ∧ (∀ t : TileIx, u.sets.groups[groupOf f.desc].members.getLsbD t.val = true → residentRuns u t = false) ∧ (∀ t : TileIx, (BitVec.ofNat 10 (f.desc.u16 0x0A)).getLsbD t.val = true → u.sets.groups[groupOf f.desc].members.getLsbD t.val = false → u.tiles[t].group = none ∧ joinsGroup u t = false ∧ ∀ e ∈ u.sets.radioActive.groups.toList, e.en = true → e.tile.toNat ≠ t.val ∧ e.altTile.toNat ≠ t.val)) ∧
  (∃ (t : TileIx) (l : ShadowLoad) (s : State) (u : State), s.tiles[t].mesh.load = some l ∧ u = setTile t (endLoad t) s ∧ s.tiles[t].state = .maint) ∧
  (∃ (t : TileIx) (l : ShadowLoad) (s : State) (u : State) (g : _), s.tiles[t].mesh.load = some l ∧ u = setTile t (endLoad t) s ∧ s.tiles[t].state ≠ .maint ∧ l.use = .commit ∧ s.tiles[t].group = some g) ∧
  (∃ (t : TileIx) (l : ShadowLoad) (s : State) (u : State), s.tiles[t].mesh.load = some l ∧ u = setTile t (endLoad t) s ∧ s.tiles[t].state ≠ .maint ∧ l.use = .reload ∧ midPass u.tiles[t] = false) ∧
  (∃ (t : TileIx) (l : ShadowLoad) (s : State) (u : State) (id : _), s.tiles[t].mesh.load = some l ∧ u = setTile t (endLoad t) s ∧ s.tiles[t].state ≠ .maint ∧ l.use = .batch id ∧ u.tiles[t].job = some id ∧ segmentWaits u t = true) :=
  ⟨⟨1, tCmd opSetOpen [(8,1,3),(9,1,1)], tInfo opSetOpen, tAsk opSetOpen [(8,1,3),(9,1,1)] (tUp), _, ⟨by decide +kernel, by decide +kernel, by decide +kernel, by decide +kernel, by decide +kernel⟩, rfl, by decide +kernel, by decide +kernel, by decide +kernel, by decide +kernel, by decide +kernel⟩,
  ⟨1, tCmd opSetStage [(8,1,0),(9,1,0),(0xC,2,1),(0x10,8,64)], tInfo opSetStage, tAsk opSetStage [(8,1,0),(9,1,0),(0xC,2,1),(0x10,8,64)] (tGroup 0 (fun x => { x with shadow := .opened }) (tUp)), _, ⟨by decide +kernel, by decide +kernel, by decide +kernel, by decide +kernel, by decide +kernel⟩, rfl, by unfold allPass; decide +kernel, by decide +kernel, by decide +kernel, by decide +kernel, by decide +kernel, by decide +kernel⟩,
  ⟨1, tCmd opSetCommit [(8,1,1)], tInfo opSetCommit, tAsk opSetCommit [(8,1,1)] (tGroup 1 (fun x => { x with shadow := .opened }) (tUp)), _, ⟨by decide +kernel, by decide +kernel, by decide +kernel, by decide +kernel, by decide +kernel⟩, rfl, by decide +kernel, by decide +kernel, by decide +kernel, by decide +kernel⟩,
  ⟨1, tCmd opSetDiscard [(8,1,15)], tInfo opSetDiscard, tAsk opSetDiscard [(8,1,15)] (tGroup 15 (fun x => { x with shadow := .staged }) (tUp)), _, ⟨by decide +kernel, by decide +kernel, by decide +kernel, by decide +kernel, by decide +kernel⟩, rfl, by decide +kernel, by decide +kernel, by decide +kernel, by decide +kernel⟩,
  ⟨1, tCmd opSetSwap [(8,1,3)], tInfo opSetSwap, tAsk opSetSwap [(8,1,3)] (tGroup 3 (fun x => { x with shadow := .staged }) (tUp)), _, ⟨by decide +kernel, by decide +kernel, by decide +kernel, by decide +kernel, by decide +kernel⟩, rfl, by decide +kernel, by decide +kernel, by decide +kernel, by decide +kernel, by decide +kernel⟩,
  ⟨1, tCmd opSetSwap [(8,1,15)], tInfo opSetSwap, tAsk opSetSwap [(8,1,15)] ({ tTile 9 (fun x => { x with group := some 15, state := .ready, mesh := { x.mesh with shadow := { x.mesh.shadow with complete := false } } }) tUp with sets := { tUp.sets with groups := upd tUp.sets.groups 15 (fun x => { x with shadow := .pending, members := 0x200 }) } }), _, ⟨by decide +kernel, by decide +kernel, by decide +kernel, by decide +kernel, by decide +kernel⟩, rfl, by decide +kernel, by decide +kernel, by decide +kernel, by decide +kernel, by decide +kernel⟩,
  ⟨1, tCmd opSetSwap [(8,1,0)], tInfo opSetSwap, tAsk opSetSwap [(8,1,0)] (tGroup 0 (fun x => { x with shadow := .staged }) (tUp)), _, 0, (List.finRange 64).tail, ⟨by decide +kernel, by decide +kernel, by decide +kernel, by decide +kernel, by decide +kernel⟩, rfl, by decide +kernel, by decide +kernel, by decide +kernel, by decide +kernel, by decide +kernel⟩,
  ⟨1, tCmd opSetRead [(8,1,3),(9,1,1),(0x10,8,4096)], tInfo opSetRead, tAsk opSetRead [(8,1,3),(9,1,1),(0x10,8,4096)] (tUp), _, ⟨by decide +kernel, by decide +kernel, by decide +kernel, by decide +kernel, by decide +kernel⟩, rfl, by decide +kernel, by decide +kernel, by decide +kernel, by decide +kernel, by decide +kernel⟩,
  ⟨1, tCmd opSetMember [(8,1,3),(0xA,2,0x201)], tInfo opSetMember, tAsk opSetMember [(8,1,3),(0xA,2,0x201)] (tUp), _, ⟨by decide +kernel, by decide +kernel, by decide +kernel, by decide +kernel, by decide +kernel⟩, rfl, by decide +kernel, by decide +kernel, by decide +kernel, by decide +kernel, by decide +kernel, by decide +kernel, by decide +kernel, by decide +kernel⟩,
  ⟨9, newLoad [] .commit 0 false, tTile 9 (fun x => { x with state := .maint, mesh := { x.mesh with load := some (newLoad [] .commit 0 false) } }) tUp, _, by decide +kernel, rfl, by decide +kernel⟩,
  ⟨0, newLoad [] .commit 0 false, tTile 0 (fun x => { x with state := .ready, mesh := { x.mesh with load := some (newLoad [] .commit 0 false) }, group := some 3 }) tUp, _, 3, by decide +kernel, rfl, by decide +kernel, by decide +kernel, by decide +kernel⟩,
  ⟨9, newLoad [] .reload 6 true, tTile 9 (fun x => { x with state := .ready, mesh := { x.mesh with load := some (newLoad [] .reload 6 true) } }) tUp, _, by decide +kernel, rfl, by decide +kernel, by decide +kernel, by decide +kernel⟩,
  ⟨0, newLoad [] (.batch 0) 4 false, tJobs [{ tRun .matmul with segments := [⟨0, 0, 0, 0, 1, true, true, false⟩] }] (tTile 0 (fun x => { x with state := .serving, job := some 0, mesh := { x.mesh with load := some (newLoad [] (.batch 0) 4 false) } }) tUp), _, 0, by decide +kernel, rfl, by decide +kernel, by decide +kernel, by decide +kernel, by decide +kernel⟩⟩

/-- The premises of ExtensionAndCoreServices can be met, but for the signature test of the image (an opaque constant). -/
theorem witness_ExtensionAndCoreServices :
  (∃ (n : RingIx) (f : Fetched) (i : CmdInfo) (s : State) (u : State), Accepted opExtLoad n f i s ∧ u = dispatch n f s ∧ badDaddr u.tray.variant (f.desc.u64 0x10) 1 = false ∧ 0 < f.desc.u32 0x18 ∧ f.desc.u32 0x18 ≤ 4194304 ∧ keyEnrolled u = true ∧ u.ext.loaded = false ∧ readFails u (f.desc.u64 0x10) (f.desc.u32 0x18) = none ∧ field (daddrRead u (f.desc.u64 0x10) (f.desc.u32 0x18)) 8 2 = extCounter u ∧ layoutOk (daddrRead u (f.desc.u64 0x10) (f.desc.u32 0x18)) = true) ∧
  (∃ (n : RingIx) (f : Fetched) (i : CmdInfo) (s : State) (u : State), Accepted opExtUnload n f i s ∧ u = dispatch n f s ∧ u.ext.loaded = true) ∧
  (∃ (n : RingIx) (f : Fetched) (i : CmdInfo) (s : State) (u : State), firmwareServes s = true ∧ nextFor forwardedOp n s = some f ∧ cmdInfo f.desc.opcode = some i ∧ allPass (reservedChecks i f.desc) ∧ u = dispatch n f s ∧ legalityCode i.legal u.tray.powerState (decide (u.twin.role = .standby)) u.tray.debugOn = none ∧ s.ext.loaded = true ∧ forwardedNow s < 8) ∧
  (∃ (k : CoreIx) (s : State), s.cores[k].state = .running ∧ issues s k = true ∧ s.cores[k].mbx ≠ .receiving ∧ wdogExpired s.cores[k] = true) ∧
  (∃ (k : CoreIx) (s : State), s.cores[k].state = .restarting) ∧
  (∃ (x : W64) (s : State), s.cores[(1 : CoreIx)].state = .running ∧ firmwareRuns s = true ∧ (∃ y ∈ s.radio.slots, y.slotNo = x)) ∧
  (∃ (n : RingIx) (id : Nat) (f : Fetched) (s : State), firmwareRuns s = true ∧ s.rings[n].dispatched.find? (fun g => decide (g.id = id)) = some f ∧ isForwarded id s = true) ∧
  (∃ (n : RingIx) (id : Nat) (f : Fetched) (s : State), firmwareRuns s = true ∧ s.rings[n].dispatched.find? (fun g => decide (g.id = id)) = some f ∧ isForwarded id s = false) :=
  ⟨⟨1, tCmd opExtLoad [(0x10,8,2 ^ 63 + 0x1000),(0x18,4,4448)], tInfo opExtLoad, tAsk opExtLoad [(0x10,8,2 ^ 63 + 0x1000),(0x18,4,4448)] (tExt), _, ⟨by decide +kernel, by decide +kernel, by decide +kernel, by decide +kernel, by decide +kernel⟩, rfl, by decide +kernel, by decide +kernel, by decide +kernel, tExtKey _ rfl, by decide +kernel, by decide +kernel, by decide +kernel, by decide +kernel⟩,
  ⟨1, tCmd opExtUnload [], tInfo opExtUnload, tAsk opExtUnload [] ({ tUp with ext := ⟨true, 0⟩ }), _, ⟨by decide +kernel, by decide +kernel, by decide +kernel, by decide +kernel, by decide +kernel⟩, rfl, by decide +kernel⟩,
  ⟨1, tCmd 0x2001 [], tInfo 0x2001, tAsk 0x2001 [] { tUp with ext := ⟨true, 0⟩ }, _, by decide +kernel, by decide +kernel, by decide +kernel, by unfold allPass; decide +kernel, rfl, by decide +kernel, by decide +kernel, by decide +kernel⟩,
  ⟨1, setCore 1 (fun c => { c with kclk := 491520 }) tUp, by decide +kernel, by decide +kernel, by decide +kernel, by decide +kernel⟩,
  ⟨2, setCore 2 (fun c => { c with state := .restarting }) tUp, by decide +kernel⟩,
  ⟨0, { tUp with radio := { tUp.radio with slots := [tSlot] } }, by decide +kernel, by decide +kernel, by decide +kernel⟩,
  ⟨1, 7, { tCmd 0x2001 [] with id := 7 }, setCore 2 (fun c => { c with routed := [(1, { tCmd 0x2001 [] with id := 7 })] }) (setRing 1 (fun r => { r with dispatched := [{ tCmd 0x2001 [] with id := 7 }] }) tUp), by decide +kernel, by decide +kernel, by decide +kernel⟩,
  ⟨1, 7, { tCmd opTree [] with id := 7 }, setRing 1 (fun r => { r with dispatched := [{ tCmd opTree [] with id := 7 }] }) tUp, by decide +kernel, by decide +kernel, by decide +kernel⟩⟩

/-- The premises of StepTakesTheFrontCommand can be met. -/
theorem witness_StepTakesTheFrontCommand :
  ∃ (s : State), s.pending = [] :=
  ⟨tUp, by decide +kernel⟩

/-- The premises of EveryStepKeepsAGoodMachine can be met. -/
theorem witness_EveryStepKeepsAGoodMachine :
  ∃ (s : State) (t : State), s.good ∧ step s = .next t :=
  ⟨{ tUp with pending := [.ringCtrlReset] }, _, tGood _ rfl rfl rfl rfl, rfl⟩

/-- The premises of MemoryReadsBackWhatWasWritten can be met. -/
theorem witness_MemoryReadsBackWhatWasWritten :
  (∃ (s : State) (a : Nat) (bs : List Byte), s.good ∧ writeFails s a bs.length = none) ∧
  (∃ (s : State) (a : Nat) (bs : List Byte), s.good ∧ writeFails s a bs.length = none ∧ daddrIsStack a = true) ∧
  (∃ (s : State) (a : Nat) (bs : List Byte) (x : _), s.good ∧ writeFails s a bs.length = none ∧ daddrIsStack a = true ∧ (x < daddrOff a ∨ daddrOff a + bs.length ≤ x)) ∧
  (∃ (s : State) (a : Nat) (bs : List Byte), s.good ∧ writeFails s a bs.length = none ∧ daddrIsStack a = false) ∧
  (∃ (s : State) (a : Nat) (bs : List Byte) (x : _), s.good ∧ writeFails s a bs.length = none ∧ daddrIsStack a = false ∧ (x < a ∨ a + bs.length ≤ x)) ∧
  (∃ (s : State) (a : Nat) (bs : List Byte) (c : W16), writeFails s a bs.length = some c) :=
  ⟨⟨tUp, 4096, [1, 2], tGood _ rfl rfl rfl rfl, by decide +kernel⟩,
  ⟨tUp, 2 ^ 63 + 64, [1, 2], tGood _ rfl rfl rfl rfl, by decide +kernel, by decide +kernel⟩,
  ⟨tUp, 2 ^ 63 + 64, [1, 2], 66, tGood _ rfl rfl rfl rfl, by decide +kernel, by decide +kernel, by decide +kernel⟩,
  ⟨tUp, 0xFFFFFFFF, [1, 2], tGood _ rfl rfl rfl rfl, by decide +kernel, by decide +kernel⟩,
  ⟨tUp, 0xFFFFFFFF, [1, 2], 0xFFFFFFFE, tGood _ rfl rfl rfl rfl, by decide +kernel, by decide +kernel, by decide +kernel⟩,
  ⟨tUp, 2 ^ 63 + 2 ^ 36 - 1, [1, 2], _, rfl⟩⟩

/-- The premises of DoorbellWritesMoveTheIndices can be met. -/
theorem witness_DoorbellWritesMoveTheIndices :
  (∃ (ring : RingIx) (value : W32) (s : State), barReach s = true ∧ s.rings[ring].state = .enabled ∧ value.toNat < 8192 ∧ value.toNat < s.rings[ring].depth ∧ sqAdvance s.rings[ring] value.toNat ≤ s.rings[ring].depth - 1 - s.rings[ring].posted) ∧
  (∃ (ring : RingIx) (value : W32) (s : State), barReach s = true ∧ s.rings[ring].state = .enabled ∧ value.toNat < 8192 ∧ value.toNat < 2 * s.rings[ring].depth ∧ cqAdvance s.rings[ring] value.toNat ≤ s.rings[ring].unreleased) :=
  ⟨⟨1, 15, tRing 1 [] tUp, by decide +kernel, by decide +kernel, by decide +kernel, by decide +kernel, by decide +kernel⟩,
  ⟨1, 31, tRing 1 [] (setRing 1 (fun r => { r with cqTail := 31 }) tUp), by decide +kernel, by decide +kernel, by decide +kernel, by decide +kernel, by decide +kernel⟩⟩

/-- The premises of BadDoorbellsAndPoisonedWritesAreDiscarded can be met. -/
theorem witness_BadDoorbellsAndPoisonedWritesAreDiscarded :
  (∃ (ring : RingIx) (value : W32) (s : State), barReach s = true ∧ ((s.rings[ring].state ≠ .enabled ∨ doorbellOk value.toNat s.rings[ring].depth (sqAdvance s.rings[ring] value.toNat) (s.rings[ring].depth - 1 - s.rings[ring].posted) = false))) ∧
  (∃ (ring : RingIx) (value : W32) (s : State), barReach s = true ∧ ((s.rings[ring].state ≠ .enabled ∨ doorbellOk value.toNat (2 * s.rings[ring].depth) (cqAdvance s.rings[ring] value.toNat) s.rings[ring].unreleased = false))) ∧
  (∃ (s : State), barReach s = true) ∧
  (∃ (ring : RingIx) (s : State), barReach s = true) :=
  ⟨⟨2, 0, tRing 1 [] tUp, by decide +kernel, by decide +kernel⟩,
  ⟨1, 32, tRing 1 [] tUp, by decide +kernel, by decide +kernel⟩,
  ⟨tUp, by decide +kernel⟩,
  ⟨63, tUp, by decide +kernel⟩⟩

/-- The premises of FailingDoorbellWritesAreDiscarded can be met. -/
theorem witness_FailingDoorbellWritesAreDiscarded :
  (∃ (ring : RingIx) (value : W32) (s : State), barReach s = true ∧ s.rings[ring].state = .enabled ∧ ((8192 ≤ value.toNat ∨ s.rings[ring].depth ≤ value.toNat ∨ s.rings[ring].depth - 1 - s.rings[ring].posted < sqAdvance s.rings[ring] value.toNat))) ∧
  (∃ (ring : RingIx) (value : W32) (s : State), barReach s = true ∧ s.rings[ring].state = .enabled ∧ ((8192 ≤ value.toNat ∨ 2 * s.rings[ring].depth ≤ value.toNat ∨ s.rings[ring].unreleased < cqAdvance s.rings[ring] value.toNat))) ∧
  (∃ (ring : RingIx) (value : W32) (s : State), barReach s = true ∧ s.rings[ring].state = .enabled ∧ (¬(8192 ≤ value.toNat ∨ s.rings[ring].depth ≤ value.toNat ∨ s.rings[ring].depth - 1 - s.rings[ring].posted < sqAdvance s.rings[ring] value.toNat))) ∧
  (∃ (ring : RingIx) (s : State) (n : RingIx), n ≠ ring) :=
  ⟨⟨1, 16, tRing 1 [] tUp, by decide +kernel, by decide +kernel, by decide +kernel⟩,
  ⟨1, 1, tRing 1 [] tUp, by decide +kernel, by decide +kernel, by decide +kernel⟩,
  ⟨1, 15, tRing 1 [] tUp, by decide +kernel, by decide +kernel, by decide +kernel⟩,
  ⟨1, tUp, 2, by decide +kernel⟩⟩

/-- The premises of HostRegisterWritesTakeEffect can be met. -/
theorem witness_HostRegisterWritesTakeEffect :
  (∃ (v : W32) (s : State), regsLive s = true ∧ 1 ≤ v.toNat % 64 ∧ v.toNat % 64 ≤ 32) ∧
  (∃ (v : W32) (s : State), regsLive s = true ∧ s.twin.role = .alone) ∧
  (∃ (v : W32) (s : State), regsLive s = true ∧ v.toNat % 1024 ≤ 600) ∧
  (∃ (bits : W32) (s : State), regsLive s = true) ∧
  (∃ (s : State), regsLive s = true) ∧
  (∃ (s : State), regsLive s = true ∧ s.rings[(0 : RingIx)].state = .disabled ∧ ringFieldsOk s.rings[(0 : RingIx)].sqBase.toNat s.rings[(0 : RingIx)].cqBase.toNat s.rings[(0 : RingIx)].log2Depth.toNat s.rings[(0 : RingIx)].coalCount.toNat = true ∧ overReserve s s.rings[(0 : RingIx)].reserve.toNat = false) ∧
  (∃ (o : BitVec 22) (v : W64) (s : State), regsLive s = true ∧ o.toNat % 4 = 0) ∧
  (∃ (o : BitVec 22) (v : W64) (s : State), regsLive s = true ∧ o.toNat % 8 = 0) :=
  ⟨⟨32, tUp, by decide +kernel, by decide +kernel, by decide +kernel⟩,
  ⟨0, tUp, by decide +kernel, by decide +kernel⟩,
  ⟨600, tUp, by decide +kernel, by decide +kernel⟩,
  ⟨0x1F, tUp, by decide +kernel⟩,
  ⟨tUp, by decide +kernel⟩,
  ⟨setRing 0 (fun r => { r with log2Depth := 12, cqBase := 0x40000 }) tUp, by decide +kernel, by decide +kernel, by decide +kernel, by decide +kernel⟩,
  ⟨0x3FFFFC, 0, tUp, by decide +kernel, by decide +kernel⟩,
  ⟨0, 0, tUp, by decide +kernel, by decide +kernel⟩⟩

/-- The premises of SymbolCountReadLatchesTheTimeBlock can be met. -/
theorem witness_SymbolCountReadLatchesTheTimeBlock :
  ∃ (s : State), regsLive s = true :=
  ⟨tUp, by decide +kernel⟩

/-- The premises of EndpointResetsAndLinkEvents can be met. -/
theorem witness_EndpointResetsAndLinkEvents :
  (∃ (k : ResetKind) (s : State), s.host.linkUp = true) ∧
  (∃ (a : ConfigAccess) (s : State), s.host.linkUp = true ∧ s.host.cfgValid = false) ∧
  (∃ (s : State), s.host.linkUp = true ∧ s.host.cfgValid = true) ∧
  (∃ (s : State) (en : Bool), s.host.linkUp = true ∧ s.host.cfgValid = true) ∧
  (∃ (s : State) (en : Bool) (fm : Bool), s.host.linkUp = true ∧ s.host.cfgValid = true) ∧
  (∃ (s : State) (o : BitVec 12), s.host.linkUp = true ∧ s.host.cfgValid = true) ∧
  (∃ (s : State), s.host.linkUp = true) ∧
  (∃ (s : State) (v : Fin 128), s.host.linkUp = true) ∧
  (∃ (s : State), s.host.linkUp = true) ∧
  (∃ (s : State) (a : Nat), s.host.linkUp = false) :=
  ⟨⟨.d3hot, tUp, by decide +kernel⟩,
  ⟨.powerD0, State.reset, by decide +kernel, by decide +kernel⟩,
  ⟨tUp, by decide +kernel, by decide +kernel⟩,
  ⟨tUp, (true : Bool), by decide +kernel, by decide +kernel⟩,
  ⟨tUp, (true : Bool), (false : Bool), by decide +kernel, by decide +kernel⟩,
  ⟨tUp, (0 : BitVec 12), by decide +kernel, by decide +kernel⟩,
  ⟨tUp, by decide +kernel⟩,
  ⟨tUp, (127 : Fin 128), by decide +kernel⟩,
  ⟨tUp, by decide +kernel⟩,
  ⟨tHost (fun h => { h with linkUp := false }) tUp, (0 : Nat), by decide +kernel⟩⟩

/-- The premises of WindowReadsAndWrites can be met. -/
theorem witness_WindowReadsAndWrites :
  (∃ (o : W64) (s : State) (n : _), barReach s = true ∧ n ≠ 0 ∧ o.toNat + n ≤ windowSize s.tray.variant ∧ windowAnswers s o.toNat n = true ∧ touchesEcc s o.toNat n = false) ∧
  (∃ (o : W64) (s : State) (n : _), barReach s = true ∧ n ≠ 0 ∧ o.toNat + n ≤ windowSize s.tray.variant ∧ windowAnswers s o.toNat n = true ∧ touchesEcc s o.toNat n = true) ∧
  (∃ (o : W64) (s : State) (bs : List Byte), barReach s = true ∧ bs ≠ [] ∧ o.toNat + bs.length ≤ windowSize s.tray.variant ∧ windowAnswers s o.toNat bs.length = true ∧ partlyEcc s o.toNat bs.length = false) ∧
  (∃ (o : W64) (s : State) (bs : List Byte), barReach s = true ∧ bs ≠ [] ∧ o.toNat + bs.length ≤ windowSize s.tray.variant ∧ windowAnswers s o.toNat bs.length = true ∧ partlyEcc s o.toNat bs.length = true) ∧
  (∃ (o : W64) (s : State) (n : _), barReach s = true ∧ n ≠ 0 ∧ windowSize s.tray.variant < o.toNat + n) ∧
  (∃ (o : W64) (s : State) (bs : List Byte), barReach s = true ∧ bs ≠ [] ∧ windowSize s.tray.variant < o.toNat + bs.length) ∧
  (∃ (o : W64) (s : State) (n : _), barReach s = true ∧ n ≠ 0 ∧ o.toNat + n ≤ windowSize s.tray.variant ∧ windowAnswers s o.toNat n = false) :=
  ⟨⟨0xFFFFFFFFC, tUp, 4, by decide +kernel, by decide +kernel, by decide +kernel, by decide +kernel, by decide +kernel⟩,
  ⟨0x101F, tEcc, 1, by decide +kernel, by decide +kernel, by decide +kernel, by decide +kernel, by decide +kernel⟩,
  ⟨0x1000, tEcc, (List.replicate 32 7 : List Byte), by decide +kernel, by decide +kernel, by decide +kernel, by decide +kernel, by decide +kernel⟩,
  ⟨0x101F, tEcc, ([7] : List Byte), by decide +kernel, by decide +kernel, by decide +kernel, by decide +kernel, by decide +kernel⟩,
  ⟨0xFFFFFFFFF, tUp, 2, by decide +kernel, by decide +kernel, by decide +kernel⟩,
  ⟨0x1000000000, tUp, ([1] : List Byte), by decide +kernel, by decide +kernel, by decide +kernel⟩,
  ⟨0, tMem (fun m => { m with stackOnline := 0 }) tUp, 1, by decide +kernel, by decide +kernel, by decide +kernel, by decide +kernel⟩⟩

/-- The premises of RingSamplesAndModeration can be met. -/
theorem witness_RingSamplesAndModeration :
  (∃ (n : RingIx) (s : State), s.rings[n].state ≠ .disabled ∧ 3 * s.rings[n].depth < 4 * s.rings[n].queue.length ∧ 100 ≤ s.rings[n].highSamples + 1 ∧ s.rings[n].overload = false) ∧
  (∃ (n : RingIx) (s : State), s.rings[n].state ≠ .disabled ∧ 4 * s.rings[n].queue.length < s.rings[n].depth ∧ s.rings[n].overload = true) ∧
  (∃ (n : RingIx) (s : State), s.rings[n].coalArmed = true) ∧
  (∃ (s : State) (t : State), firmwareRuns s = true ∧ t = requestTakeover alFetchHang (raiseAlarm true alFetchHang 0 s)) :=
  ⟨⟨1, setRing 1 (fun r => { r with highSamples := 99 }) (tRing 1 (List.replicate 13 (tCmd opTree [])) tUp), by decide +kernel, by decide +kernel, by decide +kernel, by decide +kernel⟩,
  ⟨1, setRing 1 (fun r => { r with overload := true }) (tRing 1 (List.replicate 3 (tCmd opTree [])) tUp), by decide +kernel, by decide +kernel, by decide +kernel⟩,
  ⟨63, setRing 63 (fun r => { r with coalArmed := true }) tUp, by decide +kernel⟩,
  ⟨tUp, _, by decide +kernel, rfl⟩⟩

/-- The premises of FetchAndRingFailures can be met. -/
theorem witness_FetchAndRingFailures :
  (∃ (n : RingIx) (s : State), fetches s n = true ∧ 0 < fetchCount s.rings[n] (fetchResv s n)) ∧
  (∃ (n : RingIx) (s : State), fetches s n = true ∧ fetchCount s.rings[n] (fetchResv s n) = 0) ∧
  (∃ (n : RingIx) (s : State), s.rings[n].state = .enabled ∧ s.rings[n].fetchRetried = false) ∧
  (∃ (n : RingIx) (s : State), s.rings[n].state = .enabled ∧ s.rings[n].fetchRetried = true) ∧
  (∃ (n : RingIx) (s : State), (s.rings[n].state = .enabled ∨ s.rings[n].state = .resetting)) :=
  ⟨⟨1, setRing 1 (fun r => { r with sqTail := 15 }) (tRing 1 [] tUp), by decide +kernel, by decide +kernel⟩,
  ⟨1, setRing 1 (fun r => { r with cqTail := 31 }) (setRing 1 (fun r => { r with sqTail := 15 }) (tRing 1 [] tUp)), by decide +kernel, by decide +kernel⟩,
  ⟨1, tRing 1 [] tUp, by decide +kernel, by decide +kernel⟩,
  ⟨1, setRing 1 (fun r => { r with fetchRetried := true }) (tRing 1 [] tUp), by decide +kernel, by decide +kernel⟩,
  ⟨1, setRing 1 (fun r => { r with state := .resetting }) tUp, by decide +kernel⟩⟩

/-- The premises of IdentityAndRingCommands can be met. -/
theorem witness_IdentityAndRingCommands :
  (∃ (n : RingIx) (f : Fetched) (i : CmdInfo) (s : State), Accepted opIdentify n f i s ∧ badDaddr s.tray.variant (f.desc.u64 0x10) 64 = false ∧ writeFails s (f.desc.u64 0x10) 128 = none) ∧
  (∃ (n : RingIx) (f : Fetched) (i : CmdInfo) (s : State), Accepted opRingConfig n f i s ∧ allPass (ringConfigArgs f (dispatch n f s)) ∧ (dispatch n f s).rings[ringOf f.desc 0x18].state = .disabled ∧ overReserve (dispatch n f s) (f.desc.u16 0x1C) = false) ∧
  (∃ (n : RingIx) (f : Fetched) (i : CmdInfo) (s : State), Accepted opRingReset n f i s ∧ 1 ≤ f.desc.u8 8 ∧ f.desc.u8 8 ≤ 63 ∧ resetRefused (dispatch n f s) (ringOf f.desc 8) = false) ∧
  (∃ (n : RingIx) (f : Fetched) (s : State), s.rings[n].resetBy = some f ∧ s.rings[n].state = .resetting ∧ s.rings[n].dispatched = [] ∧ s.rings[n].waiting = []) :=
  ⟨⟨1, tCmd opIdentify [(0x10,8,0xFFFFFFFFFFC0 % 2 ^ 47)], tInfo opIdentify, tAsk opIdentify [(0x10,8,0xFFFFFFFFFFC0 % 2 ^ 47)] (tUp), ⟨by decide +kernel, by decide +kernel, by decide +kernel, by decide +kernel, by decide +kernel⟩, by decide +kernel, by decide +kernel⟩,
  ⟨1, tCmd opRingConfig [(8,8,0x1000),(0x10,8,0x100000),(0x18,1,63),(0x19,1,12),(0x1A,1,1),(0x1B,1,4),(0x1E,1,1),(0x20,2,1023),(0x22,1,1)], tInfo opRingConfig, tAsk opRingConfig [(8,8,0x1000),(0x10,8,0x100000),(0x18,1,63),(0x19,1,12),(0x1A,1,1),(0x1B,1,4),(0x1E,1,1),(0x20,2,1023),(0x22,1,1)] (tUp), ⟨by decide +kernel, by decide +kernel, by decide +kernel, by decide +kernel, by decide +kernel⟩, by unfold allPass; decide +kernel, by decide +kernel, by decide +kernel⟩,
  ⟨1, tCmd opRingReset [(8,1,63)], tInfo opRingReset, tAsk opRingReset [(8,1,63)] (tUp), ⟨by decide +kernel, by decide +kernel, by decide +kernel, by decide +kernel, by decide +kernel⟩, by decide +kernel, by decide +kernel, by decide +kernel⟩,
  ⟨1, tCmd opRingReset [], setRing 1 (fun r => { r with state := .resetting, resetBy := some (tCmd opRingReset []) }) tUp, by decide +kernel, by decide +kernel, by decide +kernel, by decide +kernel⟩⟩

/-- The premises of MatrixJobsAreAcceptedAndAborted can be met. -/
theorem witness_MatrixJobsAreAcceptedAndAborted :
  (∃ (n : RingIx) (f : Fetched) (i : CmdInfo) (s : State) (u : State) (h : TableHead) (p : JobParams) (e : FusionEntry), Accepted opMatmul n f i s ∧ u = dispatch n f s ∧ allPass (matmulArgs f u) ∧ readFails u (2 ^ 63 + f.desc.u64 0x28) 64 = none ∧ headFault u (decide (8 ≤ f.desc.u8 8)) (stackRead u (f.desc.u64 0x28) 64) = none ∧ h = tableHead (stackRead u (f.desc.u64 0x28) 64) ∧ readFails u (2 ^ 63 + f.desc.u64 0x28 + 64) (16 * (h.rowBlk * h.colBlk)) = none ∧ ((∀ k, k < h.rowBlk * h.colBlk → blockEntryFault u.tray.variant (stackRead u (f.desc.u64 0x28 + 64 + 16 * k) 16) = none)) ∧ p = matrixParams f.desc false h.nrows h.ncols h.mask h.stats ((List.range (h.rowBlk * h.colBlk)).map (fun k => BitVec.ofNat 32 (field (stackRead u (f.desc.u64 0x28 + 64 + 16 * k) 16) 8 4))) ((List.range (h.rowBlk * h.colBlk)).map (fun k => BitVec.ofNat 64 (field (stackRead u (f.desc.u64 0x28 + 64 + 16 * k) 16) 0 8))) ∧ packedBytes (f.desc.u8 0x0F) p.elems ≤ p.inStride ∧ fusionNamed u f.desc = some e ∧ fusionJobFault e (atomicNamed f.desc) p.outStride p.comps = none ∧ psumFit u (diesOf (poolOf u p.tileMask)) p ≠ 0 ∧ ((∃ t ∈ poolOf u p.tileMask, u.tiles[t].state ≠ .faulted)) ∧ noAdmit u = false ∧ (atomicNamed f.desc && atomicStackBad u (f.desc.u64 0x30)) = false) ∧
  (∃ (n : RingIx) (f : Fetched) (i : CmdInfo) (s : State) (u : State) (t : TileIx) (p : JobParams) (e : FusionEntry), Accepted opResident n f i s ∧ u = dispatch n f s ∧ allPass (residentArgs f u) ∧ f.desc.u8 9 = t.val ∧ p = matrixParams f.desc true (f.desc.u8 0x0B + 1) (f.desc.u8 0x0A + 1) 0 (f.desc.u64 0x28) [] [] ∧ fusionNamed u f.desc = some e ∧ fusionJobFault e false p.outStride p.comps = none ∧ psumFit u [engineOf t] p ≠ 0 ∧ u.tiles[t].group ≠ none ∧ u.sets.imageActive[t] ≠ none ∧ u.tiles[t].state ≠ .faulted ∧ noAdmit u = false) ∧
  (∃ (n : RingIx) (f : Fetched) (i : CmdInfo) (s : State) (u : State) (q : List Fetched) (js : List Job), Accepted opJobAbort n f i s ∧ u = dispatch n f s ∧ 1 ≤ f.desc.u8 8 ∧ f.desc.u8 8 ≤ 63 ∧ u.rings[abortRing f.desc].policy ≠ 2 ∧ q = u.rings[abortRing f.desc].queue.filter (fun x => jobOp x.desc.opcode && decide (x.desc.tag = BitVec.ofNat 32 (f.desc.u32 0x0C)) && abortReaches n f (abortRing f.desc) u x.id) ∧ js = u.jobs.filter (fun j => decide (j.ring = abortRing f.desc) && decide (j.desc.tag = BitVec.ofNat 32 (f.desc.u32 0x0C)) && jobOp j.desc.opcode && abortReaches n f (abortRing f.desc) u j.id)) :=
  ⟨⟨1, tCmd opMatmul [(0xE,1,63),(0x20,4,1),(0x24,4,64),(0x28,8,0x1000),(0x38,4,64)], tInfo opMatmul, tAsk opMatmul [(0xE,1,63),(0x20,4,1),(0x24,4,64),(0x28,8,0x1000),(0x38,4,64)] (tMat), _, _, _, tFusion, ⟨by decide +kernel, by decide +kernel, by decide +kernel, by decide +kernel, by decide +kernel⟩, rfl, by unfold allPass; decide +kernel, by decide +kernel, by decide +kernel, rfl, by decide +kernel, by decide +kernel, rfl, by decide +kernel, by decide +kernel, by decide +kernel, by decide +kernel, by decide +kernel, by decide +kernel, by decide +kernel⟩,
  ⟨1, tCmd opResident [(9,1,9),(0xA,1,127),(0xE,1,63),(0x20,4,1),(0x24,4,256),(0x38,4,64)], tInfo opResident, tAsk opResident [(9,1,9),(0xA,1,127),(0xE,1,63),(0x20,4,1),(0x24,4,256),(0x38,4,64)] (tMat), _, 9, _, tFusion, ⟨by decide +kernel, by decide +kernel, by decide +kernel, by decide +kernel, by decide +kernel⟩, rfl, by unfold allPass; decide +kernel, by decide +kernel, rfl, by decide +kernel, by decide +kernel, by decide +kernel, by decide +kernel, by decide +kernel, by decide +kernel, by decide +kernel⟩,
  ⟨1, tCmd opJobAbort [(8,1,63),(0xC,4,5)], tInfo opJobAbort, tAsk opJobAbort [(8,1,63),(0xC,4,5)] (tUp), _, _, _, ⟨by decide +kernel, by decide +kernel, by decide +kernel, by decide +kernel, by decide +kernel⟩, rfl, by decide +kernel, by decide +kernel, by decide +kernel, rfl, rfl⟩⟩

/-- The premises of SegmentsAndPassesOfAJob can be met. -/
theorem witness_SegmentsAndPassesOfAJob :
  (∃ (t : TileIx) (job : Nat) (row : Nat) (col : Nat) (first : Nat) (count : Nat) (s : State) (j : Job) (k : Job), jobOf s job = some j ∧ dispatchable s j t row col first count = true ∧ bindFusion s j = .ok k ∧ precisionFails s t j.params.format.toNat (freshBatch j t row col) = false ∧ inputFails s j row col first count = none ∧ expFails s j row col first count = false ∧ s.tiles[t].job = none) ∧
  (∃ (t : TileIx) (job : Nat) (row : Nat) (col : Nat) (first : Nat) (count : Nat) (s : State) (j : Job) (k : Job) (id : _), jobOf s job = some j ∧ dispatchable s j t row col first count = true ∧ bindFusion s j = .ok k ∧ precisionFails s t j.params.format.toNat (freshBatch j t row col) = false ∧ inputFails s j row col first count = none ∧ expFails s j row col first count = false ∧ s.tiles[t].job = some id ∧ preempts s k s.tiles[t] = false) ∧
  (∃ (t : TileIx) (s : State) (j : Job) (g : Segment) (b : BlockRun), s.tiles[t].job.bind (jobOf s) = some j ∧ j.segments.find? (fun g => decide (g.tile = t)) = some g ∧ b = blockRun j g.row g.col ∧ g.begun = false) ∧
  (∃ (t : TileIx) (s : State) (j : Job) (g : Segment) (b : BlockRun), s.tiles[t].job.bind (jobOf s) = some j ∧ j.segments.find? (fun g => decide (g.tile = t)) = some g ∧ b = blockRun j g.row g.col ∧ g.begun = true ∧ (b.bad || peakFails j s.tiles[t]) = false) ∧
  (∃ (t : TileIx) (s : State) (j : Job) (g : Segment) (b : BlockRun), s.tiles[t].job.bind (jobOf s) = some j ∧ j.segments.find? (fun g => decide (g.tile = t)) = some g ∧ b = blockRun j g.row g.col ∧ g.begun = true ∧ (b.bad || peakFails j s.tiles[t]) = true ∧ g.first + g.count = openPasses s j g.row ∧ j.isRadio = false) ∧
  (∃ (t : TileIx) (job : Nat) (row : Nat) (col : Nat) (pass : Nat) (raw : List (List Byte)) (odd : Bool) (s : State) (u : State) (j : Job) (v : Staged) (xs : _) (k : _), jobOf s job = some j ∧ passArrives s j t row col pass = true ∧ stagedOf j row col pass = some v ∧ u = setTile t (passSeen j v raw odd) s ∧ xs = (detectPass s.tiles[t].conv (passSymbols j.params.format.toNat) odd raw).1 ∧ k = setRun { blockRun j row col with got := (blockRun j row col).got + 1 } { j with staged := j.staged.erase v } ∧ (∀ r, j.kind ≠ .vecRaw r)) ∧
  (∃ (t : TileIx) (job : Nat) (row : Nat) (col : Nat) (pass : Nat) (raw : List (List Byte)) (odd : Bool) (s : State) (u : State) (j : Job) (v : Staged) (xs : _) (k : _) (r : _), jobOf s job = some j ∧ passArrives s j t row col pass = true ∧ stagedOf j row col pass = some v ∧ u = setTile t (passSeen j v raw odd) s ∧ xs = (detectPass s.tiles[t].conv (passSymbols j.params.format.toNat) odd raw).1 ∧ k = setRun { blockRun j row col with got := (blockRun j row col).got + 1 } { j with staged := j.staged.erase v } ∧ j.kind = .vecRaw r) ∧
  (∃ (job : Nat) (s : State) (j : Job), jobOf s job = some j ∧ crossesEngines j = true ∧ j.chained = false ∧ j.params.combine = 0 ∧ allArrived s j = true) ∧
  (∃ (a : W64) (v : W32) (s : State), a.toNat % 4 = 0 ∧ a.toNat < windowSize s.tray.variant ∧ s.sched.atomicBad.getLsbD (stackOf a.toNat) = false) :=
  ⟨⟨0, 0, 0, 0, 0, 1, tJobs [tRun .matmul] tReady, tRun .matmul, tRun .matmul, by decide +kernel, by decide +kernel, rfl, by decide +kernel, by decide +kernel, by decide +kernel, by decide +kernel⟩,
  ⟨0, 0, 0, 0, 0, 1, tTile 0 (fun x => { x with job := some 5, state := .serving }) (tJobs [tRun .matmul, { tRun .matmul with id := 5, segments := [⟨0, 0, 0, 0, 1, false, true, true⟩], blocks := [⟨0, 0, 1, 0, 1, false⟩] }] tReady), tRun .matmul, tRun .matmul, 5, by decide +kernel, by decide +kernel, rfl, by decide +kernel, by decide +kernel, by decide +kernel, by decide +kernel, by decide +kernel⟩,
  ⟨0, tTile 0 (fun x => { x with job := some 0 }) (tJobs [{ tRun .matmul with segments := [⟨0, 0, 0, 0, 1, true, true, false⟩] }] tReady), { tRun .matmul with segments := [⟨0, 0, 0, 0, 1, true, true, false⟩] }, ⟨0, 0, 0, 0, 1, true, true, false⟩, _, by decide +kernel, by decide +kernel, rfl, by decide +kernel⟩,
  ⟨0, tTile 0 (fun x => { x with job := some 0 }) (tJobs [{ tRun .matmul with segments := [⟨0, 0, 0, 0, 1, false, true, true⟩], blocks := [⟨0, 0, 1, 1, 1, false⟩] }] tReady), { tRun .matmul with segments := [⟨0, 0, 0, 0, 1, false, true, true⟩], blocks := [⟨0, 0, 1, 1, 1, false⟩] }, ⟨0, 0, 0, 0, 1, false, true, true⟩, _, by decide +kernel, by decide +kernel, rfl, by decide +kernel, by decide +kernel⟩,
  ⟨0, tTile 0 (fun x => { x with job := some 0 }) (tJobs [{ tRun .matmul with segments := [⟨0, 0, 0, 0, 1, false, true, true⟩], blocks := [⟨0, 0, 1, 1, 1, true⟩] }] tReady), { tRun .matmul with segments := [⟨0, 0, 0, 0, 1, false, true, true⟩], blocks := [⟨0, 0, 1, 1, 1, true⟩] }, ⟨0, 0, 0, 0, 1, false, true, true⟩, _, by decide +kernel, by decide +kernel, rfl, by decide +kernel, by decide +kernel, by decide +kernel, by decide +kernel⟩,
  ⟨0, 0, 0, 0, 0, [], false, tJobs [{ tRun .matmul with blocks := [⟨0, 0, 1, 0, 1, false⟩], staged := [⟨0, 0, 0, 0, []⟩] }] tReady, _, { tRun .matmul with blocks := [⟨0, 0, 1, 0, 1, false⟩], staged := [⟨0, 0, 0, 0, []⟩] }, ⟨0, 0, 0, 0, []⟩, _, _, by decide +kernel, by decide +kernel, by decide +kernel, rfl, rfl, rfl, (fun r h => by cases h)⟩,
  ⟨0, 0, 0, 0, 0, [], false, tJobs [{ tRun (.vecRaw 0) with blocks := [⟨0, 0, 1, 0, 1, false⟩], staged := [⟨0, 0, 0, 0, []⟩] }] tReady, _, { tRun (.vecRaw 0) with blocks := [⟨0, 0, 1, 0, 1, false⟩], staged := [⟨0, 0, 0, 0, []⟩] }, ⟨0, 0, 0, 0, []⟩, _, _, 0, by decide +kernel, by decide +kernel, by decide +kernel, rfl, rfl, rfl, rfl⟩,
  ⟨0, tJobs [{ tRun .matmul with splits := [(0, 1)], blocks := [⟨0, 0, 1, 1, 1, false⟩, ⟨0, 1, 1, 1, 32, false⟩], params := { (tRun .matmul).params with ncols := 129, scales := [0, 0], images := [0, 0] } }] tReady, { tRun .matmul with splits := [(0, 1)], blocks := [⟨0, 0, 1, 1, 1, false⟩, ⟨0, 1, 1, 1, 32, false⟩], params := { (tRun .matmul).params with ncols := 129, scales := [0, 0], images := [0, 0] } }, by decide +kernel, by decide +kernel, by decide +kernel, by decide +kernel, by decide +kernel⟩,
  ⟨0xFFFFFFFFC, 0, tUp, by decide +kernel, by decide +kernel, by decide +kernel⟩⟩

/-- The premises of ReductionsAndMatrixHelpers can be met, but for what the factorisation gives (an opaque constant). -/
theorem witness_ReductionsAndMatrixHelpers :
  (∃ (n : RingIx) (f : Fetched) (i : CmdInfo) (s : State) (u : State), Accepted opReduce n f i s ∧ u = dispatch n f s ∧ allPass (reduceArgs f u) ∧ noAdmit u = false ∧ u.kermes[dieOf u (f.desc.u64 0x10)].lost = false ∧ (decide (f.desc.u8 0x0A / 4 % 4 = 1) && atomicStackBad u (f.desc.u64 0x20)) = false) ∧
  (∃ (n : RingIx) (f : Fetched) (i : CmdInfo) (s : State) (u : State), Accepted opDecompose n f i s ∧ u = dispatch n f s ∧ f.desc.u8 8 ≤ 1 ∧ f.desc.u8 0x0A ≤ 127 ∧ f.desc.u8 0x0B ≤ 127 ∧ f.desc.u8 0x0B + 1 ≤ f.desc.u32 0x0C ∧ badDaddr u.tray.variant (f.desc.u64 0x10) 4 = false ∧ badSaddr u.tray.variant (f.desc.u64 0x18) 64 = false ∧ decompFails u f.desc = none ∧ (∀ r ∈ decompRows u f.desc, ∀ p ∈ r, p.1.isFinite = true ∧ p.2.isFinite = true) ∧ zeroRows (decompRows u f.desc) = true ∧ writeFails u (2 ^ 63 + f.desc.u64 0x18) (imageBytes []).length = none) ∧
  (∃ (n : RingIx) (f : Fetched) (i : CmdInfo) (s : State) (u : State) (im : _) (sc : _), Accepted opDecompose n f i s ∧ u = dispatch n f s ∧ f.desc.u8 8 ≤ 1 ∧ f.desc.u8 0x0A ≤ 127 ∧ f.desc.u8 0x0B ≤ 127 ∧ f.desc.u8 0x0B + 1 ≤ f.desc.u32 0x0C ∧ badDaddr u.tray.variant (f.desc.u64 0x10) 4 = false ∧ badSaddr u.tray.variant (f.desc.u64 0x18) 64 = false ∧ decompFails u f.desc = none ∧ (∀ r ∈ decompRows u f.desc, ∀ p ∈ r, p.1.isFinite = true ∧ p.2.isFinite = true) ∧ zeroRows (decompRows u f.desc) = false ∧ sc = BitVec.ofNat 32 (binary32.encode (largestSingular (decompRows u f.desc))) ∧ writeFails u (2 ^ 63 + f.desc.u64 0x18) (imageBytes im).length = none) ∧
  (∃ (n : RingIx) (f : Fetched) (i : CmdInfo) (s : State) (u : State), Accepted opDecompose n f i s ∧ u = dispatch n f s ∧ f.desc.u8 8 ≤ 1 ∧ f.desc.u8 0x0A ≤ 127 ∧ f.desc.u8 0x0B ≤ 127 ∧ f.desc.u8 0x0B + 1 ≤ f.desc.u32 0x0C ∧ badDaddr u.tray.variant (f.desc.u64 0x10) 4 = false ∧ badSaddr u.tray.variant (f.desc.u64 0x18) 64 = false ∧ decompFails u f.desc = none ∧ (∀ r ∈ decompRows u f.desc, ∀ p ∈ r, p.1.isFinite = true ∧ p.2.isFinite = true) ∧ zeroRows (decompRows u f.desc) = false) ∧
  (∃ (n : RingIx) (f : Fetched) (i : CmdInfo) (s : State) (u : State) (t : TileIx), Accepted opImageRead n f i s ∧ u = dispatch n f s ∧ f.desc.u8 8 ≤ 9 ∧ f.desc.u8 9 ≤ 1 ∧ badDaddr u.tray.variant (f.desc.u64 0x10) 64 = false ∧ t.val = f.desc.u8 8 ∧ u.tiles[t].state ≠ .off ∧ u.tiles[t].state ≠ .faulted ∧ f.desc.u8 9 = 0 ∧ writeFails u (f.desc.u64 0x10) (imageBytes u.tiles[t].mesh.active.image).length = none) ∧
  (∃ (n : RingIx) (f : Fetched) (i : CmdInfo) (s : State) (u : State) (t : TileIx), Accepted opImageRead n f i s ∧ u = dispatch n f s ∧ f.desc.u8 8 ≤ 9 ∧ f.desc.u8 9 ≤ 1 ∧ badDaddr u.tray.variant (f.desc.u64 0x10) 64 = false ∧ t.val = f.desc.u8 8 ∧ u.tiles[t].state ≠ .off ∧ u.tiles[t].state ≠ .faulted ∧ f.desc.u8 9 = 1 ∧ writeFails u (f.desc.u64 0x10) (imageBytes u.tiles[t].mesh.shadow.image).length = none) :=
  ⟨⟨1, tCmd opReduce [(8,1,0),(0xC,4,1),(0x10,8,64),(0x18,4,64),(0x1C,4,1),(0x20,8,0),(0x28,4,64)], tInfo opReduce, tAsk opReduce [(8,1,0),(0xC,4,1),(0x10,8,64),(0x18,4,64),(0x1C,4,1),(0x20,8,0),(0x28,4,64)] (tUp), _, ⟨by decide +kernel, by decide +kernel, by decide +kernel, by decide +kernel, by decide +kernel⟩, rfl, by unfold allPass; decide +kernel, by decide +kernel, by decide +kernel, by decide +kernel⟩,
  ⟨1, tCmd opDecompose [(8,1,0),(0xC,4,1),(0x10,8,64),(0x18,8,0x40)], tInfo opDecompose, tAsk opDecompose [(8,1,0),(0xC,4,1),(0x10,8,64),(0x18,8,0x40)] (tUp), _, ⟨by decide +kernel, by decide +kernel, by decide +kernel, by decide +kernel, by decide +kernel⟩, rfl, by decide +kernel, by decide +kernel, by decide +kernel, by decide +kernel, by decide +kernel, by decide +kernel, by decide +kernel, by decide +kernel, by decide +kernel, by decide +kernel⟩,
  ⟨1, tCmd opDecompose [(8,1,0),(0xC,4,1),(0x10,8,2 ^ 63 + 0x1000),(0x18,8,0x40)], tInfo opDecompose, tAsk opDecompose [(8,1,0),(0xC,4,1),(0x10,8,2 ^ 63 + 0x1000),(0x18,8,0x40)] (stackWrite 0x1000 (leBytes 4 0x3F800000) tUp), _, ([] : Image), _, ⟨by decide +kernel, by decide +kernel, by decide +kernel, by decide +kernel, by decide +kernel⟩, rfl, by decide +kernel, by decide +kernel, by decide +kernel, by decide +kernel, by decide +kernel, by decide +kernel, by decide +kernel, by decide +kernel, by decide +kernel, rfl, by decide +kernel⟩,
  ⟨1, tCmd opDecompose [(8,1,0),(0xC,4,1),(0x10,8,2 ^ 63 + 0x1000),(0x18,8,0x40)], tInfo opDecompose, tAsk opDecompose [(8,1,0),(0xC,4,1),(0x10,8,2 ^ 63 + 0x1000),(0x18,8,0x40)] (stackWrite 0x1000 (leBytes 4 0x3F800000) tUp), _, ⟨by decide +kernel, by decide +kernel, by decide +kernel, by decide +kernel, by decide +kernel⟩, rfl, by decide +kernel, by decide +kernel, by decide +kernel, by decide +kernel, by decide +kernel, by decide +kernel, by decide +kernel, by decide +kernel, by decide +kernel⟩,
  ⟨1, tCmd opImageRead [(8,1,9),(0x10,8,0x2000)], tInfo opImageRead, tAsk opImageRead [(8,1,9),(0x10,8,0x2000)] (tMat), _, 9, ⟨by decide +kernel, by decide +kernel, by decide +kernel, by decide +kernel, by decide +kernel⟩, rfl, by decide +kernel, by decide +kernel, by decide +kernel, by decide +kernel, by decide +kernel, by decide +kernel, by decide +kernel, by decide +kernel⟩,
  ⟨1, tCmd opImageRead [(8,1,9),(9,1,1),(0x10,8,0x2000)], tInfo opImageRead, tAsk opImageRead [(8,1,9),(9,1,1),(0x10,8,0x2000)] (tMat), _, 9, ⟨by decide +kernel, by decide +kernel, by decide +kernel, by decide +kernel, by decide +kernel⟩, rfl, by decide +kernel, by decide +kernel, by decide +kernel, by decide +kernel, by decide +kernel, by decide +kernel, by decide +kernel, by decide +kernel⟩⟩

/-- The premises of OutputsAndFailuresOfKermes can be met. -/
theorem witness_OutputsAndFailuresOfKermes :
  (∃ (job : Nat) (s : State) (j : Job), jobOf s job = some j ∧ j.kind = .reduce) ∧
  (∃ (job : Nat) (s : State) (j : Job) (t : _), jobOf s job = some j ∧ j.kind = .vecRaw t ∧ allArrived s j = true ∧ j.segments = []) ∧
  (∃ (job : Nat) (s : State) (j : Job) (g : GroupIx) (x : W64) (k : Nat), jobOf s job = some j ∧ j.kind = .radio g x k ∧ allArrived s j = true ∧ j.segments = []) ∧
  (∃ (job : Nat) (s : State) (j : Job) (e : _), jobOf s job = some j ∧ (j.kind = .matmul ∨ ∃ t, j.kind = .resident t) ∧ j.fusion = some e ∧ matrixReady s j = true) ∧
  (∃ (job : Nat) (s : State) (j : Job) (e : _) (x : _), jobOf s job = some j ∧ tablesFail s j.params e = none ∧ outputFails s j.params e = none ∧ x = (List.range (subEnd j - j.vecDone)).foldl (fun x i => if j.params.combine = 1 then atomicVector e (j.vecDone + i) x else outVector e (userTab s e) (j.vecDone + i) x) (j, s) ∧ j.params.nvec ≤ subEnd j) ∧
  (∃ (job : Nat) (s : State) (j : Job) (e : _) (x : _), jobOf s job = some j ∧ tablesFail s j.params e = none ∧ outputFails s j.params e = none ∧ x = (List.range (subEnd j - j.vecDone)).foldl (fun x i => if j.params.combine = 1 then atomicVector e (j.vecDone + i) x else outVector e (userTab s e) (j.vecDone + i) x) (j, s) ∧ subEnd j < j.params.nvec) ∧
  (∃ (d : Fin 2) (b : Fin 64) (job : Option Nat) (s : State) (u : State), b ∉ s.kermes[d].retired ∧ u = { s with kermes := upd s.kermes d (fun k => { k with bankEvents := (b, s.time.symbolCount) :: k.bankEvents.filter (fun p => decide (p.1 ≠ b)) }) } ∧ eventWithin s.kermes[d].bankEvents b s.time.symbolCount = false) ∧
  (∃ (d : Fin 2) (b : Fin 64) (job : Option Nat) (s : State) (u : State), b ∉ s.kermes[d].retired ∧ u = { s with kermes := upd s.kermes d (fun k => { k with bankEvents := (b, s.time.symbolCount) :: k.bankEvents.filter (fun p => decide (p.1 ≠ b)) }) } ∧ eventWithin s.kermes[d].bankEvents b s.time.symbolCount = true) ∧
  (∃ (job : Nat) (s : State) (j : Job), jobOf s job = some j ∧ crossesEngines j = true ∧ j.params.combine = 0) ∧
  (∃ (k : Fin 6) (unit : Nat) (s : State) (u : State) (job : Option Nat), k.val < stacksFitted s.tray.variant ∧ u = { s with sched := { s.sched with stackEvents := satInc s.sched.stackEvents } } ∧ stackOf (32 * unit) = k.val) ∧
  (∃ (k : Fin 6) (s : State) (unit : Nat) (dbl : Bool) (job : Option Nat), k.val < stacksFitted s.tray.variant) ∧
  (∃ (d : Fin 2) (s : State), s.kermes[d].lost = false) :=
  ⟨⟨0, tJobs [tRun .reduce] tUp, tRun .reduce, by decide +kernel, by decide +kernel⟩,
  ⟨0, tJobs [{ tRun (.vecRaw 9) with blocks := [⟨0, 0, 1, 1, 1, false⟩] }] tUp, { tRun (.vecRaw 9) with blocks := [⟨0, 0, 1, 1, 1, false⟩] }, (9 : TileIx), by decide +kernel, by decide +kernel, by decide +kernel, by decide +kernel⟩,
  ⟨0, tJobs [tRun (.radio 0 0 0)] tUp, tRun (.radio 0 0 0), (0 : GroupIx), (0 : W64), (0 : Nat), by decide +kernel, by decide +kernel, by decide +kernel, by decide +kernel⟩,
  ⟨0, tJobs [{ tRun .matmul with blocks := [⟨0, 0, 1, 1, 1, false⟩] }] tUp, { tRun .matmul with blocks := [⟨0, 0, 1, 1, 1, false⟩] }, tFusion, by decide +kernel, Or.inl rfl, by decide +kernel, by decide +kernel⟩,
  ⟨0, tJobs [{ tRun .matmul with blocks := [⟨0, 0, 1, 1, 1, false⟩] }] tUp, { tRun .matmul with blocks := [⟨0, 0, 1, 1, 1, false⟩] }, tFusion, _, by decide +kernel, by decide +kernel, by decide +kernel, rfl, by decide +kernel⟩,
  ⟨0, tJobs [{ tRun .matmul with subBatch := true, params := { (tRun .matmul).params with nvec := 2 }, psum := 9, blocks := [⟨0, 0, 1, 1, 1, false⟩] }] tUp, { tRun .matmul with subBatch := true, params := { (tRun .matmul).params with nvec := 2 }, psum := 9, blocks := [⟨0, 0, 1, 1, 1, false⟩] }, tFusion, _, by decide +kernel, by decide +kernel, by decide +kernel, rfl, by decide +kernel⟩,
  ⟨1, 63, none, tUp, _, by decide +kernel, rfl, by decide +kernel⟩,
  ⟨1, 63, none, { tUp with kermes := upd tUp.kermes 1 (fun k => { k with bankEvents := [(63, 0)] }) }, _, by decide +kernel, rfl, by decide +kernel⟩,
  ⟨0, tJobs [{ tRun .matmul with splits := [(0, 1)], blocks := [⟨0, 0, 1, 1, 1, false⟩, ⟨0, 1, 1, 1, 32, false⟩], params := { (tRun .matmul).params with ncols := 129, scales := [0, 0], images := [0, 0] } }] tReady, { tRun .matmul with splits := [(0, 1)], blocks := [⟨0, 0, 1, 1, 1, false⟩, ⟨0, 1, 1, 1, 32, false⟩], params := { (tRun .matmul).params with ncols := 129, scales := [0, 0], images := [0, 0] } }, by decide +kernel, by decide +kernel, by decide +kernel⟩,
  ⟨3, 1610612736, tUp, _, (none : Option Nat), by decide +kernel, rfl, by decide +kernel⟩,
  ⟨3, tUp, (0 : Nat), (true : Bool), (none : Option Nat), by decide +kernel⟩,
  ⟨1, tUp, by decide +kernel⟩⟩

/-- The premises of TreeJobsRunWaveByWave can be met. -/
theorem witness_TreeJobsRunWaveByWave :
  (∃ (n : RingIx) (f : Fetched) (i : CmdInfo) (s : State) (u : State), Accepted opModelCheck n f i s ∧ u = dispatch n f s ∧ badSaddr u.tray.variant (f.desc.u64 0x10) 64 = false ∧ modelReadFails u (f.desc.u64 0x10) = none ∧ modelFault u (f.desc.u64 0x10) = none) ∧
  (∃ (n : RingIx) (f : Fetched) (i : CmdInfo) (s : State) (u : State) (m : ModelSlot), Accepted opTree n f i s ∧ u = dispatch n f s ∧ allPass (treeArgs f u) ∧ slotNamed u f.desc = some m ∧ noAdmit u = false ∧ sepiaRejects u = false ∧ u.kermes[foldDie u (modelAt u m.desc.toNat)].lost = false) ∧
  (∃ (job : Nat) (s : State) (j : Job) (k : Job) (m : ModelSlot) (mo : Model), jobOf s job = some j ∧ j.kind = .tree ∧ bindModel s j = some k ∧ k.model = some m ∧ mo = modelAt s m.desc.toNat ∧ k.tree.planned = true) ∧
  (∃ (job : Nat) (s : State) (j : Job) (k : Job) (m : ModelSlot) (mo : Model), jobOf s job = some j ∧ j.kind = .tree ∧ bindModel s j = some k ∧ k.model = some m ∧ mo = modelAt s m.desc.toNat ∧ k.tree.planned = false ∧ waveSize s k mo ≠ 0 ∧ samplesFail s k mo (waveSize s k mo) = none) ∧
  (∃ (j : Job) (mo : Model) (s : State), j.tree.nextTree < mo.ntrees ∧ readFails s (2 ^ 63 + (mo.addr + mo.treesOff + j.tree.nextOff)) 64 = none ∧ headerFail s mo (mo.addr + mo.treesOff + j.tree.nextOff) j.tree.nextTree = none ∧ readFails s (2 ^ 63 + (mo.addr + mo.treesOff + j.tree.nextOff)) (leNat (stackRead s (mo.addr + mo.treesOff + j.tree.nextOff) 4)) = none) ∧
  (∃ (job : Nat) (s : State) (j : Job) (k : Job) (m : ModelSlot) (mo : Model), jobOf s job = some j ∧ j.model = some m ∧ mo = modelAt s m.desc.toNat ∧ j.tree.planned = true ∧ mo.ntrees ≤ j.tree.nextTree ∧ waveCrc s mo j.tree.crcRun = m.crc ∧ waveWriteFails s j mo = none ∧ k = nextWave s j mo ∧ k.samplesDone < j.params.nvec) ∧
  (∃ (job : Nat) (s : State) (j : Job) (k : Job) (m : ModelSlot) (mo : Model), jobOf s job = some j ∧ j.model = some m ∧ mo = modelAt s m.desc.toNat ∧ j.tree.planned = true ∧ mo.ntrees ≤ j.tree.nextTree ∧ waveCrc s mo j.tree.crcRun = m.crc ∧ waveWriteFails s j mo = none ∧ k = nextWave s j mo ∧ j.params.nvec ≤ k.samplesDone) ∧
  (∃ (l : Fin 16) (job : Option Nat) (s : State) (u : State) (v : State), s.sepia.retired.getLsbD l.val = false ∧ u = { s with sepia := { s.sepia with parityErrs := satInc s.sepia.parityErrs, laneEvents := (l, s.time.symbolCount) :: s.sepia.laneEvents.filter (fun p => decide (p.1 ≠ l)) } } ∧ (v = (match job with | none => u | some k => setJob k (fun j => if j.kind = .tree ∧ j.tree.planned then rerunWave j else j) u)) ∧ eventWithin s.sepia.laneEvents l s.time.symbolCount = false) ∧
  (∃ (l : Fin 16) (job : Option Nat) (s : State) (u : State) (v : State), s.sepia.retired.getLsbD l.val = false ∧ u = { s with sepia := { s.sepia with parityErrs := satInc s.sepia.parityErrs, laneEvents := (l, s.time.symbolCount) :: s.sepia.laneEvents.filter (fun p => decide (p.1 ≠ l)) } } ∧ (v = (match job with | none => u | some k => setJob k (fun j => if j.kind = .tree ∧ j.tree.planned then rerunWave j else j) u)) ∧ eventWithin s.sepia.laneEvents l s.time.symbolCount = true) ∧
  (∃ (job : Nat) (j : Job) (s : State) (u : State), jobOf s job = some j ∧ j.kind = .tree ∧ j.tree.planned = true ∧ u = { s with sepia := { s.sepia with parityErrs := satInc s.sepia.parityErrs } } ∧ j.tree.tableRerun = false) ∧
  (∃ (job : Nat) (j : Job) (s : State) (u : State), jobOf s job = some j ∧ j.kind = .tree ∧ j.tree.planned = true ∧ u = { s with sepia := { s.sepia with parityErrs := satInc s.sepia.parityErrs } } ∧ j.tree.tableRerun = true) ∧
  (∃ (bad : BitVec 16) (s : State), s.sepia.lost = false ∧ ((∀ j ∈ s.jobs, j.kind = .tree → j.tree.planned = false))) :=
  ⟨⟨1, tCmd opModelCheck [(0x10,8,0x1000)], tInfo opModelCheck, tAsk opModelCheck [(0x10,8,0x1000)] (tTree), _, ⟨by decide +kernel, by decide +kernel, by decide +kernel, by decide +kernel, by decide +kernel⟩, rfl, by decide +kernel, by decide +kernel, by decide +kernel⟩,
  ⟨1, tCmd opTree [(8,1,15),(0xC,4,1),(0x10,8,0x2000),(0x18,4,4),(0x1C,4,4),(0x20,8,0x3000),(0x28,8,0x4000)], tInfo opTree, tAsk opTree [(8,1,15),(0xC,4,1),(0x10,8,0x2000),(0x18,4,4),(0x1C,4,4),(0x20,8,0x3000),(0x28,8,0x4000)] (tTree), _, (⟨0x1000, 0⟩ : ModelSlot), ⟨by decide +kernel, by decide +kernel, by decide +kernel, by decide +kernel, by decide +kernel⟩, rfl, by unfold allPass; decide +kernel, by decide +kernel, by decide +kernel, by decide +kernel, by decide +kernel⟩,
  ⟨0, tJobs [tTreeJob true] tTree, tTreeJob true, tTreeJob true, ⟨0x1000, 0⟩, _, by decide +kernel, by decide +kernel, by decide +kernel, by decide +kernel, rfl, by decide +kernel⟩,
  ⟨0, tJobs [tTreeJob false] tTree, tTreeJob false, tTreeJob false, ⟨0x1000, 0⟩, _, by decide +kernel, by decide +kernel, by decide +kernel, by decide +kernel, rfl, by decide +kernel, by decide +kernel, by decide +kernel⟩,
  ⟨tTreeJob false, modelAt tTree 0x1000, tTree, by decide +kernel, by decide +kernel, by decide +kernel, by decide +kernel⟩,
  ⟨0, tJobs [{ tTreeJob true with params := { JobParams.none with nvec := 2 }, tree := { (tTreeJob true).tree with nextTree := 1, crcRun := 0xFFFFFFFF }, model := some ⟨0x1000, 426368062⟩ }] tTree, { tTreeJob true with params := { JobParams.none with nvec := 2 }, tree := { (tTreeJob true).tree with nextTree := 1, crcRun := 0xFFFFFFFF }, model := some ⟨0x1000, 426368062⟩ }, _, ⟨0x1000, 426368062⟩, _, by decide +kernel, by decide +kernel, rfl, by decide +kernel, by decide +kernel, by decide +kernel, by decide +kernel, rfl, by decide +kernel⟩,
  ⟨0, tJobs [{ tTreeJob true with params := { JobParams.none with nvec := 1 }, tree := { (tTreeJob true).tree with nextTree := 1, crcRun := 0xFFFFFFFF }, model := some ⟨0x1000, 426368062⟩ }] tTree, { tTreeJob true with params := { JobParams.none with nvec := 1 }, tree := { (tTreeJob true).tree with nextTree := 1, crcRun := 0xFFFFFFFF }, model := some ⟨0x1000, 426368062⟩ }, _, ⟨0x1000, 426368062⟩, _, by decide +kernel, by decide +kernel, rfl, by decide +kernel, by decide +kernel, by decide +kernel, by decide +kernel, rfl, by decide +kernel⟩,
  ⟨15, none, tUp, _, _, by decide +kernel, rfl, rfl, by decide +kernel⟩,
  ⟨15, none, { tUp with sepia := { tUp.sepia with laneEvents := [(15, 0)] } }, _, _, by decide +kernel, rfl, rfl, by decide +kernel⟩,
  ⟨0, { tTreeJob true with tree := { (tTreeJob true).tree with tableRerun := false } }, tJobs [{ tTreeJob true with tree := { (tTreeJob true).tree with tableRerun := false } }] tTree, _, by decide +kernel, by decide +kernel, by decide +kernel, rfl, by decide +kernel⟩,
  ⟨0, { tTreeJob true with tree := { (tTreeJob true).tree with tableRerun := true } }, tJobs [{ tTreeJob true with tree := { (tTreeJob true).tree with tableRerun := true } }] tTree, _, by decide +kernel, by decide +kernel, by decide +kernel, rfl, by decide +kernel⟩,
  ⟨0xFF, tUp, by decide +kernel, by decide +kernel⟩⟩

/-- The premises of SlotsAndReceivedMessages can be met. -/
theorem witness_SlotsAndReceivedMessages :
  (∃ (n : RingIx) (f : Fetched) (i : CmdInfo) (s : State) (u : State) (g : GroupIx) (cs : List CSection) (ws : List (W64 × W32)), Accepted opSlot n f i s ∧ u = dispatch n f s ∧ groupOfRing u n = some g ∧ allPass (slotArgs u g f.desc) ∧ noRadioWork u = false ∧ readCplane u g f.desc = .ok cs ∧ readWeights u g f.desc = .ok ws ∧ slotOf u g (BitVec.ofInt 64 (slotNumber u.time f.desc)) = none) ∧
  (∃ (n : RingIx) (f : Fetched) (i : CmdInfo) (s : State) (u : State) (g : GroupIx) (cs : List CSection) (ws : List (W64 × W32)), Accepted opSlot n f i s ∧ u = dispatch n f s ∧ groupOfRing u n = some g ∧ allPass (slotArgs u g f.desc) ∧ noRadioWork u = false ∧ readCplane u g f.desc = .ok cs ∧ readWeights u g f.desc = .ok ws ∧ slotOf u g (BitVec.ofInt 64 (slotNumber u.time f.desc)) ≠ none) ∧
  (∃ (p : PortIx) (fr : List Byte) (s : State), portUp s p = true ∧ ecpriPart fr = none) ∧
  (∃ (p : PortIx) (fr : List Byte) (s : State) (b : List Byte), portUp s p = true ∧ ecpriPart fr = some b ∧ ecpriMessage b = none) ∧
  (∃ (p : PortIx) (fr : List Byte) (s : State) (b : List Byte) (ty : Nat) (m : List Byte), portUp s p = true ∧ ecpriPart fr = some b ∧ ecpriMessage b = some (ty, m) ∧ ty ≠ 0) ∧
  (∃ (p : PortIx) (fr : List Byte) (s : State) (b : List Byte) (m : List Byte), portUp s p = true ∧ ecpriPart fr = some b ∧ ecpriMessage b = some (0, m)) ∧
  (∃ (p : PortIx) (m : List Byte) (s : State) (r : RadioSet), 4 ≤ m.length ∧ 128 ≤ byteAt m 3 ∧ r = mapFor s (BitVec.ofInt 64 (slotNow s.time + headAhead s.time (uHead (m.drop 4)))) ∧ streamOf r p (beNat (m.take 2)) = none) ∧
  (∃ (p : PortIx) (m : List Byte) (s : State) (r : RadioSet) (i : StreamIx), 4 ≤ m.length ∧ 128 ≤ byteAt m 3 ∧ r = mapFor s (BitVec.ofInt 64 (slotNow s.time + headAhead s.time (uHead (m.drop 4)))) ∧ streamOf r p (beNat (m.take 2)) = some i) ∧
  (∃ (i : StreamIx) (r : RadioSet) (b : List Byte) (s : State) (g : GroupIx) (x : Nat × List Int) (ps : List (Nat × List Int)), uHeadOk s.time.numerology b = true ∧ r.streams[i].ulGroup.toNat = g.val ∧ readSections r.streams[i].compUl r.groups[g].nprb.toNat (b.length + 1) (b.drop 4) = some (x :: ps)) ∧
  (∃ (i : StreamIx) (g : GroupIx) (r : RadioSet) (h : UHead) (ps : List (Nat × List Int)) (s : State) (u : State) (n : W64) (d : Int), n = BitVec.ofInt 64 (slotNow s.time + headAhead s.time h) ∧ d = afterMarker s.time h * 100 ∧ u = dropStale g n s ∧ d < (r.groups[g].rxOpen.toNat : Int) * 393216) ∧
  (∃ (i : StreamIx) (g : GroupIx) (r : RadioSet) (h : UHead) (ps : List (Nat × List Int)) (s : State) (u : State) (n : W64) (d : Int), n = BitVec.ofInt 64 (slotNow s.time + headAhead s.time h) ∧ d = afterMarker s.time h * 100 ∧ u = dropStale g n s ∧ (r.groups[g].rxOpen.toNat : Int) * 393216 ≤ d ∧ ((r.groups[g].rxClose.toNat : Int) * 393216 < d ∨ setBegun u g n h.sym = true)) ∧
  (∃ (i : StreamIx) (g : GroupIx) (r : RadioSet) (h : UHead) (ps : List (Nat × List Int)) (s : State) (u : State) (n : W64) (d : Int), n = BitVec.ofInt 64 (slotNow s.time + headAhead s.time h) ∧ d = afterMarker s.time h * 100 ∧ u = dropStale g n s ∧ (r.groups[g].rxOpen.toNat : Int) * 393216 ≤ d ∧ d ≤ (r.groups[g].rxClose.toNat : Int) * 393216 ∧ setBegun u g n h.sym = false) ∧
  (∃ (p : PortIx) (fr : List Byte) (b : List Byte) (m : List Byte) (s : State), portUp s p = true ∧ ecpriPart fr = some b ∧ ecpriMessage b = some (5, m) ∧ (byteAt m 1 = 0 ∨ byteAt m 1 = 5)) ∧
  (∃ (p : PortIx) (fr : List Byte) (b : List Byte) (m : List Byte) (s : State), portUp s p = true ∧ ecpriPart fr = some b ∧ ecpriMessage b = some (5, m) ∧ byteAt m 1 = 3) ∧
  (∃ (p : PortIx) (fr : List Byte) (b : List Byte) (m : List Byte) (s : State), portUp s p = true ∧ ecpriPart fr = some b ∧ ecpriMessage b = some (5, m) ∧ byteAt m 1 = 1) :=
  ⟨⟨1, tCmd opSlot [(8,2,1023),(0xA,1,19)], tInfo opSlot, tAsk opSlot [(8,2,1023),(0xA,1,19)] (tRadio 2), _, 15, [], [], ⟨by decide +kernel, by decide +kernel, by decide +kernel, by decide +kernel, by decide +kernel⟩, rfl, by decide +kernel, by unfold allPass; decide +kernel, by decide +kernel, rfl, rfl, by decide +kernel⟩,
  ⟨1, tCmd opSlot [(8,2,1023),(0xA,1,19)], tInfo opSlot, tAsk opSlot [(8,2,1023),(0xA,1,19)] (tSlots { tSlot with group := 15, slotNo := BitVec.ofInt 64 (slotNumber (tRadio 2).time (tDesc opSlot [(8,2,1023),(0xA,1,19)])) } (tRadio 2)), _, 15, [], [], ⟨by decide +kernel, by decide +kernel, by decide +kernel, by decide +kernel, by decide +kernel⟩, rfl, by decide +kernel, by unfold allPass; decide +kernel, by decide +kernel, rfl, rfl, by decide +kernel⟩,
  ⟨3, [], tRadio 2, by decide +kernel, by decide +kernel⟩,
  ⟨3, tFrame [0x11, 0, 0, 0], tRadio 2, ([0x11, 0, 0, 0] : List Byte), by decide +kernel, by decide +kernel, by decide +kernel⟩,
  ⟨3, tFrame [0x10, 2, 0, 0], tRadio 2, ([0x10, 2, 0, 0] : List Byte), (2 : Nat), ([] : List Byte), by decide +kernel, by decide +kernel, by decide +kernel, by decide +kernel⟩,
  ⟨3, tFrame [0x10, 0, 0, 0], tRadio 2, ([0x10, 0, 0, 0] : List Byte), ([] : List Byte), by decide +kernel, by decide +kernel, by decide +kernel⟩,
  ⟨3, [0, 0, 0, 0x80], tRadio 2, _, by decide +kernel, by decide +kernel, rfl, by decide +kernel⟩,
  ⟨3, [0xAB, 0xCD, 0, 0x80], tRadio 2, _, (63 : StreamIx), by decide +kernel, by decide +kernel, rfl, by decide +kernel⟩,
  ⟨63, (tRadio 2).sets.radioActive, [0x10, 0, 0, 0] ++ [0, 0, 0, 1, 0, 0] ++ List.replicate 48 0, tRadio 2, 15, (0, List.replicate 24 0), [], by decide +kernel, by decide +kernel, by decide +kernel⟩,
  ⟨63, 15, { (tRadio 2).sets.radioActive with groups := put (tRadio 2).sets.radioActive.groups 15 { GroupEntry.closed with rxOpen := 1 } }, ⟨0, 0, 0, 0⟩, [], tRadio 2, _, _, _, rfl, rfl, rfl, by decide +kernel⟩,
  ⟨63, 0, (tRadio 2).sets.radioActive, ⟨0, 0, 0, 0⟩, [], tSlots { tSlot with sets := [⟨0, true, false, 0, none, 0, false, 0, false⟩] } (tRadio 2), _, _, _, rfl, rfl, rfl, by decide +kernel, by decide +kernel⟩,
  ⟨63, 15, (tRadio 2).sets.radioActive, ⟨0, 0, 0, 0⟩, [], tRadio 2, _, _, _, rfl, rfl, rfl, by decide +kernel, by decide +kernel, by decide +kernel⟩,
  ⟨3, tFrame [0x10, 5, 0, 2, 0, 5], [0x10, 5, 0, 2, 0, 5], [0, 5], tRadio 2, by decide +kernel, by decide +kernel, by decide +kernel, by decide +kernel⟩,
  ⟨3, tFrame [0x10, 5, 0, 2, 0, 3], [0x10, 5, 0, 2, 0, 3], [0, 3], tRadio 2, by decide +kernel, by decide +kernel, by decide +kernel, by decide +kernel⟩,
  ⟨3, tFrame [0x10, 5, 0, 2, 0, 1], [0x10, 5, 0, 2, 0, 1], [0, 1], tRadio 2, by decide +kernel, by decide +kernel, by decide +kernel, by decide +kernel⟩⟩

/-- The premises of RadioSetsWindowsAndPorts can be met. -/
theorem witness_RadioSetsWindowsAndPorts :
  (∃ (g : GroupIx) (n : W64) (k : Nat) (s : State) (x : RadioSlot), slotOf s g n = some x ∧ (∃ b ∈ x.sets, b.index = k ∧ b.started = false ∧ b.done = false) ∧ reached s (setStartAt s x.entry n k) = true ∧ x.entry.kind ≠ 1) ∧
  (∃ (g : GroupIx) (n : W64) (k : Nat) (s : State) (x : RadioSlot), slotOf s g n = some x ∧ (∃ b ∈ x.sets, b.index = k ∧ b.started = false ∧ b.done = false) ∧ reached s (setStartAt s x.entry n k) = true ∧ x.entry.kind = 1 ∧ x.fetched = true ∧ coreRuns s 1 = true) ∧
  (∃ (g : GroupIx) (n : W64) (s : State) (x : RadioSlot), slotOf s g n = some x ∧ x.entry.kind = 1 ∧ x.fetched = false ∧ readFails s (x.desc.u64 0x18) (layerBytes x.entry) = none) ∧
  (∃ (g : GroupIx) (n : W64) (k : Fin 14) (s : State) (x : RadioSlot) (y : RadioSlot) (u : State), slotOf s g n = some x ∧ x.entry.kind = 1 ∧ k.val ∉ x.txSent ∧ k.val ∉ x.txSkipped ∧ reached s (txOpensAt s x k.val) = true ∧ u = (slotStreams s x).foldl (sendSymbol x k.val (symReady x k.val)) s ∧ y = (if symReady x k.val && mayTransmit s then { x with txSent := k.val :: x.txSent } else { x with txSkipped := k.val :: x.txSkipped }) ∧ y.txSent.length + y.txSkipped.length ≠ 14) ∧
  (∃ (g : GroupIx) (n : W64) (k : Fin 14) (s : State) (x : RadioSlot) (y : RadioSlot) (u : State), slotOf s g n = some x ∧ x.entry.kind = 1 ∧ k.val ∉ x.txSent ∧ k.val ∉ x.txSkipped ∧ reached s (txOpensAt s x k.val) = true ∧ u = (slotStreams s x).foldl (sendSymbol x k.val (symReady x k.val)) s ∧ y = (if symReady x k.val && mayTransmit s then { x with txSent := k.val :: x.txSent } else { x with txSkipped := k.val :: x.txSkipped }) ∧ y.txSent.length + y.txSkipped.length = 14) ∧
  (∃ (x : RadioSlot) (k : Nat) (i : StreamIx) (s : State) (p : PortIx) (ms : List (List (Nat × Nat × Nat))) (b : Bool), streamPort (slotMap s x).streams[i] = some p ∧ portUp s p = true ∧ ms = symMessages (slotMap s x).streams[i].compDl x.entry.nprb.toNat x.cplane i k ∧ (b = false ∨ mayTransmit s = false)) ∧
  (∃ (x : RadioSlot) (k : Nat) (i : StreamIx) (s : State) (p : PortIx) (ms : List (List (Nat × Nat × Nat))), streamPort (slotMap s x).streams[i] = some p ∧ portUp s p = true ∧ ms = symMessages (slotMap s x).streams[i].compDl x.entry.nprb.toNat x.cplane i k ∧ mayTransmit s = true) ∧
  (∃ (g : GroupIx) (n : W64) (s : State) (x : RadioSlot), slotOf s g n = some x ∧ x.cplaneSent = false ∧ reached s (cplaneAt s x) = true) ∧
  (∃ (g : GroupIx) (s : State), 100 ≤ s.radio.missRun[g]) ∧
  (∃ (g : GroupIx) (n : W64) (s : State), s.twin.role = .standby ∧ s.sets.radioActive.groups[g].en = true ∧ streamsOf s.sets.radioActive g.val ≠ [] ∧ slotOf s g n = none) ∧
  (∃ (p : PortIx) (s : State), portFitted s p = true ∧ s.radio.ports[p].signal = true) ∧
  (∃ (p : PortIx) (s : State), portFitted s p = true ∧ s.radio.ports[p].powered = true) ∧
  (∃ (p : PortIx) (s : State), portFitted s p = true ∧ s.radio.ports[p].powered = true) :=
  ⟨⟨0, 0, 0, tSlots tSlot (tTime (fun t => { t with symbolCount := 10000000, todTick := 10000000 }) tUp), tSlot, by decide +kernel, by decide +kernel, by decide +kernel, by decide +kernel⟩,
  ⟨0, 0, 0, tSlots { tDown with fetched := true } (tTime (fun t => { t with symbolCount := 10000000, todTick := 10000000 }) tUp), { tDown with fetched := true }, by decide +kernel, by decide +kernel, by decide +kernel, by decide +kernel, by decide +kernel, by decide +kernel⟩,
  ⟨0, 0, tSlots tDown tUp, tDown, by decide +kernel, by decide +kernel, by decide +kernel, by decide +kernel⟩,
  ⟨0, 0, 13, tSlots tDown (tTime (fun t => { t with symbolCount := 10000000, todTick := 10000000 }) tUp), tDown, _, _, by decide +kernel, by decide +kernel, by decide +kernel, by decide +kernel, by decide +kernel, rfl, rfl, by decide +kernel⟩,
  ⟨0, 0, 13, tSlots { tDown with txSkipped := List.range 13 } (tTime (fun t => { t with symbolCount := 10000000, todTick := 10000000 }) tUp), { tDown with txSkipped := List.range 13 }, _, _, by decide +kernel, by decide +kernel, by decide +kernel, by decide +kernel, by decide +kernel, rfl, rfl, by decide +kernel⟩,
  ⟨tDown, 13, 63, tRadio 1, 3, _, (true : Bool), by decide +kernel, by decide +kernel, rfl, by decide +kernel⟩,
  ⟨{ tDown with cplane := [⟨63, 1, 13, 1, 7, 0, 0, 4095, 0⟩], entry := { tDown.entry with nprb := 1 } }, 13, 63, { tRadio 1 with twin := { tUp.twin with grant := true, hold := true } }, 3, _, by decide +kernel, by decide +kernel, rfl, by decide +kernel⟩,
  ⟨0, 0, tSlots tSlot (tTime (fun t => { t with symbolCount := 10000000, todTick := 10000000 }) tUp), tSlot, by decide +kernel, by decide +kernel, by decide +kernel⟩,
  ⟨15, { tUp with radio := { tUp.radio with missRun := put tUp.radio.missRun 15 100 } }, by decide +kernel⟩,
  ⟨15, 0, { tRadio 2 with twin := { tUp.twin with role := .standby } }, by decide +kernel, by decide +kernel, by decide +kernel, by decide +kernel⟩,
  ⟨3, tRadio 2, by decide +kernel, by decide +kernel⟩,
  ⟨3, tRadio 2, by decide +kernel, by decide +kernel⟩,
  ⟨3, tRadio 2, by decide +kernel, by decide +kernel⟩⟩

/-- The premises of ScheduledEventsArmFireAndCancel can be met. -/
theorem witness_ScheduledEventsArmFireAndCancel :
  (∃ (n : RingIx) (f : Fetched) (i : CmdInfo) (s : State) (u : State) (c : Fin 64) (rest : List (Fin 64)), Accepted opEventSet n f i s ∧ u = dispatch n f s ∧ allPass (eventSetArgs f u) ∧ tupleRefused f.desc u = false ∧ freeComparators u = c :: rest ∧ f.desc.u8 8 = 4) ∧
  (∃ (n : RingIx) (f : Fetched) (i : CmdInfo) (s : State) (u : State) (c : Fin 64) (rest : List (Fin 64)), Accepted opEventSet n f i s ∧ u = dispatch n f s ∧ allPass (eventSetArgs f u) ∧ tupleRefused f.desc u = false ∧ freeComparators u = c :: rest ∧ f.desc.u8 8 = 0 ∧ u.sets.groups[(0 : GroupIx)].shadow = .staged ∧ committing u 0 = false) ∧
  (∃ (n : RingIx) (f : Fetched) (i : CmdInfo) (s : State) (u : State) (c : Fin 64) (rest : List (Fin 64)) (g : GroupIx), Accepted opEventSet n f i s ∧ u = dispatch n f s ∧ allPass (eventSetArgs f u) ∧ tupleRefused f.desc u = false ∧ freeComparators u = c :: rest ∧ f.desc.u8 8 = 1 ∧ f.desc.u8 9 = g.val ∧ u.sets.groups[g].shadow = .staged ∧ committing u g = false) ∧
  (∃ (n : RingIx) (f : Fetched) (i : CmdInfo) (s : State) (u : State) (c : Fin 64) (d : Fin 64) (rest : List (Fin 64)), Accepted opGapDeclare n f i s ∧ u = dispatch n f s ∧ f.desc.u16 8 < 1024 ∧ 5 ≤ f.desc.u32 0x24 ∧ f.desc.u32 0x24 ≤ 100000 ∧ allPass (eventTimeChecks f.desc u.time) ∧ tupleRefused f.desc u = false ∧ freeComparators u = c :: d :: rest) ∧
  (∃ (n : RingIx) (f : Fetched) (i : CmdInfo) (s : State) (u : State) (hits : List (Fin 64)), Accepted opEventCancel n f i s ∧ u = dispatch n f s ∧ f.desc.u8 8 ≤ 63 ∧ hits = (List.finRange 64).filter (fun k => match u.time.comparators[k] with | some e => cancels (f.desc.u8 8) (BitVec.ofNat 32 (f.desc.u32 0x0C)) e | none => false) ∧ ((∀ k ∈ hits, ∀ e, u.time.comparators[k] = some e → e.action = .notify))) ∧
  (∃ (c : Fin 64) (e : ArmedEvent) (s : State), s.time.comparators[c] = some e ∧ e.action = .notify) ∧
  (∃ (c : Fin 64) (e : ArmedEvent) (b : Bool) (s : State), s.time.comparators[c] = some e ∧ e.action = .radioSwap b ∧ s.sets.groups[(0 : GroupIx)].shadow ≠ .empty ∧ s.sets.groups[(0 : GroupIx)].shadow ≠ .opened ∧ radioSwapForbidden (setComparator c none s) = false) ∧
  (∃ (c : Fin 64) (e : ArmedEvent) (g : GroupIx) (s : State), s.time.comparators[c] = some e ∧ e.action = .tileSwap g ∧ s.sets.groups[g].shadow ≠ .empty ∧ s.sets.groups[g].shadow ≠ .opened ∧ groupHeld (setComparator c none s) g = false) ∧
  (∃ (c : Fin 64) (e : ArmedEvent) (g : GroupIx) (s : State), s.time.comparators[c] = some e ∧ e.action = .tileSwap g ∧ s.sets.groups[g].shadow ≠ .empty ∧ s.sets.groups[g].shadow ≠ .opened ∧ groupHeld (setComparator c none s) g = true) ∧
  (∃ (c : Fin 64) (d : Fin 64) (e : ArmedEvent) (ts : BitVec 10) (dur : W32) (s : State), s.time.comparators[c] = some e ∧ e.action = .gapStart ts dur d) ∧
  (∃ (c : Fin 64) (e : ArmedEvent) (ts : BitVec 10) (s : State), s.time.comparators[c] = some e ∧ e.action = .gapEnd ts) :=
  ⟨⟨1, tCmd opEventSet [(8,1,4),(0x10,8,10000000)], tInfo opEventSet, tAsk opEventSet [(8,1,4),(0x10,8,10000000)] (tUp), _, (0 : Fin 64), ((List.finRange 64).tail : List (Fin 64)), ⟨by decide +kernel, by decide +kernel, by decide +kernel, by decide +kernel, by decide +kernel⟩, rfl, by unfold allPass; decide +kernel, by decide +kernel, by decide +kernel, by decide +kernel⟩,
  ⟨1, tCmd opEventSet [(8,1,0),(0x10,8,1966080)], tInfo opEventSet, tAsk opEventSet [(8,1,0),(0x10,8,1966080)] (tGroup 0 (fun x => { x with shadow := .staged }) (tUp)), _, (0 : Fin 64), ((List.finRange 64).tail : List (Fin 64)), ⟨by decide +kernel, by decide +kernel, by decide +kernel, by decide +kernel, by decide +kernel⟩, rfl, by unfold allPass; decide +kernel, by decide +kernel, by decide +kernel, by decide +kernel, by decide +kernel, by decide +kernel⟩,
  ⟨1, tCmd opEventSet [(8,1,1),(9,1,15),(0x10,8,10000000)], tInfo opEventSet, tAsk opEventSet [(8,1,1),(9,1,15),(0x10,8,10000000)] (tGroup 15 (fun x => { x with shadow := .staged }) (tUp)), _, (0 : Fin 64), ((List.finRange 64).tail : List (Fin 64)), 15, ⟨by decide +kernel, by decide +kernel, by decide +kernel, by decide +kernel, by decide +kernel⟩, rfl, by unfold allPass; decide +kernel, by decide +kernel, by decide +kernel, by decide +kernel, by decide +kernel, by decide +kernel, by decide +kernel⟩,
  ⟨1, tCmd opGapDeclare [(8,2,1023),(0x10,8,10000000),(0x24,4,100000)], tInfo opGapDeclare, tAsk opGapDeclare [(8,2,1023),(0x10,8,10000000),(0x24,4,100000)] (tUp), _, (0 : Fin 64), (1 : Fin 64), ((List.finRange 64).tail.tail : List (Fin 64)), ⟨by decide +kernel, by decide +kernel, by decide +kernel, by decide +kernel, by decide +kernel⟩, rfl, by decide +kernel, by decide +kernel, by decide +kernel, by unfold allPass; decide +kernel, by decide +kernel, by decide +kernel⟩,
  ⟨1, tCmd opEventCancel [(8,1,1)], tInfo opEventCancel, tAsk opEventCancel [(8,1,1)] (tArm 63 .notify tUp), _, ([63] : List (Fin 64)), ⟨by decide +kernel, by decide +kernel, by decide +kernel, by decide +kernel, by decide +kernel⟩, rfl, by decide +kernel, by decide +kernel, by decide +kernel⟩,
  ⟨63, tArmed .notify, tArm 63 .notify tUp, by decide +kernel, by decide +kernel⟩,
  ⟨63, tArmed (.radioSwap true), true, tArm 63 (.radioSwap true) (tGroup 0 (fun x => { x with shadow := .pending }) (tUp)), by decide +kernel, by decide +kernel, by decide +kernel, by decide +kernel, by decide +kernel⟩,
  ⟨63, tArmed (.tileSwap 15), 15, tArm 63 (.tileSwap 15) (tGroup 15 (fun x => { x with shadow := .pending }) (tUp)), by decide +kernel, by decide +kernel, by decide +kernel, by decide +kernel, by decide +kernel⟩,
  ⟨63, tArmed (.tileSwap 15), 15, tArm 63 (.tileSwap 15) ({ tTile 9 (fun x => { x with group := some 15, state := .ready, mesh := { x.mesh with shadow := { x.mesh.shadow with complete := false } } }) tUp with sets := { tUp.sets with groups := upd tUp.sets.groups 15 (fun x => { x with shadow := .pending, members := 0x200 }) } }), by decide +kernel, by decide +kernel, by decide +kernel, by decide +kernel, by decide +kernel⟩,
  ⟨62, 63, tArmed (.gapStart 1023 5 63), 1023, 5, tArm 62 (.gapStart 1023 5 63) tUp, by decide +kernel, by decide +kernel⟩,
  ⟨63, tArmed (.gapEnd 1), 1, tArm 63 (.gapEnd 1) tUp, by decide +kernel, by decide +kernel⟩⟩

/-- The premises of ClocksAndTimingInput can be met. -/
theorem witness_ClocksAndTimingInput :
  (∃ (s : State), s.time.rootLock = false) ∧
  (∃ (s : State), s.time.rootLock = true) ∧
  (∃ (s : State), s.woad.powered = true ∧ ((s.time.rootLock = false ∧ 10 ≤ s.time.lockFails) ∨ 2 ≤ s.woad.badCounts)) ∧
  (∃ (c : BitVec 17) (s : State) (u : State), s.time.rootLock = true ∧ s.woad.powered = true ∧ u = { s with woad := { s.woad with hclkCount := c } } ∧ s.woad.trimmed = false ∧ countError c.toNat * 1000 ≤ 15 * 122880) ∧
  (∃ (c : BitVec 17) (s : State) (u : State), s.time.rootLock = true ∧ s.woad.powered = true ∧ u = { s with woad := { s.woad with hclkCount := c } } ∧ s.woad.trimmed = false ∧ 15 * 122880 < countError c.toNat * 1000) ∧
  (∃ (c : BitVec 17) (s : State) (u : State), s.time.rootLock = true ∧ s.woad.powered = true ∧ u = { s with woad := { s.woad with hclkCount := c } } ∧ s.woad.trimmed = true ∧ countError c.toNat * 1000 ≤ 1228800) ∧
  (∃ (c : BitVec 17) (s : State) (u : State), s.time.rootLock = true ∧ s.woad.powered = true ∧ u = { s with woad := { s.woad with hclkCount := c } } ∧ s.woad.trimmed = true ∧ 1228800 < countError c.toNat * 1000 ∧ s.woad.badCounts = 0) ∧
  (∃ (c : BitVec 17) (s : State) (u : State), s.time.rootLock = true ∧ s.woad.powered = true ∧ u = { s with woad := { s.woad with hclkCount := c } } ∧ s.woad.trimmed = true ∧ 1228800 < countError c.toNat * 1000 ∧ s.woad.badCounts = 1) ∧
  (∃ (p : PortIx) (s : State) (off : Int), firmwareRuns s = true ∧ p.val < portsFitted s.tray.variant ∧ ptpEnabled s p = true ∧ coreRuns s 1 = true) ∧
  (∃ (p : PortIx) (s : State) (id : W64) (rank : Nat), firmwareRuns s = true ∧ p.val < portsFitted s.tray.variant ∧ ptpEnabled s p = true ∧ coreRuns s 1 = true ∧ s.time.master = none) ∧
  (∃ (p : PortIx) (m : Int) (off : Int) (s : State), s.time.ptpPort = some p ∧ s.time.syncState = .locked ∧ off = m - s.time.asym[p] ∧ 1000 < off.natAbs ∧ s.time.rejects + 1 < 16) ∧
  (∃ (p : PortIx) (m : Int) (off : Int) (s : State), s.time.ptpPort = some p ∧ s.time.syncState = .locked ∧ off = m - s.time.asym[p] ∧ 1000 < off.natAbs ∧ 16 ≤ s.time.rejects + 1) ∧
  (∃ (m : Master) (s : State), firmwareRuns s = true ∧ s.time.master = some m) ∧
  (∃ (m : Master) (s : State), firmwareRuns s = true ∧ s.time.syncState = .acquiring ∧ s.time.master = some m ∧ streamOpen s = true ∧ s.radio.held = 0) ∧
  (∃ (m : Master) (s : State), firmwareRuns s = true ∧ s.time.syncState = .acquiring ∧ s.time.master = some m ∧ streamOpen s = false) ∧
  (∃ (s : State), (s.time.syncState = .holdIn ∨ s.time.syncState = .holdOut)) ∧
  (∃ (s : State), s.time.syncePort ≠ none) ∧
  (∃ (s : State), firmwareRuns s = true ∧ s.time.syncState = .locked) ∧
  (∃ (p : PortIx) (s : State), p.val < portsFitted s.tray.variant) ∧
  (∃ (n : RingIx) (f : Fetched) (i : CmdInfo) (s : State) (u : State), Accepted opTimeConfig n f i s ∧ u = dispatch n f s ∧ allPass (timeConfigArgs f u) ∧ BitVec.ofNat 3 (f.desc.u8 8) = u.time.numerology ∧ (f.desc.i32 0x0C = u.time.frameOffset ∨ streamOpen u = false)) ∧
  (∃ (n : RingIx) (f : Fetched) (i : CmdInfo) (s : State) (u : State), Accepted opTimeConfig n f i s ∧ u = dispatch n f s ∧ allPass (timeConfigArgs f u) ∧ streamOpen u = false ∧ tupleArmed u = false) :=
  ⟨⟨tUp, by decide +kernel⟩,
  ⟨tTime (fun t => { t with rootLock := true }) tUp, by decide +kernel⟩,
  ⟨tTime (fun t => { t with lockFails := 10 }) tUp, by decide +kernel, by decide +kernel⟩,
  ⟨124723, tTime (fun t => { t with rootLock := true }) tUp, _, by decide +kernel, by decide +kernel, rfl, by decide +kernel, by decide +kernel⟩,
  ⟨124724, tTime (fun t => { t with rootLock := true }) tUp, _, by decide +kernel, by decide +kernel, rfl, by decide +kernel, by decide +kernel⟩,
  ⟨124108, tWoad (fun x => { x with trimmed := true }) (tTime (fun t => { t with rootLock := true }) tUp), _, by decide +kernel, by decide +kernel, rfl, by decide +kernel, by decide +kernel⟩,
  ⟨124109, tWoad (fun x => { x with trimmed := true }) (tTime (fun t => { t with rootLock := true }) tUp), _, by decide +kernel, by decide +kernel, rfl, by decide +kernel, by decide +kernel, by decide +kernel⟩,
  ⟨124109, tWoad (fun x => { x with trimmed := true, badCounts := 1 }) (tTime (fun t => { t with rootLock := true }) tUp), _, by decide +kernel, by decide +kernel, rfl, by decide +kernel, by decide +kernel, by decide +kernel⟩,
  ⟨3, tTime (fun t => { t with ptpPorts := 8 }) tUp, (0 : Int), by decide +kernel, by decide +kernel, by decide +kernel, by decide +kernel⟩,
  ⟨3, tTime (fun t => { t with ptpPorts := 8 }) tUp, (0 : W64), (0 : Nat), by decide +kernel, by decide +kernel, by decide +kernel, by decide +kernel, by decide +kernel⟩,
  ⟨3, -1001, _, tTime (fun t => { t with ptpPort := some 3, syncState := .locked, rejects := 14 }) tUp, by decide +kernel, by decide +kernel, rfl, by decide +kernel, by decide +kernel⟩,
  ⟨3, 1001, _, tTime (fun t => { t with ptpPort := some 3, syncState := .locked, rejects := 15 }) tUp, by decide +kernel, by decide +kernel, rfl, by decide +kernel, by decide +kernel⟩,
  ⟨tMaster, tTime (fun t => { t with master := some tMaster, syncState := .freerun }) (tUp), by decide +kernel, by decide +kernel⟩,
  ⟨tMaster, tTime (fun t => { t with master := some tMaster, syncState := .acquiring }) (tRadio 2), by decide +kernel, by decide +kernel, by decide +kernel, by decide +kernel, by decide +kernel⟩,
  ⟨tMaster, tTime (fun t => { t with master := some tMaster, syncState := .acquiring }) (tUp), by decide +kernel, by decide +kernel, by decide +kernel, by decide +kernel⟩,
  ⟨tTime (fun t => { t with master := some tMaster, syncState := .holdOut }) tUp, by decide +kernel⟩,
  ⟨tTime (fun t => { t with syncePort := some 3 }) tUp, by decide +kernel⟩,
  ⟨tTime (fun t => { t with master := some tMaster, syncState := .locked }) (tUp), by decide +kernel, by decide +kernel⟩,
  ⟨3, tUp, by decide +kernel⟩,
  ⟨1, tCmd opTimeConfig [(8,1,1),(9,1,43),(0xA,1,15),(0xB,1,3),(0x10,2,10000),(0x12,2,1000),(0x2C,4,0xFF808001)], tInfo opTimeConfig, tAsk opTimeConfig [(8,1,1),(9,1,43),(0xA,1,15),(0xB,1,3),(0x10,2,10000),(0x12,2,1000),(0x2C,4,0xFF808001)] (tUp), _, ⟨by decide +kernel, by decide +kernel, by decide +kernel, by decide +kernel, by decide +kernel⟩, rfl, by unfold allPass; decide +kernel, by decide +kernel, by decide +kernel⟩,
  ⟨1, tCmd opTimeConfig [(8,1,1),(9,1,43),(0xA,1,15),(0xB,1,3),(0x10,2,10000),(0x12,2,1000),(0x2C,4,0xFF808001)], tInfo opTimeConfig, tAsk opTimeConfig [(8,1,1),(9,1,43),(0xA,1,15),(0xB,1,3),(0x10,2,10000),(0x12,2,1000),(0x2C,4,0xFF808001)] (tUp), _, ⟨by decide +kernel, by decide +kernel, by decide +kernel, by decide +kernel, by decide +kernel⟩, rfl, by unfold allPass; decide +kernel, by decide +kernel, by decide +kernel⟩⟩

/-- The premises of TilesLasersAndLatches can be met. -/
theorem witness_TilesLasersAndLatches :
  (∃ (n : RingIx) (f : Fetched) (i : CmdInfo) (s : State) (u : State) (t : TileIx), Accepted opTileControl n f i s ∧ u = dispatch n f s ∧ f.desc.u8 8 ≤ 9 ∧ t.val = f.desc.u8 8 ∧ u.tiles[t].moving = none ∧ u.tiles[t].control = none ∧ f.desc.u8 9 = 0 ∧ u.tiles[t].state = .off) ∧
  (∃ (n : RingIx) (f : Fetched) (i : CmdInfo) (s : State) (u : State) (t : TileIx), Accepted opTileControl n f i s ∧ u = dispatch n f s ∧ f.desc.u8 8 ≤ 9 ∧ t.val = f.desc.u8 8 ∧ u.tiles[t].moving = none ∧ u.tiles[t].control = none ∧ f.desc.u8 9 = 1 ∧ u.tiles[t].state = .dark) ∧
  (∃ (n : RingIx) (f : Fetched) (i : CmdInfo) (s : State) (u : State) (t : TileIx), Accepted opTileControl n f i s ∧ u = dispatch n f s ∧ f.desc.u8 8 ≤ 9 ∧ t.val = f.desc.u8 8 ∧ u.tiles[t].moving = none ∧ u.tiles[t].control = none ∧ f.desc.u8 9 = 2 ∧ inService u.tiles[t] = true ∧ soleRadioTile u t = false) ∧
  (∃ (n : RingIx) (f : Fetched) (i : CmdInfo) (s : State) (u : State) (t : TileIx), Accepted opTileControl n f i s ∧ u = dispatch n f s ∧ f.desc.u8 8 ≤ 9 ∧ t.val = f.desc.u8 8 ∧ u.tiles[t].moving = none ∧ u.tiles[t].control = none ∧ f.desc.u8 9 = 3 ∧ u.tiles[t].state = .dark) ∧
  (∃ (t : TileIx) (o : Int) (s : State) (u : State), s.tiles[t].laser.locked = false ∧ (inService s.tiles[t] = true ∨ s.tiles[t].state = .warm ∨ s.tiles[t].state = .maint) ∧ u = changeLocked t (setTile t (fun x => { x with laser := { x.laser with locked := true, timedOut := false, offsetPm := o } }) s) ∧ o.natAbs ≤ 20 ∧ s.tiles[t].state = .warm ∧ (s.tray.phase = .done ∨ s.tray.lateTiles.getLsbD t.val = true)) ∧
  (∃ (t : TileIx) (o : Int) (s : State) (u : State), s.tiles[t].laser.locked = false ∧ (inService s.tiles[t] = true ∨ s.tiles[t].state = .warm ∨ s.tiles[t].state = .maint) ∧ u = changeLocked t (setTile t (fun x => { x with laser := { x.laser with locked := true, timedOut := false, offsetPm := o } }) s) ∧ o.natAbs ≤ 20 ∧ s.tiles[t].state ≠ .warm) ∧
  (∃ (t : TileIx) (o : Int) (s : State) (u : State), s.tiles[t].laser.locked = false ∧ (inService s.tiles[t] = true ∨ s.tiles[t].state = .warm ∨ s.tiles[t].state = .maint) ∧ u = changeLocked t (setTile t (fun x => { x with laser := { x.laser with locked := true, timedOut := false, offsetPm := o } }) s) ∧ 20 < o.natAbs) ∧
  (∃ (t : TileIx) (o : Int) (s : State), s.tiles[t].laser.locked = true ∧ o.natAbs ≤ 50) ∧
  (∃ (t : TileIx) (o : Int) (s : State), s.tiles[t].laser.locked = true ∧ 50 < o.natAbs) ∧
  (∃ (t : TileIx) (s : State), s.tiles[t].laser.locked = false ∧ (s.tiles[t].state = .warm ∨ s.tiles[t].state = .maint)) ∧
  (∃ (t : TileIx) (s : State), s.tiles[t].laser.locked = false ∧ inService s.tiles[t] = true) ∧
  (∃ (t : TileIx) (s : State), (inService s.tiles[t] = true ∨ s.tiles[t].state = .maint)) ∧
  (∃ (t : TileIx) (s : State), nextStripe s.tiles[t].laser = none) ∧
  (∃ (t : TileIx) (k : Fin 4) (s : State), nextStripe s.tiles[t].laser = some k ∧ k ≠ s.tiles[t].laser.lit) ∧
  (∃ (t : TileIx) (s : State) (u : State), u = setTile t (fun x => { x with moving := none }) s ∧ s.tiles[t].moving = some .dark ∧ s.tiles[t].state = .off) ∧
  (∃ (t : TileIx) (s : State) (u : State), u = setTile t (fun x => { x with moving := none }) s ∧ s.tiles[t].moving = some .dark ∧ s.tiles[t].state = .ready) ∧
  (∃ (t : TileIx) (s : State) (u : State), u = setTile t (fun x => { x with moving := none }) s ∧ s.tiles[t].moving = some .off ∧ s.tiles[t].state = .dark) ∧
  (∃ (t : TileIx) (k : Nat) (s : State), holdsImage s.tiles[t] = true ∧ k < s.tiles[t].mesh.active.sel.length ∧ (Latch.flip k s.tiles[t].mesh.active).parityOk = false) ∧
  (∃ (t : TileIx) (k : Nat) (s : State), holdsImage s.tiles[t] = true ∧ k < s.tiles[t].mesh.active.sel.length ∧ s.tiles[t].job = none) ∧
  (∃ (t : TileIx) (k : Nat) (s : State) (id : Nat), holdsImage s.tiles[t] = true ∧ k < s.tiles[t].mesh.active.sel.length ∧ s.tiles[t].job = some id) ∧
  (∃ (t : TileIx) (k : Nat) (s : State), holdsImage s.tiles[t] = true ∧ k < s.tiles[t].mesh.shadow.sel.length ∧ (Latch.flip k s.tiles[t].mesh.shadow).parityOk = false) ∧
  (∃ (t : TileIx) (k : Nat) (s : State), holdsImage s.tiles[t] = true ∧ k < s.tiles[t].mesh.shadow.sel.length ∧ (s.tiles[t].mesh.parityRetries = 0 ∨ holdsStaged s t = false)) ∧
  (∃ (t : TileIx) (k : Nat) (s : State), holdsImage s.tiles[t] = true ∧ k < s.tiles[t].mesh.shadow.sel.length ∧ 1 ≤ s.tiles[t].mesh.parityRetries ∧ holdsStaged s t = true) ∧
  (∃ (t : TileIx) (s : State), inService s.tiles[t] = true ∧ shadowFree s t = true ∧ s.tiles[t].mesh.active.mapRev ≠ s.tiles[t].mesh.mapRev) ∧
  (∃ (t : TileIx) (s : State), s.tiles[t].state = .maint ∧ s.tiles[t].cal.step = none ∧ s.tiles[t].heat.overcurrent = false ∧ s.tiles[t].laser.locked = true ∧ repairGoesOn s.tiles[t].cal = false) ∧
  (∃ (t : TileIx) (s : State), s.tiles[t].state = .maint ∧ s.tiles[t].cal.step = none ∧ s.tiles[t].heat.overcurrent = false ∧ s.tiles[t].laser.locked = true ∧ repairGoesOn s.tiles[t].cal = true) ∧
  (∃ (t : TileIx) (s : State), s.tiles[t].state = .maint ∧ s.tiles[t].cal.step = none ∧ s.tiles[t].heat.overcurrent = false ∧ s.tiles[t].laser.locked = false ∧ s.tiles[t].laser.timedOut = true) :=
  ⟨⟨1, tCmd opTileControl [(8,1,9)], tInfo opTileControl, tAsk opTileControl [(8,1,9)] (tUp), _, 9, ⟨by decide +kernel, by decide +kernel, by decide +kernel, by decide +kernel, by decide +kernel⟩, rfl, by decide +kernel, by decide +kernel, by decide +kernel, by decide +kernel, by decide +kernel, by decide +kernel⟩,
  ⟨1, tCmd opTileControl [(8,1,9),(9,1,1)], tInfo opTileControl, tAsk opTileControl [(8,1,9),(9,1,1)] (tTile 9 (fun x => { x with state := .dark }) tUp), _, 9, ⟨by decide +kernel, by decide +kernel, by decide +kernel, by decide +kernel, by decide +kernel⟩, rfl, by decide +kernel, by decide +kernel, by decide +kernel, by decide +kernel, by decide +kernel, by decide +kernel⟩,
  ⟨1, tCmd opTileControl [(8,1,9),(9,1,2)], tInfo opTileControl, tAsk opTileControl [(8,1,9),(9,1,2)] (tTile 9 (fun x => { x with state := .serving }) tUp), _, 9, ⟨by decide +kernel, by decide +kernel, by decide +kernel, by decide +kernel, by decide +kernel⟩, rfl, by decide +kernel, by decide +kernel, by decide +kernel, by decide +kernel, by decide +kernel, by decide +kernel, by decide +kernel⟩,
  ⟨1, tCmd opTileControl [(8,1,9),(9,1,3)], tInfo opTileControl, tAsk opTileControl [(8,1,9),(9,1,3)] (tTile 9 (fun x => { x with state := .dark }) tUp), _, 9, ⟨by decide +kernel, by decide +kernel, by decide +kernel, by decide +kernel, by decide +kernel⟩, rfl, by decide +kernel, by decide +kernel, by decide +kernel, by decide +kernel, by decide +kernel, by decide +kernel⟩,
  ⟨9, -20, tTile 9 (fun x => { x with state := .warm }) tUp, _, by decide +kernel, by decide +kernel, rfl, by decide +kernel, by decide +kernel, by decide +kernel⟩,
  ⟨9, 20, tTile 9 (fun x => { x with state := .maint }) tUp, _, by decide +kernel, by decide +kernel, rfl, by decide +kernel, by decide +kernel⟩,
  ⟨9, 21, tTile 9 (fun x => { x with state := .ready }) tUp, _, by decide +kernel, by decide +kernel, rfl, by decide +kernel⟩,
  ⟨9, 50, tTile 9 (fun x => { x with laser := { x.laser with locked := true } }) tUp, by decide +kernel, by decide +kernel⟩,
  ⟨9, -51, tTile 9 (fun x => { x with laser := { x.laser with locked := true } }) tUp, by decide +kernel, by decide +kernel⟩,
  ⟨9, tTile 9 (fun x => { x with state := .warm }) tUp, by decide +kernel, by decide +kernel⟩,
  ⟨9, tTile 9 (fun x => { x with state := .serving }) tUp, by decide +kernel, by decide +kernel⟩,
  ⟨9, tTile 9 (fun x => { x with state := .maint }) tUp, by decide +kernel⟩,
  ⟨9, tTile 9 (fun x => { x with laser := { x.laser with stripes := Vector.replicate 4 ⟨.failed, 0⟩ } }) tUp, by decide +kernel⟩,
  ⟨9, 1, tTile 9 (fun x => { x with laser := { x.laser with stripes := upd x.laser.stripes 0 (fun p => { p with state := .lit }) } }) tUp, by decide +kernel, by decide +kernel⟩,
  ⟨9, tTile 9 (fun x => { x with moving := some .dark }) tUp, _, rfl, by decide +kernel, by decide +kernel⟩,
  ⟨9, tTile 9 (fun x => { x with moving := some .dark, state := .ready }) tUp, _, rfl, by decide +kernel, by decide +kernel⟩,
  ⟨9, tTile 9 (fun x => { x with moving := some .off, state := .dark }) tUp, _, rfl, by decide +kernel, by decide +kernel⟩,
  ⟨9, 0, tTile 9 (fun x => { x with state := .ready, mesh := { x.mesh with active := { x.mesh.active with sel := [0], parity := [false] } } }) tUp, by decide +kernel, by decide +kernel, by decide +kernel⟩,
  ⟨9, 0, tTile 9 (fun x => { x with state := .ready, mesh := { x.mesh with active := { x.mesh.active with sel := [0], parity := [false] } } }) tUp, by decide +kernel, by decide +kernel, by decide +kernel⟩,
  ⟨9, 0, tTile 9 (fun x => { x with state := .serving, job := some 7, mesh := { x.mesh with active := { x.mesh.active with sel := [0], parity := [false] } } }) tUp, 7, by decide +kernel, by decide +kernel, by decide +kernel⟩,
  ⟨9, 0, tTile 9 (fun x => { x with state := .ready, mesh := { x.mesh with shadow := { x.mesh.shadow with sel := [0], parity := [false] } } }) tUp, by decide +kernel, by decide +kernel, by decide +kernel⟩,
  ⟨9, 0, tTile 9 (fun x => { x with state := .ready, mesh := { x.mesh with shadow := { x.mesh.shadow with sel := [0], parity := [false] } } }) tUp, by decide +kernel, by decide +kernel, by decide +kernel⟩,
  ⟨9, 0, tGroup 15 (fun x => { x with shadow := .staged }) (tTile 9 (fun x => { x with state := .ready, group := some 15, mesh := { x.mesh with shadow := { x.mesh.shadow with sel := [0], parity := [false] }, parityRetries := 1 } }) tUp), by decide +kernel, by decide +kernel, by decide +kernel, by decide +kernel⟩,
  ⟨9, tTile 9 (fun x => { x with state := .ready, mesh := { x.mesh with mapRev := 1 } }) tUp, by decide +kernel, by decide +kernel, by decide +kernel⟩,
  ⟨9, tTile 9 (fun x => { x with state := .maint, laser := { x.laser with locked := true } }) tUp, by decide +kernel, by decide +kernel, by decide +kernel, by decide +kernel, by decide +kernel⟩,
  ⟨9, tTile 9 (fun x => { x with state := .maint, laser := { x.laser with locked := true }, cal := { x.cal with gap := some ⟨.repair, false, 0, 0, false⟩, demand := [.segD] } }) tUp, by decide +kernel, by decide +kernel, by decide +kernel, by decide +kernel, by decide +kernel⟩,
  ⟨9, tTile 9 (fun x => { x with state := .maint, laser := { x.laser with timedOut := true } }) tUp, by decide +kernel, by decide +kernel, by decide +kernel, by decide +kernel, by decide +kernel⟩⟩

/-- The premises of CalibrationAndHeaters can be met. -/
theorem witness_CalibrationAndHeaters :
  (∃ (t : TileIx) (rest : List PairMoments) (ss : List (Fin 256 × Int × Nat)) (s : State) (n : Nat) (c : Convert) (b : Convert) (y : Tile) (u : State), n = 2 ^ (s.tiles[t].cal.windowN - 1) ∧ c = turnWindow (decide (s.tiles[t].state = .maint)) rest ss s.tiles[t].conv ∧ b = shadowBase { c with windowUsed := true } ∧ y = (List.finRange 256).foldl (classOne n c.closed) { s.tiles[t] with conv := b } ∧ inService s.tiles[t] = true ∧ s.tiles[t].conv.windowMaint = false ∧ s.tiles[t].conv.windowClips < 2 ^ (s.tiles[t].cal.windowN - 10) ∧ u = setTile t (fun _ => { y with conv := if s.tiles[t].job = none then passBoundary y.conv else y.conv }) s ∧ adcSuspect n c.closed b.pairsNext = false) ∧
  (∃ (t : TileIx) (rest : List PairMoments) (ss : List (Fin 256 × Int × Nat)) (s : State) (n : Nat) (c : Convert) (b : Convert) (y : Tile) (u : State), n = 2 ^ (s.tiles[t].cal.windowN - 1) ∧ c = turnWindow (decide (s.tiles[t].state = .maint)) rest ss s.tiles[t].conv ∧ b = shadowBase { c with windowUsed := true } ∧ y = (List.finRange 256).foldl (classOne n c.closed) { s.tiles[t] with conv := b } ∧ inService s.tiles[t] = true ∧ s.tiles[t].conv.windowMaint = false ∧ s.tiles[t].conv.windowClips < 2 ^ (s.tiles[t].cal.windowN - 10) ∧ u = setTile t (fun _ => { y with conv := if s.tiles[t].job = none then passBoundary y.conv else y.conv }) s ∧ adcSuspect n c.closed b.pairsNext = true) ∧
  (∃ (t : TileIx) (rest : List PairMoments) (ss : List (Fin 256 × Int × Nat)) (s : State) (n : Nat) (c : Convert) (b : Convert) (y : Tile), n = 2 ^ (s.tiles[t].cal.windowN - 1) ∧ c = turnWindow (decide (s.tiles[t].state = .maint)) rest ss s.tiles[t].conv ∧ b = shadowBase { c with windowUsed := true } ∧ y = (List.finRange 256).foldl (classOne n c.closed) { s.tiles[t] with conv := b } ∧ (2 ^ (s.tiles[t].cal.windowN - 10) ≤ s.tiles[t].conv.windowClips ∨ s.tiles[t].conv.windowMaint = true)) ∧
  (∃ (t : TileIx) (cs : List (Fin 64 × Conversions)) (tia : List (Fin 128 × Conversions × Conversions)) (es : List (Fin 16 × Int)) (m : Nat) (s : State) (c : Convert), s.tiles[t].state ≠ .off ∧ s.tiles[t].conv.scanIdle = false ∧ c = roundEnd cs tia s.tiles[t].conv ∧ monitorBad c s.tiles[t].conv.scanMask = false) ∧
  (∃ (t : TileIx) (cs : List (Fin 64 × Conversions)) (tia : List (Fin 128 × Conversions × Conversions)) (es : List (Fin 16 × Int)) (m : Nat) (s : State) (c : Convert), s.tiles[t].state ≠ .off ∧ s.tiles[t].conv.scanIdle = false ∧ c = roundEnd cs tia s.tiles[t].conv ∧ monitorBad c s.tiles[t].conv.scanMask = true ∧ s.tiles[t].conv.monBad = 0) ∧
  (∃ (t : TileIx) (cs : List (Fin 64 × Conversions)) (tia : List (Fin 128 × Conversions × Conversions)) (es : List (Fin 16 × Int)) (m : Nat) (s : State) (c : Convert), s.tiles[t].state ≠ .off ∧ s.tiles[t].conv.scanIdle = false ∧ c = roundEnd cs tia s.tiles[t].conv ∧ monitorBad c s.tiles[t].conv.scanMask = true ∧ 1 ≤ s.tiles[t].conv.monBad) ∧
  (∃ (t : TileIx) (act : List (Fin 128 × Nat)) (ws : List (Fin 136 × BitVec 12)) (s : State), s.tiles[t].state ≠ .off) ∧
  (∃ (t : TileIx) (s : State), s.tiles[t].state ≠ .off ∧ (s.tiles[t].heat.chans.toList.any (fun c => decide (240 ≤ c.starved))) = true) ∧
  (∃ (t : TileIx) (s : State), s.tiles[t].state ≠ .off ∧ s.tiles[t].state = .faulted) ∧
  (∃ (t : TileIx) (s : State) (u : State) (c : Fin 136), s.tiles[t].state ≠ .off ∧ u = raiseAlarm false alHeater (BitVec.ofNat 16 t.val) (event evHeaterFault (BitVec.ofNat 16 t.val) 0 (setTile t (fun x => { zeroHeaters x with heat := { (zeroHeaters x).heat with overcurrent := true, overAt := some s.time.symbolCount }, maintDue := decide (x.state ≠ .maint) && decide (x.state ≠ .faulted) }) s))) ∧
  (∃ (t : TileIx) (s : State) (u : State), s.tiles[t].state ≠ .off ∧ u = raiseAlarm false alHeater (BitVec.ofNat 16 t.val) (event evHeaterFault (BitVec.ofNat 16 t.val) 0 (setTile t (fun x => { zeroHeaters x with heat := { (zeroHeaters x).heat with overcurrent := true, overAt := some s.time.symbolCount }, maintDue := decide (x.state ≠ .maint) && decide (x.state ≠ .faulted) }) s)) ∧ s.tiles[t].heat.overAt = none) ∧
  (∃ (t : TileIx) (s : State) (u : State) (x : W64), s.tiles[t].state ≠ .off ∧ u = raiseAlarm false alHeater (BitVec.ofNat 16 t.val) (event evHeaterFault (BitVec.ofNat 16 t.val) 0 (setTile t (fun x => { zeroHeaters x with heat := { (zeroHeaters x).heat with overcurrent := true, overAt := some s.time.symbolCount }, maintDue := decide (x.state ≠ .maint) && decide (x.state ≠ .faulted) }) s)) ∧ s.tiles[t].heat.overAt = some x ∧ (s.time.symbolCount - x).toNat ≤ 3932160000) ∧
  (∃ (t : TileIx) (s : State) (u : State) (x : W64), s.tiles[t].state ≠ .off ∧ u = raiseAlarm false alHeater (BitVec.ofNat 16 t.val) (event evHeaterFault (BitVec.ofNat 16 t.val) 0 (setTile t (fun x => { zeroHeaters x with heat := { (zeroHeaters x).heat with overcurrent := true, overAt := some s.time.symbolCount }, maintDue := decide (x.state ≠ .maint) && decide (x.state ≠ .faulted) }) s)) ∧ s.tiles[t].heat.overAt = some x ∧ 3932160000 < (s.time.symbolCount - x).toNat) ∧
  (∃ (t : TileIx) (s : State) (w : DriftWindow), w = s.tiles[t].cal.drift ∧ 2 ^ s.tiles[t].cal.driftWindow ≤ w.sampled ∧ inService s.tiles[t] = true ∧ w.mixed = false ∧ w.maint = false ∧ w.residBad = false) ∧
  (∃ (t : TileIx) (s : State) (w : DriftWindow), w = s.tiles[t].cal.drift ∧ 2 ^ s.tiles[t].cal.driftWindow ≤ w.sampled ∧ (inService s.tiles[t] = false ∨ w.mixed = true ∨ w.maint = true ∨ w.residBad = true)) ∧
  (∃ (t : TileIx) (s : State) (w : DriftWindow) (vs : List (Int × Int)), w = s.tiles[t].cal.drift ∧ 2 ^ s.tiles[t].cal.driftWindow ≤ w.sampled ∧ s.tiles[t].cal.driftBad < 10) ∧
  (∃ (t : TileIx) (s : State), s.tiles[t].cal.passOpen = false) ∧
  (∃ (t : TileIx) (s : State) (k : Fin 4), s.tiles[t].state = .ready ∧ s.tiles[t].job = none ∧ s.tiles[t].next = none ∧ s.tiles[t].moving = none ∧ s.tiles[t].cal.gap = none ∧ planned s t 5 = false ∧ changeNow s t = some k) ∧
  (∃ (t : TileIx) (s : State) (u : State), s.tiles[t].state = .ready ∧ s.tiles[t].job = none ∧ s.tiles[t].next = none ∧ s.tiles[t].moving = none ∧ s.tiles[t].cal.gap = none ∧ planned s t 5 = false ∧ changeNow s t = none ∧ gapUsable s t .idle = true ∧ u = beginStep t (openGap t .idle (setTile t (fun x => { x with cal := passIfDegraded x.cal }) s)) ∧ u.tiles[t].cal.step ≠ none) ∧
  (∃ (t : TileIx) (k : StepKind) (n : Nat) (d : CharData) (late : Nat) (s : State) (got : List (Nat × Nat × Byte)) (ps : List PathPoint), s.tiles[t].cal.step = some (k, n) ∧ got = s.tiles[t].cal.stepResults ++ unitResults t k d s.tiles[t] ∧ ps = s.tiles[t].cal.stepPoints ++ unitPoints d ∧ 2 ≤ n ∧ gapOver s t = false) ∧
  (∃ (t : TileIx) (k : StepKind) (n : Nat) (d : CharData) (late : Nat) (s : State) (got : List (Nat × Nat × Byte)) (ps : List PathPoint), s.tiles[t].cal.step = some (k, n) ∧ got = s.tiles[t].cal.stepResults ++ unitResults t k d s.tiles[t] ∧ ps = s.tiles[t].cal.stepPoints ++ unitPoints d ∧ 2 ≤ n ∧ gapOver s t = true) ∧
  (∃ (t : TileIx) (k : StepKind) (n : Nat) (d : CharData) (late : Nat) (s : State) (got : List (Nat × Nat × Byte)) (ps : List PathPoint), s.tiles[t].cal.step = some (k, n) ∧ got = s.tiles[t].cal.stepResults ++ unitResults t k d s.tiles[t] ∧ ps = s.tiles[t].cal.stepPoints ++ unitPoints d ∧ n ≤ 1 ∧ gapOver s t = false) ∧
  (∃ (t : TileIx) (s : State), s.tiles[t].cal.passOpen = true) ∧
  (∃ (t : TileIx) (s : State), s.tiles[t].cal.changed = true) :=
  ⟨⟨9, [], [], tTile 9 (fun x => { x with state := .ready }) tUp, _, _, _, _, _, rfl, rfl, rfl, rfl, by decide +kernel, by decide +kernel, by decide +kernel, rfl, by decide +kernel⟩,
  ⟨9, [⟨255, 0x80000, 0x80000, 0x8000000, 0, 34412167168, 52428800, 0, 0⟩], [], tTile 9 (fun x => { x with state := .ready }) tUp, _, _, _, _, _, rfl, rfl, rfl, rfl, by decide +kernel, by decide +kernel, by decide +kernel, rfl, by decide +kernel⟩,
  ⟨9, [], [], tTile 9 (fun x => { x with conv := { x.conv with windowClips := 1024 } }) tUp, _, _, _, _, rfl, rfl, rfl, rfl, by decide +kernel⟩,
  ⟨9, [], [], [], 0, tTile 9 (fun x => { x with state := .ready, conv := { x.conv with scanMask := 0x17FFFFFFFFFFFFFF } }) tUp, _, by decide +kernel, by decide +kernel, rfl, by decide +kernel⟩,
  ⟨9, [], [], [], 0, tTile 9 (fun x => { x with state := .ready, conv := { x.conv with scanMask := 0x0800000000000000 } }) tUp, _, by decide +kernel, by decide +kernel, rfl, by decide +kernel, by decide +kernel⟩,
  ⟨9, [], [], [], 0, tTile 9 (fun x => { x with state := .ready, conv := { x.conv with scanMask := 0x0800000000000000, monBad := 1 } }) tUp, _, by decide +kernel, by decide +kernel, rfl, by decide +kernel, by decide +kernel⟩,
  ⟨9, [], [], tTile 9 (fun x => { x with state := .ready }) tUp, by decide +kernel⟩,
  ⟨9, tTile 9 (fun x => { x with state := .ready, heat := { x.heat with chans := upd x.heat.chans 135 (fun c => { c with starved := 240 }) } }) tUp, by decide +kernel, by decide +kernel⟩,
  ⟨9, tTile 9 (fun x => { x with state := .faulted }) tUp, by decide +kernel, by decide +kernel⟩,
  ⟨9, tTile 9 (fun x => { x with state := .ready }) tUp, _, 135, by decide +kernel, rfl⟩,
  ⟨9, tTile 9 (fun x => { x with state := .ready }) tUp, _, by decide +kernel, rfl, by decide +kernel⟩,
  ⟨9, tTile 9 (fun x => { x with state := .ready, heat := { x.heat with overAt := some 0 } }) tUp, _, 0, by decide +kernel, rfl, by decide +kernel, by decide +kernel⟩,
  ⟨9, tTime (fun t => { t with symbolCount := 3932160001 }) (tTile 9 (fun x => { x with state := .ready, heat := { x.heat with overAt := some 0 } }) tUp), _, 0, by decide +kernel, rfl, by decide +kernel, by decide +kernel⟩,
  ⟨9, tTile 9 (fun x => { x with state := .ready, cal := { x.cal with drift := { x.cal.drift with sampled := 2 ^ x.cal.driftWindow } } }) tUp, _, rfl, by decide +kernel, by decide +kernel, by decide +kernel, by decide +kernel, by decide +kernel⟩,
  ⟨9, tTile 9 (fun x => { x with state := .ready, cal := { x.cal with drift := { x.cal.drift with mixed := true, sampled := 2 ^ x.cal.driftWindow } } }) tUp, _, rfl, by decide +kernel, by decide +kernel⟩,
  ⟨9, tTile 9 (fun x => { x with cal := { x.cal with driftBad := 9, drift := { x.cal.drift with sampled := 2 ^ x.cal.driftWindow } } }) tUp, _, [(256, 0)], rfl, by decide +kernel, by decide +kernel⟩,
  ⟨9, tUp, by decide +kernel⟩,
  ⟨9, tTile 8 (fun x => { x with state := .ready }) (tTile 9 (fun x => { x with state := .ready, laser := { x.laser with changeDue := true, stripes := upd x.laser.stripes 0 (fun p => { p with state := .lit }) } }) tUp), 1, by decide +kernel, by decide +kernel, by decide +kernel, by decide +kernel, by decide +kernel, by decide +kernel, by decide +kernel⟩,
  ⟨9, tTile 9 (fun x => { x with state := .ready, cal := { x.cal with passOpen := true, steps := [.segD] } }) tUp, _, by decide +kernel, by decide +kernel, by decide +kernel, by decide +kernel, by decide +kernel, by decide +kernel, by decide +kernel, by decide +kernel, rfl, by decide +kernel⟩,
  ⟨9, .segD, 2, .weights [] [], 0, tTile 9 (fun x => { x with cal := { x.cal with gap := some ⟨.idle, false, 0, 0, false⟩, step := some (.segD, 2) } }) tUp, _, _, by decide +kernel, rfl, rfl, by decide +kernel, by decide +kernel⟩,
  ⟨9, .segD, 2, .weights [] [], 7, tTile 9 (fun x => { x with cal := { x.cal with step := some (.segD, 2) } }) tUp, _, _, by decide +kernel, rfl, rfl, by decide +kernel, by decide +kernel⟩,
  ⟨9, .segD, 1, .weights [] [], 0, tTile 9 (fun x => { x with cal := { x.cal with gap := some ⟨.idle, false, 0, 0, false⟩, step := some (.segD, 1) } }) tUp, _, _, by decide +kernel, rfl, rfl, by decide +kernel, by decide +kernel⟩,
  ⟨9, tTile 9 (fun x => { x with cal := { x.cal with passOpen := true } }) tUp, by decide +kernel⟩,
  ⟨9, tTile 9 (fun x => { x with cal := { x.cal with changed := true } }) tUp, by decide +kernel⟩⟩

/-- The premises of CalibrationCommandsTakeEffect can be met. -/
theorem witness_CalibrationCommandsTakeEffect :
  (∃ (n : RingIx) (f : Fetched) (i : CmdInfo) (s : State) (u : State) (t : TileIx), Accepted opCoefRead n f i s ∧ u = dispatch n f s ∧ f.desc.u8 8 ≤ 9 ∧ blockLen (f.desc.u16 0x0A) ≠ 0 ∧ badDaddr u.tray.variant (f.desc.u64 0x10) 64 = false ∧ t.val = f.desc.u8 8 ∧ writeFails u (f.desc.u64 0x10) (blockBytes t u.tiles[t] (f.desc.u16 0x0A)).length = none) ∧
  (∃ (n : RingIx) (f : Fetched) (i : CmdInfo) (s : State) (u : State) (t : TileIx) (kind : Nat) (k : Nat) (bs : List Byte), Accepted opRecordRead n f i s ∧ u = dispatch n f s ∧ f.desc.u8 8 ≤ 9 ∧ 1 ≤ f.desc.u8 9 ∧ f.desc.u8 9 ≤ 2 ∧ f.desc.u8 0x0A ≤ 2 ∧ badDaddr u.tray.variant (f.desc.u64 0x10) 1 = false ∧ u.flash.archDead = false ∧ t.val = f.desc.u8 8 ∧ kind = (if f.desc.u8 0x0A = 2 then 3 else f.desc.u8 9) ∧ k = min (f.desc.u32 0x18) (recordLen' kind) ∧ bs = flashRead u .archive (slotAddr kind t.val (f.desc.u8 0x0A)) k ∧ writeFails u (f.desc.u64 0x10) bs.length = none) ∧
  (∃ (n : RingIx) (f : Fetched) (i : CmdInfo) (s : State) (u : State) (t : TileIx), Accepted opCalTune n f i s ∧ u = dispatch n f s ∧ allPass (calTuneArgs f u) ∧ f.desc.u8 8 ≠ 0xFF ∧ t.val = f.desc.u8 8 ∧ u.tiles[t].state ≠ .faulted ∧ ((f.desc.u8 9).testBit 5 = false ∨ f.desc.u8 0x10 = 0 ∨ radioNames u t = false)) ∧
  (∃ (n : RingIx) (f : Fetched) (i : CmdInfo) (s : State) (u : State) (t : TileIx), Accepted opCalTune n f i s ∧ u = dispatch n f s ∧ allPass (calTuneArgs f u) ∧ f.desc.u8 8 ≠ 0xFF ∧ t.val = f.desc.u8 8 ∧ u.tiles[t].state ≠ .faulted ∧ (f.desc.u8 9).testBit 5 = true ∧ f.desc.u8 0x10 = 1 ∧ radioNames u t = true) ∧
  (∃ (n : RingIx) (f : Fetched) (i : CmdInfo) (s : State) (u : State) (m : BitVec 10), Accepted opCalTune n f i s ∧ u = dispatch n f s ∧ allPass (calTuneArgs f u) ∧ f.desc.u8 8 = 0xFF ∧ (∀ t : TileIx, m.getLsbD t.val = decide (u.tiles[t].state ≠ .faulted)) ∧ ((f.desc.u8 9).testBit 5 = false ∨ f.desc.u8 0x10 = 0 ∨ (∀ t ∈ tilesOf m, radioNames u t = false))) ∧
  (∃ (n : RingIx) (f : Fetched) (i : CmdInfo) (s : State) (u : State) (t : TileIx), Accepted opCharRequest n f i s ∧ u = dispatch n f s ∧ f.desc.u8 8 ≤ 9 ∧ t.val = f.desc.u8 8) ∧
  (∃ (n : RingIx) (f : Fetched) (i : CmdInfo) (s : State) (u : State) (t : TileIx) (k : Nat) (bs : List Byte), Accepted opCoefWrite n f i s ∧ u = dispatch n f s ∧ f.desc.u8 8 ≤ 9 ∧ blockLen (f.desc.u16 0x0A) ≠ 0 ∧ badDaddr u.tray.variant (f.desc.u64 0x10) 1 = false ∧ t.val = f.desc.u8 8 ∧ k = f.desc.u16 0x0A ∧ u.tiles[t].state ≠ .faulted ∧ readFails u (f.desc.u64 0x10) (blockLen k) = none ∧ bs = daddrRead u (f.desc.u64 0x10) (blockLen k) ∧ badCoef k bs = false ∧ k ≠ 0x0101 ∧ k ≠ 0x0102 ∧ (k ∈ runBlocks ∨ (inService u.tiles[t] = false ∧ u.tiles[t].state ≠ .maint))) ∧
  (∃ (n : RingIx) (f : Fetched) (i : CmdInfo) (s : State) (u : State) (t : TileIx) (k : Nat) (bs : List Byte), Accepted opCoefWrite n f i s ∧ u = dispatch n f s ∧ f.desc.u8 8 ≤ 9 ∧ blockLen (f.desc.u16 0x0A) ≠ 0 ∧ badDaddr u.tray.variant (f.desc.u64 0x10) 1 = false ∧ t.val = f.desc.u8 8 ∧ k = f.desc.u16 0x0A ∧ u.tiles[t].state ≠ .faulted ∧ readFails u (f.desc.u64 0x10) (blockLen k) = none ∧ bs = daddrRead u (f.desc.u64 0x10) (blockLen k) ∧ badCoef k bs = false ∧ k = 0x0102) ∧
  (∃ (n : RingIx) (f : Fetched) (i : CmdInfo) (s : State) (u : State) (t : TileIx) (k : Nat) (bs : List Byte), Accepted opCoefWrite n f i s ∧ u = dispatch n f s ∧ f.desc.u8 8 ≤ 9 ∧ blockLen (f.desc.u16 0x0A) ≠ 0 ∧ badDaddr u.tray.variant (f.desc.u64 0x10) 1 = false ∧ t.val = f.desc.u8 8 ∧ k = f.desc.u16 0x0A ∧ u.tiles[t].state ≠ .faulted ∧ readFails u (f.desc.u64 0x10) (blockLen k) = none ∧ bs = daddrRead u (f.desc.u64 0x10) (blockLen k) ∧ badCoef k bs = false ∧ k = 0x0101) ∧
  (∃ (n : RingIx) (f : Fetched) (i : CmdInfo) (s : State) (u : State) (t : TileIx) (k : Nat) (bs : List Byte), Accepted opCoefWrite n f i s ∧ u = dispatch n f s ∧ f.desc.u8 8 ≤ 9 ∧ blockLen (f.desc.u16 0x0A) ≠ 0 ∧ badDaddr u.tray.variant (f.desc.u64 0x10) 1 = false ∧ t.val = f.desc.u8 8 ∧ k = f.desc.u16 0x0A ∧ u.tiles[t].state ≠ .faulted ∧ readFails u (f.desc.u64 0x10) (blockLen k) = none ∧ bs = daddrRead u (f.desc.u64 0x10) (blockLen k) ∧ badCoef k bs = false ∧ k ∉ runBlocks ∧ (inService u.tiles[t] = true ∨ u.tiles[t].state = .maint)) :=
  ⟨⟨1, tCmd opCoefRead [(8,1,9),(0xA,2,0x104),(0x10,8,64)], tInfo opCoefRead, tAsk opCoefRead [(8,1,9),(0xA,2,0x104),(0x10,8,64)] (tUp), _, 9, ⟨by decide +kernel, by decide +kernel, by decide +kernel, by decide +kernel, by decide +kernel⟩, rfl, by decide +kernel, by decide +kernel, by decide +kernel, by decide +kernel, by decide +kernel⟩,
  ⟨1, tCmd opRecordRead [(8,1,9),(9,1,2),(0xA,1,1),(0x10,8,64),(0x18,4,16)], tInfo opRecordRead, tAsk opRecordRead [(8,1,9),(9,1,2),(0xA,1,1),(0x10,8,64),(0x18,4,16)] (tUp), _, 9, _, _, _, ⟨by decide +kernel, by decide +kernel, by decide +kernel, by decide +kernel, by decide +kernel⟩, rfl, by decide +kernel, by decide +kernel, by decide +kernel, by decide +kernel, by decide +kernel, by decide +kernel, by decide +kernel, rfl, rfl, rfl, by decide +kernel⟩,
  ⟨1, tCmd opCalTune [(8,1,9),(9,1,255),(0xA,1,24),(0xB,1,12),(0xC,1,20),(0xD,1,38),(0xE,2,168),(0x10,1,1),(0x11,1,16),(0x18,8,0x1FFFFFFFFFFFFFFF)], tInfo opCalTune, tAsk opCalTune [(8,1,9),(9,1,255),(0xA,1,24),(0xB,1,12),(0xC,1,20),(0xD,1,38),(0xE,2,168),(0x10,1,1),(0x11,1,16),(0x18,8,0x1FFFFFFFFFFFFFFF)] (tUp), _, 9, ⟨by decide +kernel, by decide +kernel, by decide +kernel, by decide +kernel, by decide +kernel⟩, rfl, by unfold allPass; decide +kernel, by decide +kernel, by decide +kernel, by decide +kernel, by decide +kernel⟩,
  ⟨1, tCmd opCalTune [(8,1,9),(9,1,32),(0x10,1,1)], tInfo opCalTune, tAsk opCalTune [(8,1,9),(9,1,32),(0x10,1,1)] (tNamed), _, 9, ⟨by decide +kernel, by decide +kernel, by decide +kernel, by decide +kernel, by decide +kernel⟩, rfl, by unfold allPass; decide +kernel, by decide +kernel, by decide +kernel, by decide +kernel, by decide +kernel, by decide +kernel, by decide +kernel⟩,
  ⟨1, tCmd opCalTune [(8,1,255),(9,1,1),(0xA,1,16)], tInfo opCalTune, tAsk opCalTune [(8,1,255),(9,1,1),(0xA,1,16)] (tUp), _, 1023#10, ⟨by decide +kernel, by decide +kernel, by decide +kernel, by decide +kernel, by decide +kernel⟩, rfl, by unfold allPass; decide +kernel, by decide +kernel, by decide +kernel, by decide +kernel⟩,
  ⟨1, tCmd opCharRequest [(8,1,9)], tInfo opCharRequest, tAsk opCharRequest [(8,1,9)] (tUp), _, 9, ⟨by decide +kernel, by decide +kernel, by decide +kernel, by decide +kernel, by decide +kernel⟩, rfl, by decide +kernel, by decide +kernel⟩,
  ⟨1, tCmd opCoefWrite [(8,1,9),(0xA,2,0x104),(0x10,8,0x1000)], tInfo opCoefWrite, tAsk opCoefWrite [(8,1,9),(0xA,2,0x104),(0x10,8,0x1000)] ({ tUp with tray := { tUp.tray with debugOn := true } }), _, 9, _, _, ⟨by decide +kernel, by decide +kernel, by decide +kernel, by decide +kernel, by decide +kernel⟩, rfl, by decide +kernel, by decide +kernel, by decide +kernel, by decide +kernel, rfl, by decide +kernel, by decide +kernel, rfl, by decide +kernel, by decide +kernel, by decide +kernel, by decide +kernel⟩,
  ⟨1, tCmd opCoefWrite [(8,1,9),(0xA,2,0x102),(0x10,8,0x1000)], tInfo opCoefWrite, tAsk opCoefWrite [(8,1,9),(0xA,2,0x102),(0x10,8,0x1000)] ({ tUp with tray := { tUp.tray with debugOn := true } }), _, 9, _, _, ⟨by decide +kernel, by decide +kernel, by decide +kernel, by decide +kernel, by decide +kernel⟩, rfl, by decide +kernel, by decide +kernel, by decide +kernel, by decide +kernel, rfl, by decide +kernel, by decide +kernel, rfl, by decide +kernel, rfl⟩,
  ⟨1, tCmd opCoefWrite [(8,1,9),(0xA,2,0x101),(0x10,8,2 ^ 63 + 0x2000)], tInfo opCoefWrite, tAsk opCoefWrite [(8,1,9),(0xA,2,0x101),(0x10,8,2 ^ 63 + 0x2000)] (tMem (fun m => { m with stackMem := memWriteN zeroByte [] 0x2000 (tPairs 256) }) (tTile 9 (fun x => { x with state := .serving, job := some 7 }) { tUp with tray := { tUp.tray with debugOn := true } })), _, 9, _, _, ⟨by decide +kernel, by decide +kernel, by decide +kernel, by decide +kernel, by decide +kernel⟩, rfl, by decide +kernel, by decide +kernel, by decide +kernel, by decide +kernel, rfl, by decide +kernel, by decide +kernel, rfl, tPairsRead _ _ _ _ (by decide +kernel) (by decide +kernel) (by decide +kernel) (by simp only [dispatch, tAsk, tRing, setRing, tMem, tTile, setTile]), rfl⟩,
  ⟨1, tCmd opCoefWrite [(8,1,9),(0xA,2,8),(0x10,8,0x1000)], tInfo opCoefWrite, tAsk opCoefWrite [(8,1,9),(0xA,2,8),(0x10,8,0x1000)] (tTile 9 (fun x => { x with state := .ready }) { tUp with tray := { tUp.tray with debugOn := true } }), _, 9, _, _, ⟨by decide +kernel, by decide +kernel, by decide +kernel, by decide +kernel, by decide +kernel⟩, rfl, by decide +kernel, by decide +kernel, by decide +kernel, by decide +kernel, rfl, by decide +kernel, by decide +kernel, rfl, by decide +kernel, by decide +kernel, by decide +kernel⟩⟩

/-- The premises of WoadSentinelAndPowerStates can be met. -/
theorem witness_WoadSentinelAndPowerStates :
  (∃ (n : RingIx) (f : Fetched) (i : CmdInfo) (s : State) (u : State), Accepted opPowerState n f i s ∧ u = dispatch n f s ∧ f.desc.u8 8 ≤ 2 ∧ u.tray.phase = .done ∧ u.tray.powerCmd = none ∧ u.tray.deepReq = false ∧ f.desc.u8 8 = 0 ∧ u.tray.powerState = .run) ∧
  (∃ (n : RingIx) (f : Fetched) (i : CmdInfo) (s : State) (u : State), Accepted opPowerState n f i s ∧ u = dispatch n f s ∧ f.desc.u8 8 ≤ 2 ∧ u.tray.phase = .done ∧ u.tray.powerCmd = none ∧ u.tray.deepReq = false ∧ f.desc.u8 8 = 0 ∧ u.tray.powerState ≠ .run) ∧
  (∃ (n : RingIx) (f : Fetched) (i : CmdInfo) (s : State) (u : State), Accepted opPowerState n f i s ∧ u = dispatch n f s ∧ f.desc.u8 8 ≤ 2 ∧ u.tray.phase = .done ∧ u.tray.powerCmd = none ∧ u.tray.deepReq = false ∧ f.desc.u8 8 = 1 ∧ streamOpen u = false ∧ u.tray.powerState ≠ .idle) ∧
  (∃ (n : RingIx) (f : Fetched) (i : CmdInfo) (s : State) (u : State), Accepted opPowerState n f i s ∧ u = dispatch n f s ∧ f.desc.u8 8 ≤ 2 ∧ u.tray.phase = .done ∧ u.tray.powerCmd = none ∧ u.tray.deepReq = false ∧ f.desc.u8 8 = 2 ∧ streamOpen u = false) ∧
  (∃ (s : State) (f : Fetched), firmwareRuns s = true ∧ s.tray.deepReq = true ∧ inferenceRuns s = false ∧ s.twin.handover = none ∧ s.tray.powerCmd = some f) ∧
  (∃ (n : RingIx) (f : Fetched) (i : CmdInfo) (s : State) (u : State) (k : Fin 16), Accepted opSentinelRule n f i s ∧ u = dispatch n f s ∧ f.desc.u8 8 ≤ 15 ∧ badDaddr u.tray.variant (f.desc.u64 0x10) 1 = false ∧ k.val = f.desc.u8 8 ∧ readFails u (f.desc.u64 0x10) 16 = none ∧ ruleBad (daddrRead u (f.desc.u64 0x10) 16) = false) ∧
  (∃ (k : Fin 16) (s : State), s.woad.powered = true ∧ s.woad.rules[k].isSet = false ∧ ruleActive s.tray.powerState s.woad.rules[k].rule = true) ∧
  (∃ (k : Fin 16) (s : State), s.woad.powered = true ∧ s.woad.rules[k].isSet = true ∧ s.woad.rules[k].rule.latches = false) ∧
  (∃ (s : State), s.woad.powered = true ∧ (storedRules s = none ∨ firmwareRuns s = false)) ∧
  (∃ (s : State) (q : Vector RuleState 16), s.woad.powered = true ∧ storedRules s = some q ∧ firmwareRuns s = true) ∧
  (∃ (s : State), (s.tray.powerState = .run ∨ s.tray.powerState = .idle ∨ s.tray.powerState = .standby)) ∧
  (∃ (s : State), s.woad.powered = true ∧ 2 ≤ s.woad.tripRounds ∧ s.woad.tripLatch = false) ∧
  (∃ (s : State), s.tray.powerState = .off) ∧
  (∃ (s : State), s.woad.powered = false) ∧
  (∃ (s : State), s.tray.powerState ≠ .off ∧ s.tray.powerState ≠ .deep) :=
  ⟨⟨1, tCmd opPowerState [], tInfo opPowerState, tAsk opPowerState [] (tUp), _, ⟨by decide +kernel, by decide +kernel, by decide +kernel, by decide +kernel, by decide +kernel⟩, rfl, by decide +kernel, by decide +kernel, by decide +kernel, by decide +kernel, by decide +kernel, by decide +kernel⟩,
  ⟨1, tCmd opPowerState [], tInfo opPowerState, tAsk opPowerState [] ({ tUp with tray := { tUp.tray with powerState := .idle } }), _, ⟨by decide +kernel, by decide +kernel, by decide +kernel, by decide +kernel, by decide +kernel⟩, rfl, by decide +kernel, by decide +kernel, by decide +kernel, by decide +kernel, by decide +kernel, by decide +kernel⟩,
  ⟨1, tCmd opPowerState [(8,1,1)], tInfo opPowerState, tAsk opPowerState [(8,1,1)] (tUp), _, ⟨by decide +kernel, by decide +kernel, by decide +kernel, by decide +kernel, by decide +kernel⟩, rfl, by decide +kernel, by decide +kernel, by decide +kernel, by decide +kernel, by decide +kernel, by decide +kernel, by decide +kernel⟩,
  ⟨1, tCmd opPowerState [(8,1,2)], tInfo opPowerState, tAsk opPowerState [(8,1,2)] (tUp), _, ⟨by decide +kernel, by decide +kernel, by decide +kernel, by decide +kernel, by decide +kernel⟩, rfl, by decide +kernel, by decide +kernel, by decide +kernel, by decide +kernel, by decide +kernel, by decide +kernel⟩,
  ⟨{ tUp with tray := { tUp.tray with deepReq := true, powerCmd := some (tCmd opPowerState []) } }, tCmd opPowerState [], by decide +kernel, by decide +kernel, by decide +kernel, by decide +kernel, by decide +kernel⟩,
  ⟨1, tCmd opSentinelRule [(8,1,15),(0x10,8,2 ^ 63 + 0x1000)], tInfo opSentinelRule, tAsk opSentinelRule [(8,1,15),(0x10,8,2 ^ 63 + 0x1000)] (tRule), _, 15, ⟨by decide +kernel, by decide +kernel, by decide +kernel, by decide +kernel, by decide +kernel⟩, rfl, by decide +kernel, by decide +kernel, by decide +kernel, by decide +kernel, by decide +kernel⟩,
  ⟨2, tUp, by decide +kernel, by decide +kernel, by decide +kernel⟩,
  ⟨2, tWoad (fun x => { x with rules := upd x.rules 2 (fun r => { r with isSet := true }) }) tUp, by decide +kernel, by decide +kernel, by decide +kernel⟩,
  ⟨State.reset, by decide +kernel, .inr (by decide +kernel)⟩,
  ⟨tStored, (_ : Vector RuleState 16), by decide +kernel, by rw [storedRules, tStoredRules]; rfl, by decide +kernel⟩,
  ⟨{ tUp with tray := { tUp.tray with powerState := .standby } }, by decide +kernel⟩,
  ⟨tWoad (fun x => { x with tripRounds := 2 }) tUp, by decide +kernel, by decide +kernel, by decide +kernel⟩,
  ⟨{ tUp with tray := { tUp.tray with powerState := .off } }, by decide +kernel⟩,
  ⟨tWoad (fun x => { x with powered := false }) tUp, by decide +kernel⟩,
  ⟨tUp, by decide +kernel, by decide +kernel⟩⟩

/-- The premises of DebugModeTakesEffect can be met, but for the outcome of the signature test (an opaque constant). -/
theorem witness_DebugModeTakesEffect :
  (∃ (n : RingIx) (f : Fetched) (i : CmdInfo) (s : State) (u : State), Accepted opDebugChallenge n f i s ∧ u = dispatch n f s ∧ badDaddr u.tray.variant (f.desc.u64 0x10) 1 = false ∧ writeFails { u with free := u.free + 1, tray := { u.tray with challenge := some (challengeBlock u) } } (f.desc.u64 0x10) (challengeBlock u).length = none) ∧
  (∃ (n : RingIx) (f : Fetched) (i : CmdInfo) (s : State) (u : State) (c : List Byte), Accepted opDebugUnlock n f i s ∧ u = dispatch n f s ∧ badDaddr u.tray.variant (f.desc.u64 0x10) 1 = false ∧ streamOpen u = false ∧ readFails u (f.desc.u64 0x10) 96 = none ∧ u.tray.challenge = some c) ∧
  (∃ (n : RingIx) (f : Fetched) (i : CmdInfo) (s : State) (u : State) (c : List Byte), Accepted opDebugUnlock n f i s ∧ u = dispatch n f s ∧ badDaddr u.tray.variant (f.desc.u64 0x10) 1 = false ∧ streamOpen u = false ∧ readFails u (f.desc.u64 0x10) 96 = none ∧ u.tray.challenge = some c) ∧
  (∃ (n : RingIx) (f : Fetched) (i : CmdInfo) (s : State) (u : State), Accepted opDebugUnlock n f i s ∧ u = dispatch n f s ∧ badDaddr u.tray.variant (f.desc.u64 0x10) 1 = false ∧ streamOpen u = false ∧ readFails u (f.desc.u64 0x10) 96 = none ∧ u.tray.challenge = none) ∧
  (∃ (n : RingIx) (f : Fetched) (i : CmdInfo) (s : State) (u : State), Accepted opDebugLock n f i s ∧ u = dispatch n f s) ∧
  (∃ (n : RingIx) (f : Fetched) (i : CmdInfo) (s : State) (u : State) (j : Job) (bs : List Byte), Accepted opAccRead n f i s ∧ u = dispatch n f s ∧ allPass (accArgs f u) ∧ accJob u f.desc = some j ∧ bs = (List.range (f.desc.u32 0x14)).flatMap (fun k => leBytes (accBytes (f.desc.u8 0x0A)) (BitVec.ofInt 64 (accValue (f.desc.u8 0x0A) (accAt u j f.desc k))).toNat) ∧ writeFails u (f.desc.u64 0x18) bs.length = none) ∧
  (∃ (n : RingIx) (f : Fetched) (i : CmdInfo) (s : State) (u : State) (j : Job) (bs : List Byte), Accepted opAccWrite n f i s ∧ u = dispatch n f s ∧ allPass (accArgs f u) ∧ accJob u f.desc = some j ∧ readFails u (f.desc.u64 0x18) (accBytes (f.desc.u8 0x0A) * f.desc.u32 0x14) = none ∧ bs = daddrRead u (f.desc.u64 0x18) (accBytes (f.desc.u8 0x0A) * f.desc.u32 0x14)) ∧
  (∃ (n : RingIx) (f : Fetched) (i : CmdInfo) (s : State) (u : State) (t : TileIx), Accepted opVecRaw n f i s ∧ u = dispatch n f s ∧ f.desc.u8 8 ≤ 9 ∧ badDaddr u.tray.variant (f.desc.u64 0x10) 1 = false ∧ badDaddr u.tray.variant (f.desc.u64 0x18) 1 = false ∧ t.val = f.desc.u8 8 ∧ u.tiles[t].group ≠ none ∧ u.tiles[t].state ≠ .faulted) :=
  ⟨⟨1, tCmd opDebugChallenge [(0x10,8,0x1000)], tInfo opDebugChallenge, tAsk opDebugChallenge [(0x10,8,0x1000)] (tUp), _, ⟨by decide +kernel, by decide +kernel, by decide +kernel, by decide +kernel, by decide +kernel⟩, rfl, by decide +kernel, by simp only [challengeBlock, List.length_append, Vector.length_toList]; decide +kernel⟩,
  ⟨1, tCmd opDebugUnlock [(0x10,8,0x1000)], tInfo opDebugUnlock, tAsk opDebugUnlock [(0x10,8,0x1000)] ({ tUp with tray := { tUp.tray with challenge := some [] } }), _, ([] : List Byte), ⟨by decide +kernel, by decide +kernel, by decide +kernel, by decide +kernel, by decide +kernel⟩, rfl, by decide +kernel, by decide +kernel, by decide +kernel, by decide +kernel⟩,
  ⟨1, tCmd opDebugUnlock [(0x10,8,0x1000)], tInfo opDebugUnlock, tAsk opDebugUnlock [(0x10,8,0x1000)] ({ tUp with tray := { tUp.tray with challenge := some [] } }), _, ([] : List Byte), ⟨by decide +kernel, by decide +kernel, by decide +kernel, by decide +kernel, by decide +kernel⟩, rfl, by decide +kernel, by decide +kernel, by decide +kernel, by decide +kernel⟩,
  ⟨1, tCmd opDebugUnlock [(0x10,8,0x1000)], tInfo opDebugUnlock, tAsk opDebugUnlock [(0x10,8,0x1000)] (tUp), _, ⟨by decide +kernel, by decide +kernel, by decide +kernel, by decide +kernel, by decide +kernel⟩, rfl, by decide +kernel, by decide +kernel, by decide +kernel, by decide +kernel⟩,
  ⟨1, tCmd opDebugLock [], tInfo opDebugLock, tAsk opDebugLock [] ({ tUp with tray := { tUp.tray with debugOn := true } }), _, ⟨by decide +kernel, by decide +kernel, by decide +kernel, by decide +kernel, by decide +kernel⟩, rfl⟩,
  ⟨1, tCmd opAccRead [(8,1,1),(9,1,1),(0xA,1,2),(0x14,4,1),(0x18,8,0x1000)], tInfo opAccRead, tAsk opAccRead [(8,1,1),(9,1,1),(0xA,1,2),(0x14,4,1),(0x18,8,0x1000)] (tJobs [tRun .matmul] ({ tUp with tray := { tUp.tray with debugOn := true } })), _, tRun .matmul, _, ⟨by decide +kernel, by decide +kernel, by decide +kernel, by decide +kernel, by decide +kernel⟩, rfl, by unfold allPass; decide +kernel, by decide +kernel, rfl, by decide +kernel⟩,
  ⟨1, tCmd opAccWrite [(8,1,1),(9,1,1),(0xA,1,2),(0x14,4,1),(0x18,8,0x1000)], tInfo opAccWrite, tAsk opAccWrite [(8,1,1),(9,1,1),(0xA,1,2),(0x14,4,1),(0x18,8,0x1000)] (tJobs [tRun .matmul] ({ tUp with tray := { tUp.tray with debugOn := true } })), _, tRun .matmul, _, ⟨by decide +kernel, by decide +kernel, by decide +kernel, by decide +kernel, by decide +kernel⟩, rfl, by unfold allPass; decide +kernel, by decide +kernel, by decide +kernel, rfl⟩,
  ⟨1, tCmd opVecRaw [(8,1,9),(0xC,4,1),(0x10,8,0x1000),(0x18,8,0x2000)], tInfo opVecRaw, tAsk opVecRaw [(8,1,9),(0xC,4,1),(0x10,8,0x1000),(0x18,8,0x2000)] (tTile 9 (fun x => { x with group := some 15, state := .ready }) { tUp with tray := { tUp.tray with debugOn := true } }), _, 9, ⟨by decide +kernel, by decide +kernel, by decide +kernel, by decide +kernel, by decide +kernel⟩, rfl, by decide +kernel, by decide +kernel, by decide +kernel, by decide +kernel, by decide +kernel, by decide +kernel⟩⟩

/-- The premises of FeedsCapAndBudget can be met. -/
theorem witness_FeedsCapAndBudget :
  (∃ (n : RingIx) (f : Fetched) (i : CmdInfo) (s : State) (u : State), Accepted opPowerCap n f i s ∧ u = dispatch n f s ∧ 250 ≤ f.desc.u16 8 ∧ f.desc.u16 8 ≤ 450 ∧ capFloor u ≤ f.desc.u16 8 * 65536) ∧
  (∃ (n : RingIx) (f : Fetched) (i : CmdInfo) (s : State) (u : State), Accepted opRelayCycle n f i s ∧ u = dispatch n f s ∧ f.desc.u16 8 = 0x5A5A ∧ u.tray.shelfSlot ≠ none ∧ u.power.stage = .none) ∧
  (∃ (busy : List (TileIx × BitVec 3 × Nat)) (sep : Bool) (m : Nat) (s : State) (u : State) (v : State), firmwareRuns s = true ∧ u = measurePower m { s with sched := { s.sched with powerModel := modelPower busy sep } } ∧ v = withdraw (min (accountUnits u - skipUnits u - movedUnits u) (budgetUnits u sep)) (decide (10 * u.power.capInForce.toNat < modelPower busy sep + u.sched.capExcess)) u ∧ v.sched.overMs < 100) ∧
  (∃ (busy : List (TileIx × BitVec 3 × Nat)) (sep : Bool) (m : Nat) (s : State) (u : State) (v : State), firmwareRuns s = true ∧ u = measurePower m { s with sched := { s.sched with powerModel := modelPower busy sep } } ∧ v = withdraw (min (accountUnits u - skipUnits u - movedUnits u) (budgetUnits u sep)) (decide (10 * u.power.capInForce.toNat < modelPower busy sep + u.sched.capExcess)) u ∧ 100 ≤ v.sched.overMs) ∧
  (∃ (a : W16) (b : W16) (s : State), feedsServed s = true ∧ 3800 ≤ a.toNat ∧ a.toNat < 4050 ∧ 3800 ≤ b.toNat ∧ b.toNat < 4050) ∧
  (∃ (a : W16) (b : W16) (s : State), s.power.feedLow = true ∧ (4150 ≤ a.toNat ∨ 4150 ≤ b.toNat)) ∧
  (∃ (x : State), x.power.feedLow = false ∧ x.power.shed = false) ∧
  (∃ (k : Fin 2) (m : W16) (s : State), feedsServed s = true ∧ m.toNat < 3800 ∧ s.power.feeds[otherFeed k].cond = .normal ∧ s.power.feeds[k].connected = true) ∧
  (∃ (k : Fin 2) (m : W16) (s : State), 4050 ≤ m.toNat ∧ m.toNat ≤ 5700 ∧ (s.power.feeds[k].cond = .lost ∨ s.power.feeds[k].cond = .transient ∨ s.power.feeds[k].cond = .reversed)) ∧
  (∃ (k : Fin 2) (m : W16) (s : State), 4050 ≤ m.toNat ∧ m.toNat ≤ 5700 ∧ s.power.feeds[k].cond = .high ∧ s.power.feeds[k].connected = false) ∧
  (∃ (k : Fin 2) (m : W16) (s : State), 5700 < m.toNat ∧ poweredOn s = true) ∧
  (∃ (k : Fin 2) (m : W16) (s : State), 5700 < m.toNat ∧ m.toNat ≤ 6000 ∧ feedsServed s = true) ∧
  (∃ (k : Fin 2) (s : State), feedsServed s = true) ∧
  (∃ (c : W16) (s : State) (u : State), firmwareRuns s = true ∧ u = { s with power := { s.power with bankCap := c, bankWeak := decide (c.toNat < 3700) } } ∧ c.toNat < 3700) ∧
  (∃ (c : W16) (s : State) (u : State), firmwareRuns s = true ∧ u = { s with power := { s.power with bankCap := c, bankWeak := decide (c.toNat < 3700) } } ∧ 3700 ≤ c.toNat) ∧
  (∃ (b : W16) (s : State) (u : State), b.toNat < 7000 ∧ firmwareRuns s = true ∧ s.power.stage = .none ∧ s.power.bankFail = false ∧ u = raiseAlarm true evBankFail 0 (event evBankFail 0 0 { s with power := { s.power with bank := b, bankFail := true } }) ∧ twinStandsBy s = true) ∧
  (∃ (b : W16) (s : State) (u : State), b.toNat < 7000 ∧ firmwareRuns s = true ∧ s.power.stage = .none ∧ s.power.bankFail = false ∧ u = raiseAlarm true evBankFail 0 (event evBankFail 0 0 { s with power := { s.power with bank := b, bankFail := true } }) ∧ twinStandsBy s = false) ∧
  (∃ (s : State), s.power.charging = true) :=
  ⟨⟨1, tCmd opPowerCap [(8,2,450)], tInfo opPowerCap, tAsk opPowerCap [(8,2,450)] (tUp), _, ⟨by decide +kernel, by decide +kernel, by decide +kernel, by decide +kernel, by decide +kernel⟩, rfl, by decide +kernel, by decide +kernel, by decide +kernel⟩,
  ⟨1, tCmd opRelayCycle [(8,2,0x5A5A)], tInfo opRelayCycle, tAsk opRelayCycle [(8,2,0x5A5A)] (tUp), _, ⟨by decide +kernel, by decide +kernel, by decide +kernel, by decide +kernel, by decide +kernel⟩, rfl, by decide +kernel, by decide +kernel, by decide +kernel⟩,
  ⟨[], false, 0, tUp, _, _, by decide +kernel, rfl, rfl, by decide +kernel⟩,
  ⟨[], false, 65535, { tUp with sched := { tUp.sched with overMs := 200 } }, _, _, by decide +kernel, rfl, rfl, by decide +kernel⟩,
  ⟨3800, 4049, tUp, by decide +kernel, by decide +kernel, by decide +kernel, by decide +kernel, by decide +kernel⟩,
  ⟨4150, 0, { tUp with power := { tUp.power with feedLow := true } }, by decide +kernel, by decide +kernel⟩,
  ⟨tUp, by decide +kernel, by decide +kernel⟩,
  ⟨1, 3799, tUp, by decide +kernel, by decide +kernel, by decide +kernel, by decide +kernel⟩,
  ⟨1, 4050, { tUp with power := { tUp.power with feeds := put tUp.power.feeds 1 ⟨0, .reversed, true⟩ } }, by decide +kernel, by decide +kernel, by decide +kernel⟩,
  ⟨1, 5700, { tUp with power := { tUp.power with feeds := put tUp.power.feeds 1 ⟨0, .high, false⟩ } }, by decide +kernel, by decide +kernel, by decide +kernel, by decide +kernel⟩,
  ⟨1, 5701, tUp, by decide +kernel, by decide +kernel⟩,
  ⟨1, 6000, tUp, by decide +kernel, by decide +kernel, by decide +kernel⟩,
  ⟨1, tUp, by decide +kernel⟩,
  ⟨3699, tUp, _, by decide +kernel, rfl, by decide +kernel⟩,
  ⟨3700, tUp, _, by decide +kernel, rfl, by decide +kernel⟩,
  ⟨6999, { tUp with twin := { tUp.twin with hbRx := 1, role := .active, linkState := .up, pairState := .synced, hbLast := [2] } }, _, by decide +kernel, by decide +kernel, by decide +kernel, by decide +kernel, rfl, by decide +kernel⟩,
  ⟨6999, tUp, _, by decide +kernel, by decide +kernel, by decide +kernel, by decide +kernel, rfl, by decide +kernel⟩,
  ⟨{ tUp with power := { tUp.power with charging := true } }, by decide +kernel⟩⟩

/-- The premises of ShutdownStagesAndRestarts can be met. -/
theorem witness_ShutdownStagesAndRestarts :
  (∃ (a : W16) (b : W16) (s : State), s.power.stage = .none ∧ poweredOn s = true ∧ s.tray.powerState ≠ .deep ∧ a.toNat < 3800 ∧ b.toNat < 3800) ∧
  (∃ (s : State) (u : State), s.power.stage = .s0 ∧ u = suspendErase true (suspendErase false (raiseAlarm true alStage 0 { s with power := { s.power with stage := .s1, stageSC := put s.power.stageSC 1 s.time.symbolCount } })) ∧ twinStandsBy s = true ∧ twinPowered s = true) ∧
  (∃ (s : State) (u : State), s.power.stage = .s0 ∧ u = suspendErase true (suspendErase false (raiseAlarm true alStage 0 { s with power := { s.power with stage := .s1, stageSC := put s.power.stageSC 1 s.time.symbolCount } })) ∧ twinStandsBy s = false) ∧
  (∃ (k : Fin 2) (m : W16) (s : State), (s.power.stage = .s0 ∨ s.power.stage = .s1) ∧ 4000 ≤ m.toNat) ∧
  (∃ (a : W16) (b : W16) (v : W16) (s : State), poweredOn s = true ∧ s.tray.powerState ≠ .deep ∧ (s.power.stage = .none ∨ s.power.stage = .s0 ∨ s.power.stage = .s1) ∧ a.toNat < 3750 ∧ b.toNat < 3750 ∧ v.toNat < 4200) ∧
  (∃ (a : W16) (b : W16) (v : W16) (s : State), poweredOn s = true ∧ s.tray.powerState ≠ .deep ∧ s.power.stage = .s1 ∧ 4200 ≤ v.toNat) ∧
  (∃ (r : Reason) (a : W16) (b : W16) (v : W16) (s : State), s.cores[(3 : CoreIx)].state ≠ .running) ∧
  (∃ (s : State) (n : RingIx), s.power.stage = .s2 ∧ s.power.s2done = true) ∧
  (∃ (s : State), s.power.stage = .s2 ∧ s.power.s2done = true ∧ writeTempOk s false 0 = true ∧ s.flash.archDead = false ∧ coreRuns s 3 = true) ∧
  (∃ (a : W16) (b : W16) (v : W16) (s : State), s.power.stage = .s3 ∧ s.power.s3done = true) ∧
  (∃ (a : W16) (b : W16) (v : W16) (s : State), ((s.power.stage = .s2 ∧ s.power.s2done = false) ∨ (s.power.stage = .s3 ∧ s.power.s3done = false))) ∧
  (∃ (a : W16) (b : W16) (v : W16) (s : State), feedPresent a b = true) ∧
  (∃ (a : W16) (b : W16) (v : W16) (s : State), feedPresent a b = false) ∧
  (∃ (k : Fin 2) (m : W16) (s : State) (x : Bool), s.tray.powerState = .off ∧ 4000 ≤ m.toNat ∧ s.woad.tripLatch = false ∧ s.power.offWait = .feed x) ∧
  (∃ (s : State), poweredOn s = true) :=
  ⟨⟨3799, 0, tUp, by decide +kernel, by decide +kernel, by decide +kernel, by decide +kernel, by decide +kernel⟩,
  ⟨{ tUp with power := { tUp.power with stage := .s0 }, twin := { tUp.twin with hbRx := 1, pairState := .synced, hbLast := [2, 4, 0, 2] } }, _, by decide +kernel, rfl, by decide +kernel, by decide +kernel⟩,
  ⟨{ tUp with power := { tUp.power with stage := .s0 } }, _, by decide +kernel, rfl, by decide +kernel⟩,
  ⟨1, 4000, { tUp with power := { tUp.power with stage := .s1 } }, by decide +kernel, by decide +kernel⟩,
  ⟨3749, 3749, 4199, { tUp with power := { tUp.power with stage := .s1 } }, by decide +kernel, by decide +kernel, by decide +kernel, by decide +kernel, by decide +kernel, by decide +kernel⟩,
  ⟨3749, 3749, 4200, { tUp with power := { tUp.power with stage := .s1 } }, by decide +kernel, by decide +kernel, by decide +kernel, by decide +kernel⟩,
  ⟨.trip, 3749, 3749, 4199, { tUp with cores := upd tUp.cores 3 (fun c => { c with state := .restarting }) }, by decide +kernel⟩,
  ⟨{ tUp with power := { tUp.power with stage := .s2, s2done := true } }, 1, by decide +kernel, by decide +kernel⟩,
  ⟨{ tUp with power := { tUp.power with stage := .s2, s2done := true } }, by decide +kernel, by decide +kernel, by decide +kernel, by decide +kernel, by decide +kernel⟩,
  ⟨0, 0, 4000, { tUp with power := { tUp.power with stage := .s3, s3done := true } }, by decide +kernel, by decide +kernel⟩,
  ⟨0, 0, 4000, { tUp with power := { tUp.power with stage := .s3 } }, by decide +kernel⟩,
  ⟨3800, 0, 4000, tUp, by decide +kernel⟩,
  ⟨3799, 3799, 4000, tUp, by decide +kernel⟩,
  ⟨1, 4000, { tUp with tray := { tUp.tray with powerState := .off }, power := { tUp.power with offWait := .feed true } }, true, by decide +kernel, by decide +kernel, by decide +kernel, by decide +kernel⟩,
  ⟨tUp, by decide +kernel⟩⟩

/-- The premises of FlashControllersAndStorageCommands can be met, but for the signature test of the image (an opaque
constant). -/
theorem witness_FlashControllersAndStorageCommands :
  (∃ (c : Bool) (s : State) (w : FlashWork) (ws : List FlashWork) (arr : FlashArray) (bs : List Byte) (a : Nat) (r : List FlashStep), worksOf s c = w :: ws ∧ phaseOf s c = .programming ∧ w.steps = .page arr a bs :: r) ∧
  (∃ (c : Bool) (s : State) (u : State) (w : FlashWork) (ws : List FlashWork) (arr : FlashArray) (o : FlashArray) (unit : EraseUnit) (a : Nat) (k : Nat) (q : W32) (r : List FlashStep), worksOf s c = w :: ws ∧ w.steps = .erase arr unit a k q :: r ∧ o = journalOwner w arr ∧ u = journal 1 o unit.code a 0 s ∧ phaseOf s c = .intent) ∧
  (∃ (c : Bool) (s : State) (u : State) (w : FlashWork) (ws : List FlashWork) (arr : FlashArray) (o : FlashArray) (unit : EraseUnit) (a : Nat) (k : Nat) (q : W32) (r : List FlashStep), worksOf s c = w :: ws ∧ w.steps = .erase arr unit a k q :: r ∧ o = journalOwner w arr ∧ u = journal 1 o unit.code a 0 s ∧ phaseOf s c = .erasing) ∧
  (∃ (c : Bool) (s : State) (u : State) (w : FlashWork) (ws : List FlashWork) (arr : FlashArray) (o : FlashArray) (unit : EraseUnit) (a : Nat) (k : Nat) (q : W32) (r : List FlashStep), worksOf s c = w :: ws ∧ w.steps = .erase arr unit a k q :: r ∧ o = journalOwner w arr ∧ u = journal 1 o unit.code a 0 s ∧ phaseOf s c = .marginReading ∧ w.origin ≠ .journalMove) ∧
  (∃ (c : Bool) (s : State) (u : State) (w : FlashWork) (ws : List FlashWork) (arr : FlashArray) (o : FlashArray) (unit : EraseUnit) (a : Nat) (k : Nat) (q : W32) (r : List FlashStep), worksOf s c = w :: ws ∧ w.steps = .erase arr unit a k q :: r ∧ o = journalOwner w arr ∧ u = journal 1 o unit.code a 0 s ∧ phaseOf s c = .marginReading ∧ k = 0) ∧
  (∃ (s : State), s.time.syncState = .locked) ∧
  (∃ (n : RingIx) (f : Fetched) (i : CmdInfo) (s : State) (u : State) (bank : Bool) (b : List Byte), Accepted opFwUpdate n f i s ∧ u = dispatch n f s ∧ f.desc.u8 8 ≤ 1 ∧ badDaddr u.tray.variant (f.desc.u64 0x10) 1 = false ∧ 0 < f.desc.u32 0x18 ∧ f.desc.u32 0x18 ≤ 4194304 ∧ bank = decide (f.desc.u8 8 = 1) ∧ bankFetched u bank = false ∧ readFails u (f.desc.u64 0x10) (f.desc.u32 0x18) = none ∧ b = daddrRead u (f.desc.u64 0x10) (f.desc.u32 0x18) ∧ fwCounter u ≤ field b 8 2) ∧
  (∃ (n : RingIx) (f : Fetched) (i : CmdInfo) (s : State) (u : State), Accepted opFwActivate n f i s ∧ u = dispatch n f s ∧ f.desc.u8 8 ≤ 1 ∧ f.desc.u8 9 = 0) ∧
  (∃ (n : RingIx) (f : Fetched) (i : CmdInfo) (s : State) (u : State), Accepted opFwActivate n f i s ∧ u = dispatch n f s ∧ f.desc.u8 8 ≤ 1 ∧ f.desc.u8 9 = 1) ∧
  (∃ (n : RingIx) (f : Fetched) (i : CmdInfo) (s : State) (u : State) (bs : List Byte), Accepted opArchiveRead n f i s ∧ u = dispatch n f s ∧ f.desc.u32 8 < 0x4000000 ∧ f.desc.u32 0x0C ≤ 0x1000000 ∧ f.desc.u32 8 + f.desc.u32 0x0C ≤ 0x4000000 ∧ badDaddr u.tray.variant (f.desc.u64 0x10) 1 = false ∧ u.flash.archDead = false ∧ halfErasedIn u .archive (f.desc.u32 8) (f.desc.u32 0x0C) = false ∧ bs = flashRead u .archive (f.desc.u32 8) (f.desc.u32 0x0C) ∧ writeFails u (f.desc.u64 0x10) bs.length = none) ∧
  (∃ (n : RingIx) (f : Fetched) (i : CmdInfo) (s : State) (u : State) (k : List Byte), Accepted opExtEnroll n f i s ∧ u = dispatch n f s ∧ badDaddr u.tray.variant (f.desc.u64 0x10) 1 = false ∧ keyEnrolled u = false ∧ readFails u (f.desc.u64 0x10) 97 = none ∧ k = daddrRead u (f.desc.u64 0x10) 97) :=
  ⟨⟨false, { tUp with flash := { tUp.flash with archWork := [⟨.woadRules, [.page .archive 0x42000 [1]], [.page .archive 0x42000 [1]], false⟩], archPhase := .programming } }, ⟨.woadRules, [.page .archive 0x42000 [1]], [.page .archive 0x42000 [1]], false⟩, [], .archive, [1], 0x42000, [], by decide +kernel, by decide +kernel, by decide +kernel⟩,
  ⟨false, { tUp with flash := { tUp.flash with archWork := [⟨.woadRules, [.erase .archive .sector4k 0x42000 0 1], [.erase .archive .sector4k 0x42000 0 1], false⟩], archPhase := .intent } }, _, ⟨.woadRules, [.erase .archive .sector4k 0x42000 0 1], [.erase .archive .sector4k 0x42000 0 1], false⟩, [], .archive, .archive, .sector4k, 0x42000, 0, 1, [], by decide +kernel, by decide +kernel, by decide +kernel, rfl, by decide +kernel⟩,
  ⟨false, { tUp with flash := { tUp.flash with archWork := [⟨.woadRules, [.erase .archive .sector4k 0x42000 0 1], [.erase .archive .sector4k 0x42000 0 1], false⟩], archPhase := .erasing } }, _, ⟨.woadRules, [.erase .archive .sector4k 0x42000 0 1], [.erase .archive .sector4k 0x42000 0 1], false⟩, [], .archive, .archive, .sector4k, 0x42000, 0, 1, [], by decide +kernel, by decide +kernel, by decide +kernel, rfl, by decide +kernel⟩,
  ⟨false, { tUp with flash := { tUp.flash with archWork := [⟨.woadRules, [.erase .archive .sector4k 0x42000 0 1], [.erase .archive .sector4k 0x42000 0 1], false⟩], archPhase := .marginReading } }, _, ⟨.woadRules, [.erase .archive .sector4k 0x42000 0 1], [.erase .archive .sector4k 0x42000 0 1], false⟩, [], .archive, .archive, .sector4k, 0x42000, 0, 1, [], by decide +kernel, by decide +kernel, by decide +kernel, rfl, by decide +kernel, by decide +kernel⟩,
  ⟨false, { tUp with flash := { tUp.flash with archWork := [⟨.woadRules, [.erase .archive .sector4k 0x42000 0 1], [.erase .archive .sector4k 0x42000 0 1], false⟩], archPhase := .marginReading } }, _, ⟨.woadRules, [.erase .archive .sector4k 0x42000 0 1], [.erase .archive .sector4k 0x42000 0 1], false⟩, [], .archive, .archive, .sector4k, 0x42000, 0, 1, [], by decide +kernel, by decide +kernel, by decide +kernel, rfl, by decide +kernel, by decide +kernel⟩,
  ⟨tTime (fun t => { t with syncState := .locked }) tUp, by decide +kernel⟩,
  ⟨1, tCmd opFwUpdate [(8,1,1),(0x10,8,0x1000),(0x18,4,4194304)], tInfo opFwUpdate, tAsk opFwUpdate [(8,1,1),(0x10,8,0x1000),(0x18,4,4194304)] (tUp), _, true, (_ : List Byte), ⟨by decide +kernel, by decide +kernel, by decide +kernel, by decide +kernel, by decide +kernel⟩, rfl, by decide +kernel, by decide +kernel, by decide +kernel, by decide +kernel, by decide +kernel, by decide +kernel, by decide +kernel, rfl, by decide +kernel⟩,
  ⟨1, tCmd opFwActivate [(8,1,1)], tInfo opFwActivate, tAsk opFwActivate [(8,1,1)] (tUp), _, ⟨by decide +kernel, by decide +kernel, by decide +kernel, by decide +kernel, by decide +kernel⟩, rfl, by decide +kernel, by decide +kernel⟩,
  ⟨1, tCmd opFwActivate [(8,1,1),(9,1,1)], tInfo opFwActivate, tAsk opFwActivate [(8,1,1),(9,1,1)] (tUp), _, ⟨by decide +kernel, by decide +kernel, by decide +kernel, by decide +kernel, by decide +kernel⟩, rfl, by decide +kernel, by decide +kernel⟩,
  ⟨1, tCmd opArchiveRead [(8,4,0x3FFFFF0),(0xC,4,16),(0x10,8,0x1000)], tInfo opArchiveRead, tAsk opArchiveRead [(8,4,0x3FFFFF0),(0xC,4,16),(0x10,8,0x1000)] (tUp), _, (_ : List Byte), ⟨by decide +kernel, by decide +kernel, by decide +kernel, by decide +kernel, by decide +kernel⟩, rfl, by decide +kernel, by decide +kernel, by decide +kernel, by decide +kernel, by decide +kernel, by decide +kernel, rfl, by decide +kernel⟩,
  ⟨1, tCmd opExtEnroll [(0x10,8,0x1000)], tInfo opExtEnroll, tAsk opExtEnroll [(0x10,8,0x1000)] (tUp), _, (_ : List Byte), ⟨by decide +kernel, by decide +kernel, by decide +kernel, by decide +kernel, by decide +kernel⟩, rfl, by decide +kernel, tNoKey _ rfl, by decide +kernel, rfl⟩⟩

/-- The premises of HousekeepingRoundsAndFans can be met. -/
theorem witness_HousekeepingRoundsAndFans :
  (∃ (rs : List HkReading) (ok : Bool) (s : State) (u : State), madderUp s = true ∧ s.power.railsOn = true ∧ u = countSkip (stepThresholds (woadRound (takeReadings rs { s with tray := { s.tray with roundEvents := [] } }))) ∧ firmwareRuns s = false) ∧
  (∃ (rs : List HkReading) (ok : Bool) (s : State) (u : State) (v : State) (w : State) (x : State), madderUp s = true ∧ s.power.railsOn = true ∧ u = countSkip (stepThresholds (woadRound (takeReadings rs { s with tray := { s.tray with roundEvents := [] } }))) ∧ firmwareRuns s = true ∧ v = reportSensors s.thermal.chans u ∧ w = { v with thermal := { v.thermal with fanSpeed := BitVec.ofNat 7 (fanTarget v) } } ∧ x = checkContacts ok (if coreRuns s 1 then oscRound w else w) ∧ coreRuns s 3 = false) ∧
  (∃ (rs : List HkReading) (ok : Bool) (s : State) (u : State) (v : State) (w : State) (x : State), madderUp s = true ∧ s.power.railsOn = true ∧ u = countSkip (stepThresholds (woadRound (takeReadings rs { s with tray := { s.tray with roundEvents := [] } }))) ∧ firmwareRuns s = true ∧ v = reportSensors s.thermal.chans u ∧ w = { v with thermal := { v.thermal with fanSpeed := BitVec.ofNat 7 (fanTarget v) } } ∧ x = checkContacts ok (if coreRuns s 1 then oscRound w else w) ∧ coreRuns s 3 = true) ∧
  (∃ (t : TileIx) (s : State) (l : Fin 4) (need : Nat), inService s.tiles[t] = true ∧ s.tiles[t].laser.locked = true ∧ l = s.tiles[t].laser.lit ∧ need = Config.laserBias t s.tiles[t].laser.t0Set.toNat (monCode s.tiles[t] 0) s.tiles[t].laser.stripes[l].bias.toNat ∧ s.tiles[t].laser.stripes[l].state = .lit) ∧
  (∃ (t : TileIx) (g : Nat) (s : State), s.tiles[t].conv.testDacBad = true) ∧
  (∃ (hi : Int) (lo : Int) (v : Int) (w : Int), lo < hi ∧ hi ≤ v ∧ hi ≤ w) ∧
  (∃ (hi : Int) (lo : Int) (v : Int) (w : Int), lo < hi ∧ v ≤ lo ∧ w ≤ lo) ∧
  (∃ (hi : Int) (lo : Int) (v : Int) (w : Int), lo < hi ∧ w < hi) ∧
  (∃ (hi : Int) (lo : Int) (v : Int) (w : Int), lo < hi ∧ lo < w) ∧
  (∃ (k : Fin 5) (s : State) (u : State), firmwareRuns s = true ∧ s.thermal.fanFailed.getLsbD k.val = false ∧ u = raiseAlarm false evFanFailed (BitVec.ofNat 16 k.val) (event evFanFailed (BitVec.ofNat 16 k.val) 0 { s with thermal := { s.thermal with fanFailed := s.thermal.fanFailed ||| (1#5 <<< k.val), fanSpeed := 100 } }) ∧ popCount 5 (s.thermal.fanFailed ||| (1#5 <<< k.val)).toNat < 2) ∧
  (∃ (k : Fin 5) (s : State) (u : State), firmwareRuns s = true ∧ s.thermal.fanFailed.getLsbD k.val = false ∧ u = raiseAlarm false evFanFailed (BitVec.ofNat 16 k.val) (event evFanFailed (BitVec.ofNat 16 k.val) 0 { s with thermal := { s.thermal with fanFailed := s.thermal.fanFailed ||| (1#5 <<< k.val), fanSpeed := 100 } }) ∧ 2 ≤ popCount 5 (s.thermal.fanFailed ||| (1#5 <<< k.val)).toNat) ∧
  (∃ (t : TileIx) (s : State), s.tiles[t].skip = 1 ∧ 1600 ≤ s.thermal.zoneMax[t.val].1.toInt) :=
  ⟨⟨[], true, State.reset, _, by decide +kernel, by decide +kernel, rfl, by decide +kernel⟩,
  ⟨[], true, setCore 3 (fun c => { c with state := .restarting }) tUp, _, _, _, _, by decide +kernel, by decide +kernel, rfl, by decide +kernel, rfl, rfl, rfl, by decide +kernel⟩,
  ⟨[], true, tUp, _, _, _, _, by decide +kernel, by decide +kernel, rfl, by decide +kernel, rfl, rfl, rfl, by decide +kernel⟩,
  ⟨9, tTile 9 (fun x => { x with state := .ready, laser := { x.laser with locked := true, stripes := upd x.laser.stripes 0 (fun p => { p with state := .lit }) } }) tUp, _, _, by decide +kernel, by decide +kernel, rfl, rfl, by decide +kernel⟩,
  ⟨9, 7, tTile 9 (fun x => { x with conv := { x.conv with testDacBad := true } }) tUp, by decide +kernel⟩,
  ⟨20, 10, 20, 21, by decide +kernel, by decide +kernel, by decide +kernel⟩,
  ⟨20, 10, 10, 9, by decide +kernel, by decide +kernel, by decide +kernel⟩,
  ⟨20, 10, 0, 19, by decide +kernel, by decide +kernel⟩,
  ⟨20, 10, 0, 11, by decide +kernel, by decide +kernel⟩,
  ⟨4, tUp, _, by decide +kernel, by decide +kernel, rfl, by decide +kernel⟩,
  ⟨4, { tUp with thermal := { tUp.thermal with fanFailed := 1 } }, _, by decide +kernel, by decide +kernel, rfl, by decide +kernel⟩,
  ⟨9, { tTile 9 (fun x => { x with skip := 1 }) tUp with thermal := { tUp.thermal with zoneMax := put tUp.thermal.zoneMax 9 (1600, 0) } }, by decide +kernel, by decide +kernel⟩⟩

/-- The premises of StartsAndTheirPhases can be met. -/
theorem witness_StartsAndTheirPhases :
  (∃ (s : State), s.tray.powerState = .deep) ∧
  (∃ (s : State) (x : _), s.tray.powerState = .off ∧ s.woad.tripLatch = false ∧ s.power.offWait = .feed x ∧ (4000 ≤ s.power.feeds[(0 : Fin 2)].mag.toNat ∨ 4000 ≤ s.power.feeds[(1 : Fin 2)].mag.toNat)) ∧
  (∃ (s : State), s.tray.restartDue = true ∧ s.tray.powerState ≠ .off ∧ s.tray.powerState ≠ .deep) ∧
  (∃ (s : State), s.tray.powerState = .deep) ∧
  (∃ (s : State), inPhase .rom s = true ∧ s.time.rootLock = true ∧ (s.woad.trimmed = true ∨ s.woad.hclkSampling = true)) ∧
  (∃ (s : State), inPhase .verify s = true) ∧
  (∃ (s : State), inPhase .verify s = true ∧ verifiedBank s = none) ∧
  (∃ (s : State), inPhase .verify s = true ∧ verifiedBank s = some s.flash.selectedBank) ∧
  (∃ (s : State), inPhase .firmware s = true) ∧
  (∃ (s : State), (inPhase .firmware s = true ∨ inPhase .restore s = true ∨ inPhase .lock s = true ∨ inPhase .selfcheck s = true)) ∧
  (∃ (s : State), inPhase .restore s = true) ∧
  (∃ (s : State), inPhase .lock s = true ∧ ((∀ t : TileIx, s.tiles[t].state = .warm → s.tray.lateTiles.getLsbD t.val = false → s.tiles[t].laser.locked = true))) ∧
  (∃ (s : State) (t : TileIx), inPhase .lock s = true ∧ s.tiles[t].state = .warm ∧ s.tiles[t].laser.locked = false) ∧
  (∃ (fs : List SelfCheckFail) (s : State), inPhase .selfcheck s = true ∧ s.tray.memReady = true) ∧
  (∃ (s : State), inPhase .settle s = true) ∧
  (∃ (s : State) (t : TileIx), inPhase .settle s = true ∧ settling s t = true) ∧
  (∃ (s : State), inPhase .settle s = true ∧ ((∀ t : TileIx, s.tiles[t].state = .warm → s.tray.lateTiles.getLsbD t.val = true))) ∧
  (∃ (s : State), s.tray.phase ≠ .done ∧ s.tray.phase ≠ .failed ∧ s.tray.powerState ≠ .off ∧ s.tray.powerState ≠ .deep) ∧
  (∃ (s : State), s.radio.held ≠ 0 ∧ firmwareRuns s = true ∧ s.time.syncState = .locked) ∧
  (∃ (s : State), s.radio.held ≠ 0 ∧ s.tray.phase = .done) :=
  ⟨⟨{ tUp with tray := { tUp.tray with powerState := .deep } }, by decide +kernel⟩,
  ⟨{ tUp with tray := { tUp.tray with powerState := .off }, power := { tUp.power with offWait := .feed true } }, true, by decide +kernel, by decide +kernel, by decide +kernel, by decide +kernel⟩,
  ⟨{ tUp with tray := { tUp.tray with restartDue := true } }, by decide +kernel, by decide +kernel, by decide +kernel⟩,
  ⟨{ tUp with tray := { tUp.tray with powerState := .deep } }, by decide +kernel⟩,
  ⟨{ State.reset with time := { State.reset.time with rootLock := true }, woad := { State.reset.woad with trimmed := true } }, by decide +kernel, by decide +kernel, by decide +kernel⟩,
  ⟨{ (State.reset : State) with tray := { State.reset.tray with phase := .verify } }, by decide +kernel⟩,
  ⟨{ ((let x := State.reset; { x with flash := { x.flash with images := Vector.ofFn (fun i => { x.flash.images[i] with good := false }) } }) : State) with tray := { State.reset.tray with phase := .verify } }, by decide +kernel, by decide +kernel⟩,
  ⟨{ (State.reset : State) with tray := { State.reset.tray with phase := .verify } }, by decide +kernel, by decide +kernel⟩,
  ⟨{ (State.reset : State) with tray := { State.reset.tray with phase := .firmware } }, by decide +kernel⟩,
  ⟨{ (State.reset : State) with tray := { State.reset.tray with phase := .selfcheck } }, by decide +kernel⟩,
  ⟨{ (State.reset : State) with tray := { State.reset.tray with phase := .restore } }, by decide +kernel⟩,
  ⟨{ (State.reset : State) with tray := { State.reset.tray with phase := .lock } }, by decide +kernel, by decide +kernel⟩,
  ⟨{ (tTile 9 (fun x => { x with state := .warm, laser := { x.laser with locked := false } }) State.reset : State) with tray := { State.reset.tray with phase := .lock } }, 9, by decide +kernel, by decide +kernel, by decide +kernel⟩,
  ⟨[], { (State.reset : State) with tray := { State.reset.tray with phase := .selfcheck, memReady := true } }, by decide +kernel, by decide +kernel⟩,
  ⟨{ (State.reset : State) with tray := { State.reset.tray with phase := .settle } }, by decide +kernel⟩,
  ⟨{ (tTile 9 (fun x => { x with state := .warm, laser := { x.laser with locked := true } }) State.reset : State) with tray := { State.reset.tray with phase := .settle } }, 9, by decide +kernel, by decide +kernel⟩,
  ⟨{ (State.reset : State) with tray := { State.reset.tray with phase := .settle } }, by decide +kernel, by decide +kernel⟩,
  ⟨State.reset, by decide +kernel, by decide +kernel, by decide +kernel, by decide +kernel⟩,
  ⟨{ tUp with radio := { tUp.radio with held := 1 }, time := { tUp.time with syncState := .locked } }, by decide +kernel, by decide +kernel, by decide +kernel⟩,
  ⟨{ tUp with radio := { tUp.radio with held := 1 }, time := { tUp.time with syncState := .locked } }, by decide +kernel, by decide +kernel⟩⟩

/-- The premises of PairRolesHeartbeatsAndCustody can be met. -/
theorem witness_PairRolesHeartbeatsAndCustody :
  (∃ (n : RingIx) (f : Fetched) (i : CmdInfo) (s : State) (u : State), Accepted opTwinRole n f i s ∧ u = dispatch n f s ∧ f.desc.u8 8 ≤ 3 ∧ ((f.desc.u8 8 = 0 ∨ badHbTimeout u = false)) ∧ u.tray.phase = .done ∧ twinCmdRuns u = false ∧ twinMismatch u = false ∧ sameSlot u = false ∧ f.desc.u8 8 = 0 ∧ u.twin.role ≠ .alone) ∧
  (∃ (n : RingIx) (f : Fetched) (i : CmdInfo) (s : State) (u : State), Accepted opTwinRole n f i s ∧ u = dispatch n f s ∧ f.desc.u8 8 ≤ 3 ∧ ((f.desc.u8 8 = 0 ∨ badHbTimeout u = false)) ∧ u.tray.phase = .done ∧ twinCmdRuns u = false ∧ twinMismatch u = false ∧ sameSlot u = false ∧ u.twin.role = Role.ofCode (f.desc.u8 8)) ∧
  (∃ (n : RingIx) (f : Fetched) (i : CmdInfo) (s : State) (u : State) (v : State), Accepted opTwinRole n f i s ∧ u = dispatch n f s ∧ f.desc.u8 8 ≤ 3 ∧ ((f.desc.u8 8 = 0 ∨ badHbTimeout u = false)) ∧ u.tray.phase = .done ∧ twinCmdRuns u = false ∧ twinMismatch u = false ∧ sameSlot u = false ∧ u.twin.role = .alone ∧ twinHeard u = true ∧ v = { u with twin := { u.twin with seized := false, delayRunning := false } } ∧ f.desc.u8 8 = 1 ∧ (hbByte u 0 = 0 ∨ hbByte u 0 = 2) ∧ u.twin.grant = true) ∧
  (∃ (n : RingIx) (f : Fetched) (i : CmdInfo) (s : State) (u : State) (v : State), Accepted opTwinRole n f i s ∧ u = dispatch n f s ∧ f.desc.u8 8 ≤ 3 ∧ ((f.desc.u8 8 = 0 ∨ badHbTimeout u = false)) ∧ u.tray.phase = .done ∧ twinCmdRuns u = false ∧ twinMismatch u = false ∧ sameSlot u = false ∧ u.twin.role = .alone ∧ twinHeard u = true ∧ v = { u with twin := { u.twin with seized := false, delayRunning := false } } ∧ f.desc.u8 8 = 2 ∧ hbByte u 0 = 1 ∧ u.twin.grant = false ∧ u.tray.powerState = .run ∧ inferenceRuns u = false) ∧
  (∃ (n : RingIx) (f : Fetched) (i : CmdInfo) (s : State) (u : State) (v : State), Accepted opTwinRole n f i s ∧ u = dispatch n f s ∧ f.desc.u8 8 ≤ 3 ∧ ((f.desc.u8 8 = 0 ∨ badHbTimeout u = false)) ∧ u.tray.phase = .done ∧ twinCmdRuns u = false ∧ twinMismatch u = false ∧ sameSlot u = false ∧ u.twin.role = .alone ∧ twinHeard u = true ∧ v = { u with twin := { u.twin with seized := false, delayRunning := false } } ∧ f.desc.u8 8 = 3) ∧
  (∃ (n : RingIx) (f : Fetched) (i : CmdInfo) (s : State) (u : State), Accepted opHandover n f i s ∧ u = dispatch n f s ∧ twinCmdRuns u = false ∧ u.twin.handover = none ∧ u.twin.role = .active ∧ u.twin.pairState = .synced ∧ linkCarries u = true ∧ u.twin.grant = true) ∧
  (∃ (s : State), madderUp s = true ∧ s.twin.hbRunning = true ∧ coreRuns s 3 = false) ∧
  (∃ (s : State) (u : State), madderUp s = true ∧ s.twin.hbRunning = true ∧ coreRuns s 3 = true ∧ u = sendHeartbeat s.tray.powerState.code { s with twin := { s.twin with hbFresh := true } } ∧ mayHold u = true) ∧
  (∃ (s : State) (u : State), madderUp s = true ∧ s.twin.hbRunning = true ∧ coreRuns s 3 = true ∧ u = sendHeartbeat s.tray.powerState.code { s with twin := { s.twin with hbFresh := true } } ∧ mayHold u = false) ∧
  (∃ (bs : List Byte) (s : State) (u : State), madderUp s = true ∧ linkCarries s = true ∧ bs.length = 32 ∧ u = { s with woad := { s.woad with hbSeen := true }, twin := { s.twin with hbRx := satInc s.twin.hbRx, hbLast := bs, extended := false } } ∧ firmwareRuns s = true ∧ coreRuns s 3 = true ∧ s.tray.shelfSlot ≠ none) ∧
  (∃ (bs : List Byte) (s : State) (u : State), madderUp s = true ∧ linkCarries s = true ∧ bs.length = 32 ∧ u = { s with woad := { s.woad with hbSeen := true }, twin := { s.twin with hbRx := satInc s.twin.hbRx, hbLast := bs, extended := false } } ∧ firmwareRuns s = false) ∧
  (∃ (s : State), madderUp s = true ∧ s.twin.timerOn = true ∧ s.twin.handover = none ∧ s.twin.replaying = true ∧ s.twin.extended = false) ∧
  (∃ (s : State), madderUp s = true ∧ s.twin.timerOn = true ∧ s.twin.handover = none ∧ s.twin.replaying = false ∧ s.twin.role = .standby ∧ s.twin.grant = false) ∧
  (∃ (s : State), madderUp s = true ∧ s.twin.timerOn = true ∧ s.twin.handover = none ∧ s.twin.replaying = false ∧ s.twin.role = .active) ∧
  (∃ (s : State), firmwareRuns s = true ∧ s.twin.pairState ≠ .none) ∧
  (∃ (q : Bool) (b : Bool) (s : State), s.tray.shelfSlot = some b ∧ s.twin.holder = some false) ∧
  (∃ (q : Bool) (b : Bool) (s : State), s.tray.shelfSlot = some b ∧ s.twin.holder = some true) ∧
  (∃ (s : State), s.twin.holder = some false) ∧
  (∃ (s : State), firmwareRuns s = true ∧ s.twin.role = .alone ∧ streamOpen s = true ∧ s.twin.grant = false ∧ faultHolds s = false ∧ twinHeard s = false) ∧
  (∃ (s : State), firmwareRuns s = true ∧ grantsDisagree s = true) ∧
  (∃ (h : HandoverRun) (s : State), s.twin.handover = some h ∧ h.releasing = true) ∧
  (∃ (h : HandoverRun) (s : State), s.twin.handover = some h ∧ h.releasing = false) ∧
  (∃ (s : State), s.twin.takeoverRefused = true ∧ s.tray.takeoverCauses ≠ [] ∧ s.twin.role ≠ .alone) ∧
  (∃ (b : Bool) (s : State), b = true) ∧
  (∃ (b : Bool) (s : State), b = false ∧ s.twin.seized = true ∧ s.twin.pairState = .linkDown) ∧
  (∃ (s : State), firmwareRuns s = true ∧ s.twin.delayRunning = true ∧ s.twin.relayDelay ≠ 0 ∧ s.power.stage = .none ∧ s.tray.shelfSlot ≠ none ∧ s.twin.relayCycles.toNat < 2) ∧
  (∃ (s : State), firmwareRuns s = true ∧ s.twin.delayRunning = true ∧ s.twin.relayDelay ≠ 0 ∧ s.power.stage = .none ∧ s.tray.shelfSlot ≠ none ∧ 2 ≤ s.twin.relayCycles.toNat) :=
  ⟨⟨1, tCmd opTwinRole [], tInfo opTwinRole, tAsk opTwinRole [] (tTwin 2 0 (fun x => { x with role := .active }) (tUp)), _, ⟨by decide +kernel, by decide +kernel, by decide +kernel, by decide +kernel, by decide +kernel⟩, rfl, by decide +kernel, by decide +kernel, by decide +kernel, by decide +kernel, by decide +kernel, by decide +kernel, by decide +kernel, by decide +kernel⟩,
  ⟨1, tCmd opTwinRole [(8,1,3)], tInfo opTwinRole, tAsk opTwinRole [(8,1,3)] (tTwin 3 0 (fun x => { x with role := .share }) (tUp)), _, ⟨by decide +kernel, by decide +kernel, by decide +kernel, by decide +kernel, by decide +kernel⟩, rfl, by decide +kernel, by decide +kernel, by decide +kernel, by decide +kernel, by decide +kernel, by decide +kernel, by decide +kernel⟩,
  ⟨1, tCmd opTwinRole [(8,1,1)], tInfo opTwinRole, tAsk opTwinRole [(8,1,1)] (tTwin 2 0 (fun x => { x with grant := true }) (tUp)), _, _, ⟨by decide +kernel, by decide +kernel, by decide +kernel, by decide +kernel, by decide +kernel⟩, rfl, by decide +kernel, by decide +kernel, by decide +kernel, by decide +kernel, by decide +kernel, by decide +kernel, by decide +kernel, by decide +kernel, rfl, by decide +kernel, by decide +kernel, by decide +kernel⟩,
  ⟨1, tCmd opTwinRole [(8,1,2)], tInfo opTwinRole, tAsk opTwinRole [(8,1,2)] (tTwin 1 8 (fun x => x) (tUp)), _, _, ⟨by decide +kernel, by decide +kernel, by decide +kernel, by decide +kernel, by decide +kernel⟩, rfl, by decide +kernel, by decide +kernel, by decide +kernel, by decide +kernel, by decide +kernel, by decide +kernel, by decide +kernel, by decide +kernel, rfl, by decide +kernel, by decide +kernel, by decide +kernel, by decide +kernel, by decide +kernel⟩,
  ⟨1, tCmd opTwinRole [(8,1,3)], tInfo opTwinRole, tAsk opTwinRole [(8,1,3)] (tTwin 3 0 (fun x => x) (tUp)), _, _, ⟨by decide +kernel, by decide +kernel, by decide +kernel, by decide +kernel, by decide +kernel⟩, rfl, by decide +kernel, by decide +kernel, by decide +kernel, by decide +kernel, by decide +kernel, by decide +kernel, by decide +kernel, by decide +kernel, rfl, by decide +kernel⟩,
  ⟨1, tCmd opHandover [], tInfo opHandover, tAsk opHandover [] (tTwin 2 0 (fun x => { x with role := .active, grant := true }) (tUp)), _, ⟨by decide +kernel, by decide +kernel, by decide +kernel, by decide +kernel, by decide +kernel⟩, rfl, by decide +kernel, by decide +kernel, by decide +kernel, by decide +kernel, by decide +kernel, by decide +kernel⟩,
  ⟨tTwin 0 0 (fun x => x) ({ tUp with cores := upd tUp.cores 3 (fun c => { c with state := .restarting }) }), by decide +kernel, by decide +kernel, by decide +kernel⟩,
  ⟨tTwin 0 0 (fun x => x) (tUp), _, by decide +kernel, by decide +kernel, by decide +kernel, rfl, by decide +kernel⟩,
  ⟨tTwin 0 0 (fun x => x) ({ tUp with woad := { tUp.woad with forceHold := true } }), _, by decide +kernel, by decide +kernel, by decide +kernel, rfl, by decide +kernel⟩,
  ⟨tHb 2 0, tTwin 2 0 (fun x => x) (tUp), _, by decide +kernel, by decide +kernel, by decide +kernel, rfl, by decide +kernel, by decide +kernel, by decide +kernel⟩,
  ⟨tHb 2 0, tTwin 2 0 (fun x => x) (State.reset), _, by decide +kernel, by decide +kernel, by decide +kernel, rfl, by decide +kernel⟩,
  ⟨tTwin 1 0 (fun x => { x with timerOn := true, replaying := true, role := .standby }) (tUp), by decide +kernel, by decide +kernel, by decide +kernel, by decide +kernel, by decide +kernel⟩,
  ⟨tTwin 1 0 (fun x => { x with timerOn := true, role := .standby }) (tUp), by decide +kernel, by decide +kernel, by decide +kernel, by decide +kernel, by decide +kernel, by decide +kernel⟩,
  ⟨tTwin 2 0 (fun x => { x with timerOn := true, role := .active }) (tUp), by decide +kernel, by decide +kernel, by decide +kernel, by decide +kernel, by decide +kernel⟩,
  ⟨tTwin 2 0 (fun x => x) (tUp), by decide +kernel, by decide +kernel⟩,
  ⟨true, false, tTwin 2 0 (fun x => { x with holder := some false }) (tUp), by decide +kernel, by decide +kernel⟩,
  ⟨false, false, tTwin 2 0 (fun x => { x with holder := some true }) (tUp), by decide +kernel, by decide +kernel⟩,
  ⟨tTwin 2 0 (fun x => { x with holder := some false }) (tUp), by decide +kernel⟩,
  ⟨tRadio 1, by decide +kernel, by decide +kernel, by decide +kernel, by decide +kernel, by decide +kernel, by decide +kernel⟩,
  ⟨tTwin 1 8 (fun x => { x with grant := true }) (tUp), by decide +kernel, by decide +kernel⟩,
  ⟨⟨100, true, false, none⟩, tTwin 2 0 (fun x => { x with handover := some ⟨100, true, false, none⟩ }) (tUp), by decide +kernel, by decide +kernel⟩,
  ⟨⟨100, false, false, none⟩, tTwin 2 0 (fun x => { x with handover := some ⟨100, false, false, none⟩ }) (tUp), by decide +kernel, by decide +kernel⟩,
  ⟨tTwin 2 0 (fun x => { x with takeoverRefused := true, role := .active }) ({ tUp with tray := { tUp.tray with takeoverCauses := [alStage] } }), by decide +kernel, by decide +kernel, by decide +kernel⟩,
  ⟨true, tUp, by decide +kernel⟩,
  ⟨false, tTwin 2 0 (fun x => { x with seized := true, pairState := .linkDown }) tUp, by decide +kernel, by decide +kernel, by decide +kernel⟩,
  ⟨tTwin 2 0 (fun x => { x with delayRunning := true, relayCycles := 1 }) (tUp), by decide +kernel, by decide +kernel, by decide +kernel, by decide +kernel, by decide +kernel, by decide +kernel⟩,
  ⟨tTwin 2 0 (fun x => { x with delayRunning := true, relayCycles := 2 }) (tUp), by decide +kernel, by decide +kernel, by decide +kernel, by decide +kernel, by decide +kernel, by decide +kernel⟩⟩

/-- The premises of TheLinkAndItsFrames can be met. -/
theorem witness_TheLinkAndItsFrames :
  (∃ (h : RxHead) (s : State), linkCarries s = true ∧ h.checkOk = true ∧ h.type ≠ 0 ∧ h.type.toNat ≤ 7) ∧
  (∃ (h : RxHead) (s : State), linkCarries s = true ∧ h.checkOk = false) ∧
  (∃ (h : RxHead) (s : State), linkCarries s = true ∧ h.checkOk = true ∧ (h.type = 0 ∨ 7 < h.type.toNat)) ∧
  (∃ (s : State), linkCarries s = true) ∧
  (∃ (s : State) (u : State), s.twin.linkState = .training ∧ u = { s with twin := { s.twin with trainFails := 0, replayTries := 0 } } ∧ 2 ≤ s.twin.trainFails) ∧
  (∃ (s : State) (u : State), s.twin.linkState = .training ∧ u = { s with twin := { s.twin with trainFails := 0, replayTries := 0 } } ∧ s.twin.trainFails < 2) ∧
  (∃ (s : State), s.twin.linkState = .down) ∧
  (∃ (s : State), s.twin.commitWaits ≠ [] ∧ s.twin.role ≠ .alone) ∧
  (∃ (q : W32) (s : State) (m : MirrorItem), takesFrames s = true) ∧
  (∃ (q : W32) (s : State) (a : W64) (bs : List Byte), takesFrames s = true) ∧
  (∃ (q : W32) (s : State) (x : ResyncItem), takesFrames s = true) ∧
  (∃ (q : W32) (s : State) (x : ResyncItem), takesFrames s = true) ∧
  (∃ (q : W32) (s : State) (x : ResyncItem), takesFrames s = true) ∧
  (∃ (h : RxHead) (f : State → State) (s : State) (u : State), linkCarries s = true ∧ h.checkOk = true ∧ h.type ≠ 0 ∧ h.type.toNat ≤ 7 ∧ u = releaseAcked h.ackSeq s ∧ h.seq = s.twin.rxSeq + 1) ∧
  (∃ (h : RxHead) (f : State → State) (s : State) (u : State), linkCarries s = true ∧ h.checkOk = true ∧ h.type ≠ 0 ∧ h.type.toNat ≤ 7 ∧ u = releaseAcked h.ackSeq s ∧ h.seq ≠ s.twin.rxSeq + 1 ∧ seqLe h.seq s.twin.rxSeq = true) ∧
  (∃ (h : RxHead) (f : State → State) (s : State) (u : State), linkCarries s = true ∧ h.checkOk = true ∧ h.type ≠ 0 ∧ h.type.toNat ≤ 7 ∧ u = releaseAcked h.ackSeq s ∧ h.seq ≠ s.twin.rxSeq + 1 ∧ seqLe h.seq s.twin.rxSeq = false) ∧
  (∃ (ty : Byte) (fl : Byte) (q : W32) (a : W32) (bs : List Byte) (f : Frame), f = mkFrame ty fl q a bs) ∧
  (∃ (s : State) (d : List Byte) (es : List Byte), isSink s = true) ∧
  (∃ (s : State) (a : W64) (bs : List Byte), isSink s = true ∧ bs ≠ [] ∧ windowAnswers s a.toNat bs.length = true) ∧
  (∃ (s : State) (x : W64), isSink s = true ∧ s.twin.handover = none) ∧
  (∃ (s : State) (q : W32), isSink s = true) :=
  ⟨⟨⟨7, 3, 0xFFFFFFFF, true⟩, tTwin 2 0 (fun x => { x with rxSeq := 0xFFFFFFFF }) tUp, by decide +kernel, by decide +kernel, by decide +kernel, by decide +kernel⟩,
  ⟨⟨1, 3, 0, false⟩, tTwin 2 0 (fun x => { x with rxSeq := 0xFFFFFFFF }) tUp, by decide +kernel, by decide +kernel⟩,
  ⟨⟨8, 3, 0, true⟩, tTwin 2 0 (fun x => { x with rxSeq := 0xFFFFFFFF }) tUp, by decide +kernel, by decide +kernel, by decide +kernel⟩,
  ⟨tTwin 2 0 (fun x => x) (tUp), by decide +kernel⟩,
  ⟨{ tUp with twin := { tUp.twin with trainFails := 2 } }, _, by decide +kernel, rfl, by decide +kernel⟩,
  ⟨{ tUp with twin := { tUp.twin with trainFails := 1 } }, _, by decide +kernel, rfl, by decide +kernel⟩,
  ⟨tTwin 0 0 (fun x => { x with linkState := .down }) (tUp), by decide +kernel⟩,
  ⟨tTwin 2 0 (fun x => { x with role := .active, commitWaits := [(1, 0, 15, 1)] }) (tUp), by decide +kernel, by decide +kernel⟩,
  ⟨1, tUp, (.command [] [] : MirrorItem), by decide +kernel⟩,
  ⟨1, tUp, (0 : W64), ([1] : List Byte), by decide +kernel⟩,
  ⟨1, tUp, (.journal 3 : ResyncItem), by decide +kernel⟩,
  ⟨1, tUp, (.journal 3 : ResyncItem), by decide +kernel⟩,
  ⟨1, tUp, (.journal 3 : ResyncItem), by decide +kernel⟩,
  ⟨⟨3, 0, 5, true⟩, id, tTwin 2 0 (fun x => { x with rxSeq := 0xFFFFFFFF }) tUp, _, by decide +kernel, by decide +kernel, by decide +kernel, by decide +kernel, rfl, by decide +kernel⟩,
  ⟨⟨3, 0xFFFFFFFF, 5, true⟩, id, tTwin 2 0 (fun x => { x with rxSeq := 0xFFFFFFFF }) tUp, _, by decide +kernel, by decide +kernel, by decide +kernel, by decide +kernel, rfl, by decide +kernel, by decide +kernel⟩,
  ⟨⟨3, 1, 5, true⟩, id, tTwin 2 0 (fun x => { x with rxSeq := 0xFFFFFFFF }) tUp, _, by decide +kernel, by decide +kernel, by decide +kernel, by decide +kernel, rfl, by decide +kernel, by decide +kernel⟩,
  ⟨3, 0, 1, 0, [1], _, rfl⟩,
  ⟨tTwin 1 0 (fun x => { x with role := .standby }) (tUp), ([] : List Byte), ([] : List Byte), by decide +kernel⟩,
  ⟨tTwin 1 0 (fun x => { x with role := .standby }) (tUp), (0 : W64), ([1] : List Byte), by decide +kernel, by decide +kernel, by decide +kernel⟩,
  ⟨tTwin 1 0 (fun x => { x with role := .standby }) (tUp), (0 : W64), by decide +kernel, by decide +kernel⟩,
  ⟨tTwin 1 0 (fun x => { x with role := .standby }) (tUp), (3 : W32), by decide +kernel⟩⟩

/-- The premises of MovesIntoOperandPorts can be met. -/
theorem witness_MovesIntoOperandPorts :
  ∃ (k : CoreIx) (g : BitVec 4) (dst : Byte) (src : MoveSrc) (s : State), triggerPort dst.toNat = false ∧ Issued k g dst.toNat src s :=
  ⟨1, 0, 0x10, .imm 5, tUp, by decide +kernel, ⟨by decide +kernel, by decide +kernel, by decide +kernel, by decide +kernel, by decide +kernel⟩⟩

/-- The premises of LongImmediatesPlaceTheirWord can be met. -/
theorem witness_LongImmediatesPlaceTheirWord :
  (∃ (k : CoreIx) (g : BitVec 4) (src : MoveSrc) (s : State), Issued k g 0x08 src s) ∧
  (∃ (k : CoreIx) (g : BitVec 4) (src : MoveSrc) (s : State) (w : Nat), Issued k g 0x09 src s ∧ w = s.cores[k].ops.limmHi.toNat * 65536 + (moveValue s k src).toNat % 65536) ∧
  (∃ (k : CoreIx) (g : BitVec 4) (src : MoveSrc) (s : State) (w : Nat), Issued k g 0x0A src s ∧ w = s.cores[k].ops.limmHi.toNat * 65536 + (moveValue s k src).toNat % 65536) ∧
  (∃ (k : CoreIx) (g : BitVec 4) (src : MoveSrc) (s : State) (w : Nat), Issued k g 0x0B src s ∧ w = s.cores[k].ops.limmHi.toNat * 65536 + (moveValue s k src).toNat % 65536) ∧
  (∃ (k : CoreIx) (g : BitVec 4) (src : MoveSrc) (s : State) (w : Nat), Issued k g 0x0C src s ∧ w = s.cores[k].ops.limmHi.toNat * 65536 + (moveValue s k src).toNat % 65536) ∧
  (∃ (t : Nat) (w : Nat), t < 8) :=
  ⟨⟨1, 0, .imm 65535, tUp, ⟨by decide +kernel, by decide +kernel, by decide +kernel, by decide +kernel, by decide +kernel⟩⟩,
  ⟨1, 0, .imm 65535, tUp, _, ⟨by decide +kernel, by decide +kernel, by decide +kernel, by decide +kernel, by decide +kernel⟩, rfl⟩,
  ⟨1, 0, .imm 65535, tUp, _, ⟨by decide +kernel, by decide +kernel, by decide +kernel, by decide +kernel, by decide +kernel⟩, rfl⟩,
  ⟨1, 0, .imm 65535, tUp, _, ⟨by decide +kernel, by decide +kernel, by decide +kernel, by decide +kernel, by decide +kernel⟩, rfl⟩,
  ⟨1, 0, .imm 65535, tUp, _, ⟨by decide +kernel, by decide +kernel, by decide +kernel, by decide +kernel, by decide +kernel⟩, rfl⟩,
  ⟨7, 65535, by decide +kernel⟩⟩

/-- The premises of AluMovesComputeTable20x7 can be met. -/
theorem witness_AluMovesComputeTable20x7 :
  (∃ (k : CoreIx) (g : BitVec 4) (src : MoveSrc) (s : State) (tg : Bool) (v : W32), Issued k g 0x11 src s ∧ tg = runsTagged s k ∧ v = moveValue s k src ∧ ((tg = true → tagOf s.cores[k].ops.aluA = 0 ∧ tagOf v = 0))) ∧
  (∃ (k : CoreIx) (g : BitVec 4) (src : MoveSrc) (s : State) (tg : Bool) (v : W32), Issued k g 0x12 src s ∧ tg = runsTagged s k ∧ v = moveValue s k src ∧ ((tg = true → tagOf s.cores[k].ops.aluA = 0 ∧ tagOf v = 0))) ∧
  (∃ (k : CoreIx) (g : BitVec 4) (src : MoveSrc) (s : State) (tg : Bool) (v : W32), Issued k g 0x13 src s ∧ tg = runsTagged s k ∧ v = moveValue s k src ∧ ((tg = true → tagOf v = 0))) ∧
  (∃ (k : CoreIx) (g : BitVec 4) (src : MoveSrc) (s : State) (tg : Bool) (v : W32), Issued k g 0x14 src s ∧ tg = runsTagged s k ∧ v = moveValue s k src ∧ ((tg = true → (tagOf s.cores[k].ops.aluA = 0 ∨ tagOf s.cores[k].ops.aluA = 4) ∧ (tagOf v = 0 ∨ tagOf v = 4)))) ∧
  (∃ (k : CoreIx) (g : BitVec 4) (src : MoveSrc) (s : State) (tg : Bool) (v : W32), Issued k g 0x15 src s ∧ tg = runsTagged s k ∧ v = moveValue s k src ∧ ((tg = true → (tagOf s.cores[k].ops.aluA = 0 ∨ tagOf s.cores[k].ops.aluA = 4) ∧ (tagOf v = 0 ∨ tagOf v = 4)))) ∧
  (∃ (k : CoreIx) (g : BitVec 4) (src : MoveSrc) (s : State) (tg : Bool) (v : W32), Issued k g 0x16 src s ∧ tg = runsTagged s k ∧ v = moveValue s k src ∧ ((tg = true → (tagOf s.cores[k].ops.aluA = 0 ∨ tagOf s.cores[k].ops.aluA = 4) ∧ (tagOf v = 0 ∨ tagOf v = 4)))) ∧
  (∃ (k : CoreIx) (g : BitVec 4) (src : MoveSrc) (s : State) (tg : Bool) (v : W32), Issued k g 0x17 src s ∧ tg = runsTagged s k ∧ v = moveValue s k src ∧ ((tg = true → tagOf v = 0 ∨ tagOf v = 4))) ∧
  (∃ (k : CoreIx) (g : BitVec 4) (src : MoveSrc) (s : State) (tg : Bool) (v : W32), Issued k g 0x18 src s ∧ tg = runsTagged s k ∧ v = moveValue s k src ∧ ((tg = true → tagOf s.cores[k].ops.aluA = 0 ∧ tagOf v = 0))) ∧
  (∃ (k : CoreIx) (g : BitVec 4) (src : MoveSrc) (s : State) (tg : Bool) (v : W32), Issued k g 0x19 src s ∧ tg = runsTagged s k ∧ v = moveValue s k src ∧ ((tg = true → tagOf s.cores[k].ops.aluA = 0 ∧ tagOf v = 0))) ∧
  (∃ (k : CoreIx) (g : BitVec 4) (src : MoveSrc) (s : State) (tg : Bool) (v : W32), Issued k g 0x1A src s ∧ tg = runsTagged s k ∧ v = moveValue s k src ∧ ((tg = true → tagOf s.cores[k].ops.aluA = 0 ∧ tagOf v = 0))) :=
  ⟨⟨1, 0, .imm 31, tCore 1 (0) (fun c => c) (tUp), _, _, ⟨by decide +kernel, by decide +kernel, by decide +kernel, by decide +kernel, by decide +kernel⟩, rfl, rfl, by decide +kernel⟩,
  ⟨1, 0, .imm 31, tCore 1 (0) (fun c => c) (tUp), _, _, ⟨by decide +kernel, by decide +kernel, by decide +kernel, by decide +kernel, by decide +kernel⟩, rfl, rfl, by decide +kernel⟩,
  ⟨1, 0, .imm 31, tCore 1 (0) (fun c => c) (tUp), _, _, ⟨by decide +kernel, by decide +kernel, by decide +kernel, by decide +kernel, by decide +kernel⟩, rfl, rfl, by decide +kernel⟩,
  ⟨1, 0, .imm 31, tCore 1 (0) (fun c => c) (tUp), _, _, ⟨by decide +kernel, by decide +kernel, by decide +kernel, by decide +kernel, by decide +kernel⟩, rfl, rfl, by decide +kernel⟩,
  ⟨1, 0, .imm 31, tCore 1 (0) (fun c => c) (tUp), _, _, ⟨by decide +kernel, by decide +kernel, by decide +kernel, by decide +kernel, by decide +kernel⟩, rfl, rfl, by decide +kernel⟩,
  ⟨1, 0, .imm 31, tCore 1 (0) (fun c => c) (tUp), _, _, ⟨by decide +kernel, by decide +kernel, by decide +kernel, by decide +kernel, by decide +kernel⟩, rfl, rfl, by decide +kernel⟩,
  ⟨1, 0, .imm 31, tCore 1 (0) (fun c => c) (tUp), _, _, ⟨by decide +kernel, by decide +kernel, by decide +kernel, by decide +kernel, by decide +kernel⟩, rfl, rfl, by decide +kernel⟩,
  ⟨1, 0, .imm 31, tCore 1 (0) (fun c => c) (tUp), _, _, ⟨by decide +kernel, by decide +kernel, by decide +kernel, by decide +kernel, by decide +kernel⟩, rfl, rfl, by decide +kernel⟩,
  ⟨1, 0, .imm 31, tCore 1 (0) (fun c => c) (tUp), _, _, ⟨by decide +kernel, by decide +kernel, by decide +kernel, by decide +kernel, by decide +kernel⟩, rfl, rfl, by decide +kernel⟩,
  ⟨1, 0, .imm 31, tCore 1 (0) (fun c => c) (tUp), _, _, ⟨by decide +kernel, by decide +kernel, by decide +kernel, by decide +kernel, by decide +kernel⟩, rfl, rfl, by decide +kernel⟩⟩

/-- The premises of MultiplyAndCompareMoves can be met. -/
theorem witness_MultiplyAndCompareMoves :
  (∃ (k : CoreIx) (g : BitVec 4) (src : MoveSrc) (s : State) (tg : Bool) (v : W32), Issued k g 0x21 src s ∧ tg = runsTagged s k ∧ v = moveValue s k src ∧ ((tg = true → tagOf s.cores[k].ops.mulA = 0 ∧ tagOf v = 0))) ∧
  (∃ (k : CoreIx) (g : BitVec 4) (src : MoveSrc) (s : State) (tg : Bool) (v : W32), Issued k g 0x22 src s ∧ tg = runsTagged s k ∧ v = moveValue s k src ∧ ((tg = true → tagOf s.cores[k].ops.mulA = 0 ∧ tagOf v = 0))) ∧
  (∃ (k : CoreIx) (g : BitVec 4) (src : MoveSrc) (s : State) (tg : Bool) (v : W32), Issued k g 0x23 src s ∧ tg = runsTagged s k ∧ v = moveValue s k src ∧ ((tg = true → tagOf s.cores[k].ops.mulA = 0 ∧ tagOf v = 0))) ∧
  (∃ (k : CoreIx) (g : BitVec 4) (src : MoveSrc) (s : State) (tg : Bool) (v : W32), Issued k g 0x24 src s ∧ tg = runsTagged s k ∧ v = moveValue s k src ∧ ((tg = true → tagOf s.cores[k].ops.mulA = 0 ∧ tagOf v = 0))) ∧
  (∃ (k : CoreIx) (g : BitVec 4) (src : MoveSrc) (s : State) (tg : Bool) (v : W32) (b : Bool), Issued k g 0x2A src s ∧ tg = runsTagged s k ∧ v = moveValue s k src ∧ ((tg = true → tagOf s.cores[k].ops.cmpA = 0 ∧ tagOf s.cores[k].ops.cmpG = 0 ∧ tagOf v = 0)) ∧ (b = true ↔ unsignedIn tg s.cores[k].ops.cmpA = unsignedIn tg v)) ∧
  (∃ (k : CoreIx) (g : BitVec 4) (src : MoveSrc) (s : State) (tg : Bool) (v : W32) (b : Bool), Issued k g 0x2B src s ∧ tg = runsTagged s k ∧ v = moveValue s k src ∧ ((tg = true → tagOf s.cores[k].ops.cmpA = 0 ∧ tagOf s.cores[k].ops.cmpG = 0 ∧ tagOf v = 0)) ∧ (b = true ↔ unsignedIn tg s.cores[k].ops.cmpA ≠ unsignedIn tg v)) ∧
  (∃ (k : CoreIx) (g : BitVec 4) (src : MoveSrc) (s : State) (tg : Bool) (v : W32) (b : Bool), Issued k g 0x2C src s ∧ tg = runsTagged s k ∧ v = moveValue s k src ∧ ((tg = true → tagOf s.cores[k].ops.cmpA = 0 ∧ tagOf s.cores[k].ops.cmpG = 0 ∧ tagOf v = 0)) ∧ (b = true ↔ signedIn tg s.cores[k].ops.cmpA < signedIn tg v)) ∧
  (∃ (k : CoreIx) (g : BitVec 4) (src : MoveSrc) (s : State) (tg : Bool) (v : W32) (b : Bool), Issued k g 0x2D src s ∧ tg = runsTagged s k ∧ v = moveValue s k src ∧ ((tg = true → tagOf s.cores[k].ops.cmpA = 0 ∧ tagOf s.cores[k].ops.cmpG = 0 ∧ tagOf v = 0)) ∧ (b = true ↔ signedIn tg s.cores[k].ops.cmpA ≤ signedIn tg v)) ∧
  (∃ (k : CoreIx) (g : BitVec 4) (src : MoveSrc) (s : State) (tg : Bool) (v : W32) (b : Bool), Issued k g 0x2E src s ∧ tg = runsTagged s k ∧ v = moveValue s k src ∧ ((tg = true → tagOf s.cores[k].ops.cmpA = 0 ∧ tagOf s.cores[k].ops.cmpG = 0 ∧ tagOf v = 0)) ∧ (b = true ↔ unsignedIn tg s.cores[k].ops.cmpA < unsignedIn tg v)) ∧
  (∃ (k : CoreIx) (g : BitVec 4) (src : MoveSrc) (s : State) (tg : Bool) (v : W32) (b : Bool), Issued k g 0x2F src s ∧ tg = runsTagged s k ∧ v = moveValue s k src ∧ ((tg = true → tagOf s.cores[k].ops.cmpA = 0 ∧ tagOf s.cores[k].ops.cmpG = 0 ∧ tagOf v = 0)) ∧ (b = true ↔ unsignedIn tg s.cores[k].ops.cmpA ≤ unsignedIn tg v)) ∧
  (∃ (k : CoreIx) (g : BitVec 4) (src : MoveSrc) (s : State) (tg : Bool) (v : W32) (b : Bool), Issued k g 0x30 src s ∧ tg = runsTagged s k ∧ v = moveValue s k src ∧ ((tg = true → tagOf s.cores[k].ops.cmpA = 0 ∧ tagOf s.cores[k].ops.cmpG = 0 ∧ tagOf v = 0)) ∧ (b = true ↔ 2 ^ widthOf tg ≤ unsignedIn tg s.cores[k].ops.cmpA + unsignedIn tg v)) ∧
  (∃ (k : CoreIx) (g : BitVec 4) (src : MoveSrc) (s : State) (tg : Bool) (v : W32) (b : Bool), Issued k g 0x31 src s ∧ tg = runsTagged s k ∧ v = moveValue s k src ∧ ((tg = true → tagOf s.cores[k].ops.cmpA = 0 ∧ tagOf s.cores[k].ops.cmpG = 0 ∧ tagOf v = 0)) ∧ ((b = true ↔ signedIn tg s.cores[k].ops.cmpA + signedIn tg v < -(2 ^ (widthOf tg - 1) : Nat) ∨ (2 ^ (widthOf tg - 1) : Nat) ≤ signedIn tg s.cores[k].ops.cmpA + signedIn tg v))) ∧
  (∃ (k : CoreIx) (g : BitVec 4) (src : MoveSrc) (s : State) (tg : Bool) (v : W32) (b : Bool), Issued k g 0x32 src s ∧ tg = runsTagged s k ∧ v = moveValue s k src ∧ ((tg = true → tagOf s.cores[k].ops.cmpA = 0 ∧ tagOf s.cores[k].ops.cmpG = 0 ∧ tagOf v = 0)) ∧ ((b = true ↔ (0 ≤ signedIn tg v ∧ signedIn tg v < widthOf tg) ∧ (unsignedIn tg s.cores[k].ops.cmpA).testBit (unsignedIn tg v) = true))) ∧
  (∃ (n : Nat) (m : Nat) (b : Bool) (g : Byte), n < 8 ∧ m < 8) :=
  ⟨⟨1, 0, .imm 31, tCore 1 (0) (fun c => c) (tUp), _, _, ⟨by decide +kernel, by decide +kernel, by decide +kernel, by decide +kernel, by decide +kernel⟩, rfl, rfl, by decide +kernel⟩,
  ⟨1, 0, .imm 31, tCore 1 (0) (fun c => c) (tUp), _, _, ⟨by decide +kernel, by decide +kernel, by decide +kernel, by decide +kernel, by decide +kernel⟩, rfl, rfl, by decide +kernel⟩,
  ⟨1, 0, .imm 31, tCore 1 (0) (fun c => c) (tUp), _, _, ⟨by decide +kernel, by decide +kernel, by decide +kernel, by decide +kernel, by decide +kernel⟩, rfl, rfl, by decide +kernel⟩,
  ⟨1, 0, .imm 31, tCore 1 (0) (fun c => c) (tUp), _, _, ⟨by decide +kernel, by decide +kernel, by decide +kernel, by decide +kernel, by decide +kernel⟩, rfl, rfl, by decide +kernel⟩,
  ⟨1, 0, .imm 31, tCore 1 (0) (fun c => c) (tUp), _, _, false, ⟨by decide +kernel, by decide +kernel, by decide +kernel, by decide +kernel, by decide +kernel⟩, rfl, rfl, by decide +kernel, by decide +kernel⟩,
  ⟨1, 0, .imm 31, tCore 1 (0) (fun c => c) (tUp), _, _, true, ⟨by decide +kernel, by decide +kernel, by decide +kernel, by decide +kernel, by decide +kernel⟩, rfl, rfl, by decide +kernel, by decide +kernel⟩,
  ⟨1, 0, .imm 31, tCore 1 (0) (fun c => c) (tUp), _, _, true, ⟨by decide +kernel, by decide +kernel, by decide +kernel, by decide +kernel, by decide +kernel⟩, rfl, rfl, by decide +kernel, by decide +kernel⟩,
  ⟨1, 0, .imm 31, tCore 1 (0) (fun c => c) (tUp), _, _, true, ⟨by decide +kernel, by decide +kernel, by decide +kernel, by decide +kernel, by decide +kernel⟩, rfl, rfl, by decide +kernel, by decide +kernel⟩,
  ⟨1, 0, .imm 31, tCore 1 (0) (fun c => c) (tUp), _, _, true, ⟨by decide +kernel, by decide +kernel, by decide +kernel, by decide +kernel, by decide +kernel⟩, rfl, rfl, by decide +kernel, by decide +kernel⟩,
  ⟨1, 0, .imm 31, tCore 1 (0) (fun c => c) (tUp), _, _, true, ⟨by decide +kernel, by decide +kernel, by decide +kernel, by decide +kernel, by decide +kernel⟩, rfl, rfl, by decide +kernel, by decide +kernel⟩,
  ⟨1, 0, .imm 31, tCore 1 (0) (fun c => c) (tUp), _, _, false, ⟨by decide +kernel, by decide +kernel, by decide +kernel, by decide +kernel, by decide +kernel⟩, rfl, rfl, by decide +kernel, by decide +kernel⟩,
  ⟨1, 0, .imm 31, tCore 1 (0) (fun c => c) (tUp), _, _, false, ⟨by decide +kernel, by decide +kernel, by decide +kernel, by decide +kernel, by decide +kernel⟩, rfl, rfl, by decide +kernel, by decide +kernel⟩,
  ⟨1, 0, .imm 31, tCore 1 (0) (fun c => c) (tUp), _, _, false, ⟨by decide +kernel, by decide +kernel, by decide +kernel, by decide +kernel, by decide +kernel⟩, rfl, rfl, by decide +kernel, by decide +kernel⟩,
  ⟨7, 6, true, 0xFF, by decide +kernel, by decide +kernel⟩⟩

/-- The premises of BranchesAndStacks can be met. -/
theorem witness_BranchesAndStacks :
  (∃ (k : CoreIx) (g : BitVec 4) (src : MoveSrc) (s : State) (tg : Bool) (v : W32), Issued k g 0x48 src s ∧ tg = runsTagged s k ∧ v = moveValue s k src ∧ ((tg = true → tagOf v = 2))) ∧
  (∃ (k : CoreIx) (g : BitVec 4) (src : MoveSrc) (s : State) (tg : Bool) (v : W32), Issued k g 0x49 src s ∧ tg = runsTagged s k ∧ v = moveValue s k src ∧ ((tg = true → tagOf v = 2))) ∧
  (∃ (k : CoreIx) (g : BitVec 4) (src : MoveSrc) (s : State) (a : W32) (l : List W32), Issued k g 0x4A src s ∧ (readSource s.cores[k] src).2.rstack = a :: l ∧ ((runsTagged s k = true → tagOf a = 2))) ∧
  (∃ (k : CoreIx) (g : BitVec 4) (src : MoveSrc) (s : State) (tg : Bool) (v : W32), Issued k g 0x50 src s ∧ tg = runsTagged s k ∧ v = moveValue s k src) ∧
  (∃ (k : CoreIx) (g : BitVec 4) (src : MoveSrc) (s : State) (tg : Bool) (v : W32), Issued k g 0x54 src s ∧ tg = runsTagged s k ∧ v = moveValue s k src ∧ ((tg = true → tagOf v = 2))) ∧
  (∃ (c : Core) (t : W32), c.branch = none) ∧
  (∃ (c : Core) (t : W32), c.branch = some (t, 3)) ∧
  (∃ (c : Core) (t : W32), c.branch = some (t, 2)) ∧
  (∃ (c : Core) (t : W32), c.branch = some (t, 1)) ∧
  (∃ (c : Core) (v : W32) (l : List W32), c.dstack = v :: l) ∧
  (∃ (c : Core) (v : W32) (l : List W32), c.rstack = v :: l) :=
  ⟨⟨1, 0, .port 0x10, tCore 1 (mkTagged 2 0x100) (fun c => c) (tUp), _, _, ⟨by decide +kernel, by decide +kernel, by decide +kernel, by decide +kernel, by decide +kernel⟩, rfl, rfl, by decide +kernel⟩,
  ⟨1, 0, .port 0x10, tCore 1 (mkTagged 2 0x100) (fun c => c) (tUp), _, _, ⟨by decide +kernel, by decide +kernel, by decide +kernel, by decide +kernel, by decide +kernel⟩, rfl, rfl, by decide +kernel⟩,
  ⟨1, 0, .imm 0, tCore 1 (0) (fun c => { c with rstack := [mkTagged 2 0x100] }) (tUp), mkTagged 2 0x100, [], ⟨by decide +kernel, by decide +kernel, by decide +kernel, by decide +kernel, by decide +kernel⟩, by decide +kernel, by decide +kernel⟩,
  ⟨1, 0, .port 0x10, tCore 1 (mkTagged 2 0x100) (fun c => c) (tUp), _, _, ⟨by decide +kernel, by decide +kernel, by decide +kernel, by decide +kernel, by decide +kernel⟩, rfl, rfl⟩,
  ⟨1, 0, .port 0x10, tCore 1 (mkTagged 2 0x100) (fun c => c) (tUp), _, _, ⟨by decide +kernel, by decide +kernel, by decide +kernel, by decide +kernel, by decide +kernel⟩, rfl, rfl, by decide +kernel⟩,
  ⟨{ Core.init .running with pc := 64 }, 8, by decide +kernel⟩,
  ⟨{ Core.init .running with branch := some (8, 3) }, 8, by decide +kernel⟩,
  ⟨{ Core.init .running with branch := some (8, 2) }, 8, by decide +kernel⟩,
  ⟨{ Core.init .running with branch := some (8, 1) }, 8, by decide +kernel⟩,
  ⟨{ Core.init .running with dstack := [8] }, 8, [], by decide +kernel⟩,
  ⟨{ Core.init .running with rstack := [8] }, 8, [], by decide +kernel⟩⟩

/-- The premises of TagAndTimerUnits can be met. -/
theorem witness_TagAndTimerUnits :
  (∃ (k : CoreIx) (g : BitVec 4) (src : MoveSrc) (s : State) (tg : Bool) (v : W32), Issued k g 0x58 src s ∧ tg = runsTagged s k ∧ v = moveValue s k src) ∧
  (∃ (k : CoreIx) (g : BitVec 4) (src : MoveSrc) (s : State) (tg : Bool) (v : W32), Issued k g 0x59 src s ∧ tg = runsTagged s k ∧ v = moveValue s k src) ∧
  (∃ (k : CoreIx) (g : BitVec 4) (src : MoveSrc) (s : State) (tg : Bool) (v : W32), Issued k g 0x5A src s ∧ tg = runsTagged s k ∧ v = moveValue s k src) ∧
  (∃ (k : CoreIx) (g : BitVec 4) (src : MoveSrc) (s : State) (tg : Bool) (v : W32), Issued k g 0x5B src s ∧ tg = runsTagged s k ∧ v = moveValue s k src ∧ -(2 ^ 28 : Int) ≤ v.toInt ∧ v.toInt ≤ 2 ^ 28 - 1) ∧
  (∃ (k : CoreIx) (g : BitVec 4) (src : MoveSrc) (s : State) (tg : Bool) (v : W32), Issued k g 0x5C src s ∧ tg = runsTagged s k ∧ v = moveValue s k src ∧ tg = false) ∧
  (∃ (k : CoreIx) (g : BitVec 4) (src : MoveSrc) (s : State) (tg : Bool) (v : W32), Issued k g 0x5D src s ∧ tg = runsTagged s k ∧ v = moveValue s k src ∧ tg = false) ∧
  (∃ (k : CoreIx) (g : BitVec 4) (src : MoveSrc) (s : State) (tg : Bool) (v : W32), Issued k g 0x5C src s ∧ tg = runsTagged s k ∧ v = moveValue s k src ∧ tg = true) ∧
  (∃ (k : CoreIx) (g : BitVec 4) (src : MoveSrc) (s : State) (tg : Bool) (v : W32), Issued k g 0x5D src s ∧ tg = runsTagged s k ∧ v = moveValue s k src ∧ tg = true) ∧
  (∃ (k : CoreIx) (g : BitVec 4) (src : MoveSrc) (s : State) (tg : Bool) (v : W32), Issued k g 0x5B src s ∧ tg = runsTagged s k ∧ v = moveValue s k src ∧ ((v.toInt < -(2 ^ 28 : Int) ∨ 2 ^ 28 - 1 < v.toInt))) ∧
  (∃ (k : CoreIx) (g : BitVec 4) (src : MoveSrc) (s : State) (tg : Bool) (v : W32), Issued k g 0x88 src s ∧ tg = runsTagged s k ∧ v = moveValue s k src) ∧
  (∃ (k : CoreIx) (g : BitVec 4) (src : MoveSrc) (s : State) (tg : Bool) (v : W32), Issued k g 0x89 src s ∧ tg = runsTagged s k ∧ v = moveValue s k src) ∧
  (∃ (k : CoreIx) (g : BitVec 4) (src : MoveSrc) (s : State) (tg : Bool) (v : W32), Issued k g 0x8A src s ∧ tg = runsTagged s k ∧ v = moveValue s k src ∧ ((tg = true → tagOf v = 0))) ∧
  (∃ (k : CoreIx) (s : State), s.cores[k].tmr = true ∧ issues s k = true ∧ s.cores[k].tmrEnd.toNat ≤ s.cores[k].kclk.toNat) :=
  ⟨⟨1, 0, .imm 31, tCore 1 (0) (fun c => c) (tUp), _, _, ⟨by decide +kernel, by decide +kernel, by decide +kernel, by decide +kernel, by decide +kernel⟩, rfl, rfl⟩,
  ⟨1, 0, .imm 31, tCore 1 (0) (fun c => c) (tUp), _, _, ⟨by decide +kernel, by decide +kernel, by decide +kernel, by decide +kernel, by decide +kernel⟩, rfl, rfl⟩,
  ⟨1, 0, .imm 31, tCore 1 (0) (fun c => c) (tUp), _, _, ⟨by decide +kernel, by decide +kernel, by decide +kernel, by decide +kernel, by decide +kernel⟩, rfl, rfl⟩,
  ⟨1, 0, .imm 31, tCore 1 (0) (fun c => c) (tUp), _, _, ⟨by decide +kernel, by decide +kernel, by decide +kernel, by decide +kernel, by decide +kernel⟩, rfl, rfl, by decide +kernel, by decide +kernel⟩,
  ⟨1, 0, .imm 31, tCore 1 (0) (fun c => { c with codeTagged := Vector.replicate 64 false }) (tUp), _, _, ⟨by decide +kernel, by decide +kernel, by decide +kernel, by decide +kernel, by decide +kernel⟩, rfl, rfl, by decide +kernel⟩,
  ⟨1, 0, .imm 31, tCore 1 (0) (fun c => { c with codeTagged := Vector.replicate 64 false }) (tUp), _, _, ⟨by decide +kernel, by decide +kernel, by decide +kernel, by decide +kernel, by decide +kernel⟩, rfl, rfl, by decide +kernel⟩,
  ⟨1, 0, .imm 31, tCore 1 (0) (fun c => c) (tUp), _, _, ⟨by decide +kernel, by decide +kernel, by decide +kernel, by decide +kernel, by decide +kernel⟩, rfl, rfl, by decide +kernel⟩,
  ⟨1, 0, .imm 31, tCore 1 (0) (fun c => c) (tUp), _, _, ⟨by decide +kernel, by decide +kernel, by decide +kernel, by decide +kernel, by decide +kernel⟩, rfl, rfl, by decide +kernel⟩,
  ⟨1, 0, .port 0x10, tCore 1 (mkTagged 2 0x100) (fun c => c) (tUp), _, _, ⟨by decide +kernel, by decide +kernel, by decide +kernel, by decide +kernel, by decide +kernel⟩, rfl, rfl, by decide +kernel⟩,
  ⟨1, 0, .imm 31, tCore 1 (0) (fun c => c) (tUp), _, _, ⟨by decide +kernel, by decide +kernel, by decide +kernel, by decide +kernel, by decide +kernel⟩, rfl, rfl⟩,
  ⟨1, 0, .imm 31, tCore 1 (0) (fun c => c) (tUp), _, _, ⟨by decide +kernel, by decide +kernel, by decide +kernel, by decide +kernel, by decide +kernel⟩, rfl, rfl⟩,
  ⟨1, 0, .imm 31, tCore 1 (0) (fun c => c) (tUp), _, _, ⟨by decide +kernel, by decide +kernel, by decide +kernel, by decide +kernel, by decide +kernel⟩, rfl, rfl, by decide +kernel⟩,
  ⟨1, tCore 1 0 (fun c => { c with tmr := true, tmrEnd := 5, kclk := 5 }) (tUp), by decide +kernel, by decide +kernel, by decide +kernel⟩⟩

/-- The premises of ControlAndStatusRegisters can be met. -/
theorem witness_ControlAndStatusRegisters :
  (∃ (k : CoreIx) (g : BitVec 4) (src : MoveSrc) (s : State) (n : Nat), Issued k g 0x91 src s ∧ n = unsignedIn (runsTagged s k) (moveValue s k src) ∧ n ≠ 0x06 ∧ n ≠ 0x07) ∧
  (∃ (k : CoreIx) (g : BitVec 4) (src : MoveSrc) (s : State) (n : Nat), Issued k g 0x91 src s ∧ n = unsignedIn (runsTagged s k) (moveValue s k src) ∧ (n = 0x06 ∨ n = 0x07)) ∧
  (∃ (k : CoreIx) (g : BitVec 4) (src : MoveSrc) (s : State), Issued k g 0x92 src s) ∧
  (∃ (k : CoreIx) (g : BitVec 4) (src : MoveSrc) (s : State) (tg : Bool), Issued k g 0x91 src s ∧ tg = runsTagged s k ∧ unsignedIn tg (moveValue s k src) = 0x00) ∧
  (∃ (k : CoreIx) (g : BitVec 4) (src : MoveSrc) (s : State) (tg : Bool), Issued k g 0x91 src s ∧ tg = runsTagged s k ∧ unsignedIn tg (moveValue s k src) = 0x01) ∧
  (∃ (k : CoreIx) (g : BitVec 4) (src : MoveSrc) (s : State) (tg : Bool), Issued k g 0x91 src s ∧ tg = runsTagged s k ∧ unsignedIn tg (moveValue s k src) = 0x02) ∧
  (∃ (k : CoreIx) (g : BitVec 4) (src : MoveSrc) (s : State) (tg : Bool), Issued k g 0x91 src s ∧ tg = runsTagged s k ∧ unsignedIn tg (moveValue s k src) = 0x03) ∧
  (∃ (k : CoreIx) (g : BitVec 4) (src : MoveSrc) (s : State) (tg : Bool), Issued k g 0x91 src s ∧ tg = runsTagged s k ∧ unsignedIn tg (moveValue s k src) = 0x04) ∧
  (∃ (k : CoreIx) (g : BitVec 4) (src : MoveSrc) (s : State) (tg : Bool), Issued k g 0x91 src s ∧ tg = runsTagged s k ∧ unsignedIn tg (moveValue s k src) = 0x05 ∧ k ≠ 2) ∧
  (∃ (k : CoreIx) (g : BitVec 4) (src : MoveSrc) (s : State) (tg : Bool), Issued k g 0x91 src s ∧ tg = runsTagged s k ∧ unsignedIn tg (moveValue s k src) = 0x05 ∧ k = 2) ∧
  (∃ (k : CoreIx) (g : BitVec 4) (src : MoveSrc) (s : State) (tg : Bool), Issued k g 0x91 src s ∧ tg = runsTagged s k ∧ unsignedIn tg (moveValue s k src) = 0x10) ∧
  (∃ (k : CoreIx) (g : BitVec 4) (src : MoveSrc) (s : State) (tg : Bool), Issued k g 0x91 src s ∧ tg = runsTagged s k ∧ unsignedIn tg (moveValue s k src) = 0x11) ∧
  (∃ (k : CoreIx) (g : BitVec 4) (src : MoveSrc) (s : State) (tg : Bool), Issued k g 0x91 src s ∧ tg = runsTagged s k ∧ unsignedIn tg (moveValue s k src) = 0x12) ∧
  (∃ (k : CoreIx) (g : BitVec 4) (src : MoveSrc) (s : State) (tg : Bool), Issued k g 0x91 src s ∧ tg = runsTagged s k ∧ unsignedIn tg (moveValue s k src) = 0x13) ∧
  (∃ (k : CoreIx) (g : BitVec 4) (src : MoveSrc) (s : State) (tg : Bool), Issued k g 0x91 src s ∧ tg = runsTagged s k ∧ unsignedIn tg (moveValue s k src) = 0x14) ∧
  (∃ (k : CoreIx) (g : BitVec 4) (src : MoveSrc) (s : State) (tg : Bool), Issued k g 0x91 src s ∧ tg = runsTagged s k ∧ unsignedIn tg (moveValue s k src) = 0x15) ∧
  (∃ (k : CoreIx) (g : BitVec 4) (src : MoveSrc) (s : State) (tg : Bool), Issued k g 0x91 src s ∧ tg = runsTagged s k ∧ unsignedIn tg (moveValue s k src) = 0x16) ∧
  (∃ (k : CoreIx) (g : BitVec 4) (src : MoveSrc) (s : State) (tg : Bool), Issued k g 0x91 src s ∧ tg = runsTagged s k ∧ unsignedIn tg (moveValue s k src) = 0x17) ∧
  (∃ (k : CoreIx) (g : BitVec 4) (src : MoveSrc) (s : State) (n : Nat), Issued k g 0x91 src s ∧ n = unsignedIn (runsTagged s k) (moveValue s k src) ∧ 7 < n ∧ (n < 0x10 ∨ 0x17 < n)) ∧
  (∃ (k : CoreIx) (g : BitVec 4) (src : MoveSrc) (s : State), Issued k g 0x92 src s ∧ unsignedIn (runsTagged s k) (moveValue s k src) = 0x05 ∧ k ≠ 2 ∧ s.cores[k].faultVector = none) ∧
  (∃ (k : CoreIx) (g : BitVec 4) (src : MoveSrc) (s : State), Issued k g 0x92 src s ∧ unsignedIn (runsTagged s k) (moveValue s k src) = 0x05 ∧ ((k = 2 ∨ s.cores[k].faultVector ≠ none))) ∧
  (∃ (k : CoreIx) (g : BitVec 4) (src : MoveSrc) (s : State), Issued k g 0x92 src s ∧ unsignedIn (runsTagged s k) (moveValue s k src) = 0x06) ∧
  (∃ (k : CoreIx) (g : BitVec 4) (src : MoveSrc) (s : State), Issued k g 0x92 src s ∧ unsignedIn (runsTagged s k) (moveValue s k src) = 0x07 ∧ k ≠ 2 ∧ s.cores[k].state = .faultMode ∧ s.cores[k].ops.csrData = 1) ∧
  (∃ (k : CoreIx) (g : BitVec 4) (src : MoveSrc) (s : State), Issued k g 0x92 src s ∧ unsignedIn (runsTagged s k) (moveValue s k src) = 0x07 ∧ ((k = 2 ∨ s.cores[k].state ≠ .faultMode ∨ s.cores[k].ops.csrData ≠ 1))) ∧
  (∃ (k : CoreIx) (g : BitVec 4) (src : MoveSrc) (s : State) (n : Nat), Issued k g 0x92 src s ∧ n = unsignedIn (runsTagged s k) (moveValue s k src) ∧ ((n < 5 ∨ 7 < n))) :=
  ⟨⟨1, 0, .imm 23, tCore 1 0 (fun c => c) (tUp), _, ⟨by decide +kernel, by decide +kernel, by decide +kernel, by decide +kernel, by decide +kernel⟩, rfl, by decide +kernel, by decide +kernel⟩,
  ⟨1, 0, .imm 6, tCore 1 0 (fun c => c) (tUp), _, ⟨by decide +kernel, by decide +kernel, by decide +kernel, by decide +kernel, by decide +kernel⟩, rfl, by decide +kernel⟩,
  ⟨1, 0, .imm 0, tCore 1 0 (fun c => c) (tUp), ⟨by decide +kernel, by decide +kernel, by decide +kernel, by decide +kernel, by decide +kernel⟩⟩,
  ⟨1, 0, .imm 0, tCore 1 (0) (fun c => c) (tUp), _, ⟨by decide +kernel, by decide +kernel, by decide +kernel, by decide +kernel, by decide +kernel⟩, rfl, by decide +kernel⟩,
  ⟨1, 0, .imm 1, tCore 1 (0) (fun c => c) (tUp), _, ⟨by decide +kernel, by decide +kernel, by decide +kernel, by decide +kernel, by decide +kernel⟩, rfl, by decide +kernel⟩,
  ⟨1, 0, .imm 2, tCore 1 (0) (fun c => c) (tUp), _, ⟨by decide +kernel, by decide +kernel, by decide +kernel, by decide +kernel, by decide +kernel⟩, rfl, by decide +kernel⟩,
  ⟨1, 0, .imm 3, tCore 1 (0) (fun c => c) (tUp), _, ⟨by decide +kernel, by decide +kernel, by decide +kernel, by decide +kernel, by decide +kernel⟩, rfl, by decide +kernel⟩,
  ⟨1, 0, .imm 4, tCore 1 (0) (fun c => c) (tUp), _, ⟨by decide +kernel, by decide +kernel, by decide +kernel, by decide +kernel, by decide +kernel⟩, rfl, by decide +kernel⟩,
  ⟨1, 0, .imm 5, tCore 1 (0) (fun c => c) (tUp), _, ⟨by decide +kernel, by decide +kernel, by decide +kernel, by decide +kernel, by decide +kernel⟩, rfl, by decide +kernel, by decide +kernel⟩,
  ⟨2, 0, .imm 5, tCore 2 (0) (fun c => { c with state := .running }) (tUp), _, ⟨by decide +kernel, by decide +kernel, by decide +kernel, by decide +kernel, by decide +kernel⟩, rfl, by decide +kernel, by decide +kernel⟩,
  ⟨1, 0, .imm 16, tCore 1 (0) (fun c => c) (tUp), _, ⟨by decide +kernel, by decide +kernel, by decide +kernel, by decide +kernel, by decide +kernel⟩, rfl, by decide +kernel⟩,
  ⟨1, 0, .imm 17, tCore 1 (0) (fun c => c) (tUp), _, ⟨by decide +kernel, by decide +kernel, by decide +kernel, by decide +kernel, by decide +kernel⟩, rfl, by decide +kernel⟩,
  ⟨1, 0, .imm 18, tCore 1 (0) (fun c => c) (tUp), _, ⟨by decide +kernel, by decide +kernel, by decide +kernel, by decide +kernel, by decide +kernel⟩, rfl, by decide +kernel⟩,
  ⟨1, 0, .imm 19, tCore 1 (0) (fun c => c) (tUp), _, ⟨by decide +kernel, by decide +kernel, by decide +kernel, by decide +kernel, by decide +kernel⟩, rfl, by decide +kernel⟩,
  ⟨1, 0, .imm 20, tCore 1 (0) (fun c => c) (tUp), _, ⟨by decide +kernel, by decide +kernel, by decide +kernel, by decide +kernel, by decide +kernel⟩, rfl, by decide +kernel⟩,
  ⟨1, 0, .imm 21, tCore 1 (0) (fun c => c) (tUp), _, ⟨by decide +kernel, by decide +kernel, by decide +kernel, by decide +kernel, by decide +kernel⟩, rfl, by decide +kernel⟩,
  ⟨1, 0, .imm 22, tCore 1 (0) (fun c => c) (tUp), _, ⟨by decide +kernel, by decide +kernel, by decide +kernel, by decide +kernel, by decide +kernel⟩, rfl, by decide +kernel⟩,
  ⟨1, 0, .imm 23, tCore 1 (0) (fun c => c) (tUp), _, ⟨by decide +kernel, by decide +kernel, by decide +kernel, by decide +kernel, by decide +kernel⟩, rfl, by decide +kernel⟩,
  ⟨1, 0, .imm 24, tCore 1 0 (fun c => c) (tUp), _, ⟨by decide +kernel, by decide +kernel, by decide +kernel, by decide +kernel, by decide +kernel⟩, rfl, by decide +kernel, by decide +kernel⟩,
  ⟨1, 0, .imm 5, tCore 1 (0) (fun c => c) (tUp), ⟨by decide +kernel, by decide +kernel, by decide +kernel, by decide +kernel, by decide +kernel⟩, by decide +kernel, by decide +kernel, by decide +kernel⟩,
  ⟨1, 0, .imm 5, tCore 1 (0) (fun c => { c with faultVector := some 0 }) (tUp), ⟨by decide +kernel, by decide +kernel, by decide +kernel, by decide +kernel, by decide +kernel⟩, by decide +kernel, by decide +kernel⟩,
  ⟨1, 0, .imm 6, tCore 1 (0) (fun c => c) (tUp), ⟨by decide +kernel, by decide +kernel, by decide +kernel, by decide +kernel, by decide +kernel⟩, by decide +kernel⟩,
  ⟨1, 0, .imm 7, tCore 1 (0) (fun c => { c with state := .faultMode, ops := { c.ops with csrData := 1 } }) (tUp), ⟨by decide +kernel, by decide +kernel, by decide +kernel, by decide +kernel, by decide +kernel⟩, by decide +kernel, by decide +kernel, by decide +kernel, by decide +kernel⟩,
  ⟨1, 0, .imm 7, tCore 1 (0) (fun c => c) (tUp), ⟨by decide +kernel, by decide +kernel, by decide +kernel, by decide +kernel, by decide +kernel⟩, by decide +kernel, by decide +kernel⟩,
  ⟨1, 0, .imm 8, tCore 1 (0) (fun c => c) (tUp), _, ⟨by decide +kernel, by decide +kernel, by decide +kernel, by decide +kernel, by decide +kernel⟩, rfl, by decide +kernel⟩⟩

/-- The premises of LoadsAndStoresOfACore can be met. -/
theorem witness_LoadsAndStoresOfACore :
  (∃ (k : CoreIx) (g : BitVec 4) (src : MoveSrc) (s : State) (u : State) (tg : Bool) (v : W32) (a : Nat), Issued k g 0x3A src s ∧ tg = runsTagged s k ∧ v = moveValue s k src ∧ u = setCore k (fun c => (readSource c src).2) s ∧ ((tg = true → tagOf s.cores[k].ops.lsuBase = 1 ∧ tagOf v = 0)) ∧ a = effAddr tg s.cores[k].ops.lsuBase v ∧ accessTrap s.cores[k] k tg 0x3A 4 a = none) ∧
  (∃ (k : CoreIx) (g : BitVec 4) (src : MoveSrc) (s : State) (u : State) (tg : Bool) (v : W32) (a : Nat), Issued k g 0x3C src s ∧ tg = runsTagged s k ∧ v = moveValue s k src ∧ u = setCore k (fun c => (readSource c src).2) s ∧ ((tg = true → tagOf s.cores[k].ops.lsuBase = 1 ∧ tagOf v = 0)) ∧ a = effAddr tg s.cores[k].ops.lsuBase v ∧ accessTrap s.cores[k] k tg 0x3C 1 a = none) ∧
  (∃ (k : CoreIx) (g : BitVec 4) (src : MoveSrc) (s : State) (u : State) (tg : Bool) (v : W32) (a : Nat), Issued k g 0x3D src s ∧ tg = runsTagged s k ∧ v = moveValue s k src ∧ u = setCore k (fun c => (readSource c src).2) s ∧ ((tg = true → tagOf s.cores[k].ops.lsuBase = 1 ∧ tagOf v = 0)) ∧ a = effAddr tg s.cores[k].ops.lsuBase v ∧ accessTrap s.cores[k] k tg 0x3D 1 a = none) ∧
  (∃ (k : CoreIx) (g : BitVec 4) (src : MoveSrc) (s : State) (u : State) (tg : Bool) (v : W32) (a : Nat), Issued k g 0x3E src s ∧ tg = runsTagged s k ∧ v = moveValue s k src ∧ u = setCore k (fun c => (readSource c src).2) s ∧ ((tg = true → tagOf s.cores[k].ops.lsuBase = 1 ∧ tagOf v = 0)) ∧ a = effAddr tg s.cores[k].ops.lsuBase v ∧ accessTrap s.cores[k] k tg 0x3E 2 a = none) ∧
  (∃ (k : CoreIx) (g : BitVec 4) (src : MoveSrc) (s : State) (u : State) (tg : Bool) (v : W32) (a : Nat), Issued k g 0x3F src s ∧ tg = runsTagged s k ∧ v = moveValue s k src ∧ u = setCore k (fun c => (readSource c src).2) s ∧ ((tg = true → tagOf s.cores[k].ops.lsuBase = 1 ∧ tagOf v = 0)) ∧ a = effAddr tg s.cores[k].ops.lsuBase v ∧ accessTrap s.cores[k] k tg 0x3F 2 a = none) ∧
  (∃ (k : CoreIx) (g : BitVec 4) (src : MoveSrc) (s : State) (u : State) (tg : Bool) (v : W32) (a : Nat), Issued k g 0x3B src s ∧ tg = runsTagged s k ∧ v = moveValue s k src ∧ u = setCore k (fun c => (readSource c src).2) s ∧ ((tg = true → tagOf s.cores[k].ops.lsuBase = 1 ∧ tagOf v = 0)) ∧ a = effAddr tg s.cores[k].ops.lsuBase v ∧ accessTrap s.cores[k] k tg 0x3B 4 a = none) ∧
  (∃ (k : CoreIx) (g : BitVec 4) (src : MoveSrc) (s : State) (u : State) (tg : Bool) (v : W32) (a : Nat), Issued k g 0x40 src s ∧ tg = runsTagged s k ∧ v = moveValue s k src ∧ u = setCore k (fun c => (readSource c src).2) s ∧ ((tg = true → tagOf s.cores[k].ops.lsuBase = 1 ∧ tagOf v = 0)) ∧ a = effAddr tg s.cores[k].ops.lsuBase v ∧ accessTrap s.cores[k] k tg 0x40 1 a = none) ∧
  (∃ (k : CoreIx) (g : BitVec 4) (src : MoveSrc) (s : State) (u : State) (tg : Bool) (v : W32) (a : Nat), Issued k g 0x41 src s ∧ tg = runsTagged s k ∧ v = moveValue s k src ∧ u = setCore k (fun c => (readSource c src).2) s ∧ ((tg = true → tagOf s.cores[k].ops.lsuBase = 1 ∧ tagOf v = 0)) ∧ a = effAddr tg s.cores[k].ops.lsuBase v ∧ accessTrap s.cores[k] k tg 0x41 2 a = none) ∧
  (∃ (k : CoreIx) (g : BitVec 4) (src : MoveSrc) (s : State) (u : State) (tg : Bool) (v : W32) (a : Nat), Issued k g 0x42 src s ∧ tg = runsTagged s k ∧ v = moveValue s k src ∧ u = setCore k (fun c => (readSource c src).2) s ∧ ((tg = true → tagOf s.cores[k].ops.lsuBase = 1 ∧ tagOf v = 0)) ∧ a = effAddr tg s.cores[k].ops.lsuBase v) ∧
  (∃ (k : CoreIx) (a : Nat) (n : Nat) (s : State), regionOf k a = some .data) ∧
  (∃ (k : CoreIx) (a : Nat) (n : Nat) (s : State), regionOf k a = some .shared) ∧
  (∃ (k : CoreIx) (a : Nat) (n : Nat) (s : State), regionOf k a = some .exchange) :=
  ⟨⟨1, 0, .imm 4, tCore 1 (0) (fun c => c) (tUp), _, _, _, _, ⟨by decide +kernel, by decide +kernel, by decide +kernel, by decide +kernel, by decide +kernel⟩, rfl, rfl, rfl, by decide +kernel, rfl, by decide +kernel⟩,
  ⟨1, 0, .imm 4, tCore 1 (0) (fun c => { c with codeTagged := Vector.replicate 64 false, dataTagged := Vector.replicate 32 false, ops := { c.ops with lsuBase := 0x1000 } }) (tUp), _, _, _, _, ⟨by decide +kernel, by decide +kernel, by decide +kernel, by decide +kernel, by decide +kernel⟩, rfl, rfl, rfl, by decide +kernel, rfl, by decide +kernel⟩,
  ⟨1, 0, .imm 4, tCore 1 (0) (fun c => { c with codeTagged := Vector.replicate 64 false, dataTagged := Vector.replicate 32 false, ops := { c.ops with lsuBase := 0x1000 } }) (tUp), _, _, _, _, ⟨by decide +kernel, by decide +kernel, by decide +kernel, by decide +kernel, by decide +kernel⟩, rfl, rfl, rfl, by decide +kernel, rfl, by decide +kernel⟩,
  ⟨1, 0, .imm 4, tCore 1 (0) (fun c => { c with codeTagged := Vector.replicate 64 false, dataTagged := Vector.replicate 32 false, ops := { c.ops with lsuBase := 0x1000 } }) (tUp), _, _, _, _, ⟨by decide +kernel, by decide +kernel, by decide +kernel, by decide +kernel, by decide +kernel⟩, rfl, rfl, rfl, by decide +kernel, rfl, by decide +kernel⟩,
  ⟨1, 0, .imm 4, tCore 1 (0) (fun c => { c with codeTagged := Vector.replicate 64 false, dataTagged := Vector.replicate 32 false, ops := { c.ops with lsuBase := 0x1000 } }) (tUp), _, _, _, _, ⟨by decide +kernel, by decide +kernel, by decide +kernel, by decide +kernel, by decide +kernel⟩, rfl, rfl, rfl, by decide +kernel, rfl, by decide +kernel⟩,
  ⟨1, 0, .imm 4, tCore 1 (0) (fun c => c) (tUp), _, _, _, _, ⟨by decide +kernel, by decide +kernel, by decide +kernel, by decide +kernel, by decide +kernel⟩, rfl, rfl, rfl, by decide +kernel, rfl, by decide +kernel⟩,
  ⟨1, 0, .imm 4, tCore 1 (0) (fun c => { c with codeTagged := Vector.replicate 64 false, dataTagged := Vector.replicate 32 false, ops := { c.ops with lsuBase := 0x1000 } }) (tUp), _, _, _, _, ⟨by decide +kernel, by decide +kernel, by decide +kernel, by decide +kernel, by decide +kernel⟩, rfl, rfl, rfl, by decide +kernel, rfl, by decide +kernel⟩,
  ⟨1, 0, .imm 4, tCore 1 (0) (fun c => { c with codeTagged := Vector.replicate 64 false, dataTagged := Vector.replicate 32 false, ops := { c.ops with lsuBase := 0x1000 } }) (tUp), _, _, _, _, ⟨by decide +kernel, by decide +kernel, by decide +kernel, by decide +kernel, by decide +kernel⟩, rfl, rfl, rfl, by decide +kernel, rfl, by decide +kernel⟩,
  ⟨1, 0, .imm 4, tCore 1 (0) (fun c => c) (tUp), _, _, _, _, ⟨by decide +kernel, by decide +kernel, by decide +kernel, by decide +kernel, by decide +kernel⟩, rfl, rfl, rfl, by decide +kernel, rfl⟩,
  ⟨2, 0x1FFFF, 1, tUp, by decide +kernel⟩,
  ⟨1, 0x2FFFFF, 1, tUp, by decide +kernel⟩,
  ⟨2, 0x30FFFF, 1, tUp, by decide +kernel⟩⟩

/-- The premises of MailboxUnitOfACore can be met. -/
theorem witness_MailboxUnitOfACore :
  (∃ (k : CoreIx) (g : BitVec 4) (src : MoveSrc) (s : State) (u : State) (tg : Bool) (v : W32), Issued k g 0x64 src s ∧ tg = runsTagged s k ∧ v = moveValue s k src ∧ u = setCore k (fun c => (readSource c src).2) s ∧ ((k = 2 → tg = true))) ∧
  (∃ (k : CoreIx) (s : State) (n : RingIx) (f : Fetched), s.cores[k].mbx = .receiving ∧ issues s k = true ∧ k ≠ 2 ∧ firmwareRuns s = true ∧ nextRouted s k = some (n, f)) ∧
  (∃ (s : State) (n : RingIx) (f : Fetched) (r : List (RingIx × Fetched)), s.cores[(2 : CoreIx)].mbx = .receiving ∧ issues s 2 = true ∧ s.cores[(2 : CoreIx)].routed = (n, f) :: r) ∧
  (∃ (k : CoreIx) (g : BitVec 4) (src : MoveSrc) (s : State) (u : State) (tg : Bool) (v : W32) (h : CmdHandle), Issued k g 0x65 src s ∧ tg = runsTagged s k ∧ v = moveValue s k src ∧ u = setCore k (fun c => (readSource c src).2) s ∧ ((k = 2 → tg = true)) ∧ ((tg = true → tagOf s.cores[k].ops.mbxH = 3)) ∧ ((tg = true → tagOf v = 0)) ∧ handleOf s.cores[k] s.cores[k].ops.mbxH = some h) ∧
  (∃ (k : CoreIx) (g : BitVec 4) (src : MoveSrc) (s : State) (u : State) (tg : Bool) (v : W32) (x : Submission) (e : Entry), Issued k g 0x65 src s ∧ tg = runsTagged s k ∧ v = moveValue s k src ∧ u = setCore k (fun c => (readSource c src).2) s ∧ ((k = 2 → tg = true)) ∧ ((tg = true → tagOf s.cores[k].ops.mbxH = 3)) ∧ ((tg = true → tagOf v = 0)) ∧ handleOf s.cores[k] s.cores[k].ops.mbxH = none ∧ submissionOf s.cores[k] s.cores[k].ops.mbxH = some x ∧ x.done = some e) ∧
  (∃ (bs : List Byte) (o : Nat), o + 2 ≤ bs.length ∧ o % 2 = 0) ∧
  (∃ (bs : List Byte) (o : Int), ((o < 0 ∨ (bs.length : Int) < o + 2 ∨ o % 2 ≠ 0))) ∧
  (∃ (k : CoreIx) (g : BitVec 4) (src : MoveSrc) (s : State) (u : State) (tg : Bool) (v : W32) (h : CmdHandle), Issued k g 0x66 src s ∧ tg = runsTagged s k ∧ v = moveValue s k src ∧ u = setCore k (fun c => (readSource c src).2) s ∧ ((k = 2 → tg = true)) ∧ ((tg = true → tagOf s.cores[k].ops.mbxH = 3)) ∧ ((tg = true → (tagOf s.cores[k].ops.mbxResult = 0 ∨ tagOf s.cores[k].ops.mbxResult = 4) ∧ tagOf s.cores[k].ops.mbxReshi = 0 ∧ tagOf s.cores[k].ops.mbxDetail = 0 ∧ tagOf v = 0)) ∧ ((k = 2 → forbiddenStatus v = false)) ∧ handleOf s.cores[k] s.cores[k].ops.mbxH = some h) ∧
  (∃ (k : CoreIx) (v : W32) (o : Operands) (r : Reply), r = mbxReply k v o) ∧
  (∃ (k : CoreIx) (v : W32) (o : Operands) (r : Reply), r = mbxReply k v o ∧ k = 2) ∧
  (∃ (k : CoreIx) (v : W32) (o : Operands) (r : Reply), r = mbxReply k v o ∧ k ≠ 2) ∧
  (∃ (k : CoreIx) (g : BitVec 4) (src : MoveSrc) (s : State) (u : State) (tg : Bool) (v : W32) (h : CmdHandle) (a : Nat), Issued k g 0x67 src s ∧ tg = runsTagged s k ∧ v = moveValue s k src ∧ u = setCore k (fun c => (readSource c src).2) s ∧ ((k = 2 → tg = true)) ∧ ((tg = true → tagOf s.cores[k].ops.mbxH = 3)) ∧ ((tg = true → tagOf v = 1)) ∧ a = unsignedIn tg v ∧ a + 64 ≤ 0x20000 ∧ a % 64 = 0 ∧ handleOf s.cores[k] s.cores[k].ops.mbxH = some h) ∧
  (∃ (k : CoreIx) (h : CmdHandle) (d : Descriptor) (s : State) (x : Submission), x = { ref := BitVec.ofNat 29 s.cores[k].nextRef, parent := h.ref, ring := h.ring, id := s.nextId, done := none } ∧ ((k = 2 → maySubmit d.opcode = true ∧ (s.cores[k].subs.filter (fun y => decide (y.parent = h.ref) && y.done.isNone)).length < 16))) ∧
  (∃ (h : CmdHandle) (d : Descriptor) (s : State), maySubmit d.opcode = false) ∧
  (∃ (k : CoreIx) (g : BitVec 4) (src : MoveSrc) (s : State) (u : State) (tg : Bool) (v : W32) (x : Submission), Issued k g 0x68 src s ∧ tg = runsTagged s k ∧ v = moveValue s k src ∧ u = setCore k (fun c => (readSource c src).2) s ∧ ((k = 2 → tg = true)) ∧ ((tg = true → tagOf v = 3)) ∧ submissionOf s.cores[k] v = some x) ∧
  (∃ (k : CoreIx) (s : State) (ref : BitVec 29) (x : Submission) (e : Entry), s.cores[k].mbx = .waiting ref ∧ issues s k = true ∧ s.cores[k].subs.find? (fun x => decide (x.ref = ref)) = some x ∧ x.done = some e) ∧
  (∃ (k : CoreIx) (g : BitVec 4) (src : MoveSrc) (s : State) (u : State) (tg : Bool) (v : W32), Issued k g 0x69 src s ∧ tg = runsTagged s k ∧ v = moveValue s k src ∧ u = setCore k (fun c => (readSource c src).2) s ∧ ((tg = true → tagOf s.cores[k].ops.mbxDetail = 0 ∧ tagOf v = 0))) ∧
  (∃ (k : CoreIx) (g : BitVec 4) (src : MoveSrc) (s : State) (u : State) (tg : Bool) (v : W32) (n : RingIx) (f : Fetched), Issued k g 0x6A src s ∧ tg = runsTagged s k ∧ v = moveValue s k src ∧ u = setCore k (fun c => (readSource c src).2) s ∧ ((tg = true → tagOf v = 0)) ∧ unsignedIn tg v = n.val ∧ nextFor (fun _ => true) n s = some f) ∧
  (∃ (k : CoreIx) (g : BitVec 4) (src : MoveSrc) (s : State) (u : State) (tg : Bool) (v : W32) (n : RingIx), Issued k g 0x6A src s ∧ tg = runsTagged s k ∧ v = moveValue s k src ∧ u = setCore k (fun c => (readSource c src).2) s ∧ ((tg = true → tagOf v = 0)) ∧ unsignedIn tg v = n.val ∧ nextFor (fun _ => true) n s = none) :=
  ⟨⟨1, 0, .imm 0, tCore 1 (0) (fun c => c) (tUp), _, _, _, ⟨by decide +kernel, by decide +kernel, by decide +kernel, by decide +kernel, by decide +kernel⟩, rfl, rfl, rfl, by decide +kernel⟩,
  ⟨0, tAsk opIdentify [] (tCore 0 (0) (fun c => { c with mbx := .receiving }) (tUp)), 1, tCmd opIdentify [], by decide +kernel, by decide +kernel, by decide +kernel, by decide +kernel, by decide +kernel⟩,
  ⟨tCore 2 (0) (fun c => { c with state := .running, mbx := .receiving, routed := [(1, tCmd opTree [])] }) (tUp), 1, tCmd opTree [], [], by decide +kernel, by decide +kernel, by decide +kernel⟩,
  ⟨1, 0, .imm 62, tCore 1 (0) (fun c => { c with handles := [⟨5, 1, tCmd opIdentify []⟩] }) (tUp), _, _, _, ⟨5, 1, tCmd opIdentify []⟩, ⟨by decide +kernel, by decide +kernel, by decide +kernel, by decide +kernel, by decide +kernel⟩, rfl, rfl, rfl, by decide +kernel, by decide +kernel, by decide +kernel, by decide +kernel⟩,
  ⟨1, 0, .imm 8, tCore 1 (0) (fun c => { c with handles := [⟨5, 1, tCmd opIdentify []⟩], subs := [⟨6, 5, 1, 9, some tEntry⟩], ops := { c.ops with mbxH := mkTagged 3 6 } }) (tUp), _, _, _, ⟨6, 5, 1, 9, some tEntry⟩, tEntry, ⟨by decide +kernel, by decide +kernel, by decide +kernel, by decide +kernel, by decide +kernel⟩, rfl, rfl, rfl, by decide +kernel, by decide +kernel, by decide +kernel, by decide +kernel, by decide +kernel, by decide +kernel⟩,
  ⟨List.replicate 64 0, 62, by decide +kernel, by decide +kernel⟩,
  ⟨List.replicate 64 0, 63, by decide +kernel⟩,
  ⟨1, 0, .imm 0, tCore 1 (0) (fun c => { c with handles := [⟨5, 1, tCmd opIdentify []⟩] }) (tUp), _, _, _, ⟨5, 1, tCmd opIdentify []⟩, ⟨by decide +kernel, by decide +kernel, by decide +kernel, by decide +kernel, by decide +kernel⟩, rfl, rfl, rfl, by decide +kernel, by decide +kernel, by decide +kernel, by decide +kernel, by decide +kernel⟩,
  ⟨1, 0x300, tOps, _, rfl⟩,
  ⟨2, 0x300, tOps, _, rfl, by decide +kernel⟩,
  ⟨1, 0x300, tOps, _, rfl, by decide +kernel⟩,
  ⟨1, 0, .port 0x10, tCore 1 (mkTagged 1 0x1FFC0) (fun c => { c with handles := [⟨5, 1, tCmd opIdentify []⟩] }) (tUp), _, _, _, ⟨5, 1, tCmd opIdentify []⟩, _, ⟨by decide +kernel, by decide +kernel, by decide +kernel, by decide +kernel, by decide +kernel⟩, rfl, rfl, rfl, by decide +kernel, by decide +kernel, by decide +kernel, rfl, by decide +kernel, by decide +kernel, by decide +kernel⟩,
  ⟨2, ⟨5, 1, tCmd opIdentify []⟩, tDesc opMatmul [], tCore 2 (0) (fun c => { c with handles := [⟨5, 1, tCmd opIdentify []⟩] }) (tUp), _, rfl, by decide +kernel⟩,
  ⟨⟨5, 1, tCmd opIdentify []⟩, tDesc opTimeConfig [], tCore 2 (0) (fun c => { c with handles := [⟨5, 1, tCmd opIdentify []⟩] }) (tUp), by decide +kernel⟩,
  ⟨1, 0, .port 0x10, tCore 1 (mkTagged 3 6) (fun c => { c with handles := [⟨5, 1, tCmd opIdentify []⟩], subs := [⟨6, 5, 1, 9, none⟩] }) (tUp), _, _, _, ⟨6, 5, 1, 9, none⟩, ⟨by decide +kernel, by decide +kernel, by decide +kernel, by decide +kernel, by decide +kernel⟩, rfl, rfl, rfl, by decide +kernel, by decide +kernel, by decide +kernel⟩,
  ⟨1, tCore 1 (0) (fun c => { c with handles := [⟨5, 1, tCmd opIdentify []⟩], subs := [⟨6, 5, 1, 9, some tEntry⟩], mbx := .waiting 6 }) (tUp), 6, ⟨6, 5, 1, 9, some tEntry⟩, tEntry, by decide +kernel, by decide +kernel, by decide +kernel, by decide +kernel⟩,
  ⟨1, 0, .imm 7, tCore 1 (0) (fun c => c) (tUp), _, _, _, ⟨by decide +kernel, by decide +kernel, by decide +kernel, by decide +kernel, by decide +kernel⟩, rfl, rfl, rfl, by decide +kernel⟩,
  ⟨1, 0, .imm 1, tAsk opIdentify [] (tCore 1 (0) (fun c => c) (tUp)), _, _, _, 1, (tCmd opIdentify [] : Fetched), ⟨by decide +kernel, by decide +kernel, by decide +kernel, by decide +kernel, by decide +kernel⟩, rfl, rfl, rfl, by decide +kernel, by decide +kernel, by decide +kernel⟩,
  ⟨1, 0, .imm 1, tCore 1 (0) (fun c => c) (tUp), _, _, _, 1, ⟨by decide +kernel, by decide +kernel, by decide +kernel, by decide +kernel, by decide +kernel⟩, rfl, rfl, rfl, by decide +kernel, by decide +kernel, by decide +kernel⟩⟩

/-- The premises of TransferUnitOfACore can be met. -/
theorem witness_TransferUnitOfACore :
  (∃ (k : CoreIx) (g : BitVec 4) (src : MoveSrc) (s : State) (u : State) (tg : Bool) (v : W32) (a : Nat) (n : Nat), Issued k g 0x76 src s ∧ tg = runsTagged s k ∧ v = moveValue s k src ∧ u = setCore k (fun c => (readSource c src).2) s ∧ ((tg = true → tagOf s.cores[k].ops.xfrLocal = 1)) ∧ a = xaddr tg s.cores[k].ops.xfrLocal ∧ n = xaddr tg s.cores[k].ops.xfrLen ∧ 4 ≤ n ∧ n ≤ 65536 ∧ n % 4 = 0 ∧ localRange k a n = true ∧ farBad s (farAddr s.cores[k].ops) n = false) ∧
  (∃ (k : CoreIx) (g : BitVec 4) (src : MoveSrc) (s : State) (u : State) (tg : Bool) (v : W32) (a : Nat) (n : Nat), Issued k g 0x76 src s ∧ tg = runsTagged s k ∧ v = moveValue s k src ∧ u = setCore k (fun c => (readSource c src).2) s ∧ ((tg = true → tagOf s.cores[k].ops.xfrLocal = 1)) ∧ a = xaddr tg s.cores[k].ops.xfrLocal ∧ n = xaddr tg s.cores[k].ops.xfrLen ∧ ((n < 4 ∨ 65536 < n ∨ n % 4 ≠ 0 ∨ localRange k a n = false ∨ farBad s (farAddr s.cores[k].ops) n = true))) ∧
  (∃ (k : CoreIx) (g : BitVec 4) (src : MoveSrc) (s : State) (u : State) (tg : Bool) (v : W32) (a : Nat) (n : Nat), Issued k g 0x77 src s ∧ tg = runsTagged s k ∧ v = moveValue s k src ∧ u = setCore k (fun c => (readSource c src).2) s ∧ ((tg = true → tagOf s.cores[k].ops.xfrLocal = 1)) ∧ a = xaddr tg s.cores[k].ops.xfrLocal ∧ n = xaddr tg s.cores[k].ops.xfrLen ∧ 4 ≤ n ∧ n ≤ 65536 ∧ n % 4 = 0 ∧ localRange k a n = true ∧ farBad s (farAddr s.cores[k].ops) n = false) ∧
  (∃ (k : CoreIx) (g : BitVec 4) (src : MoveSrc) (s : State) (u : State) (tg : Bool) (v : W32) (a : Nat) (n : Nat), Issued k g 0x77 src s ∧ tg = runsTagged s k ∧ v = moveValue s k src ∧ u = setCore k (fun c => (readSource c src).2) s ∧ ((tg = true → tagOf s.cores[k].ops.xfrLocal = 1)) ∧ a = xaddr tg s.cores[k].ops.xfrLocal ∧ n = xaddr tg s.cores[k].ops.xfrLen ∧ ((n < 4 ∨ 65536 < n ∨ n % 4 ≠ 0 ∨ localRange k a n = false ∨ farBad s (farAddr s.cores[k].ops) n = true))) ∧
  (∃ (k : CoreIx) (s : State) (x : Transfer), s.cores[k].xfr = some x) ∧
  (∃ (k : CoreIx) (s : State) (x : Transfer), s.cores[k].xfr = some x ∧ x.write = true) ∧
  (∃ (k : CoreIx) (s : State) (x : Transfer) (e : _), s.cores[k].xfr = some x ∧ x.write = false ∧ readFails s x.far.toNat x.len = some e) ∧
  (∃ (k : CoreIx) (s : State) (x : Transfer), s.cores[k].xfr = some x ∧ x.write = false ∧ readFails s x.far.toNat x.len = none) :=
  ⟨⟨1, 0, .imm 0, tCore 1 (0) (fun c => c) (tUp), _, _, _, _, _, ⟨by decide +kernel, by decide +kernel, by decide +kernel, by decide +kernel, by decide +kernel⟩, rfl, rfl, rfl, by decide +kernel, rfl, rfl, by decide +kernel, by decide +kernel, by decide +kernel, by decide +kernel, by decide +kernel⟩,
  ⟨1, 0, .imm 0, tCore 1 (0) (fun c => { c with ops := { c.ops with xfrLen := 65540 } }) (tUp), _, _, _, _, _, ⟨by decide +kernel, by decide +kernel, by decide +kernel, by decide +kernel, by decide +kernel⟩, rfl, rfl, rfl, by decide +kernel, rfl, rfl, by decide +kernel⟩,
  ⟨1, 0, .imm 0, tCore 1 (0) (fun c => c) (tUp), _, _, _, _, _, ⟨by decide +kernel, by decide +kernel, by decide +kernel, by decide +kernel, by decide +kernel⟩, rfl, rfl, rfl, by decide +kernel, rfl, rfl, by decide +kernel, by decide +kernel, by decide +kernel, by decide +kernel, by decide +kernel⟩,
  ⟨1, 0, .imm 0, tCore 1 (0) (fun c => { c with ops := { c.ops with xfrLen := 65540 } }) (tUp), _, _, _, _, _, ⟨by decide +kernel, by decide +kernel, by decide +kernel, by decide +kernel, by decide +kernel⟩, rfl, rfl, rfl, by decide +kernel, rfl, rfl, by decide +kernel⟩,
  ⟨1, tCore 1 (0) (fun c => { c with xfr := some ⟨false, 0x1000, 0x1000, 64, false⟩ }) (tUp), ⟨false, 0x1000, 0x1000, 64, false⟩, by decide +kernel⟩,
  ⟨1, tCore 1 (0) (fun c => { c with xfr := some ⟨true, 0x1000, 0x1000, 64, false⟩ }) (tUp), ⟨true, 0x1000, 0x1000, 64, false⟩, by decide +kernel, by decide +kernel⟩,
  ⟨1, tCore 1 (0) (fun c => { c with xfr := some ⟨false, 0x1000, (2 ^ 63 + 4096 : W64), 64, false⟩ }) (tEcc), ⟨false, 0x1000, 2 ^ 63 + 4096, 64, false⟩, codeIntMemoryEcc, by decide +kernel, by decide +kernel, by decide +kernel⟩,
  ⟨1, tCore 1 (0) (fun c => { c with xfr := some ⟨false, 0x1000, 0x1000, 64, false⟩ }) (tUp), ⟨false, 0x1000, 0x1000, 64, false⟩, by decide +kernel, by decide +kernel, by decide +kernel⟩⟩

/-- The premises of FlashUnitOfACore can be met. -/
theorem witness_FlashUnitOfACore :
  (∃ (k : CoreIx) (g : BitVec 4) (src : MoveSrc) (s : State) (u : State) (tg : Bool) (v : W32) (a : Nat) (n : Nat) (arr : FlashArray) (f : Nat) (e : Nat), Issued k g 0x7D src s ∧ tg = runsTagged s k ∧ v = moveValue s k src ∧ u = setCore k (fun c => (readSource c src).2) s ∧ ((tg = true → tagOf s.cores[k].ops.flsLocal = 1)) ∧ a = xaddr tg s.cores[k].ops.flsLocal ∧ n = xaddr tg s.cores[k].ops.flsLen ∧ flsTarget s.cores[k] = some (arr, f, e) ∧ n ≠ 0 ∧ f + n ≤ e ∧ localRange k a n = true ∧ ((arr = .archive → s.flash.archDead = false))) ∧
  (∃ (k : CoreIx) (g : BitVec 4) (src : MoveSrc) (s : State) (u : State) (tg : Bool) (v : W32) (a : Nat) (n : Nat), Issued k g 0x7D src s ∧ tg = runsTagged s k ∧ v = moveValue s k src ∧ u = setCore k (fun c => (readSource c src).2) s ∧ ((tg = true → tagOf s.cores[k].ops.flsLocal = 1)) ∧ a = xaddr tg s.cores[k].ops.flsLocal ∧ n = xaddr tg s.cores[k].ops.flsLen ∧ ((flsTarget s.cores[k] = none ∨ n = 0 ∨ localRange k a n = false))) ∧
  (∃ (k : CoreIx) (g : BitVec 4) (src : MoveSrc) (s : State) (u : State) (tg : Bool) (v : W32) (a : Nat) (n : Nat) (arr : FlashArray) (f : Nat) (e : Nat), Issued k g 0x7E src s ∧ tg = runsTagged s k ∧ v = moveValue s k src ∧ u = setCore k (fun c => (readSource c src).2) s ∧ ((tg = true → tagOf s.cores[k].ops.flsLocal = 1)) ∧ a = xaddr tg s.cores[k].ops.flsLocal ∧ n = xaddr tg s.cores[k].ops.flsLen ∧ flsTarget s.cores[k] = some (arr, f, e) ∧ 4 ≤ n ∧ f % max (programUnit arr f) 1 + n ≤ programUnit arr f ∧ f + n ≤ e ∧ localRange k a n = true ∧ flsRefused s k arr f n = none) ∧
  (∃ (k : CoreIx) (g : BitVec 4) (src : MoveSrc) (s : State) (u : State) (tg : Bool) (v : W32) (n : Nat) (arr : FlashArray) (f : Nat) (e : Nat) (x : EraseUnit), Issued k g 0x7F src s ∧ tg = runsTagged s k ∧ v = moveValue s k src ∧ u = setCore k (fun c => (readSource c src).2) s ∧ n = xaddr tg s.cores[k].ops.flsLen ∧ flsTarget s.cores[k] = some (arr, f, e) ∧ flsUnit arr f n = some x ∧ f + unitSize x ≤ e ∧ flsRefused s k arr f (unitSize x) = none) ∧
  (∃ (k : CoreIx) (g : BitVec 4) (src : MoveSrc) (s : State) (u : State) (tg : Bool) (v : W32) (n : Nat) (arr : FlashArray) (f : Nat) (e : Nat) (x : EraseUnit), Issued k g 0x80 src s ∧ tg = runsTagged s k ∧ v = moveValue s k src ∧ u = setCore k (fun c => (readSource c src).2) s ∧ n = xaddr tg s.cores[k].ops.flsLen ∧ flsTarget s.cores[k] = some (arr, f, e) ∧ flsUnit arr f n = some x ∧ f + unitSize x ≤ e ∧ ((arr = .archive → s.flash.archDead = false))) ∧
  (∃ (k : CoreIx) (g : BitVec 4) (src : MoveSrc) (s : State) (u : State) (tg : Bool) (v : W32) (a : Nat) (n : Nat) (arr : FlashArray) (f : Nat) (e : Nat) (c0 : W16), Issued k g 0x7E src s ∧ tg = runsTagged s k ∧ v = moveValue s k src ∧ u = setCore k (fun c => (readSource c src).2) s ∧ ((tg = true → tagOf s.cores[k].ops.flsLocal = 1)) ∧ a = xaddr tg s.cores[k].ops.flsLocal ∧ n = xaddr tg s.cores[k].ops.flsLen ∧ flsTarget s.cores[k] = some (arr, f, e) ∧ 4 ≤ n ∧ f % max (programUnit arr f) 1 + n ≤ programUnit arr f ∧ f + n ≤ e ∧ localRange k a n = true ∧ flsRefused s k arr f n = some c0) ∧
  (∃ (k : CoreIx) (g : BitVec 4) (src : MoveSrc) (s : State) (u : State) (tg : Bool) (v : W32) (n : Nat) (arr : FlashArray) (f : Nat) (e : Nat) (x : EraseUnit) (c0 : W16), Issued k g 0x7F src s ∧ tg = runsTagged s k ∧ v = moveValue s k src ∧ u = setCore k (fun c => (readSource c src).2) s ∧ n = xaddr tg s.cores[k].ops.flsLen ∧ flsTarget s.cores[k] = some (arr, f, e) ∧ flsUnit arr f n = some x ∧ f + unitSize x ≤ e ∧ flsRefused s k arr f (unitSize x) = some c0) ∧
  (∃ (k : CoreIx) (g : BitVec 4) (src : MoveSrc) (s : State) (u : State) (tg : Bool) (v : W32), Issued k g 0x81 src s ∧ tg = runsTagged s k ∧ v = moveValue s k src ∧ u = setCore k (fun c => (readSource c src).2) s ∧ s.cores[k].fls = true) ∧
  (∃ (k : CoreIx) (g : BitVec 4) (src : MoveSrc) (s : State) (u : State) (tg : Bool) (v : W32), Issued k g 0x81 src s ∧ tg = runsTagged s k ∧ v = moveValue s k src ∧ u = setCore k (fun c => (readSource c src).2) s ∧ s.cores[k].fls = false) ∧
  (∃ (s : State) (k : CoreIx) (arr : FlashArray) (a : Nat) (n : Nat), flsProtected arr a n = true) ∧
  (∃ (s : State) (k : CoreIx) (arr : FlashArray) (a : Nat) (n : Nat), flsProtected arr a n = false ∧ flsSameBank s k arr a = true) ∧
  (∃ (s : State) (k : CoreIx) (arr : FlashArray) (a : Nat) (n : Nat), flsProtected arr a n = false ∧ flsSameBank s k arr a = false ∧ writeTempOk s (decide (arr ≠ .archive)) 0 = false) :=
  ⟨⟨1, 0, .imm 0, tCore 1 (0) (fun c => c) (tUp), _, _, _, _, _, .archive, 0xB00000, 0x4000000, ⟨by decide +kernel, by decide +kernel, by decide +kernel, by decide +kernel, by decide +kernel⟩, rfl, rfl, rfl, by decide +kernel, rfl, rfl, by decide +kernel, by decide +kernel, by decide +kernel, by decide +kernel, by decide +kernel⟩,
  ⟨1, 0, .imm 0, tCore 1 (0) (fun c => { c with ops := { c.ops with flsArray := 5 } }) (tUp), _, _, _, _, _, ⟨by decide +kernel, by decide +kernel, by decide +kernel, by decide +kernel, by decide +kernel⟩, rfl, rfl, rfl, by decide +kernel, rfl, rfl, by decide +kernel⟩,
  ⟨1, 0, .imm 0, tCore 1 (0) (fun c => { c with ops := { c.ops with flsLen := 256 } }) (tUp), _, _, _, _, _, .archive, 0xB00000, 0x4000000, ⟨by decide +kernel, by decide +kernel, by decide +kernel, by decide +kernel, by decide +kernel⟩, rfl, rfl, rfl, by decide +kernel, rfl, rfl, by decide +kernel, by decide +kernel, by decide +kernel, by decide +kernel, by decide +kernel, by decide +kernel⟩,
  ⟨1, 0, .imm 0, tCore 1 (0) (fun c => c) (tUp), _, _, _, _, .archive, 0xB00000, 0x4000000, .sector4k, ⟨by decide +kernel, by decide +kernel, by decide +kernel, by decide +kernel, by decide +kernel⟩, rfl, rfl, rfl, rfl, by decide +kernel, by decide +kernel, by decide +kernel, by decide +kernel⟩,
  ⟨1, 0, .imm 0, tCore 1 (0) (fun c => c) (tUp), _, _, _, _, .archive, 0xB00000, 0x4000000, .sector4k, ⟨by decide +kernel, by decide +kernel, by decide +kernel, by decide +kernel, by decide +kernel⟩, rfl, rfl, rfl, rfl, by decide +kernel, by decide +kernel, by decide +kernel, by decide +kernel⟩,
  ⟨1, 0, .imm 0, tCore 1 (0) (fun c => { c with ops := { c.ops with flsLen := 256, flsAddrHi := 0 } }) (tUp), _, _, _, _, _, .archive, 0, 0x4000000, codeArgRange, ⟨by decide +kernel, by decide +kernel, by decide +kernel, by decide +kernel, by decide +kernel⟩, rfl, rfl, rfl, by decide +kernel, rfl, rfl, by decide +kernel, by decide +kernel, by decide +kernel, by decide +kernel, by decide +kernel, by decide +kernel⟩,
  ⟨1, 0, .imm 0, tCore 1 (0) (fun c => { c with ops := { c.ops with flsAddrHi := 0 } }) (tUp), _, _, _, _, .archive, 0, 0x4000000, .sector4k, codeArgRange, ⟨by decide +kernel, by decide +kernel, by decide +kernel, by decide +kernel, by decide +kernel⟩, rfl, rfl, rfl, rfl, by decide +kernel, by decide +kernel, by decide +kernel, by decide +kernel⟩,
  ⟨1, 0, .imm 0, tCore 1 (0) (fun c => { c with fls := true }) (tUp), _, _, _, ⟨by decide +kernel, by decide +kernel, by decide +kernel, by decide +kernel, by decide +kernel⟩, rfl, rfl, rfl, by decide +kernel⟩,
  ⟨1, 0, .imm 0, tCore 1 (0) (fun c => c) (tUp), _, _, _, ⟨by decide +kernel, by decide +kernel, by decide +kernel, by decide +kernel, by decide +kernel⟩, rfl, rfl, rfl, by decide +kernel⟩,
  ⟨tUp, 1, .archive, 0xFFFF, 1, by decide +kernel⟩,
  ⟨tCore 1 (0) (fun c => { c with pc := 0x1000000 }) (tUp), 1, .code0, infoBase, 1, by decide +kernel, by decide +kernel⟩,
  ⟨{ tUp with flash := { tUp.flash with boardTemp := -16 } }, 1, .archive, 0x10000, 256, by decide +kernel, by decide +kernel, by decide +kernel⟩⟩

/-- The premises of GuardsStallsAndEarlyTraps can be met. -/
theorem witness_GuardsStallsAndEarlyTraps :
  (∃ (c : Instr) (k : CoreIx) (g : BitVec 4) (dst : Nat) (src : MoveSrc) (s : State), moveOf c = some (k, g, dst, src) ∧ issues s k = false) ∧
  (∃ (c : Instr) (k : CoreIx) (g : BitVec 4) (dst : Nat) (src : MoveSrc) (s : State) (t : XTrap), moveOf c = some (k, g, dst, src) ∧ issues s k = true ∧ staticTrap s k dst src = some t) ∧
  (∃ (c : Instr) (k : CoreIx) (g : BitVec 4) (dst : Nat) (src : MoveSrc) (s : State), moveOf c = some (k, g, dst, src) ∧ issues s k = true ∧ staticTrap s k dst src = none ∧ guardHolds s.cores[k] g = false) ∧
  (∃ (c : Instr) (k : CoreIx) (g : BitVec 4) (dst : Nat) (src : MoveSrc) (s : State) (t : XTrap), moveOf c = some (k, g, dst, src) ∧ issues s k = true ∧ staticTrap s k dst src = none ∧ guardHolds s.cores[k] g = true ∧ guardedTrap s k dst src = some t) ∧
  (∃ (c : Instr) (k : CoreIx) (g : BitVec 4) (dst : Nat) (src : MoveSrc) (s : State) (p : Nat), moveOf c = some (k, g, dst, src) ∧ issues s k = true ∧ staticTrap s k dst src = none ∧ guardHolds s.cores[k] g = true ∧ guardedTrap s k dst src = none ∧ stallPort s k dst src = some p) :=
  ⟨⟨.aluAdd 2 0 (.imm 1), 2, 0, 0x11, .imm 1, tUp, by decide +kernel, by decide +kernel⟩,
  ⟨.aluAdd 1 0 (.port 0x100), 1, 0, 0x11, .port 0x100, tCore 1 (0) (fun c => c) (tUp), (_ : XTrap), by decide +kernel, by decide +kernel, rfl⟩,
  ⟨.aluAdd 1 1 (.imm 1), 1, 1, 0x11, .imm 1, tCore 1 (0) (fun c => c) (tUp), by decide +kernel, by decide +kernel, by decide +kernel, by decide +kernel⟩,
  ⟨.aluAdd 1 0 (.port 0x50), 1, 0, 0x11, .port 0x50, tCore 1 (0) (fun c => c) (tUp), (_ : XTrap), by decide +kernel, by decide +kernel, by decide +kernel, by decide +kernel, rfl⟩,
  ⟨.aluAdd 1 0 (.port 0x60), 1, 0, 0x11, .port 0x60, tCore 1 (0) (fun c => { c with mbx := .receiving }) (tUp), (_ : Nat), by decide +kernel, by decide +kernel, by decide +kernel, by decide +kernel, by decide +kernel, rfl⟩⟩

/-- The premises of BranchInADelaySlotTraps can be met. -/
theorem witness_BranchInADelaySlotTraps :
  (∃ (k : CoreIx) (g : BitVec 4) (src : MoveSrc) (s : State), issues s k = true ∧ fetchOk s k s.cores[k].pc.toNat = true ∧ s.cores[k].branch.isSome = true ∧ illegalPort k 0x48 src = none) ∧
  (∃ (k : CoreIx) (g : BitVec 4) (src : MoveSrc) (s : State), issues s k = true ∧ fetchOk s k s.cores[k].pc.toNat = true ∧ s.cores[k].branch.isSome = true ∧ illegalPort k 0x49 src = none) ∧
  (∃ (k : CoreIx) (g : BitVec 4) (src : MoveSrc) (s : State), issues s k = true ∧ fetchOk s k s.cores[k].pc.toNat = true ∧ s.cores[k].branch.isSome = true ∧ illegalPort k 0x4A src = none) :=
  ⟨⟨1, 0, .port 0x10, tCore 1 (mkTagged 2 0x100) (fun c => { c with branch := some (8, 2) }) (tUp), by decide +kernel, by decide +kernel, by decide +kernel, by decide +kernel⟩,
  ⟨1, 0, .port 0x10, tCore 1 (mkTagged 2 0x100) (fun c => { c with branch := some (8, 2) }) (tUp), by decide +kernel, by decide +kernel, by decide +kernel, by decide +kernel⟩,
  ⟨1, 0, .imm 0, tCore 1 (mkTagged 2 0x100) (fun c => { c with branch := some (8, 2) }) (tUp), by decide +kernel, by decide +kernel, by decide +kernel, by decide +kernel⟩⟩

/-- The premises of ShortImmediatesAndGuardCodes can be met. -/
theorem witness_ShortImmediatesAndGuardCodes :
  (∃ (c : Core) (v : BitVec 19), tagMode c = true) ∧
  (∃ (c : Core) (v : BitVec 19), tagMode c = false) ∧
  (∃ (c : Core) (g : BitVec 4), c.guards.getLsbD 0 = true) ∧
  (∃ (c : Core) (g : BitVec 4), c.guards.getLsbD 0 = true ∧ g = 0) ∧
  (∃ (c : Core) (g : BitVec 4), c.guards.getLsbD 0 = true ∧ g = 8) ∧
  (∃ (c : Core) (g : BitVec 4), c.guards.getLsbD 0 = true ∧ 1 ≤ g.toNat ∧ g.toNat ≤ 7) ∧
  (∃ (c : Core) (g : BitVec 4), c.guards.getLsbD 0 = true ∧ 9 ≤ g.toNat) :=
  ⟨⟨Core.init .running, 0x40000, by decide +kernel⟩,
  ⟨{ Core.init .running with codeTagged := Vector.replicate 64 false }, 0x40000, by decide +kernel⟩,
  ⟨Core.init .running, 5, by decide +kernel⟩,
  ⟨Core.init .running, 0, by decide +kernel, by decide +kernel⟩,
  ⟨Core.init .running, 8, by decide +kernel, by decide +kernel⟩,
  ⟨Core.init .running, 7, by decide +kernel, by decide +kernel, by decide +kernel⟩,
  ⟨Core.init .running, 9, by decide +kernel, by decide +kernel⟩⟩

/-- The premises of TrapsEnterTheFaultHandler can be met. -/
theorem witness_TrapsEnterTheFaultHandler :
  (∃ (k : CoreIx) (t : XTrap) (s : State) (u : State), u = trap k t s ∧ k ≠ 2 ∧ s.cores[k].state = .running) ∧
  (∃ (k : CoreIx) (t : XTrap) (s : State) (u : State), u = trap k t s ∧ k ≠ 2 ∧ s.cores[k].state = .running ∧ (k = 0 ∨ k = 3) ∧ s.cores[k].branch = none) ∧
  (∃ (k : CoreIx) (t : XTrap) (s : State) (u : State) (a : W32) (n : Nat), u = trap k t s ∧ k ≠ 2 ∧ s.cores[k].state = .running ∧ (k = 0 ∨ k = 3) ∧ s.cores[k].branch = some (a, n) ∧ 2 ≤ n) ∧
  (∃ (k : CoreIx) (t : XTrap) (s : State) (u : State) (a : W32) (n : Nat), u = trap k t s ∧ k ≠ 2 ∧ s.cores[k].state = .running ∧ (k = 0 ∨ k = 3) ∧ s.cores[k].branch = some (a, n) ∧ n ≤ 1) ∧
  (∃ (k : CoreIx) (t : XTrap) (s : State) (u : State), u = trap k t s ∧ k ≠ 2 ∧ s.cores[k].state = .running ∧ k = 0) ∧
  (∃ (k : CoreIx) (t : XTrap) (s : State) (u : State), u = trap k t s ∧ k ≠ 2 ∧ s.cores[k].state = .running ∧ k = 3) ∧
  (∃ (k : CoreIx) (t : XTrap) (s : State) (u : State), u = trap k t s ∧ (k = 0 ∨ k = 3) ∧ s.cores[k].state = .faultMode ∧ s.cores[partner k].state = .running) ∧
  (∃ (k : CoreIx) (t : XTrap) (s : State) (u : State), u = trap k t s ∧ (k = 0 ∨ k = 3) ∧ s.cores[k].state = .faultMode ∧ s.cores[partner k].state ≠ .running) ∧
  (∃ (t : XTrap) (s : State) (u : State), u = trap 2 t s) :=
  ⟨⟨1, XTrap.of trapIllegal 0, tUp, _, rfl, by decide +kernel, by decide +kernel⟩,
  ⟨3, XTrap.of trapIllegal 0, tUp, _, rfl, by decide +kernel, by decide +kernel, by decide +kernel, by decide +kernel⟩,
  ⟨3, XTrap.of trapIllegal 0, tCore 3 (0) (fun c => { c with branch := some (8, 2) }) (tUp), _, (8 : W32), (2 : Nat), rfl, by decide +kernel, by decide +kernel, by decide +kernel, by decide +kernel, by decide +kernel⟩,
  ⟨3, XTrap.of trapIllegal 0, tCore 3 (0) (fun c => { c with branch := some (8, 1) }) (tUp), _, (8 : W32), (1 : Nat), rfl, by decide +kernel, by decide +kernel, by decide +kernel, by decide +kernel, by decide +kernel⟩,
  ⟨0, XTrap.of trapIllegal 0, tUp, _, rfl, by decide +kernel, by decide +kernel, by decide +kernel⟩,
  ⟨3, XTrap.of trapIllegal 0, tUp, _, rfl, by decide +kernel, by decide +kernel, by decide +kernel⟩,
  ⟨3, XTrap.of trapIllegal 0, tCore 3 (0) (fun c => { c with state := .faultMode }) (tUp), _, rfl, by decide +kernel, by decide +kernel, by decide +kernel⟩,
  ⟨3, XTrap.of trapIllegal 0, tCore 3 (0) (fun c => { c with state := .faultMode }) (tCore 0 (0) (fun c => { c with state := .restarting }) (tUp)), _, rfl, by decide +kernel, by decide +kernel, by decide +kernel⟩,
  ⟨XTrap.of trapIllegal 0, tUp, _, rfl⟩⟩

/-- The premises of DescriptorsThatAreNotRunOrRefused can be met. -/
theorem witness_DescriptorsThatAreNotRunOrRefused :
  (∃ (c : Instr) (op : Nat) (n : RingIx) (s : State), servedBy c = some (op, n) ∧ (firmwareServes s = false ∨ nextFor (isOp op) n s = none)) ∧
  (∃ (c : Instr) (op : Nat) (n : RingIx) (s : State) (f : Fetched) (i : CmdInfo) (o : Nat), servedBy c = some (op, n) ∧ firmwareServes s = true ∧ nextFor (isOp op) n s = some f ∧ cmdInfo f.desc.opcode = some i ∧ o < 64 ∧ 8 ≤ o ∧ inFields i.fields o = false ∧ f.desc.u8 o ≠ 0) ∧
  (∃ (c : Instr) (op : Nat) (n : RingIx) (s : State) (f : Fetched) (i : CmdInfo) (e : W16), servedBy c = some (op, n) ∧ firmwareServes s = true ∧ nextFor (isOp op) n s = some f ∧ cmdInfo f.desc.opcode = some i ∧ legalityCode i.legal s.tray.powerState (decide (s.twin.role = .standby)) s.tray.debugOn = some e) :=
  ⟨⟨.identify 1, opIdentify, 1, tUp, by decide +kernel, by decide +kernel⟩,
  ⟨.identify 1, opIdentify, 1, tAsk opIdentify [(63,1,1)] tUp, (tCmd opIdentify [(63,1,1)] : Fetched), (tInfo opIdentify : CmdInfo), (63 : Nat), by decide +kernel, by decide +kernel, by decide +kernel, by decide +kernel, by decide +kernel, by decide +kernel, by decide +kernel, by decide +kernel⟩,
  ⟨.matmul 1, opMatmul, 1, tAsk opMatmul [] ({ tUp with tray := { tUp.tray with powerState := .idle } }), (tCmd opMatmul [] : Fetched), (tInfo opMatmul : CmdInfo), (_ : W16), by decide +kernel, by decide +kernel, by decide +kernel, by decide +kernel, rfl⟩⟩

/-- The premises of CompletionsAreWrittenInOrder can be met. -/
theorem witness_CompletionsAreWrittenInOrder :
  (∃ (n : RingIx) (f : Fetched) (r : Reply) (s : State) (t : State) (a : Nat) (x : Nat), s.good ∧ (s.rings[n]).holds f.id = true ∧ submitter n f.id s = none ∧ (s.rings[n]).posts = true ∧ (s.rings[n]).waiting = [] ∧ t = complete n f r s ∧ (s.rings[n]).hasRoom = true ∧ s.host.linkUp = true ∧ a = s.rings[n].cqBase.toNat + 16 * s.rings[n].cqTail.toNat ∧ (x < a ∨ a + 16 ≤ x)) ∧
  (∃ (n : RingIx) (f : Fetched) (r : Reply) (s : State) (t : State) (a : Nat), s.good ∧ (s.rings[n]).holds f.id = true ∧ submitter n f.id s = none ∧ (s.rings[n]).posts = true ∧ (s.rings[n]).waiting = [] ∧ t = complete n f r s ∧ (s.rings[n]).hasRoom = true ∧ s.host.linkUp = true ∧ a = s.rings[n].cqBase.toNat + 16 * s.rings[n].cqTail.toNat ∧ s.rings[n].cqTail.toNat + 1 = 2 * s.rings[n].depth) ∧
  (∃ (n : RingIx) (f : Fetched) (r : Reply) (s : State) (t : State) (a : Nat), s.good ∧ (s.rings[n]).holds f.id = true ∧ submitter n f.id s = none ∧ (s.rings[n]).posts = true ∧ (s.rings[n]).waiting = [] ∧ t = complete n f r s ∧ (s.rings[n]).hasRoom = true ∧ s.host.linkUp = true ∧ a = s.rings[n].cqBase.toNat + 16 * s.rings[n].cqTail.toNat ∧ s.rings[n].cqTail.toNat + 1 ≠ 2 * s.rings[n].depth) ∧
  (∃ (n : RingIx) (f : Fetched) (r : Reply) (s : State) (t : State), s.good ∧ (s.rings[n]).holds f.id = true ∧ submitter n f.id s = none ∧ (s.rings[n]).posts = true ∧ (s.rings[n]).waiting = [] ∧ t = complete n f r s ∧ ((s.rings[n]).hasRoom = false ∨ s.host.linkUp = false)) ∧
  (∃ (n : RingIx) (f : Fetched) (r : Reply) (s : State), (s.rings[n]).holds f.id = false) :=
  ⟨⟨1, tCmd opIdentify [], Reply.ok 0, setRing 1 (fun r => { r with dispatched := [tCmd opIdentify []] }) (tRing 1 [] (tUp)), _, (_ : Nat), (16 : Nat), tGood _ rfl rfl rfl rfl, by decide +kernel, by decide +kernel, by decide +kernel, by decide +kernel, rfl, by decide +kernel, by decide +kernel, rfl, by decide +kernel⟩,
  ⟨1, tCmd opIdentify [], Reply.ok 0, setRing 1 (fun r => { r with dispatched := [tCmd opIdentify []], cqTail := 31, cqHead := 31 }) (tRing 1 [] (tUp)), _, (_ : Nat), tGood _ rfl rfl rfl rfl, by decide +kernel, by decide +kernel, by decide +kernel, by decide +kernel, rfl, by decide +kernel, by decide +kernel, rfl, by decide +kernel⟩,
  ⟨1, tCmd opIdentify [], Reply.ok 0, setRing 1 (fun r => { r with dispatched := [tCmd opIdentify []] }) (tRing 1 [] (tUp)), _, (_ : Nat), tGood _ rfl rfl rfl rfl, by decide +kernel, by decide +kernel, by decide +kernel, by decide +kernel, rfl, by decide +kernel, by decide +kernel, rfl, by decide +kernel⟩,
  ⟨1, tCmd opIdentify [], Reply.ok 0, setRing 1 (fun r => { r with dispatched := [tCmd opIdentify []] }) (tRing 1 [] ({ tUp with host := { tUp.host with linkUp := false } })), _, tGood _ rfl rfl rfl rfl, by decide +kernel, by decide +kernel, by decide +kernel, by decide +kernel, rfl, by decide +kernel⟩,
  ⟨1, tCmd opIdentify [], Reply.ok 0, tUp, by decide +kernel⟩⟩

/-- The premises of StoresOfACoreChangeOnlyTheirBytes can be met, but for that a page of shared RAM is RAW (an opaque
constant), for STB and STH there. -/
theorem witness_StoresOfACoreChangeOnlyTheirBytes :
  (∃ (k : CoreIx) (g : BitVec 4) (src : MoveSrc) (s : State) (t : State) (a : Nat), s.good ∧ Issued k g 0x3B src s ∧ ((runsTagged s k = true → tagOf s.cores[k].ops.lsuBase = 1 ∧ tagOf (moveValue s k src) = 0)) ∧ a = effAddr (runsTagged s k) s.cores[k].ops.lsuBase (moveValue s k src) ∧ accessTrap s.cores[k] k (runsTagged s k) 0x3B 4 a = none ∧ exec (.lsuStw k g src) s = .next t) ∧
  (∃ (k : CoreIx) (g : BitVec 4) (src : MoveSrc) (s : State) (t : State) (a : Nat), s.good ∧ Issued k g 0x3B src s ∧ ((runsTagged s k = true → tagOf s.cores[k].ops.lsuBase = 1 ∧ tagOf (moveValue s k src) = 0)) ∧ a = effAddr (runsTagged s k) s.cores[k].ops.lsuBase (moveValue s k src) ∧ accessTrap s.cores[k] k (runsTagged s k) 0x3B 4 a = none ∧ exec (.lsuStw k g src) s = .next t ∧ regionOf k a = some .data) ∧
  (∃ (k : CoreIx) (g : BitVec 4) (src : MoveSrc) (s : State) (t : State) (a : Nat) (x : Nat), s.good ∧ Issued k g 0x3B src s ∧ ((runsTagged s k = true → tagOf s.cores[k].ops.lsuBase = 1 ∧ tagOf (moveValue s k src) = 0)) ∧ a = effAddr (runsTagged s k) s.cores[k].ops.lsuBase (moveValue s k src) ∧ accessTrap s.cores[k] k (runsTagged s k) 0x3B 4 a = none ∧ exec (.lsuStw k g src) s = .next t ∧ regionOf k a = some .data ∧ (x < a ∨ a + 4 ≤ x)) ∧
  (∃ (k : CoreIx) (g : BitVec 4) (src : MoveSrc) (s : State) (t : State) (a : Nat), s.good ∧ Issued k g 0x3B src s ∧ ((runsTagged s k = true → tagOf s.cores[k].ops.lsuBase = 1 ∧ tagOf (moveValue s k src) = 0)) ∧ a = effAddr (runsTagged s k) s.cores[k].ops.lsuBase (moveValue s k src) ∧ accessTrap s.cores[k] k (runsTagged s k) 0x3B 4 a = none ∧ exec (.lsuStw k g src) s = .next t ∧ regionOf k a = some .shared) ∧
  (∃ (k : CoreIx) (g : BitVec 4) (src : MoveSrc) (s : State) (t : State) (a : Nat) (x : Nat), s.good ∧ Issued k g 0x3B src s ∧ ((runsTagged s k = true → tagOf s.cores[k].ops.lsuBase = 1 ∧ tagOf (moveValue s k src) = 0)) ∧ a = effAddr (runsTagged s k) s.cores[k].ops.lsuBase (moveValue s k src) ∧ accessTrap s.cores[k] k (runsTagged s k) 0x3B 4 a = none ∧ exec (.lsuStw k g src) s = .next t ∧ regionOf k a = some .shared ∧ (x < a - 0x200000 ∨ a - 0x200000 + 4 ≤ x)) ∧
  (∃ (k : CoreIx) (g : BitVec 4) (src : MoveSrc) (s : State) (t : State) (a : Nat), s.good ∧ Issued k g 0x3B src s ∧ ((runsTagged s k = true → tagOf s.cores[k].ops.lsuBase = 1 ∧ tagOf (moveValue s k src) = 0)) ∧ a = effAddr (runsTagged s k) s.cores[k].ops.lsuBase (moveValue s k src) ∧ accessTrap s.cores[k] k (runsTagged s k) 0x3B 4 a = none ∧ exec (.lsuStw k g src) s = .next t ∧ regionOf k a = some .exchange) ∧
  (∃ (k : CoreIx) (g : BitVec 4) (src : MoveSrc) (s : State) (t : State) (a : Nat) (x : Nat), s.good ∧ Issued k g 0x3B src s ∧ ((runsTagged s k = true → tagOf s.cores[k].ops.lsuBase = 1 ∧ tagOf (moveValue s k src) = 0)) ∧ a = effAddr (runsTagged s k) s.cores[k].ops.lsuBase (moveValue s k src) ∧ accessTrap s.cores[k] k (runsTagged s k) 0x3B 4 a = none ∧ exec (.lsuStw k g src) s = .next t ∧ regionOf k a = some .exchange ∧ (x < a - 0x300000 ∨ a - 0x300000 + 4 ≤ x)) ∧
  (∃ (k : CoreIx) (g : BitVec 4) (src : MoveSrc) (s : State) (t : State) (a : Nat), s.good ∧ Issued k g 0x3B src s ∧ ((runsTagged s k = true → tagOf s.cores[k].ops.lsuBase = 1 ∧ tagOf (moveValue s k src) = 0)) ∧ a = effAddr (runsTagged s k) s.cores[k].ops.lsuBase (moveValue s k src) ∧ accessTrap s.cores[k] k (runsTagged s k) 0x3B 4 a = none ∧ exec (.lsuStw k g src) s = .next t ∧ regionOf k a = some .control) ∧
  (∃ (k : CoreIx) (g : BitVec 4) (src : MoveSrc) (s : State) (t : State) (a : Nat) (j : CoreIx), s.good ∧ Issued k g 0x3B src s ∧ ((runsTagged s k = true → tagOf s.cores[k].ops.lsuBase = 1 ∧ tagOf (moveValue s k src) = 0)) ∧ a = effAddr (runsTagged s k) s.cores[k].ops.lsuBase (moveValue s k src) ∧ accessTrap s.cores[k] k (runsTagged s k) 0x3B 4 a = none ∧ exec (.lsuStw k g src) s = .next t ∧ j ≠ k) ∧
  (∃ (k : CoreIx) (g : BitVec 4) (src : MoveSrc) (s : State) (t : State) (a : Nat), s.good ∧ Issued k g 0x40 src s ∧ ((runsTagged s k = true → tagOf s.cores[k].ops.lsuBase = 1 ∧ tagOf (moveValue s k src) = 0)) ∧ a = effAddr (runsTagged s k) s.cores[k].ops.lsuBase (moveValue s k src) ∧ accessTrap s.cores[k] k (runsTagged s k) 0x40 1 a = none ∧ exec (.lsuStb k g src) s = .next t) ∧
  (∃ (k : CoreIx) (g : BitVec 4) (src : MoveSrc) (s : State) (t : State) (a : Nat), s.good ∧ Issued k g 0x40 src s ∧ ((runsTagged s k = true → tagOf s.cores[k].ops.lsuBase = 1 ∧ tagOf (moveValue s k src) = 0)) ∧ a = effAddr (runsTagged s k) s.cores[k].ops.lsuBase (moveValue s k src) ∧ accessTrap s.cores[k] k (runsTagged s k) 0x40 1 a = none ∧ exec (.lsuStb k g src) s = .next t ∧ regionOf k a = some .data) ∧
  (∃ (k : CoreIx) (g : BitVec 4) (src : MoveSrc) (s : State) (t : State) (a : Nat) (x : Nat), s.good ∧ Issued k g 0x40 src s ∧ ((runsTagged s k = true → tagOf s.cores[k].ops.lsuBase = 1 ∧ tagOf (moveValue s k src) = 0)) ∧ a = effAddr (runsTagged s k) s.cores[k].ops.lsuBase (moveValue s k src) ∧ accessTrap s.cores[k] k (runsTagged s k) 0x40 1 a = none ∧ exec (.lsuStb k g src) s = .next t ∧ regionOf k a = some .data ∧ (x < a ∨ a + 1 ≤ x)) ∧
  (∃ (k : CoreIx) (g : BitVec 4) (src : MoveSrc) (s : State) (t : State) (a : Nat), s.good ∧ Issued k g 0x40 src s ∧ ((runsTagged s k = true → tagOf s.cores[k].ops.lsuBase = 1 ∧ tagOf (moveValue s k src) = 0)) ∧ a = effAddr (runsTagged s k) s.cores[k].ops.lsuBase (moveValue s k src) ∧ regionOf k a = some .shared) ∧
  (∃ (k : CoreIx) (g : BitVec 4) (src : MoveSrc) (s : State) (t : State) (a : Nat) (x : Nat), s.good ∧ Issued k g 0x40 src s ∧ ((runsTagged s k = true → tagOf s.cores[k].ops.lsuBase = 1 ∧ tagOf (moveValue s k src) = 0)) ∧ a = effAddr (runsTagged s k) s.cores[k].ops.lsuBase (moveValue s k src) ∧ regionOf k a = some .shared ∧ (x < a - 0x200000 ∨ a - 0x200000 + 1 ≤ x)) ∧
  (∃ (k : CoreIx) (g : BitVec 4) (src : MoveSrc) (s : State) (t : State) (a : Nat) (j : CoreIx), s.good ∧ Issued k g 0x40 src s ∧ ((runsTagged s k = true → tagOf s.cores[k].ops.lsuBase = 1 ∧ tagOf (moveValue s k src) = 0)) ∧ a = effAddr (runsTagged s k) s.cores[k].ops.lsuBase (moveValue s k src) ∧ accessTrap s.cores[k] k (runsTagged s k) 0x40 1 a = none ∧ exec (.lsuStb k g src) s = .next t ∧ j ≠ k) ∧
  (∃ (k : CoreIx) (g : BitVec 4) (src : MoveSrc) (s : State) (t : State) (a : Nat), s.good ∧ Issued k g 0x41 src s ∧ ((runsTagged s k = true → tagOf s.cores[k].ops.lsuBase = 1 ∧ tagOf (moveValue s k src) = 0)) ∧ a = effAddr (runsTagged s k) s.cores[k].ops.lsuBase (moveValue s k src) ∧ accessTrap s.cores[k] k (runsTagged s k) 0x41 2 a = none ∧ exec (.lsuSth k g src) s = .next t) ∧
  (∃ (k : CoreIx) (g : BitVec 4) (src : MoveSrc) (s : State) (t : State) (a : Nat), s.good ∧ Issued k g 0x41 src s ∧ ((runsTagged s k = true → tagOf s.cores[k].ops.lsuBase = 1 ∧ tagOf (moveValue s k src) = 0)) ∧ a = effAddr (runsTagged s k) s.cores[k].ops.lsuBase (moveValue s k src) ∧ accessTrap s.cores[k] k (runsTagged s k) 0x41 2 a = none ∧ exec (.lsuSth k g src) s = .next t ∧ regionOf k a = some .data) ∧
  (∃ (k : CoreIx) (g : BitVec 4) (src : MoveSrc) (s : State) (t : State) (a : Nat) (x : Nat), s.good ∧ Issued k g 0x41 src s ∧ ((runsTagged s k = true → tagOf s.cores[k].ops.lsuBase = 1 ∧ tagOf (moveValue s k src) = 0)) ∧ a = effAddr (runsTagged s k) s.cores[k].ops.lsuBase (moveValue s k src) ∧ accessTrap s.cores[k] k (runsTagged s k) 0x41 2 a = none ∧ exec (.lsuSth k g src) s = .next t ∧ regionOf k a = some .data ∧ (x < a ∨ a + 2 ≤ x)) ∧
  (∃ (k : CoreIx) (g : BitVec 4) (src : MoveSrc) (s : State) (t : State) (a : Nat), s.good ∧ Issued k g 0x41 src s ∧ ((runsTagged s k = true → tagOf s.cores[k].ops.lsuBase = 1 ∧ tagOf (moveValue s k src) = 0)) ∧ a = effAddr (runsTagged s k) s.cores[k].ops.lsuBase (moveValue s k src) ∧ regionOf k a = some .shared) ∧
  (∃ (k : CoreIx) (g : BitVec 4) (src : MoveSrc) (s : State) (t : State) (a : Nat) (x : Nat), s.good ∧ Issued k g 0x41 src s ∧ ((runsTagged s k = true → tagOf s.cores[k].ops.lsuBase = 1 ∧ tagOf (moveValue s k src) = 0)) ∧ a = effAddr (runsTagged s k) s.cores[k].ops.lsuBase (moveValue s k src) ∧ regionOf k a = some .shared ∧ (x < a - 0x200000 ∨ a - 0x200000 + 2 ≤ x)) ∧
  (∃ (k : CoreIx) (g : BitVec 4) (src : MoveSrc) (s : State) (t : State) (a : Nat) (j : CoreIx), s.good ∧ Issued k g 0x41 src s ∧ ((runsTagged s k = true → tagOf s.cores[k].ops.lsuBase = 1 ∧ tagOf (moveValue s k src) = 0)) ∧ a = effAddr (runsTagged s k) s.cores[k].ops.lsuBase (moveValue s k src) ∧ accessTrap s.cores[k] k (runsTagged s k) 0x41 2 a = none ∧ exec (.lsuSth k g src) s = .next t ∧ j ≠ k) :=
  ⟨⟨1, 0, .imm 4, tCore 1 0 (fun c => { c with ops := { tOps with lsuBase := mkTagged 1 4096 } }) tUp, (tNext (exec (.lsuStw 1 0 (.imm 4)) (tCore 1 0 (fun c => { c with ops := { tOps with lsuBase := mkTagged 1 4096 } }) tUp)) : State), _, tGoodCore 1 { tOps with lsuBase := mkTagged 1 4096 } { Results.init with alu := 0 } _ rfl rfl rfl rfl, ⟨by decide +kernel, by decide +kernel, by decide +kernel, by decide +kernel, by decide +kernel⟩, by decide +kernel, rfl, by decide +kernel, tNext_eq _ (by decide +kernel)⟩,
  ⟨1, 0, .imm 4, tCore 1 0 (fun c => { c with ops := { tOps with lsuBase := mkTagged 1 4096 } }) tUp, (tNext (exec (.lsuStw 1 0 (.imm 4)) (tCore 1 0 (fun c => { c with ops := { tOps with lsuBase := mkTagged 1 4096 } }) tUp)) : State), _, tGoodCore 1 { tOps with lsuBase := mkTagged 1 4096 } { Results.init with alu := 0 } _ rfl rfl rfl rfl, ⟨by decide +kernel, by decide +kernel, by decide +kernel, by decide +kernel, by decide +kernel⟩, by decide +kernel, rfl, by decide +kernel, tNext_eq _ (by decide +kernel), by decide +kernel⟩,
  ⟨1, 0, .imm 4, tCore 1 0 (fun c => { c with ops := { tOps with lsuBase := mkTagged 1 4096 } }) tUp, (tNext (exec (.lsuStw 1 0 (.imm 4)) (tCore 1 0 (fun c => { c with ops := { tOps with lsuBase := mkTagged 1 4096 } }) tUp)) : State), _, (0 : Nat), tGoodCore 1 { tOps with lsuBase := mkTagged 1 4096 } { Results.init with alu := 0 } _ rfl rfl rfl rfl, ⟨by decide +kernel, by decide +kernel, by decide +kernel, by decide +kernel, by decide +kernel⟩, by decide +kernel, rfl, by decide +kernel, tNext_eq _ (by decide +kernel), by decide +kernel, by decide +kernel⟩,
  ⟨1, 0, .imm 4, tCore 1 0 (fun c => { c with ops := { tOps with lsuBase := 2097152 }, codeTagged := Vector.replicate 64 false, dataTagged := Vector.replicate 32 false }) tUp, (tNext (exec (.lsuStw 1 0 (.imm 4)) (tCore 1 0 (fun c => { c with ops := { tOps with lsuBase := 2097152 }, codeTagged := Vector.replicate 64 false, dataTagged := Vector.replicate 32 false }) tUp)) : State), _, tGoodRaw 1 { tOps with lsuBase := 2097152 } { Results.init with alu := 0 } _ rfl rfl rfl rfl, ⟨by decide +kernel, by decide +kernel, by decide +kernel, by decide +kernel, by decide +kernel⟩, by decide +kernel, rfl, by decide +kernel, tNext_eq _ (by decide +kernel), by decide +kernel⟩,
  ⟨1, 0, .imm 4, tCore 1 0 (fun c => { c with ops := { tOps with lsuBase := 2097152 }, codeTagged := Vector.replicate 64 false, dataTagged := Vector.replicate 32 false }) tUp, (tNext (exec (.lsuStw 1 0 (.imm 4)) (tCore 1 0 (fun c => { c with ops := { tOps with lsuBase := 2097152 }, codeTagged := Vector.replicate 64 false, dataTagged := Vector.replicate 32 false }) tUp)) : State), _, (0 : Nat), tGoodRaw 1 { tOps with lsuBase := 2097152 } { Results.init with alu := 0 } _ rfl rfl rfl rfl, ⟨by decide +kernel, by decide +kernel, by decide +kernel, by decide +kernel, by decide +kernel⟩, by decide +kernel, rfl, by decide +kernel, tNext_eq _ (by decide +kernel), by decide +kernel, by decide +kernel⟩,
  ⟨1, 0, .imm 4, tCore 1 0 (fun c => { c with ops := { tOps with lsuBase := mkTagged 1 3145728 } }) tUp, (tNext (exec (.lsuStw 1 0 (.imm 4)) (tCore 1 0 (fun c => { c with ops := { tOps with lsuBase := mkTagged 1 3145728 } }) tUp)) : State), _, tGoodCore 1 { tOps with lsuBase := mkTagged 1 3145728 } { Results.init with alu := 0 } _ rfl rfl rfl rfl, ⟨by decide +kernel, by decide +kernel, by decide +kernel, by decide +kernel, by decide +kernel⟩, by decide +kernel, rfl, by decide +kernel, tNext_eq _ (by decide +kernel), by decide +kernel⟩,
  ⟨1, 0, .imm 4, tCore 1 0 (fun c => { c with ops := { tOps with lsuBase := mkTagged 1 3145728 } }) tUp, (tNext (exec (.lsuStw 1 0 (.imm 4)) (tCore 1 0 (fun c => { c with ops := { tOps with lsuBase := mkTagged 1 3145728 } }) tUp)) : State), _, (0 : Nat), tGoodCore 1 { tOps with lsuBase := mkTagged 1 3145728 } { Results.init with alu := 0 } _ rfl rfl rfl rfl, ⟨by decide +kernel, by decide +kernel, by decide +kernel, by decide +kernel, by decide +kernel⟩, by decide +kernel, rfl, by decide +kernel, tNext_eq _ (by decide +kernel), by decide +kernel, by decide +kernel⟩,
  ⟨1, 0, .imm 4, tCore 1 0 (fun c => { c with ops := { tOps with lsuBase := 67108864 }, codeTagged := Vector.replicate 64 false, dataTagged := Vector.replicate 32 false }) tUp, (tNext (exec (.lsuStw 1 0 (.imm 4)) (tCore 1 0 (fun c => { c with ops := { tOps with lsuBase := 67108864 }, codeTagged := Vector.replicate 64 false, dataTagged := Vector.replicate 32 false }) tUp)) : State), _, tGoodRaw 1 { tOps with lsuBase := 67108864 } { Results.init with alu := 0 } _ rfl rfl rfl rfl, ⟨by decide +kernel, by decide +kernel, by decide +kernel, by decide +kernel, by decide +kernel⟩, by decide +kernel, rfl, by decide +kernel, tNext_eq _ (by decide +kernel), by decide +kernel⟩,
  ⟨1, 0, .imm 4, tCore 1 0 (fun c => { c with ops := { tOps with lsuBase := mkTagged 1 4096 } }) tUp, (tNext (exec (.lsuStw 1 0 (.imm 4)) (tCore 1 0 (fun c => { c with ops := { tOps with lsuBase := mkTagged 1 4096 } }) tUp)) : State), _, (2 : CoreIx), tGoodCore 1 { tOps with lsuBase := mkTagged 1 4096 } { Results.init with alu := 0 } _ rfl rfl rfl rfl, ⟨by decide +kernel, by decide +kernel, by decide +kernel, by decide +kernel, by decide +kernel⟩, by decide +kernel, rfl, by decide +kernel, tNext_eq _ (by decide +kernel), by decide +kernel⟩,
  ⟨1, 0, .imm 4, tCore 1 0 (fun c => { c with ops := { tOps with lsuBase := 4096 }, codeTagged := Vector.replicate 64 false, dataTagged := Vector.replicate 32 false }) tUp, (tNext (exec (.lsuStb 1 0 (.imm 4)) (tCore 1 0 (fun c => { c with ops := { tOps with lsuBase := 4096 }, codeTagged := Vector.replicate 64 false, dataTagged := Vector.replicate 32 false }) tUp)) : State), _, tGoodRaw 1 { tOps with lsuBase := 4096 } { Results.init with alu := 0 } _ rfl rfl rfl rfl, ⟨by decide +kernel, by decide +kernel, by decide +kernel, by decide +kernel, by decide +kernel⟩, by decide +kernel, rfl, by decide +kernel, tNext_eq _ (by decide +kernel)⟩,
  ⟨1, 0, .imm 4, tCore 1 0 (fun c => { c with ops := { tOps with lsuBase := 4096 }, codeTagged := Vector.replicate 64 false, dataTagged := Vector.replicate 32 false }) tUp, (tNext (exec (.lsuStb 1 0 (.imm 4)) (tCore 1 0 (fun c => { c with ops := { tOps with lsuBase := 4096 }, codeTagged := Vector.replicate 64 false, dataTagged := Vector.replicate 32 false }) tUp)) : State), _, tGoodRaw 1 { tOps with lsuBase := 4096 } { Results.init with alu := 0 } _ rfl rfl rfl rfl, ⟨by decide +kernel, by decide +kernel, by decide +kernel, by decide +kernel, by decide +kernel⟩, by decide +kernel, rfl, by decide +kernel, tNext_eq _ (by decide +kernel), by decide +kernel⟩,
  ⟨1, 0, .imm 4, tCore 1 0 (fun c => { c with ops := { tOps with lsuBase := 4096 }, codeTagged := Vector.replicate 64 false, dataTagged := Vector.replicate 32 false }) tUp, (tNext (exec (.lsuStb 1 0 (.imm 4)) (tCore 1 0 (fun c => { c with ops := { tOps with lsuBase := 4096 }, codeTagged := Vector.replicate 64 false, dataTagged := Vector.replicate 32 false }) tUp)) : State), _, (0 : Nat), tGoodRaw 1 { tOps with lsuBase := 4096 } { Results.init with alu := 0 } _ rfl rfl rfl rfl, ⟨by decide +kernel, by decide +kernel, by decide +kernel, by decide +kernel, by decide +kernel⟩, by decide +kernel, rfl, by decide +kernel, tNext_eq _ (by decide +kernel), by decide +kernel, by decide +kernel⟩,
  ⟨1, 0, .imm 4, tCore 1 0 (fun c => { c with ops := { tOps with lsuBase := 2097152 }, codeTagged := Vector.replicate 64 false, dataTagged := Vector.replicate 32 false }) tUp, tUp, _, tGoodRaw 1 { tOps with lsuBase := 2097152 } { Results.init with alu := 0 } _ rfl rfl rfl rfl, ⟨by decide +kernel, by decide +kernel, by decide +kernel, by decide +kernel, by decide +kernel⟩, by decide +kernel, rfl, by decide +kernel⟩,
  ⟨1, 0, .imm 4, tCore 1 0 (fun c => { c with ops := { tOps with lsuBase := 2097152 }, codeTagged := Vector.replicate 64 false, dataTagged := Vector.replicate 32 false }) tUp, tUp, _, (0 : Nat), tGoodRaw 1 { tOps with lsuBase := 2097152 } { Results.init with alu := 0 } _ rfl rfl rfl rfl, ⟨by decide +kernel, by decide +kernel, by decide +kernel, by decide +kernel, by decide +kernel⟩, by decide +kernel, rfl, by decide +kernel, by decide +kernel⟩,
  ⟨1, 0, .imm 4, tCore 1 0 (fun c => { c with ops := { tOps with lsuBase := 4096 }, codeTagged := Vector.replicate 64 false, dataTagged := Vector.replicate 32 false }) tUp, (tNext (exec (.lsuStb 1 0 (.imm 4)) (tCore 1 0 (fun c => { c with ops := { tOps with lsuBase := 4096 }, codeTagged := Vector.replicate 64 false, dataTagged := Vector.replicate 32 false }) tUp)) : State), _, (2 : CoreIx), tGoodRaw 1 { tOps with lsuBase := 4096 } { Results.init with alu := 0 } _ rfl rfl rfl rfl, ⟨by decide +kernel, by decide +kernel, by decide +kernel, by decide +kernel, by decide +kernel⟩, by decide +kernel, rfl, by decide +kernel, tNext_eq _ (by decide +kernel), by decide +kernel⟩,
  ⟨1, 0, .imm 4, tCore 1 0 (fun c => { c with ops := { tOps with lsuBase := 4096 }, codeTagged := Vector.replicate 64 false, dataTagged := Vector.replicate 32 false }) tUp, (tNext (exec (.lsuSth 1 0 (.imm 4)) (tCore 1 0 (fun c => { c with ops := { tOps with lsuBase := 4096 }, codeTagged := Vector.replicate 64 false, dataTagged := Vector.replicate 32 false }) tUp)) : State), _, tGoodRaw 1 { tOps with lsuBase := 4096 } { Results.init with alu := 0 } _ rfl rfl rfl rfl, ⟨by decide +kernel, by decide +kernel, by decide +kernel, by decide +kernel, by decide +kernel⟩, by decide +kernel, rfl, by decide +kernel, tNext_eq _ (by decide +kernel)⟩,
  ⟨1, 0, .imm 4, tCore 1 0 (fun c => { c with ops := { tOps with lsuBase := 4096 }, codeTagged := Vector.replicate 64 false, dataTagged := Vector.replicate 32 false }) tUp, (tNext (exec (.lsuSth 1 0 (.imm 4)) (tCore 1 0 (fun c => { c with ops := { tOps with lsuBase := 4096 }, codeTagged := Vector.replicate 64 false, dataTagged := Vector.replicate 32 false }) tUp)) : State), _, tGoodRaw 1 { tOps with lsuBase := 4096 } { Results.init with alu := 0 } _ rfl rfl rfl rfl, ⟨by decide +kernel, by decide +kernel, by decide +kernel, by decide +kernel, by decide +kernel⟩, by decide +kernel, rfl, by decide +kernel, tNext_eq _ (by decide +kernel), by decide +kernel⟩,
  ⟨1, 0, .imm 4, tCore 1 0 (fun c => { c with ops := { tOps with lsuBase := 4096 }, codeTagged := Vector.replicate 64 false, dataTagged := Vector.replicate 32 false }) tUp, (tNext (exec (.lsuSth 1 0 (.imm 4)) (tCore 1 0 (fun c => { c with ops := { tOps with lsuBase := 4096 }, codeTagged := Vector.replicate 64 false, dataTagged := Vector.replicate 32 false }) tUp)) : State), _, (0 : Nat), tGoodRaw 1 { tOps with lsuBase := 4096 } { Results.init with alu := 0 } _ rfl rfl rfl rfl, ⟨by decide +kernel, by decide +kernel, by decide +kernel, by decide +kernel, by decide +kernel⟩, by decide +kernel, rfl, by decide +kernel, tNext_eq _ (by decide +kernel), by decide +kernel, by decide +kernel⟩,
  ⟨1, 0, .imm 4, tCore 1 0 (fun c => { c with ops := { tOps with lsuBase := 2097152 }, codeTagged := Vector.replicate 64 false, dataTagged := Vector.replicate 32 false }) tUp, tUp, _, tGoodRaw 1 { tOps with lsuBase := 2097152 } { Results.init with alu := 0 } _ rfl rfl rfl rfl, ⟨by decide +kernel, by decide +kernel, by decide +kernel, by decide +kernel, by decide +kernel⟩, by decide +kernel, rfl, by decide +kernel⟩,
  ⟨1, 0, .imm 4, tCore 1 0 (fun c => { c with ops := { tOps with lsuBase := 2097152 }, codeTagged := Vector.replicate 64 false, dataTagged := Vector.replicate 32 false }) tUp, tUp, _, (0 : Nat), tGoodRaw 1 { tOps with lsuBase := 2097152 } { Results.init with alu := 0 } _ rfl rfl rfl rfl, ⟨by decide +kernel, by decide +kernel, by decide +kernel, by decide +kernel, by decide +kernel⟩, by decide +kernel, rfl, by decide +kernel, by decide +kernel⟩,
  ⟨1, 0, .imm 4, tCore 1 0 (fun c => { c with ops := { tOps with lsuBase := 4096 }, codeTagged := Vector.replicate 64 false, dataTagged := Vector.replicate 32 false }) tUp, (tNext (exec (.lsuSth 1 0 (.imm 4)) (tCore 1 0 (fun c => { c with ops := { tOps with lsuBase := 4096 }, codeTagged := Vector.replicate 64 false, dataTagged := Vector.replicate 32 false }) tUp)) : State), _, (2 : CoreIx), tGoodRaw 1 { tOps with lsuBase := 4096 } { Results.init with alu := 0 } _ rfl rfl rfl rfl, ⟨by decide +kernel, by decide +kernel, by decide +kernel, by decide +kernel, by decide +kernel⟩, by decide +kernel, rfl, by decide +kernel, tNext_eq _ (by decide +kernel), by decide +kernel⟩⟩

/-- The premises of EventsArePostedKeptOrLost can be met. -/
theorem witness_EventsArePostedKeptOrLost :
  (∃ (code : W16) (source : W16) (data : W16) (s : State), (code, source, data) ∈ s.tray.roundEvents) ∧
  (∃ (code : W16) (source : W16) (data : W16) (s : State) (u : State) (e : Entry), (code, source, data) ∉ s.tray.roundEvents ∧ e = { tag := 0, status := 0, result := BitVec.ofNat 32 (data.toNat * 65536 + code.toNat), detail := source, epoch := 0, stale := false, more := false, event := true, noIrq := false } ∧ u = { s with tray := { s.tray with roundEvents := (code, source, data) :: s.tray.roundEvents }, flash := if s.flash.archDead then s.flash else { s.flash with eventBuf := s.flash.eventBuf ++ [leBytes 2 code.toNat ++ leBytes 2 source.toNat ++ leBytes 4 e.result.toNat ++ leBytes 2 source.toNat] } } ∧ s.tray.pendingEvents = [] ∧ eventCredit s = true) ∧
  (∃ (code : W16) (source : W16) (data : W16) (s : State) (u : State) (e : Entry), (code, source, data) ∉ s.tray.roundEvents ∧ e = { tag := 0, status := 0, result := BitVec.ofNat 32 (data.toNat * 65536 + code.toNat), detail := source, epoch := 0, stale := false, more := false, event := true, noIrq := false } ∧ u = { s with tray := { s.tray with roundEvents := (code, source, data) :: s.tray.roundEvents }, flash := if s.flash.archDead then s.flash else { s.flash with eventBuf := s.flash.eventBuf ++ [leBytes 2 code.toNat ++ leBytes 2 source.toNat ++ leBytes 4 e.result.toNat ++ leBytes 2 source.toNat] } } ∧ (s.tray.pendingEvents ≠ [] ∨ eventCredit s = false) ∧ s.tray.pendingEvents.length < 16) ∧
  (∃ (code : W16) (source : W16) (data : W16) (s : State) (u : State) (e : Entry), (code, source, data) ∉ s.tray.roundEvents ∧ e = { tag := 0, status := 0, result := BitVec.ofNat 32 (data.toNat * 65536 + code.toNat), detail := source, epoch := 0, stale := false, more := false, event := true, noIrq := false } ∧ u = { s with tray := { s.tray with roundEvents := (code, source, data) :: s.tray.roundEvents }, flash := if s.flash.archDead then s.flash else { s.flash with eventBuf := s.flash.eventBuf ++ [leBytes 2 code.toNat ++ leBytes 2 source.toNat ++ leBytes 4 e.result.toNat ++ leBytes 2 source.toNat] } } ∧ (s.tray.pendingEvents ≠ [] ∨ eventCredit s = false) ∧ s.tray.pendingEvents.length = 16) :=
  ⟨⟨evNvmFault, 3, 0, { tUp with tray := { tUp.tray with roundEvents := [(evNvmFault, 3, 0)] } }, by decide +kernel⟩,
  ⟨evNvmFault, 3, 0, setRing 0 (fun r => { r with state := .enabled, log2Depth := 4 }) tUp, _, _, by decide +kernel, rfl, rfl, by decide +kernel, by decide +kernel⟩,
  ⟨evNvmFault, 3, 0, { setRing 0 (fun r => { r with state := .enabled, log2Depth := 4 }) tUp with tray := { tUp.tray with pendingEvents := List.replicate 15 tEntry } }, _, _, by decide +kernel, rfl, rfl, by decide +kernel, by decide +kernel⟩,
  ⟨evNvmFault, 3, 0, { setRing 0 (fun r => { r with state := .enabled, log2Depth := 4 }) tUp with tray := { tUp.tray with pendingEvents := List.replicate 16 tEntry } }, _, _, by decide +kernel, rfl, rfl, by decide +kernel, by decide +kernel⟩⟩

/-- The premises of IdentityRegistersHoldTheIdentityBlock can be met. -/
theorem witness_IdentityRegistersHoldTheIdentityBlock :
  (∃ (s : State) (i : Nat), i < 128) ∧
  (∃ (s : State), s.tray.selfChecked = false) ∧
  (∃ (s : State), s.tray.selfChecked = true) ∧
  (∃ (off : BitVec 22) (size : Nat) (v : W64) (s : State), off.toNat < 0x80) ∧
  (∃ (n : RingIx) (f : Fetched) (i : CmdInfo) (s : State) (u : State), Accepted opIdentify n f i s ∧ u = dispatch n f s ∧ badDaddr u.tray.variant (f.desc.u64 0x10) 64 = false ∧ writeFails u (f.desc.u64 0x10) 128 = none) :=
  ⟨⟨tUp, (127 : Nat), by decide +kernel⟩,
  ⟨State.reset, by decide +kernel⟩,
  ⟨tUp, by decide +kernel⟩,
  ⟨0x7F, 1, 7, tUp, by decide +kernel⟩,
  ⟨1, tCmd opIdentify [(0x10,8,0x1000)], tInfo opIdentify, tAsk opIdentify [(0x10,8,0x1000)] (tUp), _, ⟨by decide +kernel, by decide +kernel, by decide +kernel, by decide +kernel, by decide +kernel⟩, rfl, by decide +kernel, by decide +kernel⟩⟩

/-- The premises of OneSclkIsTakenInOrder can be met. -/
theorem witness_OneSclkIsTakenInOrder :
  (∃ (c : Instr) (s : State), SclkOrdered s.pending) ∧
  (∃ (s : State) (t : State), step s = .next t ∧ SclkOrdered s.pending) ∧
  (∃ (c : Instr) (s : State), sclkKey c = 324) ∧
  (∃ (a : Fin 64) (b : Fin 64) (o : BitVec 22) (w : Nat) (v : W64) (t : TileIx) (r : RingIx), a < b) :=
  ⟨⟨.registerWrite 0x108 8 0, tUp, (by simp only [SclkOrdered, show tUp.pending = [] from rfl]; exact List.Pairwise.nil)⟩,
  ⟨tUp, (tNext (step tUp)), tNext_eq _ (by decide +kernel), (by simp only [SclkOrdered, show tUp.pending = [] from rfl]; exact List.Pairwise.nil)⟩,
  ⟨.registerWrite 0x108 8 0, tUp, by decide +kernel⟩,
  ⟨0, 1, 0, 8, 0, 9, 1, by decide +kernel⟩⟩

end Sys2Proof.Tests
end

/-! The doorbells of the mailbox rings (R294, R296): what a doorbell check accepts, what a write that passes it does, and what
a write that fails it leaves. -/
section
namespace Sys2Proof.Proofs
open Sys2Proof Sys2Proof.Machine

/-- A doorbell value fails for a bit above 12, an index past its range, or an advance past its limit. -/
theorem doorbellOk_eq_false_iff (value range advance limit : Nat) :
    doorbellOk value range advance limit = false ↔ 8192 ≤ value ∨ range ≤ value ∨ limit < advance := by
  simp only [doorbellOk, Bool.and_eq_false_iff, decide_eq_false_iff_not, not_lt, not_le, or_assoc]

theorem exec_sqDb (ring : RingIx) (value : W32) (s : State) : exec (.sqDb ring value) s = execSqDb ring value s := rfl

theorem exec_cqDb (ring : RingIx) (value : W32) (s : State) : exec (.cqDb ring value) s = execCqDb ring value s := rfl

section Reachable
variable {ring : RingIx} {value : W32} {s : State} (hreach : barReach s = true)
include hreach

theorem exec_sqDb_of_not_ok
    (hok : doorbellOk value.toNat s.rings[ring].depth (sqAdvance s.rings[ring] value.toNat)
      (s.rings[ring].depth - 1 - s.rings[ring].posted) = false) :
    exec (.sqDb ring value) s = .next (doorbellError ring s) := by
  simp only [exec_sqDb, execSqDb, hreach, hok, Bool.not_true, Bool.false_eq_true, and_false, ↓reduceIte]

theorem exec_cqDb_of_not_ok
    (hok : doorbellOk value.toNat (2 * s.rings[ring].depth) (cqAdvance s.rings[ring] value.toNat)
      s.rings[ring].unreleased = false) :
    exec (.cqDb ring value) s = .next (doorbellError ring s) := by
  simp only [exec_cqDb, execCqDb, hreach, hok, Bool.not_true, Bool.false_eq_true, and_false, ↓reduceIte]

theorem exec_sqDb_of_ok (henabled : s.rings[ring].state = .enabled)
    (hok : doorbellOk value.toNat s.rings[ring].depth (sqAdvance s.rings[ring] value.toNat)
      (s.rings[ring].depth - 1 - s.rings[ring].posted) = true) :
    exec (.sqDb ring value) s = .next (setRing ring (fun r => { r with sqTail := value.setWidth 12 }) s) := by
  simp only [exec_sqDb, execSqDb, hreach, henabled, hok, Bool.not_true, Bool.false_eq_true, and_self, ↓reduceIte]

end Reachable

/-- Settles O10: the two branches of each doorbell's check, and the frame of setting DB_ERROR in one ring. -/
theorem failingDoorbellWritesAreDiscarded : Obligations.FailingDoorbellWritesAreDiscarded := by
  unfold Obligations.FailingDoorbellWritesAreDiscarded
  refine ⟨?sqFails, ?cqFails, ?sqPasses, ?frame⟩
  case sqFails =>
    intro ring value s hreach _ hbad
    exact exec_sqDb_of_not_ok hreach ((doorbellOk_eq_false_iff _ _ _ _).mpr hbad)
  case cqFails =>
    intro ring value s hreach _ hbad
    exact exec_cqDb_of_not_ok hreach ((doorbellOk_eq_false_iff _ _ _ _).mpr hbad)
  case sqPasses =>
    intro ring value s hreach henabled hgood
    rw [← doorbellOk_eq_false_iff, Bool.not_eq_false] at hgood
    exact exec_sqDb_of_ok hreach henabled hgood
  case frame =>
    intro ring s
    exact ⟨setRing_self ring _ s, fun n hn => setRing_other ring n _ s hn⟩

end Sys2Proof.Proofs
end

/-! A branch in a delay slot (R490): its check stands before the guard, the stacks and the source are looked at. -/
section
namespace Sys2Proof.Proofs
open Sys2Proof Sys2Proof.Machine

/-- A clocked core's move that fails a check made before its guard is that trap, whatever its guard and its operation. -/
theorem xmove_of_staticTrap {k : CoreIx} {dst : Nat} {src : MoveSrc} {t : XTrap} {s : State} (g : BitVec 4) (op : XOp)
    (hissues : issues s k = true) (htrap : staticTrap s k dst src = some t) :
    xmove k g dst src op s = .next (trap k t s) := by
  simp only [xmove, hissues, htrap, Bool.not_true, Bool.false_eq_true, ↓reduceIte]

/-- A branch trigger in a delay slot, fetched and not reserved, is a SLOT trap at its port; no guard enters this (R490). -/
theorem staticTrap_branch_in_slot {k : CoreIx} {dst : Nat} {src : MoveSrc} {s : State}
    (hfetch : fetchOk s k s.cores[k].pc.toNat = true) (hlegal : illegalPort k dst src = none)
    (hbranch : branchPort dst = true) (hslot : s.cores[k].branch.isSome = true) :
    staticTrap s k dst src = some (XTrap.of trapSlot dst) := by
  simp only [staticTrap, hfetch, hlegal, hbranch, hslot, Bool.not_true, Bool.and_true, Bool.false_eq_true, ↓reduceIte]

/-- Settles O51: the three branch triggers are moves into 0x48, 0x49 and 0x4A, and the SLOT check comes before the guard. -/
theorem branchInADelaySlotTraps : Obligations.BranchInADelaySlotTraps := by
  unfold Obligations.BranchInADelaySlotTraps
  intro k g src s hissues hfetch hslot
  have xmove_traps (dst : Nat) (op : XOp) (hbranch : branchPort dst = true) (hlegal : illegalPort k dst src = none) :
      xmove k g dst src op s = .next (trap k (XTrap.of trapSlot dst) s) :=
    xmove_of_staticTrap g op hissues (staticTrap_branch_in_slot hfetch hlegal hbranch hslot)
  refine ⟨?jump, ?call, ?ret⟩
  case jump => exact xmove_traps 0x48 _ rfl
  case call => exact xmove_traps 0x49 _ rfl
  case ret => exact xmove_traps 0x4A _ rfl

end Sys2Proof.Proofs
end

/-! The long immediates (R522): the word that a trigger places in LIMM.OUT, with its tag. -/
section
namespace Sys2Proof.Proofs
open Sys2Proof Sys2Proof.Machine

/-- An issued move into an operand port latches its value there. -/
theorem exec_moveOperand_issued {k : CoreIx} {g : BitVec 4} {dst : Byte} {src : MoveSrc} {s : State}
    (hoperand : triggerPort dst.toNat = false) (h : Issued k g dst.toNat src s) :
    exec (.moveOperand k g dst src) s =
      .next (moved k src (fun c => { c with ops := c.ops.latch dst.toNat (moveValue s k src) }) s) := by
  have hexec : exec (.moveOperand k g dst src) s = execMoveOperand k g dst src s := rfl
  rw [hexec, execMoveOperand, hoperand, if_neg Bool.false_ne_true]
  exact xmove_issued_ok h rfl

/-- An issued long-immediate trigger puts its word, with its tag, in LIMM.OUT; its source's read leaves LIMM.HI alone. -/
theorem xmove_limm_issued {k : CoreIx} {g : BitVec 4} {dst : Nat} {src : MoveSrc} {s : State} {w : Nat} (tag : Nat)
    (h : Issued k g dst src s) (hw : w = s.cores[k].ops.limmHi.toNat * 65536 + (moveValue s k src).toNat % 65536) :
    xmove k g dst src (onCore (fun tg v c => .ok (limm tag tg v c))) s = .next (moved k src (fun c => { c with
      res := { c.res with limm := if runsTagged s k then mkTagged tag w
        else if tag = 0 then BitVec.ofNat 32 w else mkTagged 0 w } }) s) :=
  xmove_issued_ok h (by simp only [limm, readSource_ops, hw])

/-- A tagged word is its tag over its 29-bit payload. -/
theorem toNat_mkTagged {t : Nat} (ht : t < 8) (w : Nat) : (mkTagged t w).toNat = t * 2 ^ 29 + w % 2 ^ 29 := by
  rw [mkTagged, BitVec.toNat_ofNat]
  omega

theorem restarted_limmHi (s : State) (c : Core) : (restarted s c).ops.limmHi = 0 := rfl

/-- Settles O40: LIMM.HI is an operand port, and the four triggers are one operation at the tags INT, PTR, CODE and BITS. -/
theorem longImmediatesPlaceTheirWord : Obligations.LongImmediatesPlaceTheirWord := by
  unfold Obligations.LongImmediatesPlaceTheirWord
  refine ⟨?hi, ?tInt, ?tPtr, ?tCode, ?tBits, ?tagged, restarted_limmHi⟩
  case hi => exact fun k g src s h => exec_moveOperand_issued (dst := 0x08) rfl h
  case tInt => exact fun k g src s w h hw => xmove_limm_issued 0 h hw
  case tPtr => exact fun k g src s w h hw => xmove_limm_issued 1 h hw
  case tCode => exact fun k g src s w h hw => xmove_limm_issued 2 h hw
  case tBits => exact fun k g src s w h hw => xmove_limm_issued 4 h hw
  case tagged => exact fun t w ht => toNat_mkTagged ht w

end Sys2Proof.Proofs
end

/-! Short immediates (R521) and guard codes (R519). -/
section
namespace Sys2Proof.Proofs
open Sys2Proof Sys2Proof.Machine

/-- From a TAGGED page an INT is its number in 29 bits under the tag 0. -/
theorem intVal_tagged (x : Int) : intVal true x = (BitVec.ofInt 29 x).setWidth 32 := by
  apply BitVec.eq_of_toNat_eq
  rw [intVal, mkVal, if_pos rfl, toNat_mkTagged (by decide), BitVec.toNat_setWidth, BitVec.toNat_ofInt, widthOf, if_pos rfl]
  omega

/-- From a RAW page a number is its 32 bits. -/
theorem intVal_raw (x : Int) : intVal false x = BitVec.ofInt 32 x := by
  apply BitVec.eq_of_toNat_eq
  rw [intVal, mkVal, if_neg Bool.false_ne_true, BitVec.toNat_ofNat, BitVec.toNat_ofInt, widthOf, if_neg Bool.false_ne_true]
  omega

theorem readSource_imm (c : Core) (v : BitVec 19) : readSource c (.imm v) = (intVal (tagMode c) v.toInt, c) := rfl

/-- The top bit of a guard code is set in the codes 8 to 15. -/
theorem getLsbD_three_eq_decide (g : BitVec 4) : g.getLsbD 3 = decide (8 ≤ g.toNat) := by
  rw [← BitVec.msb_eq_getLsbD_last, BitVec.msb_eq_decide]

/-- A guard code's test is the guard of its low three bits, inverted by its top bit. -/
theorem guardHolds_eq_xor (c : Core) (g : BitVec 4) :
    guardHolds c g = (c.guards.getLsbD (g.toNat % 8) ^^ g.getLsbD 3) := by
  rw [guardHolds, getLsbD_three_eq_decide, Bool.bne_eq_xor]

theorem guardHolds_of_lt {c : Core} {g : BitVec 4} (hg : g.toNat < 8) : guardHolds c g = c.guards.getLsbD g.toNat := by
  rw [guardHolds, Nat.mod_eq_of_lt hg, decide_eq_false (by omega), Bool.bne_false]

theorem guardHolds_of_le {c : Core} {g : BitVec 4} (hg : 8 ≤ g.toNat) :
    guardHolds c g = !c.guards.getLsbD (g.toNat - 8) := by
  rw [guardHolds, decide_eq_true hg, Bool.bne_true, show g.toNat % 8 = g.toNat - 8 by omega]

/-- Settles O52: both sign extensions are `BitVec.ofInt` of the number; the codes below 8 test a guard, the others its inverse. -/
theorem shortImmediatesAndGuardCodes : Obligations.ShortImmediatesAndGuardCodes := by
  unfold Obligations.ShortImmediatesAndGuardCodes
  refine ⟨?immediate, ?guards⟩
  case immediate =>
    intro c v
    rw [readSource_imm]
    refine ⟨rfl, BitVec.le_toInt v, Int.le_of_lt_add_one BitVec.toInt_lt, ?tagged, ?raw⟩
    case tagged => intro ht; rw [ht, intVal_tagged]; rfl
    case raw => intro ht; rw [ht, intVal_raw]; rfl
  case guards =>
    intro c g hG0
    refine ⟨guardHolds_eq_xor c g, ?always, ?never, ?plain, ?inverted⟩
    case always => rintro rfl; exact (guardHolds_of_lt (by decide)).trans hG0
    case never => rintro rfl; exact (guardHolds_of_le (by decide)).trans (congrArg (!·) hG0)
    case plain => exact fun _ hle => guardHolds_of_lt (Nat.lt_succ_of_le hle)
    case inverted => exact fun hle => guardHolds_of_le (Nat.le_of_lt hle)

end Sys2Proof.Proofs
end

/-! The identity registers (R552): the block of Table 12-4 field by field, what BAR0 reads below 0x80, and the writes there. -/
section
namespace Sys2Proof.Proofs
open Sys2Proof Sys2Proof.Machine

/-- A byte of a little-endian number (R5). -/
theorem ofNat_leNat_div {bs : List Byte} {j : Nat} (h : j < bs.length) : BitVec.ofNat 8 (leNat bs / 256 ^ j) = bs[j] := by
  induction bs generalizing j with
  | nil => exact absurd h (Nat.not_lt_zero j)
  | cons b bs ih =>
    cases j with
    | zero =>
      apply BitVec.eq_of_toNat_eq
      simp only [leNat, pow_zero, Nat.div_one, BitVec.toNat_ofNat, List.getElem_cons_zero]
      have := b.isLt
      omega
    | succ j =>
      have hdiv : leNat (b :: bs) / 256 ^ (j + 1) = leNat bs / 256 ^ j := by
        rw [leNat, pow_succ', ← Nat.div_div_eq_div_mul, Nat.add_mul_div_left _ _ (by decide), Nat.div_eq_of_lt b.isLt,
          Nat.zero_add]
      rw [hdiv, List.getElem_cons_succ, ih (Nat.lt_of_succ_lt_succ h)]

theorem ofNat_field_div {bs : List Byte} {o n j : Nat} (hj : j < n) (h : o + j < bs.length) :
    BitVec.ofNat 8 (field bs o n / 256 ^ j) = bs[o + j] := by
  rw [field, ofNat_leNat_div (by simp only [List.length_take, List.length_drop]; omega), List.getElem_take, List.getElem_drop]

/-! Fields of a structure written as one list of bytes after another. -/

theorem drop_append_of_length_le {xs ys : List Byte} {o : Nat} (h : xs.length ≤ o) :
    (xs ++ ys).drop o = ys.drop (o - xs.length) := by
  rw [List.drop_append, List.drop_eq_nil_of_le h, List.nil_append]

/-- A field that begins past the first list of bytes is a field of the rest. -/
theorem field_append_of_length_le {xs ys : List Byte} {o : Nat} (n : Nat) (h : xs.length ≤ o) :
    field (xs ++ ys) o n = field ys (o - xs.length) n := by
  rw [field, field, drop_append_of_length_le h]

theorem field_leBytes_append (k x : Nat) (bs : List Byte) : field (leBytes k x ++ bs) 0 k = x % 256 ^ k := by
  rw [field, List.drop_zero, List.take_left' (leBytes_length k x), leNat_leBytes]

/-! The sizes of what the block holds: every number fits its field. -/

theorem popCount_le (n m : Nat) : popCount n m ≤ n :=
  (List.length_filter_le _ _).trans_eq List.length_range

theorem variantCode_lt (v : Variant) : v.code < 256 := by
  cases v <;> decide

theorem portsFitted_lt (v : Variant) : portsFitted v < 256 := by
  cases v <;> decide

theorem shelfCode_lt (s : State) : shelfCode s < 256 := by
  unfold shelfCode
  split
  · decide
  · split <;> decide

theorem sepiaLanes_lt (s : State) : sepiaLanes s < 256 := by
  unfold sepiaLanes
  split <;> omega

theorem usableTiles_lt (s : State) : usableTiles s < 65536 := by
  have hsum : usableTiles s ≤ ((List.finRange 10).map (fun t : TileIx => 2 ^ t.val)).sum := by
    rw [usableTiles, ← List.sum_eq_foldl]
    refine List.sum_le_sum fun t _ => ?_
    split
    · exact le_rfl
    · exact Nat.zero_le _
  exact hsum.trans_lt (by decide)

theorem stackCount_lt (m : Nat) : popCount 6 m < 256 :=
  (popCount_le 6 m).trans_lt (by decide)

/-! The identity block (Table 12-4). -/

theorem identityBlock_length (s : State) : (identityBlock s).length = 128 := by
  simp only [identityBlock, List.length_append, leBytes_length, Vector.length_toList, List.length_replicate]

/-- The numbers of the block at their offsets in Table 12-4, each in the width of its field. -/
theorem identityBlock_numbers (s : State) :
    field (identityBlock s) 0x00 4 = 0x44495A51 ∧ field (identityBlock s) 0x04 1 = 0xB1 ∧
    field (identityBlock s) 0x05 1 = s.tray.variant.code % 256 ∧ field (identityBlock s) 0x06 2 = 0x0201 ∧
    field (identityBlock s) 0x08 2 = 0x0102 ∧ field (identityBlock s) 0x0A 1 = shelfCode s % 256 ∧
    field (identityBlock s) 0x0B 1 = afterSelfcheck s (sepiaLanes s) % 256 ∧
    field (identityBlock s) 0x0C 2 = afterSelfcheck s (usableTiles s) % 65536 ∧
    field (identityBlock s) 0x0E 1 = afterSelfcheck s (popCount 6 s.mem.stackOnline.toNat) % 256 ∧
    field (identityBlock s) 0x0F 1 = portsFitted s.tray.variant % 256 ∧
    field (identityBlock s) 0x38 4 = s.tray.restarts.toNat % 2 ^ 32 := by
  simp [identityBlock, field_append_of_length_le, field_leBytes_append, leBytes_length]

/-- The serial numbers and the reserved bytes of the block. -/
theorem identityBlock_serials_reserved (s : State) :
    ((identityBlock s).drop 0x10).take 16 = Config.pkgSerial.toList ∧
    ((identityBlock s).drop 0x20).take 16 = Config.traySerial.toList ∧
    (identityBlock s).drop 0x40 = List.replicate 64 0 := by
  simp [identityBlock, drop_append_of_length_le, leBytes_length]

theorem afterSelfcheck_before {s : State} (h : s.tray.selfChecked = false) (n : Nat) : afterSelfcheck s n = 0 := by
  rw [afterSelfcheck, h, if_neg Bool.false_ne_true]

theorem afterSelfcheck_after {s : State} (h : s.tray.selfChecked = true) (n : Nat) : afterSelfcheck s n = n := by
  rw [afterSelfcheck, if_pos h]

/-! BAR0 below 0x80. -/

theorem readReg_identity (s : State) {off : Nat} (h : off < 0x80) : readReg s off = field (identityBlock s) off 4 := by
  rw [readReg, if_pos (Or.inl h), earlyReg, if_pos h]

/-- Bytes read from BAR0 below 0x80 are the bytes of the identity block at the same offsets. -/
theorem barRead_identity (s : State) {off n : Nat} (h : off + n ≤ 128) :
    barRead s off n = ((identityBlock s).drop off).take n := by
  refine List.ext_getElem ?length ?bytes
  case length =>
    simp only [barRead, List.length_map, List.length_range, List.length_take, List.length_drop, identityBlock_length]
    omega
  case bytes =>
    intro i hi _
    rw [barRead, List.length_map, List.length_range] at hi
    have hread : readReg s ((off + i) / 4 * 4) = field (identityBlock s) ((off + i) / 4 * 4) 4 :=
      readReg_identity s (by omega)
    have hsplit : (off + i) / 4 * 4 + (off + i) % 4 = off + i := Nat.div_add_mod' _ _
    simp only [barRead, List.getElem_map, List.getElem_range, List.getElem_take, List.getElem_drop, hread]
    rw [ofNat_field_div (Nat.mod_lt _ (by decide)) (by rw [hsplit, identityBlock_length]; omega)]
    simp only [hsplit]

/-- COUNTER_CLEAR, at 0x108, is the first register of BAR0 that takes a write (Table 21-4). -/
theorem writeReg_of_lt {off : Nat} (h : off < 0x108) (v : W32) (s : State) : writeReg off v s = s := by
  unfold writeReg
  simp only [show ¬ 0x3F0000 ≤ off by omega, show off ≠ 0x108 by omega, show ¬ 0x10000 ≤ off by omega,
    show ¬ 0x40000 ≤ off by omega, show off ≠ 0x71174 by omega, show off ≠ 0x72004 by omega, show off ≠ 0x72008 by omega,
    show off ≠ 0x73000 by omega, false_and, ↓reduceIte, ↓reduceDIte]

theorem exec_registerWrite (off : BitVec 22) (size : Nat) (v : W64) (s : State) :
    exec (.registerWrite off size v) s = execRegisterWrite off size v s := rfl

theorem exec_registerWrite_identity {off : BitVec 22} (h : off.toNat < 0x80) (size : Nat) (v : W64) (s : State) :
    exec (.registerWrite off size v) s = .next s := by
  rw [exec_registerWrite, execRegisterWrite, writeReg_of_lt (by omega), writeReg_of_lt (by omega)]
  simp only [ite_self]

/-! IDENTIFY (R317). -/

theorem writeThen_ok {a : Nat} {bs : List Byte} {s : State} (r : Reply) (h : writeFails s a bs.length = none) :
    writeThen a bs r s = .done (daddrWrite a bs s) r := by
  rw [writeThen, h]

theorem exec_identify (n : RingIx) (s : State) : exec (.identify n) s = execIdentify n s := rfl

/-- IDENTIFY, accepted at an address that takes the write, writes the block and completes with OK. -/
theorem exec_identify_accepted {n : RingIx} {f : Fetched} {i : CmdInfo} {s u : State} (h : Accepted opIdentify n f i s)
    (hu : u = dispatch n f s) (hargs : badDaddr u.tray.variant (f.desc.u64 0x10) 64 = false)
    (hwrite : writeFails u (f.desc.u64 0x10) 128 = none) :
    exec (.identify n) s =
      .next (complete n f (Reply.of codeOk) (daddrWrite (f.desc.u64 0x10) (identityBlock u) u)) := by
  subst hu
  rw [exec_identify, execIdentify, serve_accepted h (allPass_cons.2 ⟨hargs, allPass_nil.2 trivial⟩),
    writeThen_ok _ (by rwa [identityBlock_length])]

/-- Settles O58: every number of Table 12-4 fits its field of the block, BAR0 below 0x80 reads that block, and no register
there takes a write. -/
theorem identityRegistersHoldTheIdentityBlock : Obligations.IdentityRegistersHoldTheIdentityBlock := by
  unfold Obligations.IdentityRegistersHoldTheIdentityBlock
  refine ⟨fun s => ?block, fun off size v s h => exec_registerWrite_identity h size v s,
    fun n f i s u h hu hargs hwrite => exec_identify_accepted h hu hargs hwrite⟩
  case block =>
    have hread : barRead s 0 128 = identityBlock s := by
      rw [barRead_identity s (by decide), List.drop_zero, List.take_of_length_le (identityBlock_length s).le]
    obtain ⟨hmagic, hsilicon, hvariant, hfwRel, hcmdset, hshelf, hlanes, htiles, hstacks, hports, hrestarts⟩ :=
      identityBlock_numbers s
    obtain ⟨hpkg, htraySerial, hreserved⟩ := identityBlock_serials_reserved s
    rw [Nat.mod_eq_of_lt (variantCode_lt _)] at hvariant
    rw [Nat.mod_eq_of_lt (shelfCode_lt s)] at hshelf
    rw [Nat.mod_eq_of_lt (portsFitted_lt _)] at hports
    rw [Nat.mod_eq_of_lt s.tray.restarts.isLt] at hrestarts
    refine ⟨hread, fun i hi => barRead_identity s hi, hmagic, hsilicon, hvariant, hfwRel, hcmdset, hshelf, hports, hpkg,
      htraySerial, hrestarts, hreserved, fun hbefore => ?before, fun hafter => ?after⟩
    case before =>
      rw [hlanes, htiles, hstacks]
      simp only [afterSelfcheck_before hbefore, Nat.zero_mod, and_self]
    case after =>
      rw [hlanes, htiles, hstacks]
      simp only [afterSelfcheck_after hafter, Nat.mod_eq_of_lt (sepiaLanes_lt s), Nat.mod_eq_of_lt (usableTiles_lt s),
        Nat.mod_eq_of_lt (stackCount_lt _), and_self]

end Sys2Proof.Proofs
end

/-! Every command answers a next state, leaves the queue and keeps a good machine (Laws/Keeps): the commands put together. -/
section
namespace Sys2Proof.Proofs
open Sys2Proof Sys2Proof.Machine

/-- Each command keeps what its meaning keeps: one arm per command of `exec`, as the dispatcher has them. -/
theorem exec_keeps : ∀ (c : Instr) (s : State), ResultKeeps s (exec c s)
  | .sqDb .., _ => execSqDb_keeps _ _ .rfl
  | .cqDb .., _ => execCqDb_keeps _ _ .rfl
  | .descriptorFetch .., _ => execDescriptorFetch_keeps _ .rfl
  | .fetchFailure .., _ => execFetchFailure_keeps _ .rfl
  | .completionWriteFailure .., _ => execCompletionWriteFailure_keeps _ .rfl
  | .descriptorWatchdog .., _ => execDescriptorWatchdog_keeps _ _ .rfl
  | .occupancySample, _ => execOccupancySample_keeps .rfl
  | .coalesceTimeout .., _ => execCoalesceTimeout_keeps _ .rfl
  | .ringCtrlEnable, _ => execRingCtrlEnable_keeps .rfl
  | .ringCtrlReset, _ => execRingCtrlReset_keeps .rfl
  | .counterClear .., _ => execCounterClear_keeps _ .rfl
  | .symbolCountLoRead, _ => execSymbolCountLoRead_keeps .rfl
  | .hkRoundWrite .., _ => execHkRoundWrite_keeps _ .rfl
  | .twinHbTimeoutWrite .., _ => execTwinHbTimeoutWrite_keeps _ .rfl
  | .twinRelayDelayWrite .., _ => execTwinRelayDelayWrite_keeps _ .rfl
  | .msixUnmask .., _ => execMsixUnmask_keeps _ .rfl
  | .registerWrite .., _ => execRegisterWrite_keeps _ _ _ .rfl
  | .bar4Read .., _ => execBar4Read_keeps _ _ .rfl
  | .bar4Write .., _ => execBar4Write_keeps _ _ .rfl
  | .poisonedWrite .., _ => execPoisonedWrite_keeps _ .rfl
  | .functionLevelReset .., _ => execFunctionLevelReset_keeps _ .rfl
  | .perstAssert, _ => execPerstAssert_keeps .rfl
  | .configurationRequest .., _ => execConfigurationRequest_keeps _ .rfl
  | .hostLinkLoss, _ => execHostLinkLoss_keeps .rfl
  | .identify .., _ => execIdentify_keeps _ .rfl
  | .ringConfig .., _ => execRingConfig_keeps _ .rfl
  | .ringReset .., _ => execRingReset_keeps _ .rfl
  | .ringResetDone .., _ => execRingResetDone_keeps _ .rfl
  | .setOpen .., _ => execSetOpen_keeps _ .rfl
  | .setStage .., _ => execSetStage_keeps _ .rfl
  | .setCommit .., _ => execSetCommit_keeps _ .rfl
  | .setDiscard .., _ => execSetDiscard_keeps _ .rfl
  | .setSwap .., _ => execSetSwap_keeps _ .rfl
  | .setRead .., _ => execSetRead_keeps _ .rfl
  | .setMember .., _ => execSetMember_keeps _ .rfl
  | .decompose .., _ => execDecompose_keeps _ .rfl
  | .imageRead .., _ => execImageRead_keeps _ .rfl
  | .modelCheck .., _ => execModelCheck_keeps _ .rfl
  | .matmul .., _ => execMatmul_keeps _ .rfl
  | .resident .., _ => execResident_keeps _ .rfl
  | .reduce .., _ => execReduce_keeps _ .rfl
  | .tree .., _ => execTree_keeps _ .rfl
  | .jobAbort .., _ => execJobAbort_keeps _ .rfl
  | .slot .., _ => execSlot_keeps _ .rfl
  | .eventSet .., _ => execEventSet_keeps _ .rfl
  | .eventCancel .., _ => execEventCancel_keeps _ .rfl
  | .gapDeclare .., _ => execGapDeclare_keeps _ .rfl
  | .timeConfig .., _ => execTimeConfig_keeps _ .rfl
  | .coefRead .., _ => execCoefRead_keeps _ .rfl
  | .recordRead .., _ => execRecordRead_keeps _ .rfl
  | .calTune .., _ => execCalTune_keeps _ .rfl
  | .charRequest .., _ => execCharRequest_keeps _ .rfl
  | .tileControl .., _ => execTileControl_keeps _ .rfl
  | .tileTransitionDone .., _ => execTileTransitionDone_keeps _ .rfl
  | .powerState .., _ => execPowerState_keeps _ .rfl
  | .deepEntry, _ => execDeepEntry_keeps .rfl
  | .powerCap .., _ => execPowerCap_keeps _ .rfl
  | .twinRole .., _ => execTwinRole_keeps _ .rfl
  | .handover .., _ => execHandover_keeps _ .rfl
  | .relayCycle .., _ => execRelayCycle_keeps _ .rfl
  | .sentinelRule .., _ => execSentinelRule_keeps _ .rfl
  | .fwUpdate .., _ => execFwUpdate_keeps _ .rfl
  | .fwActivate .., _ => execFwActivate_keeps _ .rfl
  | .archiveRead .., _ => execArchiveRead_keeps _ .rfl
  | .extEnroll .., _ => execExtEnroll_keeps _ .rfl
  | .extLoad .., _ => execExtLoad_keeps _ .rfl
  | .extUnload .., _ => execExtUnload_keeps _ .rfl
  | .extensionForwardedCommand .., _ => execExtensionForwardedCommand_keeps _ .rfl
  | .debugChallenge .., _ => execDebugChallenge_keeps _ .rfl
  | .debugUnlock .., _ => execDebugUnlock_keeps _ .rfl
  | .debugLock .., _ => execDebugLock_keeps _ .rfl
  | .accRead .., _ => execAccRead_keeps _ .rfl
  | .accWrite .., _ => execAccWrite_keeps _ .rfl
  | .vecRaw .., _ => execVecRaw_keeps _ .rfl
  | .coefWrite .., _ => execCoefWrite_keeps _ .rfl
  | .rootPllLock, _ => execRootPllLock_keeps .rfl
  | .rootPllUnlock, _ => execRootPllUnlock_keeps .rfl
  | .clockFault, _ => execClockFault_keeps .rfl
  | .woadTrimCount .., _ => execWoadTrimCount_keeps _ .rfl
  | .ptpMessageRx .., _ => execPtpMessageRx_keeps _ _ .rfl
  | .announceReceiptTimeout, _ => execAnnounceReceiptTimeout_keeps .rfl
  | .servoLocked, _ => execServoLocked_keeps .rfl
  | .holdoverLimitCrossed, _ => execHoldoverLimitCrossed_keeps .rfl
  | .synceLoss, _ => execSynceLoss_keeps .rfl
  | .tuningRangeLimit, _ => execTuningRangeLimit_keeps .rfl
  | .phaseSlewEnd, _ => execPhaseSlewEnd_keeps .rfl
  | .eventRadioSwap .., _ => execEventRadioSwap_keeps _ .rfl
  | .eventTileSwap .., _ => execEventTileSwap_keeps _ .rfl
  | .eventGapStart .., _ => execEventGapStart_keeps _ .rfl
  | .eventGapEnd .., _ => execEventGapEnd_keeps _ .rfl
  | .eventNotify .., _ => execEventNotify_keeps _ .rfl
  | .uplaneMessageRx .., _ => execUplaneMessageRx_keeps _ _ .rfl
  | .delayMeasurementRx .., _ => execDelayMeasurementRx_keeps _ _ .rfl
  | .esmcMessageRx .., _ => execEsmcMessageRx_keeps _ .rfl
  | .portSignalLoss .., _ => execPortSignalLoss_keeps _ .rfl
  | .qsfpModuleInsert .., _ => execQsfpModuleInsert_keeps _ _ .rfl
  | .rxClose .., _ => execRxClose_keeps _ _ _ .rfl
  | .dlSetStart .., _ => execDlSetStart_keeps _ _ _ .rfl
  | .txWindowOpen .., _ => execTxWindowOpen_keeps _ _ _ .rfl
  | .cplaneTx .., _ => execCplaneTx_keeps _ _ .rfl
  | .layerFetchDone .., _ => execLayerFetchDone_keeps _ _ .rfl
  | .rxMissingHigh .., _ => execRxMissingHigh_keeps _ .rfl
  | .segmentDispatch .., _ => execSegmentDispatch_keeps _ _ _ _ _ _ .rfl
  | .segmentEnd .., _ => execSegmentEnd_keeps _ .rfl
  | .shadowLoadDone .., _ => execShadowLoadDone_keeps _ .rfl
  | .latchParityError .., _ => execLatchParityError_keeps _ _ .rfl
  | .segmapReloadTimer .., _ => execSegmapReloadTimer_keeps _ .rfl
  | .sampleFold .., _ => execSampleFold_keeps _ _ _ _ _ _ _ .rfl
  | .jobOutputDone .., _ => execJobOutputDone_keeps _ .rfl
  | .chainReceive .., _ => execChainReceive_keeps _ .rfl
  | .atomicAdd .., _ => execAtomicAdd_keeps _ _ .rfl
  | .atomicAckTimeout .., _ => execAtomicAckTimeout_keeps _ .rfl
  | .scratchpadEccError .., _ => execScratchpadEccError_keeps _ _ _ _ .rfl
  | .interKermesLinkError .., _ => execInterKermesLinkError_keeps _ .rfl
  | .memoryEccError .., _ => execMemoryEccError_keeps _ _ _ _ _ .rfl
  | .treeRecordArrival .., _ => execTreeRecordArrival_keeps _ .rfl
  | .sepiaWaveEnd .., _ => execSepiaWaveEnd_keeps _ .rfl
  | .sepiaLaneParity .., _ => execSepiaLaneParity_keeps _ _ .rfl
  | .sepiaKatTimer .., _ => execSepiaKatTimer_keeps _ .rfl
  | .lightLossTrip .., _ => execLightLossTrip_keeps _ .rfl
  | .stripeLockAcquired .., _ => execStripeLockAcquired_keeps _ .rfl
  | .stripeLockLost .., _ => execStripeLockLost_keeps _ .rfl
  | .stripeLockTimeout .., _ => execStripeLockTimeout_keeps _ .rfl
  | .maintRestoreDone .., _ => execMaintRestoreDone_keeps _ .rfl
  | .collectorWindowClose .., _ => execCollectorWindowClose_keeps _ _ .rfl
  | .monitorRoundEnd .., _ => execMonitorRoundEnd_keeps _ _ _ _ .rfl
  | .heaterFrame .., _ => execHeaterFrame_keeps _ _ _ .rfl
  | .heaterControlFault .., _ => execHeaterControlFault_keeps _ _ .rfl
  | .heaterOvercurrent .., _ => execHeaterOvercurrent_keeps _ .rfl
  | .driftWindowClose .., _ => execDriftWindowClose_keeps _ .rfl
  | .routinePassStart .., _ => execRoutinePassStart_keeps _ .rfl
  | .idleGapOpen .., _ => execIdleGapOpen_keeps _ .rfl
  | .charUnitEnd .., _ => execCharUnitEnd_keeps _ _ _ .rfl
  | .charStarved .., _ => execCharStarved_keeps _ .rfl
  | .runningSealTimer .., _ => execRunningSealTimer_keeps _ .rfl
  | .powerBudgetUpdate .., _ => execPowerBudgetUpdate_keeps _ _ _ .rfl
  | .arbiterHoldTimeout .., _ => execArbiterHoldTimeout_keeps _ _ .rfl
  | .dispatchDeadlineMiss .., _ => execDispatchDeadlineMiss_keeps _ .rfl
  | .feedLow .., _ => execFeedLow_keeps _ _ .rfl
  | .feedLowRestore .., _ => execFeedLowRestore_keeps _ _ .rfl
  | .feedLost .., _ => execFeedLost_keeps _ _ .rfl
  | .feedHigh .., _ => execFeedHigh_keeps _ _ .rfl
  | .feedHighReconnect .., _ => execFeedHighReconnect_keeps _ _ .rfl
  | .feedReversed .., _ => execFeedReversed_keeps _ .rfl
  | .stageS0Warn .., _ => execStageS0Warn_keeps _ _ .rfl
  | .stageS1Shed, _ => execStageS1Shed_keeps .rfl
  | .stageS2Park .., _ => execStageS2Park_keeps _ _ _ .rfl
  | .stageS3Commit, _ => execStageS3Commit_keeps .rfl
  | .stageS4Off .., _ => execStageS4Off_keeps _ _ _ .rfl
  | .returnToService .., _ => execReturnToService_keeps _ _ .rfl
  | .forcedS4 .., _ => execForcedS4_keeps _ _ _ .rfl
  | .restartQualify .., _ => execRestartQualify_keeps _ _ .rfl
  | .bankMeasure .., _ => execBankMeasure_keeps _ .rfl
  | .chargerFail .., _ => execChargerFail_keeps _ .rfl
  | .railFault, _ => execRailFault_keeps .rfl
  | .feedRelayReclose, _ => execFeedRelayReclose_keeps .rfl
  | .relayCmdPulse, _ => execRelayCmdPulse_keeps .rfl
  | .coldStart, _ => execColdStart_keeps .rfl
  | .warmRestart, _ => execWarmRestart_keeps .rfl
  | .phaseRomEnd, _ => execPhaseRomEnd_keeps .rfl
  | .phaseVerify, _ => execPhaseVerify_keeps .rfl
  | .phaseFirmwareEnd, _ => execPhaseFirmwareEnd_keeps .rfl
  | .phaseRestore, _ => execPhaseRestore_keeps .rfl
  | .phaseLockEnd, _ => execPhaseLockEnd_keeps .rfl
  | .phaseSelfcheck .., _ => execPhaseSelfcheck_keeps _ .rfl
  | .phaseSettle, _ => execPhaseSettle_keeps .rfl
  | .phaseDone, _ => execPhaseDone_keeps .rfl
  | .startFailed, _ => execStartFailed_keeps .rfl
  | .memoryTrainingDone, _ => execMemoryTrainingDone_keeps .rfl
  | .tileLockTimeout .., _ => execTileLockTimeout_keeps _ .rfl
  | .settleTimeout .., _ => execSettleTimeout_keeps _ .rfl
  | .heldStreamsOpen, _ => execHeldStreamsOpen_keeps .rfl
  | .heldStreamsTimeout, _ => execHeldStreamsTimeout_keeps .rfl
  | .startPhaseLate, _ => execStartPhaseLate_keeps .rfl
  | .woadPowerUp, _ => execWoadPowerUp_keeps .rfl
  | .woadRuleSet .., _ => execWoadRuleSet_keeps _ .rfl
  | .woadRuleClear .., _ => execWoadRuleClear_keeps _ .rfl
  | .madderLivenessTimeout, _ => execMadderLivenessTimeout_keeps .rfl
  | .thermalTrip, _ => execThermalTrip_keeps .rfl
  | .serviceButtonPress, _ => execServiceButtonPress_keeps .rfl
  | .locLampTimeout, _ => execLocLampTimeout_keeps .rfl
  | .housekeepingRoundEnd .., _ => execHousekeepingRoundEnd_keeps _ _ .rfl
  | .skipEscalation .., _ => execSkipEscalation_keeps _ .rfl
  | .fanFailure .., _ => execFanFailure_keeps _ .rfl
  | .flashEraseDone .., _ => execFlashEraseDone_keeps _ .rfl
  | .flashProgramDone .., _ => execFlashProgramDone_keeps _ _ .rfl
  | .flashMarginReadDone .., _ => execFlashMarginReadDone_keeps _ _ .rfl
  | .temperatureRetry, _ => execTemperatureRetry_keeps .rfl
  | .eventArchiveFlush, _ => execEventArchiveFlush_keeps .rfl
  | .oscTableStore, _ => execOscTableStore_keeps .rfl
  | .archiveNoResponse, _ => execArchiveNoResponse_keeps .rfl
  | .heartbeatSend, _ => execHeartbeatSend_keeps .rfl
  | .heartbeatRx .., _ => execHeartbeatRx_keeps _ .rfl
  | .heartbeatTimeout, _ => execHeartbeatTimeout_keeps .rfl
  | .holdTimerExpiry, _ => execHoldTimerExpiry_keeps .rfl
  | .custodyTransfer .., _ => execCustodyTransfer_keeps _ .rfl
  | .grantChange .., _ => execGrantChange_keeps _ .rfl
  | .ackFrameRx .., _ => execAckFrameRx_keeps _ _ .rfl
  | .replayTimeout, _ => execReplayTimeout_keeps .rfl
  | .mirrorFrameRx .., _ => execMirrorFrameRx_keeps _ _ .rfl
  | .memcopyFrameRx .., _ => execMemcopyFrameRx_keeps _ _ _ .rfl
  | .handoverFrameRx .., _ => execHandoverFrameRx_keeps _ _ .rfl
  | .chainFrameRx .., _ => execChainFrameRx_keeps _ _ .rfl
  | .resyncFrameRx .., _ => execResyncFrameRx_keeps _ _ .rfl
  | .linkTrainingEnd .., _ => execLinkTrainingEnd_keeps _ .rfl
  | .linkTrainingRetry, _ => execLinkTrainingRetry_keeps .rfl
  | .mirrorAckTimeout, _ => execMirrorAckTimeout_keeps .rfl
  | .pairNoneTimeout, _ => execPairNoneTimeout_keeps .rfl
  | .transferPoint, _ => execTransferPoint_keeps .rfl
  | .takeoverRepeat, _ => execTakeoverRepeat_keeps .rfl
  | .relayDelayExpiry, _ => execRelayDelayExpiry_keeps .rfl
  | .aloneCustodyRequest, _ => execAloneCustodyRequest_keeps .rfl
  | .custodyLogicFault, _ => execCustodyLogicFault_keeps .rfl
  | .moveOperand .., _ => execMoveOperand_keeps _ _ _ _ .rfl
  | .limmTInt .., _ => execLimmTInt_keeps _ _ _ .rfl
  | .limmTPtr .., _ => execLimmTPtr_keeps _ _ _ .rfl
  | .limmTCode .., _ => execLimmTCode_keeps _ _ _ .rfl
  | .limmTBits .., _ => execLimmTBits_keeps _ _ _ .rfl
  | .aluAdd .., _ => execAluAdd_keeps _ _ _ .rfl
  | .aluSub .., _ => execAluSub_keeps _ _ _ .rfl
  | .aluNeg .., _ => execAluNeg_keeps _ _ _ .rfl
  | .aluAnd .., _ => execAluAnd_keeps _ _ _ .rfl
  | .aluOr .., _ => execAluOr_keeps _ _ _ .rfl
  | .aluXor .., _ => execAluXor_keeps _ _ _ .rfl
  | .aluNot .., _ => execAluNot_keeps _ _ _ .rfl
  | .aluShl .., _ => execAluShl_keeps _ _ _ .rfl
  | .aluShr .., _ => execAluShr_keeps _ _ _ .rfl
  | .aluSar .., _ => execAluSar_keeps _ _ _ .rfl
  | .mulMul .., _ => execMulMul_keeps _ _ _ .rfl
  | .mulMulh .., _ => execMulMulh_keeps _ _ _ .rfl
  | .mulDiv .., _ => execMulDiv_keeps _ _ _ .rfl
  | .mulMod .., _ => execMulMod_keeps _ _ _ .rfl
  | .cmpEq .., _ => execCmpEq_keeps _ _ _ .rfl
  | .cmpNe .., _ => execCmpNe_keeps _ _ _ .rfl
  | .cmpLt .., _ => execCmpLt_keeps _ _ _ .rfl
  | .cmpLe .., _ => execCmpLe_keeps _ _ _ .rfl
  | .cmpLtu .., _ => execCmpLtu_keeps _ _ _ .rfl
  | .cmpLeu .., _ => execCmpLeu_keeps _ _ _ .rfl
  | .cmpCarry .., _ => execCmpCarry_keeps _ _ _ .rfl
  | .cmpOvf .., _ => execCmpOvf_keeps _ _ _ .rfl
  | .cmpBit .., _ => execCmpBit_keeps _ _ _ .rfl
  | .lsuLdw .., _ => execLsuLdw_keeps _ _ _ .rfl
  | .lsuLdb .., _ => execLsuLdb_keeps _ _ _ .rfl
  | .lsuLdbu .., _ => execLsuLdbu_keeps _ _ _ .rfl
  | .lsuLdh .., _ => execLsuLdh_keeps _ _ _ .rfl
  | .lsuLdhu .., _ => execLsuLdhu_keeps _ _ _ .rfl
  | .lsuStw .., _ => execLsuStw_keeps _ _ _ .rfl
  | .lsuStb .., _ => execLsuStb_keeps _ _ _ .rfl
  | .lsuSth .., _ => execLsuSth_keeps _ _ _ .rfl
  | .lsuLea .., _ => execLsuLea_keeps _ _ _ .rfl
  | .brJump .., _ => execBrJump_keeps _ _ _ .rfl
  | .brCall .., _ => execBrCall_keeps _ _ _ .rfl
  | .brReturn .., _ => execBrReturn_keeps _ _ _ .rfl
  | .dstkPush .., _ => execDstkPush_keeps _ _ _ .rfl
  | .rstkPush .., _ => execRstkPush_keeps _ _ _ .rfl
  | .tagGettag .., _ => execTagGettag_keeps _ _ _ .rfl
  | .tagToint .., _ => execTagToint_keeps _ _ _ .rfl
  | .tagTobits .., _ => execTagTobits_keeps _ _ _ .rfl
  | .tagWrapInt .., _ => execTagWrapInt_keeps _ _ _ .rfl
  | .tagToptr .., _ => execTagToptr_keeps _ _ _ .rfl
  | .tagTocode .., _ => execTagTocode_keeps _ _ _ .rfl
  | .mbxRecv .., _ => execMbxRecv_keeps _ _ _ .rfl
  | .mbxRecvDelivery .., _ => execMbxRecvDelivery_keeps _ .rfl
  | .mbxArg16 .., _ => execMbxArg16_keeps _ _ _ .rfl
  | .mbxComplete .., _ => execMbxComplete_keeps _ _ _ .rfl
  | .mbxSubmit .., _ => execMbxSubmit_keeps _ _ _ .rfl
  | .mbxWait .., _ => execMbxWait_keeps _ _ _ .rfl
  | .mbxWaitDone .., _ => execMbxWaitDone_keeps _ .rfl
  | .mbxEvent .., _ => execMbxEvent_keeps _ _ _ .rfl
  | .mbxFetch .., _ => execMbxFetch_keeps _ _ _ .rfl
  | .xfrRead .., _ => execXfrRead_keeps _ _ _ .rfl
  | .xfrWrite .., _ => execXfrWrite_keeps _ _ _ .rfl
  | .xfrDone .., _ => execXfrDone_keeps _ _ .rfl
  | .flsRead .., _ => execFlsRead_keeps _ _ _ .rfl
  | .flsProgram .., _ => execFlsProgram_keeps _ _ _ .rfl
  | .flsErase .., _ => execFlsErase_keeps _ _ _ .rfl
  | .flsMargin .., _ => execFlsMargin_keeps _ _ _ .rfl
  | .flsPoll .., _ => execFlsPoll_keeps _ _ _ .rfl
  | .tmrSampleSc .., _ => execTmrSampleSc_keeps _ _ _ .rfl
  | .tmrSampleKc .., _ => execTmrSampleKc_keeps _ _ _ .rfl
  | .tmrDelay .., _ => execTmrDelay_keeps _ _ _ .rfl
  | .tmrDelayDone .., _ => execTmrDelayDone_keeps _ .rfl
  | .csrRead .., _ => execCsrRead_keeps _ _ _ .rfl
  | .csrWrite .., _ => execCsrWrite_keeps _ _ _ .rfl
  | .coreWatchdog .., _ => execCoreWatchdog_keeps _ .rfl
  | .coreRestartDone .., _ => execCoreRestartDone_keeps _ .rfl
  | .woadPowerLoss, _ => execWoadPowerLoss_keeps .rfl
  | .deepSupplyLoss, _ => execDeepSupplyLoss_keeps .rfl
  | .kermesDieFailure .., _ => execKermesDieFailure_keeps _ .rfl
  | .synceValid, _ => execSynceValid_keeps .rfl
  | .feedNormal .., _ => execFeedNormal_keeps _ _ .rfl
  | .feedTransient .., _ => execFeedTransient_keeps _ _ .rfl
  | .twinHoldChange .., _ => execTwinHoldChange_keeps _ .rfl
  | .slotDescriptorDeadline .., _ => execSlotDescriptorDeadline_keeps _ _ .rfl
  | .fetchProgressWatchdog, _ => execFetchProgressWatchdog_keeps .rfl
  | .bankFull, _ => execBankFull_keeps .rfl
  | .debugChallengeExpiry, _ => execDebugChallengeExpiry_keeps .rfl
  | .pcsAligned .., _ => execPcsAligned_keeps _ .rfl
  | .moduleFault .., _ => execModuleFault_keeps _ .rfl
  | .hostLinkUp, _ => execHostLinkUp_keeps .rfl
  | .woadRuleParity, _ => execWoadRuleParity_keeps .rfl

/-- Settles O4: an answer that keeps the queue is a next state with that queue. -/
theorem noCommandStopsOrTouchesTheQueue : Obligations.NoCommandStopsOrTouchesTheQueue := by
  unfold Obligations.NoCommandStopsOrTouchesTheQueue
  intro c s
  obtain ⟨t, ht, hkeeps⟩ := (exec_keeps c s).exists_next
  exact ⟨t, ht, hkeeps.queue⟩

theorem step_cons {c : Instr} {cs : List Instr} {s : State} (h : s.pending = c :: cs) :
    step s = exec c { s with pending := cs } := by
  rw [step, h]

theorem step_nil {s : State} (h : s.pending = []) : step s = .next (tick s) := by
  rw [step, h]

/-- Settles O3: the two branches of `step`. -/
theorem stepTakesTheFrontCommand : Obligations.StepTakesTheFrontCommand := by
  unfold Obligations.StepTakesTheFrontCommand
  exact ⟨fun c cs s => step_cons rfl, fun s hempty => step_nil hempty⟩

/-- The queue is no part of what makes a machine good. -/
theorem good_pending {s : State} (h : s.good) (q : List Instr) : { s with pending := q }.good :=
  ⟨h.mem, h.flash, h.cores, h.xshared⟩

/-- Settles O5: a step is a tick or one command, and both keep a good machine. -/
theorem everyStepKeepsAGoodMachine : Obligations.EveryStepKeepsAGoodMachine := by
  unfold Obligations.EveryStepKeepsAGoodMachine
  intro s t hgood hstep
  cases hq : s.pending with
  | nil =>
    rw [step_nil hq] at hstep
    cases hstep
    have hkeeps : Keeps s (tick s) := tick_keeps .rfl
    exact ⟨hkeeps.good hgood, hkeeps.queue.trans hq⟩
  | cons c cs =>
    rw [step_cons hq] at hstep
    obtain ⟨u, hu, hkeeps⟩ := (exec_keeps c { s with pending := cs }).exists_next
    obtain rfl : u = t := Host.Outcome.next.inj (hu.symm.trans hstep)
    exact ⟨hkeeps.good (good_pending hgood cs), hkeeps.queue⟩

end Sys2Proof.Proofs
end

/-! The machine after reset: it is good, and its registers hold what the spec states. -/
section
namespace Sys2Proof.Proofs
open Sys2Proof Sys2Proof.Machine

theorem coresInit_wf : coresWf coresInit := by
  intro k
  rw [coresInit, Fin.getElem_fin, Vector.getElem_ofFn]
  exact Core.wf.fresh _ rfl rfl rfl rfl rfl rfl rfl

theorem reset_good : State.reset.good where
  mem := ⟨rfl, rfl⟩
  flash := ⟨rfl, rfl, rfl, rfl, rfl⟩
  cores := coresInit_wf
  xshared := ⟨rfl, rfl⟩

/-- Settles O6: no memory lists a byte, and each core is as a start leaves it. -/
theorem resetIsAGoodMachine : Obligations.ResetIsAGoodMachine := by
  unfold Obligations.ResetIsAGoodMachine
  exact ⟨reset_good, rfl⟩

/-! Each bank of the reset state holds one value at every index, ring 0's level and core 2's state aside. -/

theorem reset_ring (n : RingIx) : State.reset.rings[n] = Ring.init (if n.val = 0 then 3 else 0) := by
  simp only [State.reset, ringsInit, Fin.getElem_fin, Vector.getElem_ofFn]

theorem reset_msix (v : Fin 128) : State.reset.host.msixTable[v] = MsixEntry.init := by
  simp only [State.reset, HostIf.init, Fin.getElem_fin, Vector.getElem_replicate]

theorem reset_tile (t : TileIx) : State.reset.tiles[t] = Tile.init := by
  simp only [State.reset, Fin.getElem_fin, Vector.getElem_replicate]

theorem reset_core (k : CoreIx) :
    State.reset.cores[k] = Core.init (if k.val = 2 then .halted else .running) := by
  simp only [State.reset, coresInit, Fin.getElem_fin, Vector.getElem_ofFn]

/-- Settles O59: each field of the reset state is read off the initial value of its bank. -/
theorem resetStateHoldsTheStatedValues : Obligations.ResetStateHoldsTheStatedValues := by
  unfold Obligations.ResetStateHoldsTheStatedValues
  refine ⟨?time, ?rings, ?host, ?tiles, ?groups, ?tray, ?cores⟩
  case time => exact ⟨rfl, rfl, rfl, rfl, rfl, rfl, rfl, rfl⟩
  case rings =>
    intro n
    rw [reset_ring n]
    refine ⟨rfl, rfl, rfl, rfl, rfl, rfl, rfl, rfl, rfl, rfl, ?_⟩
    simp only [Ring.init, Fin.ext_iff, Fin.val_zero]
  case host =>
    refine ⟨rfl, fun v => ?_, rfl, rfl, rfl, rfl⟩
    rw [reset_msix v]
    rfl
  case tiles =>
    intro t
    rw [reset_tile t]
    exact ⟨rfl, rfl, rfl, rfl, rfl, rfl, rfl, rfl, rfl⟩
  case groups =>
    intro g
    fin_cases g <;> exact ⟨rfl, rfl⟩
  case tray => exact ⟨rfl, rfl, rfl, rfl, rfl, rfl, rfl, rfl, rfl, rfl, rfl, rfl, rfl, rfl, rfl⟩
  case cores =>
    intro k
    rw [reset_core k]
    exact ⟨rfl, rfl, rfl, rfl, rfl, rfl, rfl, rfl, rfl, rfl, rfl, rfl, rfl, rfl⟩

end Sys2Proof.Proofs
end

/-! The addressed memories through a DADDR (R311, R547). -/
section
namespace Sys2Proof.Proofs
open Sys2Proof Sys2Proof.Machine

/-- A write that passes reaches the memory that the address names. -/
theorem daddrWrite_of_ok {s : State} {a : Nat} {bs : List Byte} (h : writeFails s a bs.length = none) :
    daddrWrite a bs s = if daddrIsStack a then stackWrite (daddrOff a) bs s else hostWrite a bs s := by
  rw [daddrWrite, h]

theorem daddrWrite_mem_of_fail {s : State} {a : Nat} {bs : List Byte} {c : W16}
    (h : writeFails s a bs.length = some c) : (daddrWrite a bs s).mem = s.mem := by
  rw [daddrWrite, h]
  dsimp only
  split <;> rfl

theorem daddrRead_daddrWrite {s : State} {a : Nat} {bs : List Byte} (hgood : s.good)
    (h : writeFails s a bs.length = none) : daddrRead (daddrWrite a bs s) a bs.length = bs := by
  rw [daddrWrite_of_ok h, daddrRead]
  cases daddrIsStack a
  case true => exact memReadN_memWriteN zeroByte bs _ _ hgood.mem.2
  case false => exact memReadN_memWriteN zeroByte bs _ _ hgood.mem.1

/-- Settles O7: by the read after a write and the frame of one memory, at the memory that the address names. -/
theorem memoryReadsBackWhatWasWritten : Obligations.MemoryReadsBackWhatWasWritten := by
  unfold Obligations.MemoryReadsBackWhatWasWritten
  refine ⟨?passes, fun s a bs c hfails => daddrWrite_mem_of_fail hfails⟩
  intro s a bs hgood hok
  refine ⟨daddrRead_daddrWrite hgood hok, ?stack, ?host⟩
  case stack =>
    intro hstack
    rw [daddrWrite_of_ok hok, if_pos hstack]
    exact ⟨rfl, fun x hx => memRead_memWriteN_outside zeroByte bs _ _ x hx⟩
  case host =>
    intro hhost
    rw [daddrWrite_of_ok hok, if_neg (by rw [hhost]; exact Bool.false_ne_true)]
    exact ⟨rfl, fun x hx => memRead_memWriteN_outside zeroByte bs _ _ x hx⟩

end Sys2Proof.Proofs
end

/-! Descriptors that firmware does not serve, or refuses before their command's own effect (R298, R312, R314). -/
section
namespace Sys2Proof.Proofs
open Sys2Proof Sys2Proof.Machine

/-- The least of some naturals is among them, and below each of them. -/
theorem least_of_mem {l : List Nat} {x : Nat} (h : x ∈ l) : ∃ y ≤ x, least l = some y := by
  induction l with
  | nil => cases h
  | cons a l ih =>
    rw [least]
    cases hl : least l with
    | none =>
      rw [least_eq_none.1 hl, List.mem_singleton] at h
      exact ⟨a, h.ge, rfl⟩
    | some z =>
      refine ⟨min a z, ?_, rfl⟩
      cases h with
      | head => exact Nat.min_le_left _ _
      | tail _ hx =>
        obtain ⟨y, hy, hly⟩ := ih hx
        rw [Option.some.inj (hl.symm.trans hly)]
        exact (Nat.min_le_right _ _).trans hy

theorem firstFailing_of_mem {cs : List (Nat × Bool)} {o : Nat} (h : (o, true) ∈ cs) :
    ∃ o' ≤ o, firstFailing cs = some o' :=
  least_of_mem (List.mem_map_of_mem (f := Prod.fst) (List.mem_filter.2 ⟨h, rfl⟩))

/-- A byte that the command does not define is a failing check where it is not 0 (R10). -/
theorem mem_reservedChecks {i : CmdInfo} {d : Descriptor} {o : Nat} (hlt : o < 64) (hle : 8 ≤ o)
    (hreserved : inFields i.fields o = false) (hset : d.u8 o ≠ 0) : (o, true) ∈ reservedChecks i d :=
  List.mem_map.2 ⟨o, List.mem_range.2 hlt, by simp [hle, hreserved, hset]⟩

section Serve
variable {op : Nat} {n : RingIx} {f : Fetched} {i : CmdInfo} {s : State} (args : Fetched → State → List (Nat × Bool))
  (body : Fetched → State → Body)

theorem serve_of_nothing_next (h : firmwareServes s = false ∨ nextFor (isOp op) n s = none) :
    serve (isOp op) n args body s = .next s := by
  rw [serve]
  rcases h with hstopped | hnone
  · rw [hstopped, Bool.not_false, if_pos rfl]
  · rw [hnone, ite_self]

variable (hruns : firmwareServes s = true) (hnext : nextFor (isOp op) n s = some f)
  (hinfo : cmdInfo f.desc.opcode = some i)
include hruns hnext hinfo

theorem serve_of_failing_arg {o : Nat}
    (hfails : firstFailing (reservedChecks i f.desc ++ args f (dispatch n f s)) = some o) :
    serve (isOp op) n args body s = .next (complete n f (Reply.arg o) (dispatch n f s)) := by
  simp only [serve, hruns, hnext, hinfo, hfails, Bool.not_true, Bool.false_eq_true, if_false]

theorem serve_of_illegal {e : W16}
    (hpass : firstFailing (reservedChecks i f.desc ++ args f (dispatch n f s)) = none)
    (hillegal : legalityCode i.legal s.tray.powerState (decide (s.twin.role = .standby)) s.tray.debugOn = some e) :
    serve (isOp op) n args body s = .next (complete n f (Reply.of e) (dispatch n f s)) := by
  have hcode : legalityCode i.legal (dispatch n f s).tray.powerState (decide ((dispatch n f s).twin.role = .standby))
      (dispatch n f s).tray.debugOn = some e := hillegal
  simp only [serve, hruns, hnext, hinfo, hpass, hcode, Bool.not_true, Bool.false_eq_true, if_false]

end Serve

/-- Settles O54: every such command is `serve` of its opcode, whose checks come in this order. -/
theorem descriptorsThatAreNotRunOrRefused : Obligations.DescriptorsThatAreNotRunOrRefused := by
  unfold Obligations.DescriptorsThatAreNotRunOrRefused
  intro c op n s hserved
  obtain ⟨args, body, hexec⟩ := servedBy_serve hserved
  refine ⟨fun hnothing => (hexec s).trans (serve_of_nothing_next args body hnothing), ?_⟩
  intro f i hruns hnext hinfo
  refine ⟨?reserved, ?illegal⟩
  case reserved =>
    intro o hlt hle hreserved hset
    obtain ⟨o', ho', hfails⟩ := firstFailing_of_mem
      (List.mem_append_left (args f (dispatch n f s)) (mem_reservedChecks hlt hle hreserved hset))
    exact ⟨o', ho', (hexec s).trans (serve_of_failing_arg args body hruns hnext hinfo hfails)⟩
  case illegal =>
    intro e hillegal
    cases hargs : firstFailing (reservedChecks i f.desc ++ args f (dispatch n f s)) with
    | none => exact .inl ((hexec s).trans (serve_of_illegal args body hruns hnext hinfo hargs hillegal))
    | some o => exact .inr ⟨o, (hexec s).trans (serve_of_failing_arg args body hruns hnext hinfo hargs)⟩

end Sys2Proof.Proofs
end

/-! Completion entries (Table 11-4) and where they go (R291 to R293, R297). -/
section
namespace Sys2Proof.Proofs
open Sys2Proof Sys2Proof.Machine

/-- The third field of an entry: the SQ index and its four flags fit 16 bits. -/
theorem entryFlags_lt (q : Ring) (e : Entry) :
    q.sqHead.toNat + (if e.stale then 0x1000 else 0) + (if e.event then 0x2000 else 0) +
      (if e.more then 0x4000 else 0) + (if q.phase then 0x8000 else 0) < 65536 := by
  have := q.sqHead.isLt
  split_ifs <;> omega

/-- The fields of Table 11-4 at their offsets. -/
theorem entryBytes_fields (q : Ring) (e : Entry) :
    field (entryBytes q e) 0 4 = e.tag.toNat ∧ field (entryBytes q e) 4 2 = e.status.toNat ∧
    field (entryBytes q e) 8 4 = e.result.toNat ∧ field (entryBytes q e) 12 2 = e.epoch.toNat ∧
    field (entryBytes q e) 14 2 = e.detail.toNat ∧
    field (entryBytes q e) 6 2 = q.sqHead.toNat + (if e.stale then 0x1000 else 0) + (if e.event then 0x2000 else 0) +
      (if e.more then 0x4000 else 0) + (if q.phase then 0x8000 else 0) := by
  have hlast : field (leBytes 2 e.detail.toNat) 0 2 = e.detail.toNat % 256 ^ 2 := by
    rw [← List.append_nil (leBytes 2 e.detail.toNat), field_leBytes_append]
  simp only [entryBytes, List.append_assoc, field_append_of_length_le, leBytes_length, field_leBytes_append,
    Nat.reduceLeDiff, Nat.reduceSub, Nat.le_refl, hlast]
  exact ⟨Nat.mod_eq_of_lt e.tag.isLt, Nat.mod_eq_of_lt e.status.isLt, Nat.mod_eq_of_lt e.result.isLt,
    Nat.mod_eq_of_lt e.epoch.isLt, Nat.mod_eq_of_lt e.detail.isLt, Nat.mod_eq_of_lt (entryFlags_lt q e)⟩

/-- A completion that goes to a ring on which nothing waits leaves its entry alone to be written. -/
theorem complete_drains {n : RingIx} {f : Fetched} {s : State} (r : Reply) (hholds : s.rings[n].holds f.id = true)
    (hsubmitter : submitter n f.id s = none) (hposts : s.rings[n].posts = true) (hwaiting : s.rings[n].waiting = []) :
    ∃ q : Ring, complete n f r s = drainCq n 1 (setRing n (fun _ => q) s) ∧ q.waiting = [r.entry f.desc] ∧
      q.sqHead = s.rings[n].sqHead ∧ q.phase = s.rings[n].phase ∧ q.cqBase = s.rings[n].cqBase ∧
      q.cqTail = s.rings[n].cqTail ∧ q.cqHead = s.rings[n].cqHead ∧ q.log2Depth = s.rings[n].log2Depth := by
  obtain ⟨q, hcomplete, hrest⟩ := complete_posts (r := r) hholds hsubmitter hposts hwaiting
  exact ⟨{ q with waiting := [r.entry f.desc] }, hcomplete, rfl, hrest⟩

/-- What waits has no part in how the CQ index advances. -/
theorem advanceCq_with_waiting (q : Ring) (es : List Entry) :
    Ring.advanceCq { q with waiting := es } = { q.advanceCq with waiting := es } := by
  unfold Ring.advanceCq
  change (if q.cqTail.toNat + 1 = 2 * q.depth then _ else _) = _
  split <;> rfl

/-- The one entry that waits is written where there is room and the link is up. -/
theorem drainCq_one_of_room {n : RingIx} {q : Ring} {e : Entry} {s : State} (hwaits : q.waiting = [e])
    (hroom : q.hasRoom = true) (hlink : s.host.linkUp = true) : ∃ t, drainCq n 1 (setRing n (fun _ => q) s) = t ∧
      t.mem = { s.mem with
        hostMem := memWriteN zeroByte s.mem.hostMem (q.cqBase.toNat + 16 * q.cqTail.toNat) (entryBytes q e) } ∧
      t.rings[n].waiting = [] ∧ t.rings[n].cqTail = q.advanceCq.cqTail ∧ t.rings[n].phase = q.advanceCq.phase := by
  refine ⟨writeEntry n e (setRing n (fun _ => { q with waiting := [] }) s), ?drains, ?mem, ?ring⟩
  case drains =>
    simp only [drainCq, setRing_self, hwaits, hroom, setRing_host, hlink, Bool.and_self, if_true, setRing_setRing]
  case mem =>
    rw [writeEntry_mem, setRing_self]
    rfl
  case ring =>
    have hring := writeEntry_ring n e (setRing n (fun _ => { q with waiting := [] }) s)
    rwa [setRing_self, advanceCq_with_waiting] at hring

theorem drainCq_of_no_room {n : RingIx} {fuel : Nat} {s : State}
    (h : s.rings[n].hasRoom = false ∨ s.host.linkUp = false) : drainCq n fuel s = s := by
  have hstops : (s.rings[n].hasRoom && s.host.linkUp) = false := by
    rcases h with h | h <;> rw [h]
    · rw [Bool.false_and]
    · rw [Bool.and_false]
  cases fuel with
  | zero => rfl
  | succ fuel =>
    rw [drainCq]
    split
    · rfl
    · rw [hstops, if_neg Bool.false_ne_true]

theorem complete_of_lost {n : RingIx} {f : Fetched} (r : Reply) {s : State} (h : s.rings[n].holds f.id = false) :
    complete n f r s = s := by
  rw [complete, h, if_neg Bool.false_ne_true]

/-- Settles O55: the completion's entry is the one that waits; it is written, or stays. -/
theorem completionsAreWrittenInOrder : Obligations.CompletionsAreWrittenInOrder := by
  unfold Obligations.CompletionsAreWrittenInOrder
  refine ⟨?posts, fun n f r s hlost => complete_of_lost r hlost,
    fun q e => ⟨entryBytes_length q e, entryBytes_fields q e⟩⟩
  intro n f r s t hgood hholds hsubmitter hposts hwaiting ht
  obtain ⟨q, hcomplete, hwaits, hsqHead, hphase, hbase, htail, hhead, hdepth⟩ :=
    complete_drains r hholds hsubmitter hposts hwaiting
  have hroomEq : q.hasRoom = s.rings[n].hasRoom := hasRoom_congr htail hhead hdepth
  rw [hcomplete] at ht
  refine ⟨?written, ?waits⟩
  case written =>
    intro hroom hlink
    obtain ⟨t', ht', hmem, hnone, hnewTail, hnewPhase⟩ := drainCq_one_of_room (n := n) hwaits (hroomEq.trans hroom) hlink
    have hbytes : entryBytes q (r.entry f.desc) = entryBytes s.rings[n] (r.entry f.desc) := by
      rw [entryBytes, entryBytes, hsqHead, hphase]
    have hdepthEq : q.depth = s.rings[n].depth := congrArg (fun d => 2 ^ d.toNat) hdepth
    rw [ht'] at ht
    rw [hbytes, hbase, htail] at hmem
    rw [ht, hmem, hnone, hnewTail, hnewPhase, Ring.advanceCq, htail, hdepthEq]
    refine ⟨_, rfl, ?read, ?frame, rfl, rfl, ?wraps, ?advances⟩
    case read =>
      have hread := memReadN_memWriteN zeroByte (entryBytes s.rings[n] (r.entry f.desc)) s.mem.hostMem
        (s.rings[n].cqBase.toNat + 16 * s.rings[n].cqTail.toNat) hgood.mem.1
      rwa [entryBytes_length] at hread
    case frame =>
      intro x hx
      exact memRead_memWriteN_outside zeroByte _ _ _ x (by rwa [entryBytes_length])
    case wraps =>
      intro hwrap
      rw [if_pos hwrap]
      exact ⟨rfl, congrArg (!·) hphase⟩
    case advances =>
      intro hnowrap
      rw [if_neg hnowrap]
      exact ⟨rfl, hphase⟩
  case waits =>
    intro hstops
    rw [drainCq_of_no_room (by rwa [setRing_self, hroomEq])] at ht
    rw [ht, setRing_self]
    exact ⟨rfl, hwaits, htail⟩

end Sys2Proof.Proofs
end

/-! Events on CQ 0 (R305, R573, R577). -/
section
namespace Sys2Proof.Proofs
open Sys2Proof Sys2Proof.Machine

/-- RESULT of an event's entry holds its code in the low half. -/
theorem eventEntry_code (code source data : W16) : (eventEntry code source data).result.setWidth 16 = code := by
  have := code.isLt
  have := data.isLt
  apply BitVec.eq_of_toNat_eq
  rw [eventEntry, BitVec.toNat_setWidth, BitVec.toNat_ofNat]
  omega

/-- The state with an event noted for its round and entered in the archive (R577, R415). -/
def notedEvent (code source data : W16) (s : State) : State := { s with
  tray := { s.tray with roundEvents := (code, source, data) :: s.tray.roundEvents },
  flash := if s.flash.archDead then s.flash else { s.flash with
    eventBuf := s.flash.eventBuf ++ [archiveEntry code.toNat source.toNat (eventEntry code source data).result.toNat] } }

section NewEvent
variable {code source data : W16} {s : State} (hnew : (code, source, data) ∉ s.tray.roundEvents)
include hnew

theorem event_of_credit (hnone : s.tray.pendingEvents = []) (hcredit : eventCredit s = true) :
    event code source data s = writeEvent (eventEntry code source data) (notedEvent code source data s) :=
  (if_neg hnew).trans (if_pos ⟨hnone, hcredit⟩)

theorem event_of_no_credit (h : s.tray.pendingEvents ≠ [] ∨ eventCredit s = false) :
    event code source data s = keepEvent (eventEntry code source data) (notedEvent code source data s) := by
  refine (if_neg hnew).trans (if_neg ?_)
  rintro ⟨hnone, hcredit⟩
  exact h.elim (· hnone) (fun hfalse => Bool.false_ne_true (hfalse.symm.trans hcredit))

end NewEvent

/-- A kept event stands last; of seventeen the oldest is lost. -/
theorem keepEvent_of_lt {e : Entry} {s : State} (h : s.tray.pendingEvents.length < 16) :
    keepEvent e s = { s with tray := { s.tray with pendingEvents := s.tray.pendingEvents ++ [e] } } := by
  have hlen : (s.tray.pendingEvents ++ [e]).length ≤ 16 := by rw [List.length_append]; exact h
  rw [keepEvent, if_pos hlen, newest16, Nat.sub_eq_zero_of_le hlen, List.drop_zero]

theorem keepEvent_of_eq {e : Entry} {s : State} (h : s.tray.pendingEvents.length = 16) :
    keepEvent e s = setRing 0 (fun r => { r with eventLost := true })
      { s with tray := { s.tray with pendingEvents := s.tray.pendingEvents.drop 1 ++ [e] } } := by
  have hlen : (s.tray.pendingEvents ++ [e]).length = 17 := by rw [List.length_append, h]; rfl
  rw [keepEvent, if_neg (by rw [hlen]; decide), newest16, hlen, List.drop_append_of_le_length (by rw [h]; decide)]

/-- Settles O57: the branches of `event`, of `writeEvent` and of `keepEvent`. -/
theorem eventsArePostedKeptOrLost : Obligations.EventsArePostedKeptOrLost := by
  unfold Obligations.EventsArePostedKeptOrLost
  refine ⟨fun code source data s hposted => by rw [event, if_pos hposted], ?new⟩
  intro code source data s u e hnew he hu
  change e = eventEntry code source data at he
  have hnoted : u = notedEvent code source data s := by rw [hu, he]; rfl
  have hpending : u.tray.pendingEvents = s.tray.pendingEvents := by rw [hnoted]; rfl
  refine ⟨fun hnone hcredit => ?posted, fun hstops => ⟨fun hlt => ?kept, fun heq => ?lost⟩⟩
  case posted =>
    rw [event_of_credit hnew hnone hcredit, writeEvent, eventEntry_code, he, hnoted]
    rfl
  case kept =>
    rw [event_of_no_credit hnew hstops, ← hnoted, ← he, keepEvent_of_lt (by rwa [hpending]), hpending]
  case lost =>
    rw [event_of_no_credit hnew hstops, ← hnoted, ← he, keepEvent_of_eq (by rwa [hpending]), hpending]

end Sys2Proof.Proofs
end

/-! Xelin moves: what comes before a move's operation (R485, R490, R493, R502, R505, R519, R520). -/
section
namespace Sys2Proof.Proofs
open Sys2Proof Sys2Proof.Machine

section Xmove
variable {k : CoreIx} {g : BitVec 4} {dst : Nat} {src : MoveSrc} {s : State} (op : XOp)

theorem xmove_of_not_clocked (g : BitVec 4) (dst : Nat) (src : MoveSrc) (hissues : issues s k = false) :
    xmove k g dst src op s = .next s := by
  simp only [xmove, hissues, Bool.not_false, if_true]

variable (hissues : issues s k = true) (hstatic : staticTrap s k dst src = none)
include hissues hstatic

theorem xmove_of_guard_false (hguard : guardHolds s.cores[k] g = false) :
    xmove k g dst src op s = .next (setCore k nextPc s) := by
  simp only [xmove, hissues, hstatic, hguard, Bool.not_true, Bool.not_false, Bool.false_eq_true, if_false, if_true]

variable (hguard : guardHolds s.cores[k] g = true)
include hguard

theorem xmove_of_guardedTrap {t : XTrap} (htrap : guardedTrap s k dst src = some t) :
    xmove k g dst src op s = .next (trap k t s) := by
  simp only [xmove, hissues, hstatic, hguard, htrap, Bool.not_true, Bool.false_eq_true, if_false]

theorem xmove_of_stall {p : Nat} (hguarded : guardedTrap s k dst src = none) (hstall : stallPort s k dst src = some p) :
    xmove k g dst src op s = .next (setCore k (fun x => { x with stalled := some p }) s) := by
  simp only [xmove, hissues, hstatic, hguard, hguarded, hstall, Bool.not_true, Bool.false_eq_true, if_false]

end Xmove

/-- Settles O50: every move is `xmove` of some operation, which none of these cases reaches. -/
theorem guardsStallsAndEarlyTraps : Obligations.GuardsStallsAndEarlyTraps := by
  unfold Obligations.GuardsStallsAndEarlyTraps
  refine ⟨?notClocked, ?static, ?guardFalse, ?guarded, ?stall⟩
  case notClocked =>
    intro c k g dst src s hmove hissues
    obtain ⟨op, hexec⟩ := moveOf_xmove hmove
    exact (hexec s).trans (xmove_of_not_clocked op g dst src hissues)
  case static =>
    intro c k g dst src s hmove hissues t htrap
    obtain ⟨op, hexec⟩ := moveOf_xmove hmove
    exact (hexec s).trans (xmove_of_staticTrap g op hissues htrap)
  case guardFalse =>
    intro c k g dst src s hmove hissues hstatic hguard
    obtain ⟨op, hexec⟩ := moveOf_xmove hmove
    exact (hexec s).trans (xmove_of_guard_false op hissues hstatic hguard)
  case guarded =>
    intro c k g dst src s hmove hissues hstatic hguard t htrap
    obtain ⟨op, hexec⟩ := moveOf_xmove hmove
    exact (hexec s).trans (xmove_of_guardedTrap op hissues hstatic hguard htrap)
  case stall =>
    intro c k g dst src s hmove hissues hstatic hguard hguarded p hstall
    obtain ⟨op, hexec⟩ := moveOf_xmove hmove
    exact (hexec s).trans (xmove_of_stall op hissues hstatic hguard hguarded hstall)

end Sys2Proof.Proofs
end

/-! Xelin units on the core alone: operand ports, ALU, multiply, compare, branches, stacks, tags and timer (chapter 20). -/
section
namespace Sys2Proof.Proofs
open Sys2Proof Sys2Proof.Machine

/-- Settles O39: an operand port latches the move's value; each port of Table 20-4 named here is one field. -/
theorem movesIntoOperandPorts : Obligations.MovesIntoOperandPorts := by
  unfold Obligations.MovesIntoOperandPorts
  exact ⟨fun k g dst src s hoperand h => exec_moveOperand_issued hoperand h,
    fun v o => ⟨rfl, rfl, rfl, rfl, rfl, rfl, rfl, rfl, rfl, rfl⟩⟩

/-! What each operand class accepts on a TAGGED page (Table 19-3). -/

theorem checkTag_int {tg : Bool} {p : Nat} {v : W32} :
    checkTag tg p v clsInt = none ↔ (tg = true → tagOf v = 0) := by
  simp [checkTag_none, accepts]

theorem checkTag_logic {tg : Bool} {p : Nat} {v : W32} :
    checkTag tg p v clsLogic = none ↔ (tg = true → tagOf v = 0 ∨ tagOf v = 4) := by
  simp [checkTag_none, accepts]

theorem checkTag_ptr {tg : Bool} {p : Nat} {v : W32} :
    checkTag tg p v clsPtr = none ↔ (tg = true → tagOf v = 1) := by
  simp [checkTag_none, accepts]

theorem checkTag_code {tg : Bool} {p : Nat} {v : W32} :
    checkTag tg p v clsCode = none ↔ (tg = true → tagOf v = 2) := by
  simp [checkTag_none, accepts]

/-! Checks that pass, by their number. -/

theorem guarded_one {α : Type} {a : Option XTrap} {x : α} (ha : a = none) : guarded [a] x = .ok x :=
  guarded_passes (List.forall_mem_singleton.2 ha)

theorem guarded_two {α : Type} {a b : Option XTrap} {x : α} (ha : a = none) (hb : b = none) : guarded [a, b] x = .ok x :=
  guarded_passes (List.forall_mem_cons.2 ⟨ha, List.forall_mem_singleton.2 hb⟩)

theorem guarded_three {α : Type} {a b c : Option XTrap} {x : α} (ha : a = none) (hb : b = none) (hc : c = none) :
    guarded [a, b, c] x = .ok x :=
  guarded_passes (List.forall_mem_cons.2 ⟨ha, List.forall_mem_cons.2 ⟨hb, List.forall_mem_singleton.2 hc⟩⟩)

section Issued
variable {k : CoreIx} {g : BitVec 4} {port : Nat} {src : MoveSrc} {s : State} (h : Issued k g port src s)
include h

theorem xmove_aluInt_issued (f : Bool → W32 → W32 → W32)
    (htags : runsTagged s k = true → tagOf s.cores[k].ops.aluA = 0 ∧ tagOf (moveValue s k src) = 0) :
    xmove k g port src (onCore (aluInt port f)) s = .next (moved k src (fun c =>
      { c with res := { c.res with alu := f (runsTagged s k) c.ops.aluA (moveValue s k src) } }) s) :=
  xmove_issued_ok h (guarded_two (checkTag_int.2 fun ht => by rw [readSource_ops]; exact (htags ht).1)
    (checkTag_int.2 fun ht => (htags ht).2))

theorem xmove_aluLogic_issued (f : W32 → W32 → W32)
    (htags : runsTagged s k = true → (tagOf s.cores[k].ops.aluA = 0 ∨ tagOf s.cores[k].ops.aluA = 4) ∧
      (tagOf (moveValue s k src) = 0 ∨ tagOf (moveValue s k src) = 4)) :
    xmove k g port src (onCore (aluLogic port f)) s = .next (moved k src (fun c => { c with
      res := { c.res with alu := mkVal (runsTagged s k) (tagOf c.ops.aluA) (f c.ops.aluA (moveValue s k src)).toNat } }) s) :=
  xmove_issued_ok h (guarded_two (checkTag_logic.2 fun ht => by rw [readSource_ops]; exact (htags ht).1)
    (checkTag_logic.2 fun ht => (htags ht).2))

theorem xmove_mulInt_issued (f : Bool → W32 → W32 → W32)
    (htags : runsTagged s k = true → tagOf s.cores[k].ops.mulA = 0 ∧ tagOf (moveValue s k src) = 0) :
    xmove k g port src (onCore (mulInt port f)) s = .next (moved k src (fun c =>
      { c with res := { c.res with mul := f (runsTagged s k) c.ops.mulA (moveValue s k src) } }) s) :=
  xmove_issued_ok h (guarded_two (checkTag_int.2 fun ht => by rw [readSource_ops]; exact (htags ht).1)
    (checkTag_int.2 fun ht => (htags ht).2))

/-- A compare whose outcome is `b`. -/
theorem xmove_cmp_issued {f : Bool → W32 → W32 → Bool} {b : Bool}
    (htags : runsTagged s k = true → tagOf s.cores[k].ops.cmpA = 0 ∧ tagOf s.cores[k].ops.cmpG = 0 ∧
      tagOf (moveValue s k src) = 0)
    (hb : f (runsTagged s k) s.cores[k].ops.cmpA (moveValue s k src) = b) :
    xmove k g port src (onCore (cmpOp port f)) s = .next (moved k src (fun c => { c with
      res := { c.res with cmp := if b then 1 else 0 }, guards := setGuard (c.ops.cmpG.toNat % 8) b c.guards }) s) := by
  refine xmove_issued_ok h ?_
  simp only [cmpOp, readSource_ops, hb]
  exact guarded_three (checkTag_int.2 fun ht => (htags ht).1) (checkTag_int.2 fun ht => (htags ht).2.1)
    (checkTag_int.2 fun ht => (htags ht).2.2)

end Issued

/-! Shifts: a count inside 0 to width - 1 (Table 20-7). -/

theorem shiftOk_iff {tg : Bool} {b : W32} : shiftOk tg b = true ↔ 0 ≤ signedIn tg b ∧ signedIn tg b < widthOf tg := by
  rw [shiftOk, Bool.and_eq_true, decide_eq_true_iff, decide_eq_true_iff]

theorem aluShl_eq (tg : Bool) (a b : W32) : aluShl tg a b = if 0 ≤ signedIn tg b ∧ signedIn tg b < widthOf tg then
    intVal tg (unsignedIn tg a * 2 ^ unsignedIn tg b : Nat) else 0 := by
  simp only [aluShl, shiftOk_iff]

theorem aluShr_eq (tg : Bool) (a b : W32) : aluShr tg a b = if 0 ≤ signedIn tg b ∧ signedIn tg b < widthOf tg then
    intVal tg (unsignedIn tg a / 2 ^ unsignedIn tg b : Nat) else 0 := by
  simp only [aluShr, shiftOk_iff]

theorem aluSar_eq (tg : Bool) (a b : W32) : aluSar tg a b = if 0 ≤ signedIn tg b ∧ signedIn tg b < widthOf tg then
    intVal tg (signedIn tg a / (2 ^ unsignedIn tg b : Nat)) else if signedIn tg a < 0 then intVal tg (-1) else 0 := by
  simp only [aluSar, shiftOk_iff]

/-- Settles O41: the arithmetic triggers, the shifts among them, are `aluInt` of their function, the logic ones `aluLogic`. -/
theorem aluMovesComputeTable20x7 : Obligations.AluMovesComputeTable20x7 := by
  unfold Obligations.AluMovesComputeTable20x7
  refine ⟨?add, ?sub, ?neg, ?and, ?or, ?xor, ?not, ?shl, ?shr, ?sar⟩ <;> rintro k g src s _ _ h rfl rfl htags
  case add => exact xmove_aluInt_issued h aluAdd htags
  case sub => exact xmove_aluInt_issued h aluSub htags
  case neg => exact xmove_issued_ok h (guarded_one (checkTag_int.2 htags))
  case and => exact xmove_aluLogic_issued h (· &&& ·) htags
  case or => exact xmove_aluLogic_issued h (· ||| ·) htags
  case xor => exact xmove_aluLogic_issued h (· ^^^ ·) htags
  case not => exact xmove_issued_ok h (guarded_one (checkTag_logic.2 htags))
  case shl => simp only [← aluShl_eq]; exact xmove_aluInt_issued h aluShl htags
  case shr => simp only [← aluShr_eq]; exact xmove_aluInt_issued h aluShr htags
  case sar => simp only [← aluSar_eq]; exact xmove_aluInt_issued h aluSar htags

/-- The remainder is what the quotient toward zero leaves. -/
theorem mulMod_eq (tg : Bool) (a b : W32) : mulMod tg a b = if signedIn tg b = 0 then poison else
    intVal tg (signedIn tg a - signedIn tg b * (signedIn tg a).tdiv (signedIn tg b)) := by
  rw [mulMod, Int.tmod_def]

/-- A guard written is that guard alone, and G0 never. -/
theorem getLsbD_setGuard {n m : Nat} (hn : n < 8) (hm : m < 8) (b : Bool) (g : Byte) :
    (setGuard n b g).getLsbD m = if m = n ∧ n ≠ 0 then b else g.getLsbD m := by
  unfold setGuard
  by_cases h0 : n = 0
  · rw [if_pos h0, if_neg (fun h => h.2 h0)]
  · rw [if_neg h0]
    by_cases hmn : m = n
    · subst hmn
      cases b <;> simp [h0, hm]
    · have hone : (1#8 <<< n).getLsbD m = false := by
        rw [BitVec.getLsbD_shiftLeft, BitVec.getLsbD_one]
        simp only [Bool.and_eq_false_iff, Bool.not_eq_false', decide_eq_false_iff_not, decide_eq_true_iff]
        omega
      rw [if_neg (fun h : m = n ∧ n ≠ 0 => hmn h.1)]
      cases b
      · rw [if_neg Bool.false_ne_true, BitVec.getLsbD_and, BitVec.getLsbD_not, hone, decide_eq_true hm, Bool.not_false,
          Bool.and_self, Bool.and_true]
      · rw [if_pos rfl, BitVec.getLsbD_or, hone, Bool.or_false]

/-- Settles O42: a multiply trigger is `mulInt` of its function, a compare trigger `cmpOp` of its test. -/
theorem multiplyAndCompareMoves : Obligations.MultiplyAndCompareMoves := by
  unfold Obligations.MultiplyAndCompareMoves
  refine ⟨?mul, ?mulh, ?div, ?mod, ?eq, ?ne, ?lt, ?le, ?ltu, ?leu, ?carry, ?ovf, ?bit,
    fun n m b g hn hm => getLsbD_setGuard hn hm b g⟩
  case mul => rintro k g src s _ _ h rfl rfl htags; exact xmove_mulInt_issued h mulLow htags
  case mulh => rintro k g src s _ _ h rfl rfl htags; exact xmove_mulInt_issued h mulHigh htags
  case div => rintro k g src s _ _ h rfl rfl htags; exact xmove_mulInt_issued h mulDiv htags
  case mod =>
    rintro k g src s _ _ h rfl rfl htags
    simp only [← mulMod_eq]
    exact xmove_mulInt_issued h mulMod htags
  all_goals
    rintro k g src s _ _ b h rfl rfl htags hb
    refine xmove_cmp_issued h htags (Bool.eq_iff_iff.2 (Iff.trans ?_ hb.symm))
  case eq | ne | lt | le | ltu | leu | carry => exact decide_eq_true_iff
  case ovf => rw [cmpOvf, Bool.or_eq_true, decide_eq_true_iff, decide_eq_true_iff]
  case bit => rw [cmpBit, Bool.and_eq_true, shiftOk_iff]

/-- Settles O43: the branch and stack triggers set their fields of the core; `nextPc` and `readSource` by their cases. -/
theorem branchesAndStacks : Obligations.BranchesAndStacks := by
  unfold Obligations.BranchesAndStacks
  refine ⟨?jump, ?call, ?ret, ?dpush, ?rpush, ?nextPc, ?pop⟩
  case jump => rintro k g src s _ _ h rfl rfl htag; exact xmove_issued_ok h (guarded_one (checkTag_code.2 htag))
  case call => rintro k g src s _ _ h rfl rfl htag; exact xmove_issued_ok h (guarded_one (checkTag_code.2 htag))
  case ret =>
    intro k g src s a l h hstack htag
    refine xmove_issued_ok h ?_
    simp only [hstack, List.headD_cons, List.tail_cons]
    exact guarded_one (checkTag_code.2 htag)
  case dpush => rintro k g src s _ _ h rfl rfl; exact (execDstkPush.eq_1 k g src s).trans (xmove_issued_ok h rfl)
  case rpush => rintro k g src s _ _ h rfl rfl htag; exact xmove_issued_ok h (guarded_one (checkTag_code.2 htag))
  case nextPc =>
    intro c t
    refine ⟨?_, ?_, ?_, ?_⟩ <;> intro hbranch <;> simp only [nextPc, hbranch] <;> rfl
  case pop =>
    intro c v l
    refine ⟨fun hd => ⟨?_, ?_⟩, fun hr => ?_⟩
    · change (c.dstack.headD poison, { c with dstack := c.dstack.tail }) = _
      rw [hd]; rfl
    · change (c.dstack.headD poison, c) = _
      rw [hd]; rfl
    · change (c.rstack.headD poison, { c with rstack := c.rstack.tail }) = _
      rw [hr]; rfl

end Sys2Proof.Proofs
end

/-! Issued moves whose operation reaches past the core, or traps. -/
section
namespace Sys2Proof.Proofs
open Sys2Proof Sys2Proof.Machine

/-- The state that a move's operation finds: the source has been read. -/
def sourceRead (k : CoreIx) (src : MoveSrc) (s : State) : State := setCore k (fun c => (readSource c src).2) s

theorem sourceRead_core (k : CoreIx) (src : MoveSrc) (s : State) :
    (sourceRead k src s).cores[k] = (readSource s.cores[k] src).2 := setCore_self _ _ _

theorem sourceRead_ops (k : CoreIx) (src : MoveSrc) (s : State) : (sourceRead k src s).cores[k].ops = s.cores[k].ops := by
  rw [sourceRead_core, readSource_ops]

theorem sourceRead_fls (k : CoreIx) (src : MoveSrc) (s : State) : (sourceRead k src s).cores[k].fls = s.cores[k].fls := by
  rw [sourceRead_core, readSource_fls]

section Issued
variable {k : CoreIx} {g : BitVec 4} {dst : Nat} {src : MoveSrc} {s : State} {op : XOp} (h : Issued k g dst src s)
include h

/-- An issued move whose operation answers a state. -/
theorem xmove_issued_state {t : State} (hop : op k (runsTagged s k) (moveValue s k src) (sourceRead k src s) = .ok t) :
    xmove k g dst src op s = .next (setCore k nextPc t) := by
  unfold sourceRead at hop
  rw [xmove_issued op h, hop]

/-- An issued move whose operation changes the core alone. -/
theorem xmove_issued_core {r : Core → Core}
    (hop : op k (runsTagged s k) (moveValue s k src) (sourceRead k src s) = .ok (setCore k r (sourceRead k src s))) :
    xmove k g dst src op s = .next (moved k src r s) := by
  rw [xmove_issued_state h hop, sourceRead, setCore_setCore, setCore_setCore, moved]

/-- An issued move whose operation traps. -/
theorem xmove_issued_trap {t : XTrap} (hop : op k (runsTagged s k) (moveValue s k src) (sourceRead k src s) = .error t) :
    xmove k g dst src op s = .next (trap k t s) := by
  unfold sourceRead at hop
  rw [xmove_issued op h, hop]

end Issued

theorem onCore_error {f : Bool → W32 → Core → Except XTrap Core} {k : CoreIx} {tg : Bool} {v : W32} {s : State} {t : XTrap}
    (h : f tg v s.cores[k] = .error t) : onCore f k tg v s = .error t := by
  rw [onCore, h]

theorem guarded_nil {α : Type} (x : α) : guarded [] x = .ok x := rfl

theorem guarded_cons_none {α : Type} {c : Option XTrap} (cs : List (Option XTrap)) (x : α) (h : c = none) :
    guarded (c :: cs) x = guarded cs x := by
  rw [h]
  rfl

end Sys2Proof.Proofs
end

/-! The tag unit and the timer (R497, R532, R538). -/
section
namespace Sys2Proof.Proofs
open Sys2Proof Sys2Proof.Machine

theorem exec_tmrDelayDone_of_due {k : CoreIx} {s : State} (hrunning : s.cores[k].tmr = true) (hissues : issues s k = true)
    (hdue : s.cores[k].tmrEnd.toNat ≤ s.cores[k].kclk.toNat) :
    exec (.tmrDelayDone k) s = .next (setCore k (fun c => { sampled 0 c with tmr := false }) s) :=
  if_pos ⟨hrunning, hissues, hdue⟩

/-- Settles O44: each trigger is one field of the core, or the TAG trap of its own check. -/
theorem tagAndTimerUnits : Obligations.TagAndTimerUnits := by
  unfold Obligations.TagAndTimerUnits
  refine ⟨?gettag, ?toint, ?tobits, ?wrapFits, ?toptrRaw, ?tocodeRaw, ?toptrTagged, ?tocodeTagged, ?wrapTraps, ?sampleSc,
    ?sampleKc, ?delay, fun k s hrunning hissues hdue => exec_tmrDelayDone_of_due hrunning hissues hdue⟩
    <;> rintro k g src s _ _ h rfl rfl
  case gettag => exact (execTagGettag.eq_1 k g src s).trans (xmove_issued_ok h rfl)
  case toint => exact (execTagToint.eq_1 k g src s).trans (xmove_issued_ok h rfl)
  case tobits => exact (execTagTobits.eq_1 k g src s).trans (xmove_issued_ok h rfl)
  case sampleKc => exact (execTmrSampleKc.eq_1 k g src s).trans (xmove_issued_ok h rfl)
  case wrapFits =>
    intro hlow hhigh
    refine xmove_issued_ok h ?_
    exact if_pos ⟨hlow, hhigh⟩
  case toptrRaw | tocodeRaw =>
    intro hraw
    refine xmove_issued_ok h ?_
    rw [hraw]
    rfl
  case toptrTagged | tocodeTagged =>
    intro htagged
    refine xmove_issued_trap h (onCore_error ?_)
    rw [htagged]
    rfl
  case wrapTraps =>
    intro hout
    refine xmove_issued_trap h (onCore_error (if_neg ?_))
    omega
  case sampleSc => exact (execTmrSampleSc.eq_1 k g src s).trans (xmove_issued_core h rfl)
  case delay =>
    intro htag
    refine xmove_issued_ok h ?_
    exact guarded_one (checkTag_int.2 htag)

end Sys2Proof.Proofs
end

/-! The load and store unit (R500, R503, R529). -/
section
namespace Sys2Proof.Proofs
open Sys2Proof Sys2Proof.Machine

/-! Each region of the data space: where its bytes are read, and what a write changes. -/

section Region
variable {k : CoreIx} {a : Nat} (s : State)

theorem localRead_data (n : Nat) (h : regionOf k a = some .data) :
    localRead k a n s = (memReadN (dataDefault s.cores[k].dataTagged) s.cores[k].dataRam a n, s) := by
  simp only [localRead, h]

theorem localRead_shared (n : Nat) (h : regionOf k a = some .shared) :
    localRead k a n s = (memReadN zeroByte s.xshared.shared (a - 0x200000) n, s) := by
  simp only [localRead, h]

theorem localRead_exchange (n : Nat) (h : regionOf k a = some .exchange) :
    localRead k a n s = (memReadN zeroByte s.xshared.exchange (a - 0x300000) n, s) := by
  simp only [localRead, h]

variable (bs : List Byte)

theorem localWrite_data (h : regionOf k a = some .data) : localWrite k a bs s =
    setCore k (fun c => { c with dataRam := memWriteN (dataDefault c.dataTagged) c.dataRam a bs }) s := by
  simp only [localWrite, h]

theorem localWrite_shared (h : regionOf k a = some .shared) : localWrite k a bs s =
    { s with xshared := { s.xshared with shared := memWriteN zeroByte s.xshared.shared (a - 0x200000) bs } } := by
  simp only [localWrite, h]

theorem localWrite_exchange (h : regionOf k a = some .exchange) : localWrite k a bs s =
    { s with xshared := { s.xshared with exchange := memWriteN zeroByte s.xshared.exchange (a - 0x300000) bs } } := by
  simp only [localWrite, h]

theorem localWrite_control (h : regionOf k a = some .control) : localWrite k a bs s = s := by
  simp only [localWrite, h]

end Region

/-- Settles O46: an issued load or store by its rule (Laws/Xelin), LEA as an operation on the core alone. -/
theorem loadsAndStoresOfACore : Obligations.LoadsAndStoresOfACore := by
  unfold Obligations.LoadsAndStoresOfACore
  refine ⟨?ldw, ?ldb, ?ldbu, ?ldh, ?ldhu, ?stw, ?stb, ?sth, ?lea, ?regions⟩
  case ldw | ldb | ldbu | ldh | ldhu =>
    rintro k g src s _ _ _ a h rfl rfl rfl htags rfl haccess
    obtain ⟨_, rfl, hload⟩ := load_issued _ h htags haccess
    exact hload
  case stw | stb | sth =>
    rintro k g src s _ _ _ a h rfl rfl rfl htags rfl haccess
    exact store_issued h htags haccess
  case lea =>
    rintro k g src s _ _ _ _ h rfl rfl rfl htags rfl
    refine xmove_issued_ok (r := fun c => { c with res := { c.res with
      lsu := mkVal (runsTagged s k) 1 (effAddr (runsTagged s k) s.cores[k].ops.lsuBase (moveValue s k src)) } }) h ?_
    simp only [readSource_ops]
    exact guarded_two (checkTag_ptr.2 fun ht => (htags ht).1) (checkTag_int.2 fun ht => (htags ht).2)
  case regions =>
    exact fun k a n s => ⟨localRead_data s n, localRead_shared s n, localRead_exchange s n⟩

/-- What a store of `n` bytes leaves: the bytes at `a`, and every other byte of its region. -/
def StoredIn (d : Nat → Byte) (m m' : List Host.Cell) (a n x : Nat) : Prop :=
  memReadN d m' a n = leBytes n x ∧ ∀ b, b < a ∨ a + n ≤ b → memRead d m' b = memRead d m b

theorem storedIn_memWriteN {d : Nat → Byte} {m : List Host.Cell} (hwf : Memory.wf d m = true) (a n x : Nat) :
    StoredIn d m (memWriteN d m a (leBytes n x)) a n x := by
  refine ⟨?_, fun b hb => memRead_memWriteN_outside d _ m a b (by rwa [leBytes_length])⟩
  have hread := memReadN_memWriteN d (leBytes n x) m a hwf
  rwa [leBytes_length] at hread

section Store
variable {k : CoreIx} {g : BitVec 4} {dst n a : Nat} {src : MoveSrc} {s t : State}

/-- A store that completes, as its bytes written into the state whose source has been read. -/
theorem store_result (h : Issued k g dst src s)
    (htags : runsTagged s k = true → tagOf s.cores[k].ops.lsuBase = 1 ∧ tagOf (moveValue s k src) = 0)
    (ha : a = effAddr (runsTagged s k) s.cores[k].ops.lsuBase (moveValue s k src))
    (haccess : accessTrap s.cores[k] k (runsTagged s k) dst n a = none)
    (hexec : xmove k g dst src (lsuStore dst n) s = .next t) :
    ∃ r : Core → Results, t = setCore k (fun c => nextPc { c with res := r c })
      (localWrite k a (leBytes n s.cores[k].ops.lsuData.toNat) (sourceRead k src s)) := by
  subst ha
  rw [store_issued h htags haccess] at hexec
  exact ⟨fun c => { c.res with lsu := _ }, (Host.Outcome.next.inj hexec).symm⟩

variable {r : Core → Results} {bs : List Byte}
  (ht : t = setCore k (fun c => nextPc { c with res := r c }) (localWrite k a bs (sourceRead k src s)))
include ht

/-- What no store reaches. -/
theorem store_frame : (∀ j, j ≠ k → t.cores[j] = s.cores[j]) ∧ t.mem = s.mem ∧ t.rings = s.rings ∧ t.flash = s.flash ∧
    t.tiles = s.tiles ∧ t.host = s.host ∧ t.twin = s.twin := by
  subst ht
  unfold localWrite
  split <;>
    exact ⟨fun j hj => by simp only [sourceRead, setCore_other k j _ _ hj], rfl, rfl, rfl, rfl, rfl, rfl⟩

theorem store_data (hregion : regionOf k a = some .data) : t.xshared = s.xshared ∧
    t.cores[k].dataRam = memWriteN (dataDefault s.cores[k].dataTagged) s.cores[k].dataRam a bs := by
  rw [localWrite_data _ _ hregion] at ht
  subst ht
  refine ⟨rfl, ?_⟩
  simp only [sourceRead, setCore_self, nextPc_dataRam, readSource_dataTagged, readSource_dataRam]

theorem store_shared (hregion : regionOf k a = some .shared) :
    t.xshared = { s.xshared with shared := memWriteN zeroByte s.xshared.shared (a - 0x200000) bs } ∧
    t.cores[k].dataRam = s.cores[k].dataRam := by
  rw [localWrite_shared _ _ hregion] at ht
  subst ht
  refine ⟨rfl, ?_⟩
  simp only [setCore_self, nextPc_dataRam]
  exact (congrArg Core.dataRam (sourceRead_core k src s)).trans (readSource_dataRam _ _)

theorem store_exchange (hregion : regionOf k a = some .exchange) :
    t.xshared = { s.xshared with exchange := memWriteN zeroByte s.xshared.exchange (a - 0x300000) bs } ∧
    t.cores[k].dataRam = s.cores[k].dataRam := by
  rw [localWrite_exchange _ _ hregion] at ht
  subst ht
  refine ⟨rfl, ?_⟩
  simp only [setCore_self, nextPc_dataRam]
  exact (congrArg Core.dataRam (sourceRead_core k src s)).trans (readSource_dataRam _ _)

theorem store_control (hregion : regionOf k a = some .control) : t.xshared = s.xshared ∧ t.cores[k].dataRam = s.cores[k].dataRam := by
  rw [localWrite_control _ _ hregion] at ht
  subst ht
  refine ⟨rfl, ?_⟩
  simp only [sourceRead, setCore_self, nextPc_dataRam, readSource_dataRam]

end Store

/-- The bytes of a store in data RAM and in shared RAM, with what stands beside them. -/
theorem store_reads_back {k : CoreIx} {a n : Nat} {src : MoveSrc} {s t : State} {r : Core → Results} (hgood : s.good)
    (ht : t = setCore k (fun c => nextPc { c with res := r c })
      (localWrite k a (leBytes n s.cores[k].ops.lsuData.toNat) (sourceRead k src s))) :
    (regionOf k a = some .data → StoredIn (dataDefault s.cores[k].dataTagged) s.cores[k].dataRam t.cores[k].dataRam a n
      s.cores[k].ops.lsuData.toNat ∧ t.xshared = s.xshared) ∧
    (regionOf k a = some .shared → StoredIn zeroByte s.xshared.shared t.xshared.shared (a - 0x200000) n
      s.cores[k].ops.lsuData.toNat ∧ t.xshared.exchange = s.xshared.exchange ∧ t.cores[k].dataRam = s.cores[k].dataRam) ∧
    (regionOf k a = some .exchange → StoredIn zeroByte s.xshared.exchange t.xshared.exchange (a - 0x300000) n
      s.cores[k].ops.lsuData.toNat ∧ t.xshared.shared = s.xshared.shared ∧ t.cores[k].dataRam = s.cores[k].dataRam) := by
  refine ⟨fun hregion => ?data, fun hregion => ?shared, fun hregion => ?exchange⟩
  case data =>
    obtain ⟨hshared, hram⟩ := store_data ht hregion
    exact ⟨hram ▸ storedIn_memWriteN (hgood.cores k).data a n _, hshared⟩
  case shared =>
    obtain ⟨hshared, hram⟩ := store_shared ht hregion
    exact ⟨hshared ▸ storedIn_memWriteN hgood.xshared.1 _ n _, hshared ▸ rfl, hram⟩
  case exchange =>
    obtain ⟨hshared, hram⟩ := store_exchange ht hregion
    exact ⟨hshared ▸ storedIn_memWriteN hgood.xshared.2 _ n _, hshared ▸ rfl, hram⟩

/-- Settles O56: one rule for a store of any size, at the three sizes. -/
theorem storesOfACoreChangeOnlyTheirBytes : Obligations.StoresOfACoreChangeOnlyTheirBytes := by
  unfold Obligations.StoresOfACoreChangeOnlyTheirBytes
  refine ⟨?stw, ?stb, ?sth⟩
  all_goals
    intro k g src s t a hgood h htags ha haccess hexec
    obtain ⟨r, ht⟩ := store_result h htags ha haccess hexec
    obtain ⟨hdata, hshared, hexchange⟩ := store_reads_back hgood ht
    have hdata' := fun hregion => and_assoc.1 (hdata hregion)
    have hshared' := fun hregion => and_assoc.1 (hshared hregion)
  case stw => exact ⟨hdata', hshared', fun hregion => and_assoc.1 (hexchange hregion), store_control ht, store_frame ht⟩
  case stb | sth => exact ⟨hdata', hshared', store_frame ht⟩

end Sys2Proof.Proofs
end

/-! The mailbox unit (R512, R513, R533, R534, Table 20-11). -/
section
namespace Sys2Proof.Proofs
open Sys2Proof Sys2Proof.Machine

theorem mbxRaw_none {k : CoreIx} {tg : Bool} {p : Nat} : mbxRaw k tg p = none ↔ (k = 2 → tg = true) := by
  simp [mbxRaw]

theorem checkHandle_none {tg valid : Bool} {p : Nat} {v : W32} :
    checkHandle tg p v valid = none ↔ (tg = true → tagOf v = 3) ∧ valid = true := by
  simp [checkHandle]

theorem handleOf_sourceRead (k : CoreIx) (src : MoveSrc) (s : State) (v : W32) :
    handleOf (sourceRead k src s).cores[k] v = handleOf s.cores[k] v := by
  rw [sourceRead_core, handleOf, readSource_handles, handleOf]

theorem submissionOf_sourceRead (k : CoreIx) (src : MoveSrc) (s : State) (v : W32) :
    submissionOf (sourceRead k src s).cores[k] v = submissionOf s.cores[k] v := by
  rw [sourceRead_core, submissionOf, readSource_handles, readSource_subs, submissionOf]

/-! RECV and its delivery. -/

theorem exec_mbxRecvDelivery_firmware {k : CoreIx} {s : State} {n : RingIx} {f : Fetched} (hmbx : s.cores[k].mbx = .receiving)
    (hissues : issues s k = true) (hk : k ≠ 2) (hruns : firmwareRuns s = true) (hnext : nextRouted s k = some (n, f)) :
    exec (.mbxRecvDelivery k) s =
      .next (handOver k n f (setCore k (fun c => { c with mbx := .idle }) (dispatch n f s))) := by
  have hexec : exec (.mbxRecvDelivery k) s = execMbxRecvDelivery k s := rfl
  simp only [hexec, execMbxRecvDelivery, hmbx, hissues, hk, hruns, hnext, ne_eq, not_true_eq_false, Bool.not_true,
    Bool.false_eq_true, or_self, if_false]

theorem exec_mbxRecvDelivery_extension {s : State} {n : RingIx} {f : Fetched} {r : List (RingIx × Fetched)}
    (hmbx : s.cores[(2 : CoreIx)].mbx = .receiving) (hissues : issues s 2 = true)
    (hrouted : s.cores[(2 : CoreIx)].routed = (n, f) :: r) :
    exec (.mbxRecvDelivery 2) s = .next (handOver 2 n f (setCore 2 (fun c => { c with mbx := .idle, routed := r }) s)) := by
  have hexec : exec (.mbxRecvDelivery 2) s = execMbxRecvDelivery 2 s := rfl
  simp only [hexec, execMbxRecvDelivery, hmbx, hissues, hrouted, ne_eq, not_true_eq_false, Bool.not_true,
    Bool.false_eq_true, or_self, if_false, if_true, setCore_setCore]

/-! ARG16. -/

theorem argField_inside {bs : List Byte} {o : Nat} (hle : o + 2 ≤ bs.length) (heven : o % 2 = 0) :
    argField bs o = BitVec.ofNat 32 (field bs o 2) :=
  if_pos ⟨by omega, by omega, by omega⟩

theorem argField_outside {bs : List Byte} {o : Int} (h : o < 0 ∨ (bs.length : Int) < o + 2 ∨ o % 2 ≠ 0) :
    argField bs o = poison :=
  if_neg (by omega)

section Issued
variable {k : CoreIx} {g : BitVec 4} {src : MoveSrc} {s : State} (hraw : k = 2 → runsTagged s k = true)
include hraw

theorem exec_mbxArg16_command {h : CmdHandle} (hissued : Issued k g 0x65 src s)
    (htagH : runsTagged s k = true → tagOf s.cores[k].ops.mbxH = 3)
    (htagV : runsTagged s k = true → tagOf (moveValue s k src) = 0)
    (hhandle : handleOf s.cores[k] s.cores[k].ops.mbxH = some h) :
    exec (.mbxArg16 k g src) s = .next (moved k src (fun c => { c with
      res := { c.res with mbx := argField h.cmd.desc.bytes (signedIn (runsTagged s k) (moveValue s k src)) } }) s) := by
  refine (execMbxArg16.eq_1 k g src s).trans (xmove_issued_core hissued ?_)
  simp only [sourceRead_ops, handleOf_sourceRead, hhandle]
  exact guarded_three (mbxRaw_none.2 hraw) (checkHandle_none.2 ⟨htagH, rfl⟩) (checkTag_int.2 htagV)

theorem exec_mbxArg16_submission {x : Submission} {e : Entry} (hissued : Issued k g 0x65 src s)
    (htagH : runsTagged s k = true → tagOf s.cores[k].ops.mbxH = 3)
    (htagV : runsTagged s k = true → tagOf (moveValue s k src) = 0)
    (hhandle : handleOf s.cores[k] s.cores[k].ops.mbxH = none)
    (hsub : submissionOf s.cores[k] s.cores[k].ops.mbxH = some x) (hdone : x.done = some e) :
    exec (.mbxArg16 k g src) s = .next (moved k src (fun c => { c with
      res := { c.res with mbx := argField (entryBytes s.rings[x.ring] e) (signedIn (runsTagged s k) (moveValue s k src)) } }) s) := by
  refine (execMbxArg16.eq_1 k g src s).trans (xmove_issued_core hissued ?_)
  simp only [sourceRead_ops, handleOf_sourceRead, submissionOf_sourceRead, hhandle, hsub, hdone]
  exact guarded_three (mbxRaw_none.2 hraw) (checkHandle_none.2 ⟨htagH, rfl⟩) (checkTag_int.2 htagV)

theorem exec_mbxComplete_issued {h : CmdHandle} (hissued : Issued k g 0x66 src s)
    (htagH : runsTagged s k = true → tagOf s.cores[k].ops.mbxH = 3)
    (htags : runsTagged s k = true → (tagOf s.cores[k].ops.mbxResult = 0 ∨ tagOf s.cores[k].ops.mbxResult = 4) ∧
      tagOf s.cores[k].ops.mbxReshi = 0 ∧ tagOf s.cores[k].ops.mbxDetail = 0 ∧ tagOf (moveValue s k src) = 0)
    (hallowed : k = 2 → forbiddenStatus (moveValue s k src) = false)
    (hhandle : handleOf s.cores[k] s.cores[k].ops.mbxH = some h) :
    exec (.mbxComplete k g src) s = .next (setCore k nextPc (complete h.ring h.cmd
      (mbxReply k (moveValue s k src) s.cores[k].ops) (setCore k (fun c => { c with
        handles := c.handles.filter (fun x => decide (x.ref ≠ h.ref)),
        subs := c.subs.filter (fun x => decide (x.parent ≠ h.ref) || x.done.isNone),
        res := { c.res with mbx := 0 } }) (sourceRead k src s)))) := by
  have hstatus : (if k = 2 ∧ runsTagged s k = true ∧ forbiddenStatus (moveValue s k src) = true
      then some (tagTrap 0x66 (moveValue s k src) 5) else none) = none :=
    if_neg fun hbad => Bool.false_ne_true ((hallowed hbad.1).symm.trans hbad.2.2)
  refine (execMbxComplete.eq_1 k g src s).trans (xmove_issued_state hissued ?_)
  simp only [sourceRead_ops, handleOf_sourceRead, hhandle, mbxOut, setCore_setCore]
  refine guarded_passes ?_
  simp only [List.forall_mem_cons, List.not_mem_nil, false_imp_iff, implies_true, and_true]
  exact ⟨mbxRaw_none.2 hraw, checkHandle_none.2 ⟨htagH, rfl⟩, checkTag_logic.2 fun ht => (htags ht).1,
    checkTag_int.2 fun ht => (htags ht).2.1, checkTag_int.2 fun ht => (htags ht).2.2.1,
    checkTag_int.2 fun ht => (htags ht).2.2.2, hstatus⟩

theorem exec_mbxSubmit_issued {h : CmdHandle} (hissued : Issued k g 0x67 src s)
    (htagH : runsTagged s k = true → tagOf s.cores[k].ops.mbxH = 3)
    (htagV : runsTagged s k = true → tagOf (moveValue s k src) = 1)
    (hlast : unsignedIn (runsTagged s k) (moveValue s k src) + 64 ≤ 0x20000)
    (haligned : unsignedIn (runsTagged s k) (moveValue s k src) % 64 = 0)
    (hhandle : handleOf s.cores[k] s.cores[k].ops.mbxH = some h) :
    exec (.mbxSubmit k g src) s = .next (setCore k nextPc (submit k h { bytes := (localRead k
      (unsignedIn (runsTagged s k) (moveValue s k src)) 64 (sourceRead k src s)).1 } (sourceRead k src s))) := by
  refine (execMbxSubmit.eq_1 k g src s).trans (xmove_issued_state hissued ?_)
  simp only [sourceRead_ops, handleOf_sourceRead, hhandle]
  refine guarded_passes ?_
  simp only [List.forall_mem_cons, List.not_mem_nil, false_imp_iff, implies_true, and_true]
  exact ⟨mbxRaw_none.2 hraw, checkHandle_none.2 ⟨htagH, rfl⟩, checkTag_ptr.2 htagV, if_neg (by omega), if_neg (by omega)⟩

theorem exec_mbxWait_issued {x : Submission} (hissued : Issued k g 0x68 src s)
    (htagV : runsTagged s k = true → tagOf (moveValue s k src) = 3)
    (hsub : submissionOf s.cores[k] (moveValue s k src) = some x) :
    exec (.mbxWait k g src) s = .next (moved k src (fun c =>
      { c with mbx := .waiting (BitVec.ofNat 29 (payload (moveValue s k src))) }) s) := by
  refine (execMbxWait.eq_1 k g src s).trans (xmove_issued_core hissued ?_)
  simp only [submissionOf_sourceRead, hsub]
  exact guarded_two (mbxRaw_none.2 hraw) (checkHandle_none.2 ⟨htagV, rfl⟩)

end Issued

theorem exec_mbxWaitDone_of_done {k : CoreIx} {s : State} {ref : BitVec 29} {x : Submission} {e : Entry}
    (hmbx : s.cores[k].mbx = .waiting ref) (hissues : issues s k = true)
    (hfind : s.cores[k].subs.find? (fun x => decide (x.ref = ref)) = some x) (hdone : x.done = some e) :
    exec (.mbxWaitDone k) s = .next (setCore k (fun c => { c with
      mbx := .idle, res := { c.res with mbx := e.status.setWidth 32 } }) s) := by
  have hexec : exec (.mbxWaitDone k) s = execMbxWaitDone k s := rfl
  simp only [hexec, execMbxWaitDone, hmbx, hfind, Option.bind_some, hdone, hissues, if_true, mbxOut, setCore_setCore]

/-! SUBMIT. -/

theorem submit_admits {k : CoreIx} {h : CmdHandle} {d : Descriptor} {s : State} {x : Submission}
    (hx : x = { ref := BitVec.ofNat 29 s.cores[k].nextRef, parent := h.ref, ring := h.ring, id := s.nextId, done := none })
    (hallowed : k = 2 → maySubmit d.opcode = true ∧
      (s.cores[k].subs.filter (fun y => decide (y.parent = h.ref) && y.done.isNone)).length < 16) :
    submit k h d s = admitOne h.ring 0 (setCore k (fun c => { c with
      subs := c.subs ++ [x], nextRef := c.nextRef + 1, res := { c.res with mbx := mkTagged 3 x.ref.toNat } }) s) d := by
  subst hx
  have hmay : ¬ (k = 2 ∧ (!maySubmit d.opcode) = true) := fun hbad => by simp [(hallowed hbad.1).1] at hbad
  have hbusy : ¬ (k = 2 ∧ 16 ≤ (s.cores[k].subs.filter (fun y => decide (y.parent = h.ref) && y.done.isNone)).length) :=
    fun hbad => absurd (hallowed hbad.1).2 (Nat.not_lt.2 hbad.2)
  exact (if_neg hmay).trans (if_neg hbusy)

theorem submit_refuses (h : CmdHandle) {d : Descriptor} (s : State) (hforbidden : maySubmit d.opcode = false) :
    ∃ x, submit 2 h d s = setCore 2 (fun c => { c with
      subs := c.subs ++ [x], nextRef := c.nextRef + 1, res := { c.res with mbx := mkTagged 3 x.ref.toNat } })
        { s with nextId := s.nextId + 1 } ∧
      x.done = some ((Reply.of codeStateIllegal).entry d) ∧ x.parent = h.ref := by
  refine ⟨⟨BitVec.ofNat 29 s.cores[(2 : CoreIx)].nextRef, h.ref, h.ring, s.nextId,
    some ((Reply.of codeStateIllegal).entry d)⟩, ?_, rfl, rfl⟩
  exact if_pos ⟨rfl, by rw [hforbidden]; rfl⟩

/-! EVENT and FETCH. -/

theorem exec_mbxEvent_issued {k : CoreIx} {g : BitVec 4} {src : MoveSrc} {s : State} (hissued : Issued k g 0x69 src s)
    (htags : runsTagged s k = true → tagOf s.cores[k].ops.mbxDetail = 0 ∧ tagOf (moveValue s k src) = 0) :
    exec (.mbxEvent k g src) s = .next (setCore k (fun c => nextPc { c with res := { c.res with mbx := 0 } })
      (event ((moveValue s k src).setWidth 16) (s.cores[k].ops.mbxDetail.setWidth 16) 0 (sourceRead k src s))) := by
  rw [← setCore_setCore]
  refine (execMbxEvent.eq_1 k g src s).trans (xmove_issued_state hissued ?_)
  simp only [sourceRead_ops]
  exact guarded_two (checkTag_int.2 fun ht => (htags ht).1) (checkTag_int.2 fun ht => (htags ht).2)

section Fetch
variable {k : CoreIx} {g : BitVec 4} {src : MoveSrc} {s : State} {n : RingIx} (hissued : Issued k g 0x6A src s)
  (htag : runsTagged s k = true → tagOf (moveValue s k src) = 0)
  (hn : unsignedIn (runsTagged s k) (moveValue s k src) = n.val)
include hissued htag hn

theorem exec_mbxFetch_some {f : Fetched} (hnext : nextFor (fun _ => true) n s = some f) :
    exec (.mbxFetch k g src) s = .next (setCore k nextPc (handOver k n f (dispatch n f (sourceRead k src s)))) := by
  have hnext' : nextFor (fun _ => true) n (sourceRead k src s) = some f := hnext
  refine (execMbxFetch.eq_1 k g src s).trans (xmove_issued_state hissued ?_)
  simp only [hn, n.isLt, dite_true, Fin.eta, hnext', Option.map_some]
  exact guarded_one (checkTag_int.2 htag)

theorem exec_mbxFetch_none (hnext : nextFor (fun _ => true) n s = none) :
    exec (.mbxFetch k g src) s = .next (moved k src (fun c =>
      { c with res := { c.res with mbx := intVal (runsTagged s k) (-1) } }) s) := by
  have hnext' : nextFor (fun _ => true) n (sourceRead k src s) = none := hnext
  refine (execMbxFetch.eq_1 k g src s).trans (xmove_issued_core hissued ?_)
  simp only [hn, n.isLt, dite_true, Fin.eta, hnext', Option.map_none]
  exact guarded_one (checkTag_int.2 htag)

end Fetch

/-- Settles O47: one rule per trigger of the mailbox unit, and the fields of its completion. -/
theorem mailboxUnitOfACore : Obligations.MailboxUnitOfACore := by
  unfold Obligations.MailboxUnitOfACore
  refine ⟨?recv, ?delivery, ?deliveryExt, fun _ _ _ _ => rfl, ?argCommand, ?argSubmission, ?inside, ?outside, ?complete,
    ?reply, ?submit, ?admits, fun h d s hforbidden => submit_refuses h s hforbidden, ?wait, ?waitDone, ?event, ?fetch⟩
  case recv =>
    rintro k g src s _ _ _ h rfl rfl rfl hraw
    exact (execMbxRecv.eq_1 k g src s).trans (xmove_issued_core h (guarded_one (mbxRaw_none.2 hraw)))
  case delivery => exact fun k s n f hmbx hissues hk hruns hnext => exec_mbxRecvDelivery_firmware hmbx hissues hk hruns hnext
  case deliveryExt => exact fun s n f r hmbx hissues hrouted => exec_mbxRecvDelivery_extension hmbx hissues hrouted
  case argCommand =>
    rintro k g src s _ _ _ x h rfl rfl rfl hraw htagH htagV hhandle
    exact exec_mbxArg16_command hraw h htagH htagV hhandle
  case argSubmission =>
    rintro k g src s _ _ _ x e h rfl rfl rfl hraw htagH htagV hhandle hsub hdone
    exact exec_mbxArg16_submission hraw h htagH htagV hhandle hsub hdone
  case inside => exact fun bs o hle heven => argField_inside hle heven
  case outside => exact fun bs o hout => argField_outside hout
  case complete =>
    rintro k g src s _ _ _ x h rfl rfl rfl hraw htagH htags hallowed hhandle
    exact exec_mbxComplete_issued hraw h htagH htags hallowed hhandle
  case reply =>
    rintro k v o r rfl
    refine ⟨rfl, rfl, rfl, fun hk => ?_, fun hk => ?_⟩
    · simp only [mbxReply, hk, if_true, Nat.zero_testBit, and_self, and_true]
      rfl
    · simp only [mbxReply, hk, if_false, and_self]
  case submit =>
    rintro k g src s _ _ _ x _ h rfl rfl rfl hraw htagH htagV rfl hlast haligned hhandle
    exact exec_mbxSubmit_issued hraw h htagH htagV hlast haligned hhandle
  case admits => exact fun k h d s x hx hallowed => submit_admits hx hallowed
  case wait =>
    rintro k g src s _ _ _ x h rfl rfl rfl hraw htagV hsub
    exact exec_mbxWait_issued hraw h htagV hsub
  case waitDone => exact fun k s ref x e hmbx hissues hfind hdone => exec_mbxWaitDone_of_done hmbx hissues hfind hdone
  case event =>
    rintro k g src s _ _ _ h rfl rfl rfl htags
    exact exec_mbxEvent_issued h htags
  case fetch =>
    rintro k g src s _ _ _ n h rfl rfl rfl htag hn
    exact ⟨fun f hnext => exec_mbxFetch_some h htag hn hnext, fun hnext => exec_mbxFetch_none h htag hn hnext⟩

end Sys2Proof.Proofs
end

/-! The transfer unit (R536, R541) and the flash unit (R410, R412, R418, R426, R537) of a core. -/
section
namespace Sys2Proof.Proofs
open Sys2Proof Sys2Proof.Machine

section Transfer
variable {k : CoreIx} {g : BitVec 4} {port a n : Nat} {src : MoveSrc} {s : State} (write : Bool)
  (hissued : Issued k g port src s) (htag : runsTagged s k = true → tagOf s.cores[k].ops.xfrLocal = 1)
  (ha : a = xaddr (runsTagged s k) s.cores[k].ops.xfrLocal) (hn : n = xaddr (runsTagged s k) s.cores[k].ops.xfrLen)
include hissued htag ha hn

/-- A transfer of words in range starts. -/
theorem xfrStart_starts (hlow : 4 ≤ n) (hhigh : n ≤ 65536) (hwords : n % 4 = 0) (hlocal : localRange k a n = true)
    (hfar : farBad s (farAddr s.cores[k].ops) n = false) :
    xmove k g port src (xfrStart write) s = .next (moved k src (fun c => { c with
      xfr := some { write := write, localAddr := a, far := BitVec.ofNat 64 (farAddr s.cores[k].ops), len := n, discard := false } })
      s) := by
  subst ha hn
  have hfar' : farBad (sourceRead k src s) (farAddr s.cores[k].ops) (xaddr (runsTagged s k) s.cores[k].ops.xfrLen) = false :=
    hfar
  refine xmove_issued_core hissued ?_
  simp only [xfrStart, sourceRead_ops, hlow, hhigh, hwords, hlocal, hfar', decide_true, Bool.not_false, Bool.and_self, if_true]
  exact guarded_one (checkTag_ptr.2 htag)

/-- Any other ends at once with ARG_RANGE. -/
theorem xfrStart_refuses
    (hbad : n < 4 ∨ 65536 < n ∨ n % 4 ≠ 0 ∨ localRange k a n = false ∨ farBad s (farAddr s.cores[k].ops) n = true) :
    xmove k g port src (xfrStart write) s = .next (moved k src (fun c =>
      { c with res := { c.res with xfr := codeArgRange.setWidth 32 } }) s) := by
  have hok : (decide (4 ≤ n) && decide (n ≤ 65536) && decide (n % 4 = 0) && localRange k a n &&
      !farBad (sourceRead k src s) (farAddr s.cores[k].ops) n) = false := by
    change (_ && !farBad s (farAddr s.cores[k].ops) n) = false
    rcases hbad with h | h | h | h | h
    · simp [Nat.not_le.2 h]
    · simp [Nat.not_le.2 h]
    · simp [h]
    · simp [h]
    · simp [-Fin.getElem_fin, h]
  subst ha hn
  refine xmove_issued_core hissued ?_
  simp only [xfrStart, sourceRead_ops, hok, Bool.false_eq_true, if_false]
  exact guarded_one (checkTag_ptr.2 htag)

end Transfer

/-- Settles O48: both triggers are `xfrStart`, and the branches of a transfer's end. -/
theorem transferUnitOfACore : Obligations.TransferUnitOfACore := by
  unfold Obligations.TransferUnitOfACore
  refine ⟨?readStarts, ?readRefuses, ?writeStarts, ?writeRefuses, ?ends⟩
  case readStarts | writeStarts =>
    rintro k g src s _ _ _ a n h rfl rfl rfl htag ha hn hlow hhigh hwords hlocal hfar
    exact xfrStart_starts _ h htag ha hn hlow hhigh hwords hlocal hfar
  case readRefuses | writeRefuses =>
    rintro k g src s _ _ _ a n h rfl rfl rfl htag ha hn hbad
    exact xfrStart_refuses _ h htag ha hn hbad
  case ends =>
    intro k s x hx
    have hexec (failed : Bool) : exec (.xfrDone k failed) s = execXfrDone k failed s := rfl
    refine ⟨?fails, fun hwrite => ?writes, fun e hread hfails => ?readFails, fun hread hok => ?reads⟩
    case fails => simp only [hexec, execXfrDone, hx, if_true, xfrEnd]
    case writes => simp only [hexec, execXfrDone, hx, hwrite, Bool.false_eq_true, if_false, if_true, xfrEnd]
    case readFails => simp only [hexec, execXfrDone, hx, hread, hfails, Bool.false_eq_true, if_false, xfrEnd]
    case reads => simp only [hexec, execXfrDone, hx, hread, hok, Bool.false_eq_true, if_false, xfrEnd]

/-! What the flash unit's checks look at is not changed by the read of a move's source. -/

theorem flsTarget_congr {c d : Core} (h : d.ops = c.ops) : flsTarget d = flsTarget c := by
  unfold flsTarget
  rw [h]

theorem flsTarget_sourceRead (k : CoreIx) (src : MoveSrc) (s : State) :
    flsTarget (sourceRead k src s).cores[k] = flsTarget s.cores[k] := flsTarget_congr (sourceRead_ops k src s)

/-- A bank that changes in nothing that `p` looks at has an entry of `p` as before. -/
theorem any_upd {α : Type} {n : Nat} (v : Vector α n) (i : Fin n) (f : α → α) (p : α → Bool) (h : p (f v[i]) = p v[i]) :
    (upd v i f).toList.any p = v.toList.any p := by
  have hmap : (upd v i f).map p = v.map p := by
    ext j hj
    simp only [upd, Vector.getElem_map, Vector.getElem_set]
    split
    · next hij =>
      subst hij
      exact h
    · rfl
  have := congrArg (fun w => w.toList.any id) hmap
  simpa only [Vector.toList_map, List.any_map, Function.id_comp] using this

theorem flsSameBank_sourceRead (k : CoreIx) (src : MoveSrc) (s : State) (arr : FlashArray) (f : Nat) :
    flsSameBank (sourceRead k src s) k arr f = flsSameBank s k arr f := by
  have hpc : (sourceRead k src s).cores[k].pc = s.cores[k].pc := by rw [sourceRead_core, readSource_pc]
  have hany (bank : Nat) : (sourceRead k src s).cores.toList.any (fun c => decide (c.pc.toNat / 0x400000 = bank)) =
      s.cores.toList.any (fun c => decide (c.pc.toNat / 0x400000 = bank)) :=
    any_upd _ _ _ _ (by rw [readSource_pc])
  simp only [flsSameBank, hpc, hany]

theorem flsRefused_sourceRead (k : CoreIx) (src : MoveSrc) (s : State) (arr : FlashArray) (f n : Nat) :
    flsRefused (sourceRead k src s) k arr f n = flsRefused s k arr f n := by
  rw [flsRefused, flsSameBank_sourceRead, flsRefused]
  rfl

section Flash
variable {k : CoreIx} {g : BitVec 4} {src : MoveSrc} {s : State}

section Read
variable (hissued : Issued k g 0x7D src s) (htag : runsTagged s k = true → tagOf s.cores[k].ops.flsLocal = 1)
include hissued htag

theorem exec_flsRead_ok {arr : FlashArray} {a n f e : Nat} (ha : a = xaddr (runsTagged s k) s.cores[k].ops.flsLocal)
    (hn : n = xaddr (runsTagged s k) s.cores[k].ops.flsLen) (htarget : flsTarget s.cores[k] = some (arr, f, e)) (h0 : n ≠ 0)
    (hend : f + n ≤ e) (hlocal : localRange k a n = true) (harchive : arr = .archive → s.flash.archDead = false) :
    exec (.flsRead k g src) s = .next (setCore k (fun c => nextPc { c with
        flsStatus := codeOk.setWidth 32, res := { c.res with fls := codeOk.setWidth 32 } })
      (localWrite k a (flashRead s arr f n) (sourceRead k src s))) := by
  subst ha hn
  have hbad : ¬ (xaddr (runsTagged s k) s.cores[k].ops.flsLen = 0 ∨ e < f + xaddr (runsTagged s k) s.cores[k].ops.flsLen ∨
      (!localRange k (xaddr (runsTagged s k) s.cores[k].ops.flsLocal) (xaddr (runsTagged s k) s.cores[k].ops.flsLen)) = true) := by
    rw [hlocal]
    simp only [Bool.not_true, Bool.false_eq_true, or_false]
    omega
  have hdead : ¬ (arr = .archive ∧ (sourceRead k src s).flash.archDead = true) := fun h =>
    Bool.false_ne_true ((harchive h.1).symm.trans h.2)
  rw [← setCore_setCore]
  refine (execFlsRead.eq_1 k g src s).trans (xmove_issued_state hissued ?_)
  simp only [flsReadOp, sourceRead_ops, flsTarget_sourceRead, htarget, hbad, hdead, if_false]
  exact guarded_one (checkTag_ptr.2 htag)

theorem exec_flsRead_refused {a n : Nat} (ha : a = xaddr (runsTagged s k) s.cores[k].ops.flsLocal)
    (hn : n = xaddr (runsTagged s k) s.cores[k].ops.flsLen)
    (hbad : flsTarget s.cores[k] = none ∨ n = 0 ∨ localRange k a n = false) :
    exec (.flsRead k g src) s = .next (moved k src (fun c => { c with
      flsStatus := codeArgRange.setWidth 32, res := { c.res with fls := codeArgRange.setWidth 32 } }) s) := by
  subst ha hn
  refine (execFlsRead.eq_1 k g src s).trans (xmove_issued_core hissued ?_)
  simp only [flsReadOp, sourceRead_ops, flsTarget_sourceRead]
  refine (guarded_one (checkTag_ptr.2 htag)).trans (congrArg Except.ok ?_)
  split
  · rfl
  · next arr f e htarget =>
    refine if_pos ?_
    rcases hbad with hnone | h0 | hlocal
    · rw [hnone] at htarget
      cases htarget
    · exact .inl h0
    · exact .inr (.inr (by rw [hlocal]; rfl))

end Read

section Program
variable {arr : FlashArray} {a n f e : Nat} (hissued : Issued k g 0x7E src s)
  (htag : runsTagged s k = true → tagOf s.cores[k].ops.flsLocal = 1)
  (ha : a = xaddr (runsTagged s k) s.cores[k].ops.flsLocal) (hn : n = xaddr (runsTagged s k) s.cores[k].ops.flsLen)
  (htarget : flsTarget s.cores[k] = some (arr, f, e)) (hlow : 4 ≤ n)
  (hunit : f % max (programUnit arr f) 1 + n ≤ programUnit arr f) (hend : f + n ≤ e) (hlocal : localRange k a n = true)
include htag ha hn htarget hlow hunit hend hlocal

/-- A program in range: what the refusal checks answer decides. -/
theorem flsProgramOp_in_range : flsProgramOp k (runsTagged s k) (moveValue s k src) (sourceRead k src s) =
    .ok (match flsRefused s k arr f n with
      | some c => flsStatus k c (sourceRead k src s)
      | none => flsRun k (.page arr f (localRead k a n (sourceRead k src s)).1) (sourceRead k src s)) := by
  have hbad : ¬ (n < 4 ∨ programUnit arr f < f % max (programUnit arr f) 1 + n ∨ e < f + n ∨ (!localRange k a n) = true) := by
    rw [hlocal]
    simp only [Bool.not_true, Bool.false_eq_true, or_false]
    omega
  subst ha hn
  simp only [flsProgramOp, sourceRead_ops, flsTarget_sourceRead, htarget, hbad, if_false, flsRefused_sourceRead]
  exact guarded_one (checkTag_ptr.2 htag)

include hissued

theorem exec_flsProgram_runs (hallowed : flsRefused s k arr f n = none) : exec (.flsProgram k g src) s =
    .next (setCore k nextPc (flsRun k (.page arr f (localRead k a n (sourceRead k src s)).1) (sourceRead k src s))) := by
  refine (execFlsProgram.eq_1 k g src s).trans (xmove_issued_state hissued ?_)
  rw [flsProgramOp_in_range htag ha hn htarget hlow hunit hend hlocal, hallowed]

theorem exec_flsProgram_refused {c0 : W16} (hrefused : flsRefused s k arr f n = some c0) : exec (.flsProgram k g src) s =
    .next (moved k src (fun c => { c with flsStatus := c0.setWidth 32, res := { c.res with fls := c0.setWidth 32 } }) s) := by
  refine (execFlsProgram.eq_1 k g src s).trans (xmove_issued_core hissued ?_)
  rw [flsProgramOp_in_range htag ha hn htarget hlow hunit hend hlocal, hrefused]
  rfl

end Program

section Erase
variable {arr : FlashArray} {f e : Nat} {x : EraseUnit} (htarget : flsTarget s.cores[k] = some (arr, f, e))
  (hunit : flsUnit arr f (xaddr (runsTagged s k) s.cores[k].ops.flsLen) = some x) (hend : f + unitSize x ≤ e)
include htarget hunit hend

/-- An erase unit inside its partition: what the refusal checks answer decides. -/
theorem flsEraseOp_in_range : flsEraseOp k (runsTagged s k) (moveValue s k src) (sourceRead k src s) =
    match flsRefused s k arr f (unitSize x) with
    | some c => .ok (flsStatus k c (sourceRead k src s))
    | none => .ok (flsRun k (.rawErase arr x f) (sourceRead k src s)) := by
  simp only [flsEraseOp, sourceRead_ops, flsTarget_sourceRead, htarget, hunit, Nat.not_lt.2 hend, if_false,
    flsRefused_sourceRead] <;> rfl

theorem exec_flsErase_runs (hissued : Issued k g 0x7F src s) (hallowed : flsRefused s k arr f (unitSize x) = none) :
    exec (.flsErase k g src) s = .next (setCore k nextPc (flsRun k (.rawErase arr x f) (sourceRead k src s))) := by
  refine (execFlsErase.eq_1 k g src s).trans (xmove_issued_state hissued ?_)
  rw [flsEraseOp_in_range htarget hunit hend, hallowed]

theorem exec_flsErase_refused {c0 : W16} (hissued : Issued k g 0x7F src s)
    (hrefused : flsRefused s k arr f (unitSize x) = some c0) : exec (.flsErase k g src) s =
    .next (moved k src (fun c => { c with flsStatus := c0.setWidth 32, res := { c.res with fls := c0.setWidth 32 } }) s) := by
  refine (execFlsErase.eq_1 k g src s).trans (xmove_issued_core hissued ?_)
  rw [flsEraseOp_in_range htarget hunit hend, hrefused]
  rfl

theorem exec_flsMargin_runs (hissued : Issued k g 0x80 src s) (harchive : arr = .archive → s.flash.archDead = false) :
    exec (.flsMargin k g src) s = .next (setCore k nextPc (flsRun k (.rawMargin arr x f) (sourceRead k src s))) := by
  have hdead : ¬ (arr = .archive ∧ (sourceRead k src s).flash.archDead = true) := fun h =>
    Bool.false_ne_true ((harchive h.1).symm.trans h.2)
  refine (execFlsMargin.eq_1 k g src s).trans (xmove_issued_state hissued ?_)
  simp only [flsMarginOp, sourceRead_ops, flsTarget_sourceRead, htarget, hunit, Nat.not_lt.2 hend, hdead, if_false]

end Erase

section Poll
variable (hissued : Issued k g 0x81 src s)
include hissued

theorem exec_flsPoll_running (hfls : s.cores[k].fls = true) : exec (.flsPoll k g src) s =
    .next (moved k src (fun c => { c with flsPolled := true, res := { c.res with fls := intVal (runsTagged s k) (-1) } }) s) := by
  refine (execFlsPoll.eq_1 k g src s).trans (xmove_issued_ok hissued (if_pos ?_))
  rw [readSource_fls, hfls]

theorem exec_flsPoll_idle (hfls : s.cores[k].fls = false) : exec (.flsPoll k g src) s =
    .next (moved k src (fun c => { c with res := { c.res with fls := c.flsStatus } }) s) := by
  refine (execFlsPoll.eq_1 k g src s).trans (xmove_issued_ok hissued (if_neg ?_))
  rw [readSource_fls, hfls]
  exact Bool.false_ne_true

end Poll

end Flash

/-- The checks of a program or an erase, in their order (R410, R412, R418). -/
theorem flsRefused_order (s : State) (k : CoreIx) (arr : FlashArray) (f n : Nat) :
    (flsProtected arr f n = true → flsRefused s k arr f n = some codeArgRange) ∧
    (flsProtected arr f n = false → flsSameBank s k arr f = true → flsRefused s k arr f n = some codeNvmSameBank) ∧
    (flsProtected arr f n = false → flsSameBank s k arr f = false → writeTempOk s (decide (arr ≠ .archive)) 0 = false →
      flsRefused s k arr f n = some codeNvmTemp) := by
  refine ⟨fun h => ?_, fun h h' => ?_, fun h h' h'' => ?_⟩
  · simp only [flsRefused, h, if_true]
  · simp only [flsRefused, h, h', Bool.false_eq_true, if_false, if_true]
  · simp only [flsRefused, h, h', h'', Bool.not_false, Bool.false_eq_true, if_false, if_true]

/-- Settles O49: one rule per trigger of the flash unit and per outcome of its checks. -/
theorem flashUnitOfACore : Obligations.FlashUnitOfACore := by
  unfold Obligations.FlashUnitOfACore
  refine ⟨?read, ?readRefused, ?program, ?erase, ?margin, ?programRefused, ?eraseRefused, ?pollRunning, ?pollIdle,
    fun s k arr a n => flsRefused_order s k arr a n, fun _ _ _ => rfl⟩
  case read =>
    rintro k g src s _ _ _ a n arr f e h rfl rfl rfl htag ha hn htarget h0 hend hlocal harchive
    exact exec_flsRead_ok h htag ha hn htarget h0 hend hlocal harchive
  case readRefused =>
    rintro k g src s _ _ _ a n h rfl rfl rfl htag ha hn hbad
    exact exec_flsRead_refused h htag ha hn hbad
  case program =>
    rintro k g src s _ _ _ a n arr f e h rfl rfl rfl htag ha hn htarget hlow hunit hend hlocal hallowed
    exact exec_flsProgram_runs h htag ha hn htarget hlow hunit hend hlocal hallowed
  case erase =>
    rintro k g src s _ _ _ _ arr f e x h rfl rfl rfl rfl htarget hunit hend hallowed
    exact exec_flsErase_runs htarget hunit hend h hallowed
  case margin =>
    rintro k g src s _ _ _ _ arr f e x h rfl rfl rfl rfl htarget hunit hend harchive
    exact exec_flsMargin_runs htarget hunit hend h harchive
  case programRefused =>
    rintro k g src s _ _ _ a n arr f e c0 h rfl rfl rfl htag ha hn htarget hlow hunit hend hlocal hrefused
    exact exec_flsProgram_refused h htag ha hn htarget hlow hunit hend hlocal hrefused
  case eraseRefused =>
    rintro k g src s _ _ _ _ arr f e x c0 h rfl rfl rfl rfl htarget hunit hend hrefused
    exact exec_flsErase_refused htarget hunit hend h hrefused
  case pollRunning =>
    rintro k g src s _ _ _ h rfl rfl rfl hfls
    exact exec_flsPoll_running h hfls
  case pollIdle =>
    rintro k g src s _ _ _ h rfl rfl rfl hfls
    exact exec_flsPoll_idle h hfls

end Sys2Proof.Proofs
end

/-! What a posted entry, an event and a completion leave unchanged. -/
section
namespace Sys2Proof.Proofs
open Sys2Proof Sys2Proof.Machine

/-- `t` is `s` but for the rings, the endpoint, the memories and the endpoint's outputs. -/
def PostFrame (s t : State) : Prop := ∃ ri ho m ou, t = { s with rings := ri, host := ho, mem := m, out := ou }

theorem PostFrame.refl (s : State) : PostFrame s s := ⟨_, _, _, _, rfl⟩

theorem PostFrame.trans {s t u : State} (h : PostFrame s t) (h' : PostFrame t u) : PostFrame s u := by
  obtain ⟨_, _, _, _, rfl⟩ := h
  obtain ⟨_, _, _, _, rfl⟩ := h'
  exact ⟨_, _, _, _, rfl⟩

theorem setRing_frame (n : RingIx) (f : Ring → Ring) (s : State) : PostFrame s (setRing n f s) := ⟨_, _, _, _, rfl⟩

theorem signalVector_frame (v : Fin 128) (s : State) : PostFrame s (signalVector v s) := by
  unfold signalVector
  split
  · exact .refl s
  · split <;> exact ⟨_, _, _, _, rfl⟩

theorem raiseCq_frame (n : RingIx) (s : State) : PostFrame s (raiseCq n s) := by
  unfold raiseCq
  split
  · exact signalVector_frame _ s
  · exact .refl s

theorem moderate_frame (n : RingIx) (noIrq : Bool) (s : State) : PostFrame s (moderate n noIrq s) := by
  unfold moderate
  split
  · exact .refl s
  · split
    · exact (setRing_frame _ _ s).trans (raiseCq_frame n _)
    · exact setRing_frame _ _ s

theorem writeEntry_frame (n : RingIx) (e : Entry) (s : State) : PostFrame s (writeEntry n e s) :=
  PostFrame.trans ⟨_, _, _, _, rfl⟩ (moderate_frame n e.noIrq _)

theorem drainCq_frame (n : RingIx) (fuel : Nat) (s : State) : PostFrame s (drainCq n fuel s) := by
  induction fuel generalizing s with
  | zero => exact .refl s
  | succ fuel ih =>
    unfold drainCq
    split
    · exact .refl s
    · split
      · exact ((setRing_frame _ _ s).trans (writeEntry_frame _ _ _)).trans (ih _)
      · exact .refl s

theorem postEntry_frame (n : RingIx) (e : Entry) (s : State) : PostFrame s (postEntry n e s) := by
  unfold postEntry
  split
  · exact (setRing_frame _ _ s).trans (drainCq_frame n _ _)
  · exact .refl s

/-- `t` is `s` but for what an event may change: what a posted entry may, the tray and the buffers of the flash. -/
def EventFrame (s t : State) : Prop :=
  ∃ ri ho m ou tr f, t = { s with rings := ri, host := ho, mem := m, out := ou, tray := tr, flash := f }

theorem PostFrame.event {s t : State} (h : PostFrame s t) : EventFrame s t := by
  obtain ⟨_, _, _, _, rfl⟩ := h
  exact ⟨_, _, _, _, _, _, rfl⟩

theorem EventFrame.trans {s t u : State} (h : EventFrame s t) (h' : EventFrame t u) : EventFrame s u := by
  obtain ⟨_, _, _, _, _, _, rfl⟩ := h
  obtain ⟨_, _, _, _, _, _, rfl⟩ := h'
  exact ⟨_, _, _, _, _, _, rfl⟩

theorem event_frame (code source data : W16) (s : State) : EventFrame s (event code source data s) := by
  have hnoted : EventFrame s (notedEvent code source data s) := ⟨_, _, _, _, _, _, rfl⟩
  by_cases hposted : (code, source, data) ∈ s.tray.roundEvents
  · rw [event, if_pos hposted]
    exact (PostFrame.refl s).event
  · by_cases hcredit : s.tray.pendingEvents = [] ∧ eventCredit s = true
    · rw [event_of_credit hposted hcredit.1 hcredit.2]
      exact (hnoted.trans ⟨_, _, _, _, _, _, rfl⟩).trans (postEntry_frame 0 _ _).event
    · rw [event_of_no_credit hposted (by rwa [← Bool.not_eq_true, ← not_and_or])]
      refine hnoted.trans ?_
      unfold keepEvent
      dsimp only
      split <;> exact ⟨_, _, _, _, _, _, rfl⟩

theorem event_cores (code source data : W16) (s : State) : (event code source data s).cores = s.cores := by
  obtain ⟨_, _, _, _, _, _, h⟩ := event_frame code source data s
  rw [h]

theorem event_ext (code source data : W16) (s : State) : (event code source data s).ext = s.ext := by
  obtain ⟨_, _, _, _, _, _, h⟩ := event_frame code source data s
  rw [h]

end Sys2Proof.Proofs
end

/-! Traps of a core (R505 to R508, R515, R336). -/
section
namespace Sys2Proof.Proofs
open Sys2Proof Sys2Proof.Machine

/-- Completions of a list of commands change a core in its submissions alone. -/
theorem completeFold_core {α : Type} (n : α → RingIx) (f : α → Fetched) (code : W16) (k : CoreIx) (xs : List α) (s : State) :
    ∃ l, (xs.foldl (fun s x => complete (n x) (f x) (Reply.of code) s) s).cores[k] = { s.cores[k] with subs := l } := by
  induction xs generalizing s with
  | nil => exact ⟨s.cores[k].subs, rfl⟩
  | cons x xs ih =>
    obtain ⟨l, hrest⟩ := ih (complete (n x) (f x) (Reply.of code) s)
    obtain ⟨l', hfirst⟩ := complete_core (n x) (f x) (Reply.of code) s k
    exact ⟨l, by rw [List.foldl_cons, hrest, hfirst]⟩

/-- Core `k` loses its handles; every other core stands but for its submissions. -/
theorem failHandles_other {k j : CoreIx} (hj : j ≠ k) (code : W16) (s : State) :
    ∃ l, (failHandles k code s).cores[j] = { s.cores[j] with subs := l } := by
  obtain ⟨l, h⟩ := completeFold_core CmdHandle.ring CmdHandle.cmd code j s.cores[k].handles
    (setCore k (fun c => { c with handles := [] }) s)
  rw [setCore_other k j _ _ hj] at h
  exact ⟨l, h⟩

/-- The work of core 0 or 3 that stops leaves both cores, but for the handles of core 0 and submissions. -/
theorem stopCoreWork_core {k : CoreIx} (hk : k = 0 ∨ k = 3) (j : CoreIx) (s : State) :
    ∃ hs l, (stopCoreWork k s).cores[j] = { s.cores[j] with handles := hs, subs := l } := by
  rcases hk with rfl | rfl
  · by_cases hj : j = 0
    · subst hj
      obtain ⟨l, h⟩ := failHandles_core 0 codeFwFault s
      exact ⟨[], l, h⟩
    · obtain ⟨l, h⟩ := failHandles_other hj codeFwFault s
      exact ⟨s.cores[j].handles, l, h⟩
  · exact ⟨s.cores[j].handles, s.cores[j].subs, rfl⟩

/-- The slot of a trap in TRAP_SLOT: 0 outside a branch, else the delay slot. -/
def trapSlotOf (c : Core) : Nat :=
  match c.branch with
  | none => 0
  | some (_, n) => if n ≤ 1 then 2 else 1

theorem trapSlotOf_cases (c : Core) : (c.branch = none → trapSlotOf c = 0) ∧
    (∀ a n, c.branch = some (a, n) → 2 ≤ n → trapSlotOf c = 1) ∧
    (∀ a n, c.branch = some (a, n) → n ≤ 1 → trapSlotOf c = 2) := by
  unfold trapSlotOf
  refine ⟨fun h => ?_, fun a n h hn => ?_, fun a n h hn => ?_⟩
  · rw [h]
  · rw [h]
    exact if_neg (by omega)
  · rw [h]
    exact if_pos hn

/-- The record that a trap writes (Table 20-12). -/
def trapRecordOf (t : XTrap) (s : State) (c : Core) : TrapRecord :=
  { cause := BitVec.ofNat 29 t.cause, pc := BitVec.ofNat 29 c.pc.toNat, slot := BitVec.ofNat 29 (trapSlotOf c),
    port := BitVec.ofNat 29 t.port, tag := BitVec.ofNat 29 t.tag, addr := BitVec.ofNat 29 t.addr,
    ddepth := BitVec.ofNat 29 c.dstack.length, rdepth := BitVec.ofNat 29 c.rstack.length, sc := s.time.symbolCount }

theorem recordTrap_eq (k : CoreIx) (t : XTrap) (s : State) :
    recordTrap k t s = setCore k (fun c => { c with trap := trapRecordOf t s c }) s := rfl

section Running
variable {k : CoreIx} {t : XTrap} {s : State} (hk : k ≠ 2)
include hk

/-- The first trap of a running core other than 2 (R505). -/
theorem trap_of_running (hrunning : s.cores[k].state = .running) : trap k t s =
    setCore k (fun c => { dropUnits { c with postDue := some (trapEvent t.cause) } with
      state := .faultMode, pc := BitVec.ofNat 32 (vectorPc c) }) (stopCoreWork k (recordTrap k t s)) := by
  have hstate : (recordTrap k t s).cores[k].state = .running := by
    rw [recordTrap_eq, setCore_self]
    exact hrunning
  simp only [trap, afterTrap, hk, hstate, reduceCtorEq, decide_false, Bool.or_self, Bool.false_eq_true, if_false,
    setCore_setCore]
  rfl

/-- A second trap halts the core, or its partner restarts it (R506). -/
theorem trap_of_faultMode (hfault : s.cores[k].state = .faultMode) : trap k t s =
    haltCore k (setCore k (fun c => { c with postDue := some (trapEvent t.cause) }) (stopCoreWork k (recordTrap k t s))) := by
  have hstate : (recordTrap k t s).cores[k].state = .faultMode := by
    rw [recordTrap_eq, setCore_self]
    exact hfault
  simp only [trap, afterTrap, hk, hstate, decide_true, Bool.or_true, if_false, if_true]

end Running

theorem haltCore_state (k : CoreIx) (s : State) : (haltCore k s).cores[k].state =
    if s.cores[partner k].state = .running then .restarting else .halted := by
  rw [haltCore, setCore_self]

theorem partner_ne {k : CoreIx} (hk : k = 0 ∨ k = 3) : partner k ≠ k := by
  rcases hk with rfl | rfl <;> decide

/-- The partner of core 0 or 3 as the halting of a double fault finds it. -/
theorem partner_state {k : CoreIx} (hk : k = 0 ∨ k = 3) (t : XTrap) (s : State) (f : Core → Core) :
    (setCore k f (stopCoreWork k (recordTrap k t s))).cores[partner k].state = s.cores[partner k].state := by
  obtain ⟨hs, l, hcore⟩ := stopCoreWork_core hk (partner k) (recordTrap k t s)
  rw [setCore_other k _ _ _ (partner_ne hk), hcore, recordTrap_eq, setCore_other k _ _ _ (partner_ne hk)]

/-- Core 2 of an unloaded extension (R336, R515). -/
theorem unloadExt_core (s : State) : (unloadExt s).cores[(2 : CoreIx)].state = .halted ∧
    (unloadExt s).cores[(2 : CoreIx)].handles = [] ∧ (unloadExt s).cores[(2 : CoreIx)].routed = [] := by
  unfold unloadExt
  dsimp only
  generalize s.cores[2].subs.foldl (fun s x => stopSubmission x s) s = s1
  obtain ⟨l, hwaiting⟩ := completeFold_core Prod.fst Prod.snd codeFwFault 2 s1.cores[2].routed
    (failHandles 2 codeFwFault (setCore 2 (fun c => { c with
      state := .halted, routed := [], subs := [], mbx := .idle, tmr := false, branch := none, stalled := none }) s1))
  obtain ⟨l', hhandles⟩ := failHandles_core 2 codeFwFault (setCore 2 (fun c => { c with
      state := .halted, routed := [], subs := [], mbx := .idle, tmr := false, branch := none, stalled := none }) s1)
  rw [setCore_self] at hhandles
  rw [hhandles] at hwaiting
  rw [hwaiting]
  exact ⟨rfl, rfl, rfl⟩

/-- Core 0 or 3 as its first trap leaves it. -/
theorem trap_core_of_running {k : CoreIx} (hk : k = 0 ∨ k = 3) (t : XTrap) {s : State} (hrunning : s.cores[k].state = .running) :
    ∃ hs l, (trap k t s).cores[k] = { dropUnits { s.cores[k] with
      handles := hs, subs := l, trap := trapRecordOf t s s.cores[k], postDue := some (trapEvent t.cause) } with
        state := .faultMode, pc := BitVec.ofNat 32 (vectorPc s.cores[k]) } := by
  have hk2 : k ≠ 2 := by rcases hk with rfl | rfl <;> decide
  obtain ⟨hs, l, hcore⟩ := stopCoreWork_core hk k (recordTrap k t s)
  rw [trap_of_running hk2 hrunning, setCore_self, hcore, recordTrap_eq, setCore_self]
  exact ⟨hs, l, rfl⟩

/-- Settles O53: the first trap by `trap_of_running`, the second by `trap_of_faultMode`, that of core 2 by `unloadExt`. -/
theorem trapsEnterTheFaultHandler : Obligations.TrapsEnterTheFaultHandler := by
  unfold Obligations.TrapsEnterTheFaultHandler
  refine ⟨?running, ?double, ?extension⟩
  case running =>
    rintro k t s _ rfl hk hrunning
    have htrap := trap_of_running (t := t) hk hrunning
    have hunits : (trap k t s).cores[k].state = .faultMode ∧ (trap k t s).cores[k].branch = none ∧
        (trap k t s).cores[k].mbx = .idle ∧ (trap k t s).cores[k].tmr = false ∧ (trap k t s).cores[k].stalled = none := by
      rw [htrap, setCore_self]
      exact ⟨rfl, rfl, rfl, rfl, rfl⟩
    obtain ⟨hstate, hbranch, hmbx, htmr, hstalled⟩ := hunits
    refine ⟨hstate, hbranch, hmbx, htmr, hstalled, fun hk03 => ?record, fun hk0 => ?handles, fun hk3 => ?memory⟩
    case record =>
      obtain ⟨hs, l, hcore⟩ := trap_core_of_running hk03 t hrunning
      obtain ⟨hnone, hfirst, hsecond⟩ := trapSlotOf_cases s.cores[k]
      rw [hcore]
      exact ⟨_, rfl, rfl, rfl, rfl, rfl, rfl, rfl, rfl, fun hb => congrArg (BitVec.ofNat 29) (hnone hb),
        fun a n hb hn => congrArg (BitVec.ofNat 29) (hfirst a n hb hn),
        fun a n hb hn => congrArg (BitVec.ofNat 29) (hsecond a n hb hn), rfl, rfl, rfl, rfl, rfl, rfl, rfl, rfl⟩
    case handles =>
      subst hk0
      obtain ⟨l, hcore⟩ := failHandles_core 0 codeFwFault (recordTrap 0 t s)
      rw [htrap, setCore_self]
      exact congrArg Core.handles hcore
    case memory =>
      subst hk3
      rw [htrap]
      exact ⟨rfl, rfl, rfl⟩
  case double =>
    rintro k t s _ rfl hk hfault
    have hk2 : k ≠ 2 := by rcases hk with rfl | rfl <;> decide
    rw [trap_of_faultMode hk2 hfault, haltCore_state, partner_state hk]
    exact ⟨fun hruns => if_pos hruns, fun hstops => if_neg hstops⟩
  case extension =>
    rintro t s _ rfl
    have htrap : trap 2 t s = coreEvent (trapEvent t.cause) 2 (unloadExt (recordTrap 2 t s)) := rfl
    obtain ⟨hstate, hhandles, hrouted⟩ := unloadExt_core (recordTrap 2 t s)
    rw [htrap, coreEvent, event_cores, event_ext]
    exact ⟨hstate, hhandles, hrouted, rfl⟩

end Sys2Proof.Proofs
end

/-! The host's accesses: doorbells, writable registers, the time block, the memory window and the endpoint's resets. -/
section
namespace Sys2Proof.Proofs
open Sys2Proof Sys2Proof.Machine

/-- A CQ doorbell that passes its check moves the head; ring 0 acknowledges events; then what waits for credit goes on. -/
theorem exec_cqDb_of_ok {ring : RingIx} {value : W32} {s : State} (hreach : barReach s = true)
    (henabled : s.rings[ring].state = .enabled)
    (hok : doorbellOk value.toNat (2 * s.rings[ring].depth) (cqAdvance s.rings[ring] value.toNat)
      s.rings[ring].unreleased = true) :
    exec (.cqDb ring value) s = .next (creditGained ring
      (if ring = 0 then
        acknowledge s.rings[ring].cqHead.toNat (cqAdvance s.rings[ring] value.toNat)
          (setRing ring (fun r => { r with cqHead := value.setWidth 13 }) s)
       else setRing ring (fun r => { r with cqHead := value.setWidth 13 }) s)) := by
  simp only [exec_cqDb, execCqDb, hreach, henabled, hok, Bool.not_true, Bool.false_eq_true, and_self, ↓reduceIte]

theorem doorbellOk_of_le {value range advance limit : Nat} (hbits : value < 8192) (hrange : value < range)
    (hadvance : advance ≤ limit) : doorbellOk value range advance limit = true := by
  simp only [doorbellOk, hbits, hrange, hadvance, decide_true, Bool.and_self]

/-- Settles O8: both doorbells pass their check, so the index moves. -/
theorem doorbellWritesMoveTheIndices : Obligations.DoorbellWritesMoveTheIndices := by
  unfold Obligations.DoorbellWritesMoveTheIndices
  constructor
  case left =>
    intro ring value s hreach henabled hbits hrange hadvance
    exact exec_sqDb_of_ok hreach henabled (doorbellOk_of_le hbits hrange hadvance)
  case right =>
    intro ring value s hreach henabled hbits hrange hadvance
    exact exec_cqDb_of_ok hreach henabled (doorbellOk_of_le hbits hrange hadvance)

theorem exec_poisonedWrite (target : PoisonTarget) (s : State) :
    exec (.poisonedWrite target) s = execPoisonedWrite target s := rfl

/-- Settles O9: a ring that is not ENABLED and a value that fails the check both leave the valid branch of the doorbell. -/
theorem badDoorbellsAndPoisonedWritesAreDiscarded : Obligations.BadDoorbellsAndPoisonedWritesAreDiscarded := by
  unfold Obligations.BadDoorbellsAndPoisonedWritesAreDiscarded
  refine ⟨?sq, ?cq, ?window, ?doorbells⟩
  case sq =>
    rintro ring value s hreach (hstate | hbad)
    · simp only [exec_sqDb, execSqDb, hreach, hstate, Bool.not_true, Bool.false_eq_true, false_and, ↓reduceIte]
      rfl
    · exact exec_sqDb_of_not_ok hreach hbad
  case cq =>
    rintro ring value s hreach (hstate | hbad)
    · simp only [exec_cqDb, execCqDb, hreach, hstate, Bool.not_true, Bool.false_eq_true, false_and, ↓reduceIte]
      rfl
    · exact exec_cqDb_of_not_ok hreach hbad
  case window =>
    intro s hreach
    simp only [exec_poisonedWrite, execPoisonedWrite, hreach, Bool.not_true, Bool.false_eq_true, ↓reduceIte]
  case doorbells =>
    intro ring s hreach
    simp only [exec_poisonedWrite, execPoisonedWrite, hreach, Bool.not_true, Bool.false_eq_true, ↓reduceIte, and_self]

/-- Settles O12: with the registers live the read is the low word, and the latch of the rest. -/
theorem symbolCountReadLatchesTheTimeBlock : Obligations.SymbolCountReadLatchesTheTimeBlock := by
  unfold Obligations.SymbolCountReadLatchesTheTimeBlock
  intro s hlive
  have hexec : exec .symbolCountLoRead s = execSymbolCountLoRead s := rfl
  rw [hexec, execSymbolCountLoRead, if_pos hlive]
  rfl

/-! The memory window. -/

theorem exec_bar4Read (o : W64) (n : Nat) (s : State) : exec (.bar4Read o n) s = execBar4Read o n s := rfl

theorem exec_bar4Write (o : W64) (bs : List Byte) (s : State) : exec (.bar4Write o bs) s = execBar4Write o bs s := rfl

/-- Settles O14: the branches of a window read and of a window write, in their order. -/
theorem windowReadsAndWrites : Obligations.WindowReadsAndWrites := by
  unfold Obligations.WindowReadsAndWrites
  intro o s hreach
  refine ⟨?reads, ?writes, ?readPast, ?writePast, ?readSilent⟩
  case reads =>
    intro n hn hin hanswers
    constructor <;> intro hecc <;>
      simp only [exec_bar4Read, execBar4Read, hreach, hn, Nat.not_lt.2 hin, hanswers, hecc, Bool.not_true, Bool.false_eq_true,
        or_self, ↓reduceIte, reply]
  case writes =>
    intro bs hbs hin hanswers
    constructor <;> intro hecc <;>
      simp only [exec_bar4Write, execBar4Write, hreach, hbs, Nat.not_lt.2 hin, hanswers, hecc, Bool.not_true,
        Bool.false_eq_true, or_self, ↓reduceIte]
  case readPast =>
    intro n hn hpast
    simp only [exec_bar4Read, execBar4Read, hreach, hn, hpast, Bool.not_true, Bool.false_eq_true, or_self, ↓reduceIte, reply]
  case writePast =>
    intro bs hbs hpast
    simp only [exec_bar4Write, execBar4Write, hreach, hbs, hpast, Bool.not_true, Bool.false_eq_true, or_self, ↓reduceIte]
  case readSilent =>
    intro n hn hin hsilent
    simp only [exec_bar4Read, execBar4Read, hreach, hn, Nat.not_lt.2 hin, hsilent, Bool.not_true, Bool.not_false,
      Bool.false_eq_true, or_self, ↓reduceIte, reply]

/-! The writable registers of BAR0. -/

section Live
variable {s : State} (hlive : regsLive s = true)
include hlive

theorem exec_counterClear_live (bits : W32) : exec (.counterClear bits) s = .next (clearCounters bits s) :=
  if_pos hlive

theorem exec_ringCtrlReset_live : exec .ringCtrlReset s = .next (resetRings s) :=
  if_pos hlive

theorem exec_ringCtrlEnable_live : exec .ringCtrlEnable s = .next (enableRing0 s) :=
  if_pos hlive

theorem exec_registerWrite_four {o : BitVec 22} (v : W64) (ho : o.toNat % 4 = 0) :
    exec (.registerWrite o 4 v) s = .next (writeReg o.toNat (v.setWidth 32) s) := by
  simp only [exec_registerWrite, execRegisterWrite, hlive, ho, Bool.not_true, Bool.false_eq_true, and_self, ↓reduceIte]

theorem exec_registerWrite_eight {o : BitVec 22} (v : W64) (ho : o.toNat % 8 = 0) :
    exec (.registerWrite o 8 v) s =
      .next (writeReg (o.toNat + 4) ((v >>> 32).setWidth 32) (writeReg o.toNat (v.setWidth 32) s)) := by
  simp only [exec_registerWrite, execRegisterWrite, hlive, ho, Bool.not_true, Bool.false_eq_true, and_self, ↓reduceIte,
    show ¬ (8 : Nat) = 4 by decide, false_and]

end Live

section Clear
variable (bits : W32) (s : State)

theorem clearCounters_rings : (clearCounters bits s).rings =
    if bits.getLsbD 0 then s.rings.map (fun r => { r with dropped := 0, overloaded := 0 }) else s.rings := by
  simp only [clearCounters, apply_ite State.rings, ite_self]

theorem clearCounters_tiles : (clearCounters bits s).tiles = if bits.getLsbD 1 then s.tiles.map (fun x => { x with
      lateSwap := 0, cal := { x.cal with overrunCount := 0, overrunMax := 0 }, conv := { x.conv with clip := 0, codeClamp := 0 },
      heat := { x.heat with chans := x.heat.chans.map (fun c => { c with underrun := 0, overflow := 0 }) } })
    else s.tiles := by
  simp only [clearCounters, apply_ite State.tiles, ite_self]

theorem clearCounters_radio : (clearCounters bits s).radio = if bits.getLsbD 2 then { s.radio with
      streams := Vector.replicate 64 StreamCnt.init, groups := Vector.replicate 16 ⟨0, 0, 0⟩,
      ports := s.radio.ports.map (fun p => { p with dropFrame := 0, dropEcpri := 0, unmatched := 0, ptpDrop := 0, esmc := 0 }) }
    else s.radio := by
  simp only [clearCounters, apply_ite State.radio, ite_self]

theorem clearCounters_power : (clearCounters bits s).power =
    if bits.getLsbD 3 then { s.power with transients := 0 } else s.power := by
  simp only [clearCounters, apply_ite State.power, ite_self]

theorem clearCounters_twin : (clearCounters bits s).twin =
    if bits.getLsbD 4 then { s.twin with hbRx := 0, replays := 0 } else s.twin := by
  simp only [clearCounters, apply_ite State.twin, ite_self]

theorem clearCounters_others : (clearCounters bits s).host = s.host ∧ (clearCounters bits s).sets = s.sets ∧
    (clearCounters bits s).mem = s.mem ∧ (clearCounters bits s).flash = s.flash ∧ (clearCounters bits s).cores = s.cores ∧
    (clearCounters bits s).time = s.time ∧ (clearCounters bits s).jobs = s.jobs := by
  simp only [clearCounters, apply_ite State.host, apply_ite State.sets, apply_ite State.mem, apply_ite State.flash,
    apply_ite State.cores, apply_ite State.time, apply_ite State.jobs, ite_self, and_self]

end Clear

/-- Ring 0, DISABLED with valid fields and reservation left, is enabled; the events kept are written. -/
theorem enableRing0_of_valid {s : State} (hdisabled : s.rings[(0 : RingIx)].state = .disabled)
    (hfields : ringFieldsOk s.rings[(0 : RingIx)].sqBase.toNat s.rings[(0 : RingIx)].cqBase.toNat
      s.rings[(0 : RingIx)].log2Depth.toNat s.rings[(0 : RingIx)].coalCount.toNat = true)
    (hroom : overReserve s s.rings[(0 : RingIx)].reserve.toNat = false) :
    enableRing0 s = flushEvents (s.tray.pendingEvents.length + 1)
      (setRing 0 (fun r => { r with state := .enabled, bucket := 0 }) s) := by
  refine (if_neg (not_not.2 hdisabled)).trans (if_pos ?_)
  rw [Bool.and_eq_true, Bool.not_eq_true']
  exact ⟨hfields, hroom⟩

/-- Settles O11: each register's write, and COUNTER_CLEAR bit by bit. -/
theorem hostRegisterWritesTakeEffect : Obligations.HostRegisterWritesTakeEffect := by
  unfold Obligations.HostRegisterWritesTakeEffect
  refine ⟨?hkRound, ?hbTimeout, ?relayDelay, ?counterClear, ?ringReset, ?ringEnable, ?four, ?eight⟩
  case hkRound =>
    intro v s hlive hlo hhi
    have hexec : exec (.hkRoundWrite v) s = .next (writeHkRound v s) := if_pos hlive
    rw [hexec, writeHkRound, if_pos ⟨hlo, hhi⟩]
  case hbTimeout =>
    intro v s hlive halone
    have hexec : exec (.twinHbTimeoutWrite v) s = .next (writeHbTimeout v s) := if_pos hlive
    rw [hexec, writeHbTimeout, if_pos halone]
  case relayDelay =>
    intro v s hlive hle
    have hexec : exec (.twinRelayDelayWrite v) s = .next (writeRelayDelay v s) := if_pos hlive
    rw [hexec, writeRelayDelay, if_pos hle]
  case counterClear =>
    intro bits s hlive
    obtain ⟨hhost, hsets, hothers⟩ := clearCounters_others bits s
    exact ⟨_, exec_counterClear_live hlive bits, clearCounters_rings bits s, clearCounters_tiles bits s,
      clearCounters_radio bits s, clearCounters_power bits s, clearCounters_twin bits s, hhost, hsets, hothers⟩
  case ringReset =>
    intro s hlive
    exact ⟨_, exec_ringCtrlReset_live hlive, rfl, rfl, rfl, rfl, rfl⟩
  case ringEnable =>
    intro s hlive hdisabled hfields hroom
    rw [exec_ringCtrlEnable_live hlive, enableRing0_of_valid hdisabled hfields hroom]
  case four => exact fun o v s hlive ho => exec_registerWrite_four hlive v ho
  case eight => exact fun o v s hlive ho => exec_registerWrite_eight hlive v ho

/-! The endpoint's resets and the host link. -/

section LinkUp
variable {s : State} (hup : s.host.linkUp = true)
include hup

theorem exec_functionLevelReset_up (k : ResetKind) : exec (.functionLevelReset k) s = .next { endpointReset s with
    host := { (endpointReset s).host with d3hot := decide (k = .d3hot) } } := by
  refine (execFunctionLevelReset.eq_1 k s).trans (if_neg ?_)
  rw [hup]
  exact Bool.false_ne_true

theorem exec_msixUnmask_entry (v : Fin 128) : exec (.msixUnmask (.entry v)) s = .next (sendPending { s with host := { s.host with
    msixTable := upd s.host.msixTable v (fun e => { e with mask := false }) } }) := by
  refine (show _ = execMsixUnmask (.entry v) s from rfl).trans ?_
  simp only [execMsixUnmask, hup, Bool.not_true, Bool.false_eq_true, ↓reduceIte]

theorem exec_msixUnmask_function : exec (.msixUnmask .function) s = .next (sendPending { s with host := { s.host with
    msixFmask := false } }) := by
  refine (show _ = execMsixUnmask .function s from rfl).trans ?_
  simp only [execMsixUnmask, hup, Bool.not_true, Bool.false_eq_true, ↓reduceIte]

end LinkUp

theorem exec_configurationRequest (a : ConfigAccess) (s : State) :
    exec (.configurationRequest a) s = execConfigurationRequest a s := rfl

/-- A cleared alarm stands on no contact. -/
theorem clearAlarm_gone (code source : W16) (s : State) :
    ∀ a ∈ (clearAlarm code source s).tray.alarms, a.code ≠ code ∨ a.source ≠ source := by
  intro a ha
  obtain ⟨-, hne⟩ := List.mem_filter.1 ha
  rw [Bool.not_eq_true', Bool.and_eq_false_iff, decide_eq_false_iff_not, decide_eq_false_iff_not] at hne
  exact hne

/-- Settles O13: every reset goes through `endpointReset`; the link's return also clears its alarm. -/
theorem endpointResetsAndLinkEvents : Obligations.EndpointResetsAndLinkEvents := by
  unfold Obligations.EndpointResetsAndLinkEvents
  refine ⟨?flr, ?perst, ?retry, ?valid, ?unmask, ?loss, ?up⟩
  case flr =>
    intro k s hup
    exact ⟨_, exec_functionLevelReset_up hup k, rfl, rfl, rfl, rfl, decide_eq_true_iff, rfl, rfl, rfl, rfl⟩
  case perst =>
    intro s
    exact ⟨endpointReset s, rfl, rfl, rfl, rfl, rfl, rfl, rfl, rfl, rfl⟩
  case retry =>
    intro a s hup hinvalid
    simp only [exec_configurationRequest, execConfigurationRequest, hup, hinvalid, Bool.not_true, Bool.not_false,
      Bool.false_eq_true, ↓reduceIte, reply]
  case valid =>
    intro s hup hvalid
    simp only [exec_configurationRequest, execConfigurationRequest, hup, hvalid, Bool.not_true, Bool.false_eq_true,
      ↓reduceIte, and_self, implies_true]
  case unmask => exact fun s hup => ⟨fun v => exec_msixUnmask_entry hup v, exec_msixUnmask_function hup⟩
  case loss => exact fun s hup => if_pos hup
  case up =>
    intro s hdown
    have hexec : exec .hostLinkUp s = .next { clearAlarm alHostLink 0 (endpointReset s) with
        host := { (clearAlarm alHostLink 0 (endpointReset s)).host with linkUp := true } } := by
      refine (execHostLinkUp.eq_1 s).trans (if_neg ?_)
      rw [hdown]
      exact Bool.false_ne_true
    exact ⟨_, hexec, rfl, rfl, rfl, clearAlarm_gone alHostLink 0 _, rfl, rfl⟩

end Sys2Proof.Proofs
end

/-! Rings: samples, moderation, fetch and failures, and the commands on them. -/
section
namespace Sys2Proof.Proofs
open Sys2Proof Sys2Proof.Machine

section Sample
variable {n : RingIx} {s : State} (hused : s.rings[n].state ≠ .disabled)
include hused

/-- The hundredth high sample of a ring sets OVERLOAD. -/
theorem sampleRing_high (hhigh : 3 * s.rings[n].depth < 4 * s.rings[n].queue.length)
    (hsamples : 100 ≤ s.rings[n].highSamples + 1) (hclear : s.rings[n].overload = false) :
    sampleRing s n = raiseSq n (event evOverloadSet (BitVec.ofNat 16 n.val) 0
      (setRing n (fun r => { r with highSamples := min 100 (r.highSamples + 1), overload := true }) s)) := by
  simp only [sampleRing, if_neg hused, if_pos hhigh, hclear, hsamples, Bool.not_false, and_self, ↓reduceIte, setRing_setRing]

/-- A ring below a quarter clears OVERLOAD. -/
theorem sampleRing_low (hlow : 4 * s.rings[n].queue.length < s.rings[n].depth) (hset : s.rings[n].overload = true) :
    sampleRing s n = raiseSq n (event evOverloadClear (BitVec.ofNat 16 n.val) 0
      (setRing n (fun r => { r with highSamples := 0, overload := false }) s)) := by
  have hnot : ¬ 3 * s.rings[n].depth < 4 * s.rings[n].queue.length := by omega
  simp only [sampleRing, if_neg hused, if_neg hnot, hset, hlow, and_self, ↓reduceIte, setRing_setRing]

end Sample

/-- Settles O15: the sample is a fold over the rings, whose step sets or clears OVERLOAD; the timer and the watchdog act. -/
theorem ringSamplesAndModeration : Obligations.RingSamplesAndModeration := by
  unfold Obligations.RingSamplesAndModeration
  refine ⟨fun s => rfl, ?high, ?low, ?coalesce, ?watchdog⟩
  case high => exact fun n s hused hhigh hsamples hclear => sampleRing_high hused hhigh hsamples hclear
  case low => exact fun n s hused hlow hset => sampleRing_low hused hlow hset
  case coalesce => exact fun n s harmed => if_pos harmed
  case watchdog =>
    intro s t hruns ht
    refine (execFetchProgressWatchdog.eq_1 s).trans ((if_pos hruns).trans ?_)
    rw [ht]

theorem exec_descriptorFetch (n : RingIx) (s : State) : exec (.descriptorFetch n) s = execDescriptorFetch n s := rfl

theorem exec_fetchFailure (n : RingIx) (s : State) : exec (.fetchFailure n) s = execFetchFailure n s := rfl

/-- The descriptors of one read stay within eight, the postings and the credit. -/
theorem fetchCount_le (r : Ring) (resv : Nat) : fetchCount r resv ≤ 8 ∧ fetchCount r resv ≤ r.posted ∧
    r.unreleased + r.owed + fetchCount r resv * resv ≤ max (2 * r.depth - 1) (r.unreleased + r.owed) := by
  have hcredit : fetchCount r resv * resv ≤ 2 * r.depth - 1 - (r.unreleased + r.owed) :=
    (Nat.mul_le_mul_right resv (Nat.min_le_right _ _)).trans (Nat.div_mul_le_self _ _)
  refine ⟨(Nat.min_le_left _ _).trans (Nat.min_le_left _ _), (Nat.min_le_left _ _).trans (Nat.min_le_right _ _), ?_⟩
  omega

/-- Settles O16: the branches of a fetch and of the two failures; the bounds of a read's count. -/
theorem fetchAndRingFailures : Obligations.FetchAndRingFailures := by
  unfold Obligations.FetchAndRingFailures
  refine ⟨?reads, ?stalls, fetchCount_le, ?retry, ?second, ?write⟩
  case reads =>
    intro n s hfetches hcount
    simp only [exec_descriptorFetch, execDescriptorFetch, hfetches, Bool.not_true, Bool.false_eq_true, Nat.ne_of_gt hcount,
      ↓reduceIte]
  case stalls =>
    intro n s hfetches hcount
    simp only [exec_descriptorFetch, execDescriptorFetch, hfetches, hcount, Bool.not_true, Bool.false_eq_true, ↓reduceIte]
  case retry =>
    intro n s henabled hfirst
    simp only [exec_fetchFailure, execFetchFailure, henabled, hfirst, ne_eq, not_true_eq_false, Bool.not_false, ↓reduceIte]
  case second =>
    intro n s henabled hsecond
    simp only [exec_fetchFailure, execFetchFailure, henabled, hsecond, ne_eq, not_true_eq_false, Bool.not_true,
      Bool.false_eq_true, ↓reduceIte]
  case write => exact fun n s hstate => if_pos hstate

theorem exec_ringConfig (n : RingIx) (s : State) : exec (.ringConfig n) s = execRingConfig n s := rfl

theorem exec_ringReset (n : RingIx) (s : State) : exec (.ringReset n) s = execRingReset n s := rfl

theorem exec_ringResetDone (n : RingIx) (s : State) : exec (.ringResetDone n) s = execRingResetDone n s := rfl

/-- Settles O17: an accepted descriptor's command is its body; the last completion ends a ring's reset. -/
theorem identityAndRingCommands : Obligations.IdentityAndRingCommands := by
  unfold Obligations.IdentityAndRingCommands
  refine ⟨?identify, identityBlock_length, ?config, ?reset, ?resetDone⟩
  case identify => exact fun n f i s h hargs hwrite => exec_identify_accepted h rfl hargs hwrite
  case config =>
    intro n f i s h hargs hdisabled hroom
    rw [exec_ringConfig, execRingConfig, serve_accepted h hargs]
    simp only [ringConfigBody, hdisabled, hroom, ne_eq, not_true_eq_false, Bool.false_eq_true, ↓reduceIte]
  case reset =>
    intro n f i s h hlo hhi hnot
    have hargs : allPass [chk 8 (decide (f.desc.u8 8 < 1 ∨ 63 < f.desc.u8 8))] := by
      simp only [allPass_cons, allPass_nil, and_true, decide_eq_false_iff_not]
      omega
    refine ⟨_, ?_, rfl⟩
    rw [exec_ringReset, execRingReset, serve_accepted h hargs]
    simp only [ringResetBody, hnot, Bool.false_eq_true, ↓reduceIte]
  case resetDone =>
    intro n f s hby hstate hdispatched hwaiting
    simp only [exec_ringResetDone, execRingResetDone, hby, hstate, hdispatched, hwaiting, true_or, and_self, ↓reduceIte]

end Sys2Proof.Proofs
end

/-! Descriptors that firmware serves: an accepted one whose body is done completes, one whose body runs on does not. -/
section
namespace Sys2Proof.Proofs
open Sys2Proof Sys2Proof.Machine

section Serve
variable {op : Nat} {n : RingIx} {f : Fetched} {i : CmdInfo} {s t : State} {args : Fetched → State → List (Nat × Bool)}
  {body : Fetched → State → Body} (h : Accepted op n f i s) (hargs : allPass (args f (dispatch n f s)))
include h hargs

theorem serve_done {r : Reply} (hbody : body f (dispatch n f s) = .done t r) :
    serve (isOp op) n args body s = .next (complete n f r t) := by
  rw [serve_accepted h hargs, hbody]

theorem serve_running (hbody : body f (dispatch n f s) = .running t) :
    serve (isOp op) n args body s = .next t := by
  rw [serve_accepted h hargs, hbody]

end Serve

theorem allPass_one {o : Nat} {b : Bool} (h : b = false) : allPass [chk o b] :=
  allPass_cons.2 ⟨h, allPass_nil.2 trivial⟩

theorem allPass_two {o p : Nat} {a b : Bool} (ha : a = false) (hb : b = false) : allPass [chk o a, chk p b] :=
  allPass_cons.2 ⟨ha, allPass_one hb⟩

theorem allPass_three {o p q : Nat} {a b c : Bool} (ha : a = false) (hb : b = false) (hc : c = false) :
    allPass [chk o a, chk p b, chk q c] :=
  allPass_cons.2 ⟨ha, allPass_two hb hc⟩

end Sys2Proof.Proofs
end

/-! The commands of the configuration sets, and the end of a shadow load. -/
section
namespace Sys2Proof.Proofs
open Sys2Proof Sys2Proof.Machine

/-- The argument check that every set command makes of its group. -/
theorem groupChecks_pass {d : Descriptor} (h : d.u8 8 ≤ 15) : allPass (groupChecks d) :=
  allPass_one (decide_eq_false (Nat.not_lt.2 h))

/-- SET_SWAP refuses neither a STAGED nor a PENDING shadow of a group with no commit under way. -/
theorem setSwap_not_refused {g : GroupIx} {u : State}
    (hshadow : u.sets.groups[g].shadow = .staged ∨ u.sets.groups[g].shadow = .pending) (hfree : committing u g = false) :
    ¬ (u.sets.groups[g].shadow ≠ .staged ∧ u.sets.groups[g].shadow ≠ .pending ∨ committing u g = true) := by
  rintro (⟨hstaged, hpending⟩ | hbusy)
  · exact hshadow.elim hstaged hpending
  · exact Bool.false_ne_true (hfree.symm.trans hbusy)

section SetCommands
variable {n : RingIx} {f : Fetched} {i : CmdInfo} {s u : State} (hu : u = dispatch n f s)
include hu

theorem exec_setOpen_accepted (h : Accepted opSetOpen n f i s) (hgroup : f.desc.u8 8 ≤ 15) (hmode : f.desc.u8 9 ≤ 1)
    (hshadow : u.sets.groups[groupOf f.desc].shadow ≠ .pending) (hfree : committing u (groupOf f.desc) = false)
    (hunused : inUse u (groupOf f.desc) = false) :
    exec (.setOpen n) s = .next (complete n f (Reply.of codeOk) (mirror (some (groupOf f.desc).val) f.desc.bytes []
      (setGroup (groupOf f.desc) (fun x => { x with shadow := .opened })
        { u with sets := openShadow (groupOf f.desc) (decide (f.desc.u8 9 = 0)) u.sets }))) := by
  subst hu
  refine (execSetOpen.eq_1 n s).trans (serve_done h ?args ?body)
  case args => exact allPass_append.2 ⟨groupChecks_pass hgroup, allPass_one (decide_eq_false (Nat.not_lt.2 hmode))⟩
  case body => simp only [setOpenBody, hshadow, hfree, hunused, Bool.false_eq_true, or_self, ↓reduceIte]

theorem exec_setStage_accepted (h : Accepted opSetStage n f i s) (hargs : allPass (setStageArgs f u))
    (hshadow : u.sets.groups[groupOf f.desc].shadow = .opened) (hfree : committing u (groupOf f.desc) = false)
    (hunused : inUse u (groupOf f.desc) = false)
    (hread : readFails u (f.desc.u64 0x10) (f.desc.u16 0x0C * entrySize (f.desc.u8 9)) = none)
    {bs : List Byte} (hbs : bs = daddrRead u (f.desc.u64 0x10) (f.desc.u16 0x0C * entrySize (f.desc.u8 9)))
    (hreserved : stagedReserved (f.desc.u8 9) (f.desc.u16 0x0A) bs (f.desc.u16 0x0C) = none) :
    exec (.setStage n) s = .next (complete n f (Reply.of codeOk) (mirror (some (groupOf f.desc).val) f.desc.bytes bs
      { u with sets := stageAll (f.desc.u8 9) (f.desc.u16 0x0A) bs (f.desc.u16 0x0C) u.sets })) := by
  subst hbs hu
  refine (execSetStage.eq_1 n s).trans (serve_done h hargs ?body)
  case body =>
    simp only [setStageBody, hshadow, hfree, hunused, hread, hreserved, ne_eq, not_true_eq_false, Bool.false_eq_true, or_self,
      ↓reduceIte]

theorem exec_setCommit_accepted (h : Accepted opSetCommit n f i s) (hgroup : f.desc.u8 8 ≤ 15)
    (hshadow : u.sets.groups[groupOf f.desc].shadow = .opened) (hfree : committing u (groupOf f.desc) = false)
    (hvalid : commitFault u (groupOf f.desc) = none) :
    ∃ s1 s2 s3 s4, s1 = (if groupOf f.desc = 2 then storeCrcs u else u) ∧
      s2 = (if 3 ≤ (groupOf f.desc).val then loadMembers (groupOf f.desc) s1 else s1) ∧
      s3 = mirrorReferenced (groupOf f.desc) (mirror (some (groupOf f.desc).val) f.desc.bytes [] s2) ∧
      s4 = (if mirrors u (some (groupOf f.desc).val) then { s3 with twin := { s3.twin with
        commitWaits := s3.twin.commitWaits ++ [(n, f.id, groupOf f.desc, s3.twin.journalSeq)] } } else s3) ∧
      exec (.setCommit n) s = .next (tryFinishCommit (groupOf f.desc)
        (setGroup (groupOf f.desc) (fun x => { x with committing := some (n, f.id) }) s4)) := by
  subst hu
  refine ⟨_, _, _, _, rfl, rfl, rfl, rfl, (execSetCommit.eq_1 n s).trans (serve_running h (groupChecks_pass hgroup) ?body)⟩
  case body =>
    simp only [setCommitBody, hshadow, hfree, hvalid, ne_eq, not_true_eq_false, Bool.false_eq_true, or_self, ↓reduceIte]

theorem exec_setDiscard_accepted (h : Accepted opSetDiscard n f i s) (hgroup : f.desc.u8 8 ≤ 15)
    (hshadow : u.sets.groups[groupOf f.desc].shadow ≠ .pending) (hfree : committing u (groupOf f.desc) = false)
    (hunused : inUse u (groupOf f.desc) = false) :
    exec (.setDiscard n) s = .next (complete n f (Reply.of codeOk) (mirror (some (groupOf f.desc).val) f.desc.bytes []
      (setGroup (groupOf f.desc) (fun x => { x with shadow := .empty }) u))) := by
  subst hu
  refine (execSetDiscard.eq_1 n s).trans (serve_done h (groupChecks_pass hgroup) ?body)
  case body => simp only [setDiscardBody, hshadow, hfree, hunused, Bool.false_eq_true, or_self, ↓reduceIte]

section Swap
variable (h : Accepted opSetSwap n f i s) (hgroup : f.desc.u8 8 ≤ 15)
  (hshadow : u.sets.groups[groupOf f.desc].shadow = .staged ∨ u.sets.groups[groupOf f.desc].shadow = .pending)
  (hfree : committing u (groupOf f.desc) = false)
include h hgroup hshadow hfree

theorem exec_setSwap_free (hne : groupOf f.desc ≠ 0) (hheld : groupHeld u (groupOf f.desc) = false) :
    exec (.setSwap n) s = .next (complete n f (Reply.of codeOk) (doSwap (groupOf f.desc)
      (mirrorSwap (groupOf f.desc) (boundaryTime u u.time.symbolCount.toNat) u))) := by
  have hgo := setSwap_not_refused hshadow hfree
  subst hu
  refine (execSetSwap.eq_1 n s).trans (serve_done h (groupChecks_pass hgroup) ?body)
  case body => simp only [setSwapBody, if_neg hgo, hne, hheld, Bool.false_eq_true, ↓reduceIte]

theorem exec_setSwap_held (hne : groupOf f.desc ≠ 0) (hheld : groupHeld u (groupOf f.desc) = true) :
    exec (.setSwap n) s = .next (mirrorSwap (groupOf f.desc) (boundaryTime u u.time.symbolCount.toNat)
      (markHeld (groupOf f.desc) (waitSwap (groupOf f.desc) n f.id 0 u))) := by
  have hgo := setSwap_not_refused hshadow hfree
  subst hu
  refine (execSetSwap.eq_1 n s).trans (serve_running h (groupChecks_pass hgroup) ?body)
  case body => simp only [setSwapBody, if_neg hgo, hne, hheld, ↓reduceIte]

theorem exec_setSwap_radio {c : Fin 64} {cs : List (Fin 64)} (hzero : groupOf f.desc = 0) (hcomp : freeComparators u = c :: cs) :
    exec (.setSwap n) s = .next (mirrorSwap 0 (boundaryTime u (nextMarker u)) (settleShadow 0 (setComparator c
      (some { time := .absolute (BitVec.ofNat 64 (nextMarker u)), action := .radioSwap true, ring := n, id := f.id,
              tag := f.desc.tag }) u))) := by
  have hgo := setSwap_not_refused hshadow hfree
  subst hu
  refine (execSetSwap.eq_1 n s).trans (serve_running h (groupChecks_pass hgroup) ?body)
  case body => simp only [setSwapBody, if_neg hgo, if_pos hzero, hcomp]

end Swap

theorem exec_setRead_accepted (h : Accepted opSetRead n f i s) (hgroup : f.desc.u8 8 ≤ 15) (hmode : f.desc.u8 9 ≤ 1)
    (haddr : badDaddr u.tray.variant (f.desc.u64 0x10) 64 = false) (hfree : committing u (groupOf f.desc) = false)
    (hwrite : writeFails u (f.desc.u64 0x10) (setBytes u.sets (groupOf f.desc) (decide (f.desc.u8 9 = 1))).length = none) :
    exec (.setRead n) s = .next (complete n f
      (Reply.okDetail u.sets.groups[groupOf f.desc].epoch.toNat u.sets.groups[groupOf f.desc].shadow.code)
      (daddrWrite (f.desc.u64 0x10) (setBytes u.sets (groupOf f.desc) (decide (f.desc.u8 9 = 1))) u)) := by
  subst hu
  refine (execSetRead.eq_1 n s).trans (serve_done h ?args ?body)
  case args =>
    exact allPass_append.2 ⟨groupChecks_pass hgroup, allPass_two (decide_eq_false (Nat.not_lt.2 hmode)) haddr⟩
  case body => simp only [setReadBody, hfree, Bool.false_eq_true, ↓reduceIte, writeThen_ok _ hwrite]

end SetCommands

/-- No enabled group of the active mapping names a tile that none of its entries has as TILE or ALT_TILE. -/
theorem radioNames_eq_false {s : State} {t : TileIx}
    (h : ∀ e ∈ s.sets.radioActive.groups.toList, e.en = true → e.tile.toNat ≠ t.val ∧ e.altTile.toNat ≠ t.val) :
    radioNames s t = false := by
  refine List.any_eq_false.2 fun e he hnames => ?_
  simp only [Bool.and_eq_true, Bool.or_eq_true, decide_eq_true_eq] at hnames
  obtain ⟨hen, hname⟩ := hnames
  obtain ⟨htile, halt⟩ := h e he hen
  exact hname.elim htile halt

theorem exec_setMember_accepted {n : RingIx} {f : Fetched} {i : CmdInfo} {s u : State} (h : Accepted opSetMember n f i s)
    (hu : u = dispatch n f s) (hlow : 3 ≤ f.desc.u8 8) (hgroup : f.desc.u8 8 ≤ 15) (hmask : f.desc.u16 0x0A < 1024)
    (hshadow : u.sets.groups[groupOf f.desc].shadow = .empty) (hfree : committing u (groupOf f.desc) = false)
    (hjoining : u.sets.groups[groupOf f.desc].joining = none)
    (hold : ∀ t : TileIx, u.sets.groups[groupOf f.desc].members.getLsbD t.val = true → residentRuns u t = false)
    (hnew : ∀ t : TileIx, (BitVec.ofNat 10 (f.desc.u16 0x0A)).getLsbD t.val = true →
      u.sets.groups[groupOf f.desc].members.getLsbD t.val = false → u.tiles[t].group = none ∧ joinsGroup u t = false ∧
      ∀ e ∈ u.sets.radioActive.groups.toList, e.en = true → e.tile.toNat ≠ t.val ∧ e.altTile.toNat ≠ t.val) :
    exec (.setMember n) s = .next (tryJoin (groupOf f.desc) (mirror (some (groupOf f.desc).val) f.desc.bytes []
      (setGroup (groupOf f.desc) (fun x => { x with joining := some (n, f.id, BitVec.ofNat 10 (f.desc.u16 0x0A)) }) u))) := by
  have hleaves : ((tilesOf u.sets.groups[groupOf f.desc].members).filter
      (fun t => !(BitVec.ofNat 10 (f.desc.u16 0x0A)).getLsbD t.val)).any (fun t => residentRuns u t) = false := by
    refine List.any_eq_false.2 fun t ht => ?_
    obtain ⟨hmem, -⟩ := List.mem_filter.1 ht
    obtain ⟨-, hbit⟩ := List.mem_filter.1 hmem
    rw [hold t hbit]
    exact Bool.false_ne_true
  have hjoins : ((tilesOf (BitVec.ofNat 10 (f.desc.u16 0x0A))).filter
      (fun t => !u.sets.groups[groupOf f.desc].members.getLsbD t.val)).any
        (fun t => u.tiles[t].group.isSome || joinsGroup u t || radioNames u t) = false := by
    refine List.any_eq_false.2 fun t ht => ?_
    obtain ⟨hmem, hnot⟩ := List.mem_filter.1 ht
    obtain ⟨-, hbit⟩ := List.mem_filter.1 hmem
    rw [Bool.not_eq_true'] at hnot
    obtain ⟨hgroup, hjoin, hradio⟩ := hnew t hbit hnot
    simp only [hgroup, hjoin, radioNames_eq_false hradio, Option.isSome_none, Bool.or_self, Bool.false_eq_true,
      not_false_eq_true]
  subst hu
  refine (execSetMember.eq_1 n s).trans (serve_running h ?args ?body)
  case args => exact allPass_two (decide_eq_false (by omega)) (decide_eq_false (by omega))
  case body =>
    simp only [setMemberBody, hshadow, hfree, hjoining, hleaves, hjoins, ne_eq, not_true_eq_false, Bool.false_eq_true,
      Option.isSome_none, or_self, ↓reduceIte]

/-- The end of a load leaves a tile in its group. -/
theorem endLoad_group (t : TileIx) (x : Tile) : (endLoad t x).group = x.group := by
  unfold endLoad
  split <;> rfl

section LoadEnds
variable {t : TileIx} {l : ShadowLoad} {s : State} (hload : s.tiles[t].mesh.load = some l)
include hload

theorem exec_shadowLoadDone_maint (hmaint : s.tiles[t].state = .maint) : exec (.shadowLoadDone t) s = .next s := by
  refine (execShadowLoadDone.eq_1 t s).trans ?_
  simp only [hload, hmaint, ↓reduceIte]

theorem exec_shadowLoadDone_used (hrunning : s.tiles[t].state ≠ .maint) :
    exec (.shadowLoadDone t) s = .next (loadUsed t l (setTile t (endLoad t) s)) := by
  refine (execShadowLoadDone.eq_1 t s).trans ?_
  simp only [hload, hrunning, ↓reduceIte]

end LoadEnds

/-- Settles O1: each set command's body under its conditions, and the three uses of a load that ends. -/
theorem configurationSetCommandsTakeEffect : Obligations.ConfigurationSetCommandsTakeEffect := by
  unfold Obligations.ConfigurationSetCommandsTakeEffect
  refine ⟨?setOpen, ?setStage, ?setCommit, ?setDiscard, ?setSwap, ?setRead, ?setMember, ?loadDone⟩
  case setOpen => exact fun n f i s u h hu => exec_setOpen_accepted hu h
  case setStage =>
    intro n f i s u h hu hargs hshadow hfree hunused hread hreserved
    exact ⟨_, rfl, exec_setStage_accepted hu h hargs hshadow hfree hunused hread rfl hreserved⟩
  case setCommit => exact fun n f i s u h hu => exec_setCommit_accepted hu h
  case setDiscard => exact fun n f i s u h hu => exec_setDiscard_accepted hu h
  case setSwap =>
    intro n f i s u h hu hgroup hshadow hfree
    exact ⟨exec_setSwap_free hu h hgroup hshadow hfree, exec_setSwap_held hu h hgroup hshadow hfree,
      fun c cs => exec_setSwap_radio hu h hgroup hshadow hfree⟩
  case setRead => exact fun n f i s u h hu => exec_setRead_accepted hu h
  case setMember => exact fun n f i s u h hu => exec_setMember_accepted h hu
  case loadDone =>
    intro t l s u hload hu
    subst hu
    refine ⟨exec_shadowLoadDone_maint hload, ?commit, ?reload, ?batch⟩
    case commit =>
      intro g hrunning huse hgroup
      rw [exec_shadowLoadDone_used hload hrunning]
      simp only [loadUsed, huse, setTile_self, endLoad_group, hgroup]
    case reload =>
      intro hrunning huse hpass
      rw [exec_shadowLoadDone_used hload hrunning]
      simp only [loadUsed, huse]
      rw [setTile_congr (if_neg (Bool.eq_false_iff.1 hpass))]
    case batch =>
      intro id hrunning huse hjob hwaits
      rw [exec_shadowLoadDone_used hload hrunning]
      simp only [loadUsed, huse, hjob, hwaits, and_self, ↓reduceIte]

end Sys2Proof.Proofs
end

/-! Matrix jobs: an accepted job notes whether its sub-batches hold a single vector, so its parameters are not those of its
descriptor alone. -/
section
namespace Sys2Proof.Proofs
open Sys2Proof Sys2Proof.Machine

/-- Parameters of a job of two vectors. -/
def twoVectors : JobParams := { JobParams.none with nvec := 2 }

/-- A fusion entry that leaves its input as it is. -/
def plainFusion : FusionEntry :=
  { act := 0, scaleMode := 0, biasType := 0, conv := 0, clip := 0, tableAddr := 0, scale := 0, biasAddr := 0 }

/-- A job of two vectors that one sub-batch holds one of is noted as one of single vectors. -/
theorem acceptMatrix_single :
    ((acceptMatrix 0 ⟨0, ⟨[]⟩, 0⟩ .matmul twoVectors plainFusion 1 [] State.reset).jobs.map (fun j => j.params.single)) = [true] := rfl

/-- Refutes O18: its third clause gives the accepted job the parameters it was accepted with, but `acceptMatrix` sets `single`
of a job of two vectors whose partial-sum region holds one vector at a time. -/
theorem not_matrixJobsAreAcceptedAndAborted : ¬ Obligations.MatrixJobsAreAcceptedAndAborted := by
  unfold Obligations.MatrixJobsAreAcceptedAndAborted
  rintro ⟨-, -, haccept, -⟩
  obtain ⟨j, hjobs, -, -, hparams, -⟩ := haccept 0 ⟨0, ⟨[]⟩, 0⟩ plainFusion .matmul twoVectors 1 [] State.reset
  have hsingle := acceptMatrix_single
  have hnone : State.reset.jobs = [] := rfl
  rw [hjobs, hnone, List.nil_append, List.map_singleton, hparams] at hsingle
  exact absurd hsingle (by decide)

end Sys2Proof.Proofs
end

/-! Segments of a job, its passes, and what engines and stack controllers add. -/
section
namespace Sys2Proof.Proofs
open Sys2Proof Sys2Proof.Machine

/-- A load of the shadow latches begins in the latches alone. -/
theorem beginLoad_keeps (l : ShadowLoad) (x : Tile) : (beginLoad l x).state = x.state ∧ (beginLoad l x).job = x.job ∧
    (beginLoad l x).next = x.next := by
  unfold beginLoad
  split
  · exact ⟨rfl, rfl, rfl⟩
  · split <;> exact ⟨rfl, rfl, rfl⟩

/-- A check that did not fail posts no tile event. -/
theorem checkEvent_false (t : TileIx) (s : State) : checkEvent t false s = s := rfl

section Occupy
variable {s : State} {j : Job} {x : Tile} (t : TileIx) (row col : Nat) (fresh : Bool)

/-- A free tile serves the job whose segment it takes. -/
theorem occupy_free (hfree : x.job = none) :
    (occupy s j t row col fresh x).state = .serving ∧ (occupy s j t row col fresh x).job = some j.id := by
  have hcut : preempts s j x = false := by
    rw [preempts, hfree]
    exact Bool.and_false _
  simp only [occupy, hfree, hcut, Option.isSome_none, Bool.false_eq_true, false_and, if_false]
  split
  · obtain ⟨hstate, hjob, -⟩ := beginLoad_keeps (newLoad ((blockCodes s j row col).getD []) (.batch j.id)
      (if j.isRadio = true then 1 else j.level) false)
      { dropBatchLoads x with
        state := .serving, job := some j.id, next := none, batchFormat := j.params.format,
        heat := { x.heat with peak := if fresh ∧ 2 ≤ j.params.format.toNat then 0 else x.heat.peak },
        cal := { x.cal with gap := none } }
    exact ⟨hstate, hjob⟩
  · exact ⟨rfl, rfl⟩

/-- Behind a running segment that is not preempted, a tile notes the job as its next. -/
theorem occupy_behind {id : Nat} (hruns : x.job = some id) (hcut : preempts s j x = false) :
    (occupy s j t row col fresh x).job = some id ∧ (occupy s j t row col fresh x).next = some j.id := by
  simp only [occupy, hruns, hcut, Option.isSome_some, Bool.not_false, and_self, if_true]
  split
  · obtain ⟨-, hjob, hnext⟩ := beginLoad_keeps (newLoad ((blockCodes s j row col).getD []) (.batch j.id)
      (if j.isRadio = true then 1 else j.level) true) { dropBatchLoads x with next := some j.id }
    exact ⟨hjob.trans hruns, hnext⟩
  · exact ⟨hruns, rfl⟩

end Occupy

/-- The tile that a segment starts on is occupied by it. -/
theorem startSegment_tile (k : Job) (t : TileIx) (row col first count : Nat) (miss : Bool) (s : State) :
    (startSegment k t row col first count miss s).tiles[t] =
      occupy s k t row col (freshBatch k t row col) s.tiles[t] := by
  cases hradio : k.isRadio
  case true => simp only [startSegment, hradio, if_true, setTile_self]
  case false => simp only [startSegment, hradio, Bool.false_eq_true, if_false, setRing_tiles, setTile_self]

theorem exec_segmentDispatch (t : TileIx) (job row col first count : Nat) (s : State) :
    exec (.segmentDispatch t job row col first count) s = execSegmentDispatch t job row col first count s := rfl

theorem exec_segmentEnd (t : TileIx) (s : State) : exec (.segmentEnd t) s = execSegmentEnd t s := rfl

theorem exec_sampleFold (t : TileIx) (job row col pass : Nat) (raw : List (List Byte)) (odd : Bool) (s : State) :
    exec (.sampleFold t job row col pass raw odd) s = execSampleFold t job row col pass raw odd s := rfl

theorem exec_chainReceive (job : Nat) (s : State) : exec (.chainReceive job) s = execChainReceive job s := rfl

theorem exec_atomicAdd (a : W64) (v : W32) (s : State) : exec (.atomicAdd a v) s = execAtomicAdd a v s := rfl

/-- Settles O19: a dispatch that no check stops starts its segment; the branches of a segment's end and of a pass's samples. -/
theorem segmentsAndPassesOfAJob : Obligations.SegmentsAndPassesOfAJob := by
  unfold Obligations.SegmentsAndPassesOfAJob
  refine ⟨?dispatch, ?segmentEnd, ?fold, ?chain, ?atomic⟩
  case dispatch =>
    intro t job row col first count s j k hjob hdispatch hfusion hprecision hinput hexp
    refine ⟨?starts, fun hfree => ?free, fun id hruns hcut => ?behind⟩
    case starts =>
      simp only [exec_segmentDispatch, execSegmentDispatch, hjob, hdispatch, hfusion, hprecision, hinput, hexp, Bool.not_true,
        Bool.false_and, Bool.false_eq_true, if_false, checkEvent_false]
    case free =>
      rw [startSegment_tile]
      exact occupy_free t row col _ hfree
    case behind =>
      rw [startSegment_tile]
      exact occupy_behind t row col _ hruns hcut
  case segmentEnd =>
    intro t s j g b hjob hsegment hb
    subst hb
    refine ⟨fun hbegun => ?waits, fun hbegun hholds => ?holds, fun hbegun hfails hlast hradio => ?fails⟩
    case waits => simp only [exec_segmentEnd, execSegmentEnd, hjob, hsegment, hbegun, Bool.not_false, if_true]
    case holds =>
      simp only [exec_segmentEnd, execSegmentEnd, hjob, hsegment, hbegun, hholds, Bool.not_true, Bool.and_false, Bool.false_and,
        Bool.false_eq_true, Bool.or_false, if_false, checkEvent_false]
    case fails =>
      refine ⟨_, rfl, ?_⟩
      simp only [exec_segmentEnd, execSegmentEnd, hjob, hsegment, hbegun, hfails, hlast, hradio, Bool.not_true, Bool.not_false,
        decide_true, Bool.and_self, Bool.or_true, Bool.false_eq_true, if_false, if_true]
  case fold =>
    intro t job row col pass raw odd s u j v hjob harrives hstaged hu
    subst hu
    refine ⟨_, _, rfl, rfl, fun hnotRaw => ?folds, fun r hraw => ?raw⟩
    case folds =>
      simp only [exec_sampleFold, execSampleFold, hjob, harrives, hstaged, Option.getD_some, Bool.not_true, Bool.false_eq_true,
        if_false]
    case raw =>
      simp only [exec_sampleFold, execSampleFold, hjob, harrives, hstaged, hraw, Option.getD_some, Bool.not_true,
        Bool.false_eq_true, if_false]
  case chain =>
    intro job s j hjob hcross hfirst hchain harrived
    simp only [exec_chainReceive, execChainReceive, hjob, hcross, hfirst, hchain, harrived, Bool.not_false, decide_true,
      Bool.and_self, if_true]
  case atomic =>
    intro a v s haligned hinside hworks
    have hgo : ¬ (a.toNat % 4 ≠ 0 ∨ windowSize s.tray.variant ≤ a.toNat ∨
        s.sched.atomicBad.getLsbD (stackOf a.toNat) = true) := by
      rw [hworks]
      simp only [Bool.false_eq_true, or_false]
      omega
    exact if_neg hgo

end Sys2Proof.Proofs
end

/-! REDUCE, DECOMPOSE and IMAGE_READ. -/
section
namespace Sys2Proof.Proofs
open Sys2Proof Sys2Proof.Machine

section Decompose
variable {n : RingIx} {f : Fetched} {i : CmdInfo} {s u : State} (h : Accepted opDecompose n f i s) (hu : u = dispatch n f s)
  (hkind : f.desc.u8 8 ≤ 1) (hrows : f.desc.u8 0x0A ≤ 127) (hcols : f.desc.u8 0x0B ≤ 127)
  (hstride : f.desc.u8 0x0B + 1 ≤ f.desc.u32 0x0C) (hsource : badDaddr u.tray.variant (f.desc.u64 0x10) 4 = false)
  (hdest : badSaddr u.tray.variant (f.desc.u64 0x18) 64 = false) (hread : decompFails u f.desc = none)
  (hfinite : ∀ r ∈ decompRows u f.desc, ∀ p ∈ r, p.1.isFinite = true ∧ p.2.isFinite = true)
include h hu hkind hrows hcols hstride hsource hdest hread hfinite

/-- An accepted DECOMPOSE of a readable, finite target: its factorisation decides. -/
theorem exec_decompose_accepted {t : State} {r : Reply} (hbody : (match decomposed (decompRows u f.desc) with
      | none => Body.done u (Reply.of codeIntDecompose)
      | some (im, sc) => writeThen (2 ^ 63 + f.desc.u64 0x18) (imageBytes im) (Reply.ok sc.toNat) u) = .done t r) :
    exec (.decompose n) s = .next (complete n f r t) := by
  have hall : (decompRows u f.desc).any (fun r => r.any (fun p => !p.1.isFinite || !p.2.isFinite)) = false := by
    refine List.any_eq_false.2 fun r hr => Bool.eq_false_iff.1 (List.any_eq_false.2 fun p hp => ?_)
    obtain ⟨h1, h2⟩ := hfinite r hr p hp
    rw [h1, h2]
    exact Bool.false_ne_true
  subst hu
  refine (execDecompose.eq_1 n s).trans (serve_done h ?args ?body)
  case args =>
    exact allPass_cons.2 ⟨decide_eq_false (by omega), allPass_cons.2 ⟨decide_eq_false (by omega),
      allPass_cons.2 ⟨decide_eq_false (by omega), allPass_three (decide_eq_false (by omega)) hsource hdest⟩⟩⟩
  case body =>
    simp only [decomposeBody, hread, hall, Bool.false_eq_true, if_false]
    exact hbody

end Decompose

theorem decomposed_of_zero {rows : List (List (FVal × FVal))} (h : zeroRows rows = true) : decomposed rows = some ([], 0) :=
  if_pos h

theorem decomposed_of_nonzero {rows : List (List (FVal × FVal))} (h : zeroRows rows = false) :
    decomposed rows = (Config.decompose (paddedWords rows)).map (fun im =>
      (im, BitVec.ofNat 32 (binary32.encode (largestSingular rows)))) :=
  if_neg (Bool.eq_false_iff.1 h)

theorem imageBytes_length (im : Image) : (imageBytes im).length = 40960 := leBytes_length _ _

/-- An accepted IMAGE_READ writes the codes of the latch that its descriptor names. -/
theorem exec_imageRead_accepted {n : RingIx} {f : Fetched} {i : CmdInfo} {s u : State} {t : TileIx}
    (h : Accepted opImageRead n f i s) (hu : u = dispatch n f s) (htile : f.desc.u8 8 ≤ 9) (hlatch : f.desc.u8 9 ≤ 1)
    (haddr : badDaddr u.tray.variant (f.desc.u64 0x10) 64 = false) (ht : t.val = f.desc.u8 8) (hoff : u.tiles[t].state ≠ .off)
    (hfaulted : u.tiles[t].state ≠ .faulted) {im : Image}
    (him : im = if f.desc.u8 9 = 0 then u.tiles[t].mesh.active.image else u.tiles[t].mesh.shadow.image)
    (hwrite : writeFails u (f.desc.u64 0x10) (imageBytes im).length = none) :
    exec (.imageRead n) s = .next (complete n f (Reply.of codeOk) (daddrWrite (f.desc.u64 0x10) (imageBytes im) u)) := by
  have hix : (⟨f.desc.u8 8 % 10, by omega⟩ : TileIx) = t := Fin.ext (by simp only; omega)
  subst hu
  refine (execImageRead.eq_1 n s).trans (serve_done h ?args ?body)
  case args => exact allPass_three (decide_eq_false (by omega)) (decide_eq_false (by omega)) haddr
  case body =>
    simp only [imageReadBody, hix, hoff, hfaulted, or_self, if_false, ← him]
    exact writeThen_ok _ hwrite

/-- The job that an accepted REDUCE becomes. -/
def reduceJob (n : RingIx) (f : Fetched) (u : State) : Job :=
  { newJob n f .reduce (if u.rings[n].level = 3 then 3 else 4) { JobParams.none with
      order := BitVec.ofNat 2 (f.desc.u8 0x0A), combine := BitVec.ofNat 2 (f.desc.u8 0x0A / 4),
      inType := BitVec.ofNat 8 (f.desc.u8 9), statsAddr := BitVec.ofNat 64 (f.desc.u64 0x30) } with
    started := true, startSC := u.time.symbolCount }

/-- Settles O20: the bodies of the three commands under their conditions. -/
theorem reductionsAndMatrixHelpers : Obligations.ReductionsAndMatrixHelpers := by
  unfold Obligations.ReductionsAndMatrixHelpers
  refine ⟨?reduce, ?decompose, ?imageRead, imageBytes_length⟩
  case reduce =>
    intro n f i s u h hu hargs hadmits hdie hstack
    subst hu
    refine ⟨reduceJob n f (dispatch n f s), (execReduce.eq_1 n s).trans (serve_running h hargs ?body), rfl, rfl, rfl, rfl,
      rfl, rfl⟩
    case body =>
      simp only [reduceBody, hadmits, hdie, hstack, Bool.false_eq_true, if_false]
      rfl
  case decompose =>
    intro n f i s u h hu hkind hrows hcols hstride hsource hdest hread hfinite
    refine ⟨fun hzero hwrite => ?zero, fun im sc hnonzero him hsc hwrite => ?some, fun hnonzero him => ?none⟩
    case zero =>
      refine exec_decompose_accepted h hu hkind hrows hcols hstride hsource hdest hread hfinite ?_
      rw [decomposed_of_zero hzero]
      exact writeThen_ok _ hwrite
    case some =>
      refine exec_decompose_accepted h hu hkind hrows hcols hstride hsource hdest hread hfinite ?_
      rw [decomposed_of_nonzero hnonzero, him, hsc]
      exact writeThen_ok _ hwrite
    case none =>
      refine exec_decompose_accepted h hu hkind hrows hcols hstride hsource hdest hread hfinite ?_
      rw [decomposed_of_nonzero hnonzero, him]
      rfl
  case imageRead =>
    intro n f i s u h hu htile hlatch haddr t ht hoff hfaulted
    exact ⟨fun hactive hwrite => exec_imageRead_accepted h hu htile hlatch haddr ht hoff hfaulted (if_pos hactive).symm hwrite,
      fun hshadow hwrite => exec_imageRead_accepted h hu htile hlatch haddr ht hoff hfaulted
        (if_neg (by omega)).symm hwrite⟩

end Sys2Proof.Proofs
end

/-! The output stage of a job, and the failures of Kermes, of the stacks and of the arbiter. -/
section
namespace Sys2Proof.Proofs
open Sys2Proof Sys2Proof.Machine

theorem exec_jobOutputDone (job : Nat) (s : State) : exec (.jobOutputDone job) s = execJobOutputDone job s := rfl

theorem exec_scratchpadEccError (d : Fin 2) (b : Fin 64) (double : Bool) (job : Option Nat) (s : State) :
    exec (.scratchpadEccError d b double job) s = execScratchpadEccError d b double job s := rfl

theorem exec_interKermesLinkError (job : Nat) (s : State) :
    exec (.interKermesLinkError job) s = execInterKermesLinkError job s := rfl

theorem exec_memoryEccError (k : Fin 6) (unit : Nat) (double offline : Bool) (job : Option Nat) (s : State) :
    exec (.memoryEccError k unit double offline job) s = execMemoryEccError k unit double offline job s := rfl

/-- Clearing the bit of a stack takes it offline. -/
theorem getLsbD_and_not_shift (x : BitVec 6) (k : Fin 6) : (x &&& ~~~(1#6 <<< k.val)).getLsbD k.val = false := by
  simp

/-- The sub-batch in work through the output stage, its tables readable and its results writable. -/
theorem outputMatrix_ok {j : Job} {e : FusionEntry} {s : State} (htables : tablesFail s j.params e = none)
    (houtputs : outputFails s j.params e = none) {x : Job × State}
    (hx : x = (List.range (subEnd j - j.vecDone)).foldl (fun x i =>
      if j.params.combine = 1 then atomicVector e (j.vecDone + i) x else outVector e (userTab s e) (j.vecDone + i) x) (j, s)) :
    outputMatrix j e s = if subEnd j < j.params.nvec then nextSubBatch x.1 x.2 else finishJob x.1 [codeOk] 0 x.2 := by
  subst hx
  simp only [outputMatrix, htables, houtputs]

/-- Settles O21: the kinds of a job at its output, and the branches of each failure. -/
theorem outputsAndFailuresOfKermes : Obligations.OutputsAndFailuresOfKermes := by
  unfold Obligations.OutputsAndFailuresOfKermes
  refine ⟨?outputs, fun k s => ⟨_, _, rfl, rfl, rfl⟩, ?scratchpad, ?link, ?memory, ?offline, ?die, fun t job s => rfl,
    fun t s => rfl⟩
  case outputs =>
    intro job s j hjob
    refine ⟨fun hkind => ?reduce, fun t hkind harrived hended => ?raw, fun g x k hkind harrived hended => ?radio,
      fun e hkind hfusion hready => ?matrix, fun e htables houtputs => ⟨_, rfl, fun hle => ?last, fun hlt => ?next⟩⟩
    case reduce => simp only [exec_jobOutputDone, execJobOutputDone, hjob, hkind]
    case raw =>
      simp only [exec_jobOutputDone, execJobOutputDone, hjob, hkind, harrived, hended, decide_true, Bool.and_self, if_true]
    case radio =>
      simp only [exec_jobOutputDone, execJobOutputDone, hjob, hkind, harrived, hended, decide_true, Bool.and_self, if_true]
    case matrix =>
      rcases hkind with hkind | ⟨t, hkind⟩ <;>
        simp only [exec_jobOutputDone, execJobOutputDone, hjob, hkind, hfusion, hready, if_true]
    case last => exact (outputMatrix_ok htables houtputs rfl).trans (if_neg (Nat.not_lt.2 hle))
    case next => exact (outputMatrix_ok htables houtputs rfl).trans (if_pos hlt)
  case scratchpad =>
    intro d b job s hworks
    refine ⟨?single, _, rfl, fun hfirst => ?double, fun hagain => ?retires⟩
    case single =>
      simp only [exec_scratchpadEccError, execScratchpadEccError, hworks, Bool.not_false, if_false, if_true]
    case double =>
      simp only [exec_scratchpadEccError, execScratchpadEccError, hworks, hfirst, Bool.not_true, Bool.false_eq_true, if_false]
    case retires =>
      simp only [exec_scratchpadEccError, execScratchpadEccError, hworks, hagain, Bool.not_true, Bool.false_eq_true, if_false,
        if_true]
  case link =>
    intro job s j hjob hcross hchain
    simp only [exec_interKermesLinkError, execInterKermesLinkError, hjob, hcross, hchain, decide_true, Bool.and_self, if_true]
  case memory =>
    intro k unit s hfitted
    refine ⟨_, rfl, ?single, fun job hstack => ⟨_, rfl, ?double⟩⟩
    case single =>
      simp only [exec_memoryEccError, execMemoryEccError, Nat.not_le.2 hfitted, Bool.false_eq_true, false_and, if_false]
    case double =>
      simp only [exec_memoryEccError, execMemoryEccError, Nat.not_le.2 hfitted, hstack, and_self, Bool.false_eq_true, if_false,
        if_true]
  case offline =>
    intro k s hfitted unit dbl job
    refine ⟨_, (execMemoryEccError.eq_1 k unit dbl true job s).trans
      ((if_neg (Nat.not_le.2 hfitted)).trans (congrArg _ (if_pos rfl))), getLsbD_and_not_shift _ k⟩
  case die =>
    intro d s hworks
    exact ⟨_, _, rfl, rfl, (execKermesDieFailure.eq_1 d s).trans (if_neg (Bool.eq_false_iff.1 hworks))⟩

end Sys2Proof.Proofs
end

/-! Tree jobs: their models, their waves, and the lanes of Sepia. -/
section
namespace Sys2Proof.Proofs
open Sys2Proof Sys2Proof.Machine

/-- The job that an accepted TREE becomes. -/
def treeJob (n : RingIx) (f : Fetched) (m : ModelSlot) : Job :=
  { newJob n f .tree 5 { JobParams.none with nvec := f.desc.u32 0x0C, statsAddr := BitVec.ofNat 64 (f.desc.u64 0x30) } with
    model := some m }

theorem exec_treeRecordArrival (job : Nat) (s : State) : exec (.treeRecordArrival job) s = execTreeRecordArrival job s := rfl

theorem exec_sepiaWaveEnd (job : Nat) (s : State) : exec (.sepiaWaveEnd job) s = execSepiaWaveEnd job s := rfl

theorem exec_sepiaLaneParity (lane : Option (Fin 16)) (job : Option Nat) (s : State) :
    exec (.sepiaLaneParity lane job) s = execSepiaLaneParity lane job s := rfl

theorem exec_sepiaKatTimer (bad : BitVec 16) (s : State) : exec (.sepiaKatTimer bad) s = execSepiaKatTimer bad s := rfl

/-- Settles O22: the bodies of the two commands, and the branches of a record, of the end of a wave and of a lane's error. -/
theorem treeJobsRunWaveByWave : Obligations.TreeJobsRunWaveByWave := by
  unfold Obligations.TreeJobsRunWaveByWave
  refine ⟨?modelCheck, ?tree, ?arrival, ?record, ?waveEnd, ?lane, ?table, ?kat⟩
  case modelCheck =>
    intro n f i s u h hu haddr hread hmodel
    subst hu
    refine (execModelCheck.eq_1 n s).trans (serve_done h (allPass_one haddr) ?body)
    case body => simp only [modelCheckBody, hread, hmodel]
  case tree =>
    intro n f i s u h hu hargs m hslot hadmits haccepts hdie
    subst hu
    refine ⟨treeJob n f m, (execTree.eq_1 n s).trans (serve_running h hargs ?body), rfl, rfl, rfl, rfl, rfl, rfl⟩
    case body =>
      simp only [treeBody, hslot, hadmits, haccepts, hdie, Bool.false_eq_true, if_false]
      rfl
  case arrival =>
    intro job s j k m mo hjob hkind hbound hmodel hmo
    subst hmo
    refine ⟨fun hplanned => ?planned, fun hplanned hsize hsamples => ?first⟩
    case planned =>
      simp only [exec_treeRecordArrival, execTreeRecordArrival, hjob, hkind, hbound, hmodel, hplanned, ne_eq, not_true_eq_false,
        if_false, if_true]
    case first =>
      simp only [exec_treeRecordArrival, execTreeRecordArrival, hjob, hkind, hbound, hmodel, hplanned, hsize, hsamples, ne_eq,
        not_true_eq_false, Bool.false_eq_true, if_false]
  case record =>
    intro j mo s hleft hhead hheader hbody
    simp only [recordArrives, Nat.not_le.2 hleft, hhead, hheader, hbody, if_false]
  case waveEnd =>
    intro job s j k m mo hjob hmodel hmo hplanned hdone hcrc hwrites hk
    subst hmo hk
    refine ⟨fun hmore => ?more, fun hlast => ?last⟩
    case more =>
      simp only [exec_sepiaWaveEnd, execSepiaWaveEnd, hjob, hmodel, hplanned, Nat.not_lt.2 hdone, hcrc, hwrites, hmore, ne_eq,
        not_true_eq_false, Bool.not_true, decide_false, Bool.or_self, Bool.false_eq_true, if_false, if_true]
    case last =>
      simp only [exec_sepiaWaveEnd, execSepiaWaveEnd, hjob, hmodel, hplanned, Nat.not_lt.2 hdone, hcrc, hwrites,
        Nat.not_lt.2 hlast, ne_eq, not_true_eq_false, Bool.not_true, decide_false, Bool.or_self, Bool.false_eq_true, if_false]
  case lane =>
    intro l job s u v hworks hu hv
    subst hu hv
    refine ⟨fun hfirst => ?once, fun hagain => ?again⟩
    case once =>
      cases job with
      | none => simp only [exec_sepiaLaneParity, execSepiaLaneParity, laneError, hworks, hfirst, Bool.false_eq_true, if_false]
      | some k => simp only [exec_sepiaLaneParity, execSepiaLaneParity, laneError, hworks, hfirst, Bool.false_eq_true, if_false]
    case again =>
      cases job with
      | none =>
        simp only [exec_sepiaLaneParity, execSepiaLaneParity, laneError, hworks, hagain, Bool.false_eq_true, if_false, if_true]
      | some k =>
        simp only [exec_sepiaLaneParity, execSepiaLaneParity, laneError, hworks, hagain, Bool.false_eq_true, if_false, if_true]
  case table =>
    intro job j s u hjob hkind hplanned hu
    have hsame : (some job).bind (jobOf u) = some j := by
      rw [hu]
      exact hjob
    have hwave : ¬ (j.kind ≠ .tree ∨ (!j.tree.planned) = true) := by
      rw [hkind, hplanned]
      simp only [ne_eq, not_true_eq_false, Bool.not_true, Bool.false_eq_true, or_self, not_false_eq_true]
    have herror : exec (.sepiaLaneParity none (some job)) s = .next (
        if j.tree.tableRerun then endTree j codeIntSepia u
        else setJob j.id (fun k => { rerunWave k with tree := { (rerunWave k).tree with tableRerun := true } }) u) := by
      subst hu
      simp only [exec_sepiaLaneParity, execSepiaLaneParity, tableError, hsame, if_neg hwave]
    exact ⟨fun hfirst => herror.trans (by rw [hfirst]; rfl), fun hsecond => herror.trans (by rw [hsecond]; rfl)⟩
  case kat =>
    intro bad s hworks hidle
    have hnone : s.jobs.any (fun j => decide (j.kind = .tree) && j.tree.planned) = false := by
      refine List.any_eq_false.2 fun j hj hruns => ?_
      rw [Bool.and_eq_true, decide_eq_true_eq] at hruns
      obtain ⟨hkind, hplanned⟩ := hruns
      exact Bool.false_ne_true ((hidle j hj hkind).symm.trans hplanned)
    simp only [exec_sepiaKatTimer, execSepiaKatTimer, hworks, hnone, Bool.or_self, Bool.false_eq_true, if_false]

end Sys2Proof.Proofs
end

/-! SLOT and the messages that ports receive. -/
section
namespace Sys2Proof.Proofs
open Sys2Proof Sys2Proof.Machine

section Slot
variable {n : RingIx} {f : Fetched} {i : CmdInfo} {s u : State} {g : GroupIx} {cs : List CSection} {ws : List (W64 × W32)}
  (h : Accepted opSlot n f i s) (hu : u = dispatch n f s) (hgroup : groupOfRing u n = some g)
  (hargs : allPass (slotArgs u g f.desc)) (hwork : noRadioWork u = false) (hcplane : readCplane u g f.desc = .ok cs)
  (hweights : readWeights u g f.desc = .ok ws)
include h hu hgroup hargs hwork hcplane hweights

theorem exec_slot_new (hnew : slotOf u g (BitVec.ofInt 64 (slotNumber u.time f.desc)) = none) :
    exec (.slot n) s = .next (acceptSlot n f g cs ws u) := by
  subst hu
  refine (execSlot.eq_1 n s).trans (serve_running h ?args ?body)
  case args => rw [hgroup]; exact hargs
  case body =>
    simp only [slotBody, hgroup, hwork, hcplane, hweights, hnew, errorReply, firstReply, List.append_nil, Option.isSome_none,
      Bool.false_eq_true, if_false]

theorem exec_slot_again (hagain : slotOf u g (BitVec.ofInt 64 (slotNumber u.time f.desc)) ≠ none) :
    exec (.slot n) s = .next (complete n f (Reply.of codeDropped) u) := by
  have hsome : (slotOf u g (BitVec.ofInt 64 (slotNumber u.time f.desc))).isSome = true := Option.isSome_iff_ne_none.2 hagain
  subst hu
  refine (execSlot.eq_1 n s).trans (serve_done h ?args ?body)
  case args => rw [hgroup]; exact hargs
  case body =>
    simp only [slotBody, hgroup, hwork, hcplane, hweights, hsome, errorReply, firstReply, List.append_nil, List.nil_append,
      Bool.false_eq_true, if_false, if_true, Option.getD_some]

end Slot

theorem exec_uplaneMessageRx (p : PortIx) (fr : List Byte) (s : State) :
    exec (.uplaneMessageRx p fr) s = execUplaneMessageRx p fr s := rfl

theorem exec_delayMeasurementRx (p : PortIx) (fr : List Byte) (s : State) :
    exec (.delayMeasurementRx p fr) s = execDelayMeasurementRx p fr s := rfl

/-- An IQ data message long enough, in the uplink direction, is not counted as malformed. -/
theorem iqMessage_wellFormed {m : List Byte} (hlen : 4 ≤ m.length) (hdir : 128 ≤ byteAt m 3) :
    ¬ (m.length < 4 ∨ byteAt m 3 / 128 = 0) := by omega

/-- A well-formed message of a stream of a group is judged by its window. -/
theorem uplane_of_group {i : StreamIx} {r : RadioSet} {b : List Byte} {s : State} {g : GroupIx} {x : Nat × List Int}
    {ps : List (Nat × List Int)} (hhead : uHeadOk s.time.numerology b = true) (hgroup : r.streams[i].ulGroup.toNat = g.val)
    (hsections : readSections r.streams[i].compUl r.groups[g].nprb.toNat (b.length + 1) (b.drop 4) = some (x :: ps)) :
    uplane i r b s = placeMessage i g r (uHead b) (x :: ps) s := by
  have hlt : r.streams[i].ulGroup.toNat < 16 := hgroup ▸ g.isLt
  have hix : (⟨r.streams[i].ulGroup.toNat, hlt⟩ : GroupIx) = g := Fin.ext hgroup
  simp only [uplane, hhead, Bool.not_true, Bool.false_eq_true, if_false, dif_pos hlt, hix, hsections]

/-- Settles O23: the two outcomes of SLOT, and the branches of a received message from its frame to its window. -/
theorem slotsAndReceivedMessages : Obligations.SlotsAndReceivedMessages := by
  unfold Obligations.SlotsAndReceivedMessages
  refine ⟨?slot, ?frames, ?streams, ?sections, ?windows, ?delay⟩
  case slot =>
    intro n f i s u g cs ws h hu hgroup hargs hwork hcplane hweights
    exact ⟨fun hnew => ⟨exec_slot_new h hu hgroup hargs hwork hcplane hweights hnew, _, rfl, rfl, rfl, rfl, rfl, rfl, rfl⟩,
      exec_slot_again h hu hgroup hargs hwork hcplane hweights⟩
  case frames =>
    intro p fr s hup
    refine ⟨fun hnone => ?noFrame, fun b hb => ⟨fun hnone => ?noMessage, fun ty m hm hty => ?other, fun m hm => ?iq⟩⟩
    case noFrame =>
      simp only [exec_uplaneMessageRx, execUplaneMessageRx, hup, hnone, Bool.not_true, Bool.false_eq_true, if_false, dropFrame]
    case noMessage =>
      simp only [exec_uplaneMessageRx, execUplaneMessageRx, hup, hb, hnone, Bool.not_true, Bool.false_eq_true, if_false, dropEcpri]
    case other =>
      simp only [exec_uplaneMessageRx, execUplaneMessageRx, hup, hb, hm, hty, Bool.not_true, Bool.false_eq_true, if_false,
        dropEcpri]
    case iq =>
      simp only [exec_uplaneMessageRx, execUplaneMessageRx, hup, hb, hm, Bool.not_true, Bool.false_eq_true, if_false, if_true]
  case streams =>
    intro p m s r hlen hdir hr
    subst hr
    refine ⟨fun hnone => ?unmatched, fun i hi => ?matched⟩
    case unmatched => simp only [iqMessage, if_neg (iqMessage_wellFormed hlen hdir), hnone]
    case matched => simp only [iqMessage, if_neg (iqMessage_wellFormed hlen hdir), hi]
  case sections => exact fun i r b s g x ps => uplane_of_group
  case windows =>
    intro i g r h ps s u n d hn hd hu
    subst hn hd hu
    refine ⟨fun hearly => ?early, fun hopen hlate => ?late, fun hopen hclose hbegun => ?inTime⟩
    case early => simp only [placeMessage, if_pos hearly]
    case late => simp only [placeMessage, if_neg (Int.not_lt.2 hopen), if_pos hlate]
    case inTime =>
      simp only [placeMessage, if_neg (Int.not_lt.2 hopen), Int.not_lt.2 hclose, hbegun, Bool.false_eq_true, or_self, if_false]
  case delay =>
    intro p fr b m s hup hb hm
    refine ⟨fun hact => ?respond, fun hact => ?request, fun hact => ?count⟩
    case respond =>
      simp only [exec_delayMeasurementRx, execDelayMeasurementRx, hup, hb, hm, hact, Bool.not_true, Bool.false_eq_true, ne_eq,
        not_true_eq_false, if_false, if_true]
    case request =>
      simp only [exec_delayMeasurementRx, execDelayMeasurementRx, hup, hb, hm, hact, Bool.not_true, Bool.false_eq_true, ne_eq,
        not_true_eq_false, Nat.reduceEqDiff, or_self, if_false, if_true]
    case count =>
      simp only [exec_delayMeasurementRx, execDelayMeasurementRx, hup, hb, hm, hact, Bool.not_true, Bool.false_eq_true, ne_eq,
        not_true_eq_false, Nat.reduceEqDiff, one_ne_zero, or_self, if_false, if_true]

end Sys2Proof.Proofs
end

/-! Batch sets, the windows of a slot, and the ports. -/
section
namespace Sys2Proof.Proofs
open Sys2Proof Sys2Proof.Machine

/-- A slot holds a set of an index that has neither started nor its outcome. -/
theorem any_waitingSet {x : RadioSlot} {k : Nat} (h : ∃ b ∈ x.sets, b.index = k ∧ b.started = false ∧ b.done = false) :
    x.sets.any (fun b => decide (b.index = k) && !b.started && !b.done) = true := by
  obtain ⟨b, hb, hindex, hstarted, hdone⟩ := h
  refine List.any_eq_true.2 ⟨b, hb, ?_⟩
  rw [hindex, hstarted, hdone]
  simp only [decide_true, Bool.not_false, Bool.and_self]

theorem exec_txWindowOpen (g : GroupIx) (n : W64) (k : Fin 14) (s : State) :
    exec (.txWindowOpen g n k) s = execTxWindowOpen g n k s := rfl

section Symbol
variable {x : RadioSlot} {k : Nat} {i : StreamIx} {s : State} {p : PortIx} {ms : List (List (Nat × Nat × Nat))}
  (hport : streamPort (slotMap s x).streams[i] = some p) (hup : portUp s p = true)
  (hms : ms = symMessages (slotMap s x).streams[i].compDl x.entry.nprb.toNat x.cplane i k)
include hport hup hms

theorem sendSymbol_dropped {ready : Bool} (h : ready = false ∨ mayTransmit s = false) :
    sendSymbol x k ready s i = setStream i (fun c => { c with txDrop := satAdd c.txDrop ms.length }) s := by
  have hnot : (!ready || !mayTransmit s) = true := by
    rcases h with h | h <;> simp only [h, Bool.not_false, Bool.true_or, Bool.or_true]
  subst hms
  simp only [sendSymbol, hport, hup, hnot, Bool.not_true, Bool.false_eq_true, if_false, if_true]

theorem sendSymbol_sent (h : mayTransmit s = true) : sendSymbol x k true s i = ms.foldl (sendUplane x k i p) s := by
  subst hms
  simp only [sendSymbol, hport, hup, h, Bool.not_true, Bool.or_self, Bool.false_eq_true, if_false]

end Symbol

/-- Settles O24: the branches of a set's start, of a symbol's window, of a C-plane burst and of a port's events. -/
theorem radioSetsWindowsAndPorts : Obligations.RadioSetsWindowsAndPorts := by
  unfold Obligations.RadioSetsWindowsAndPorts
  refine ⟨?starts, ?layers, ?window, ?symbol, ?cplane, ?missing, ?deadline, ?ports⟩
  case starts =>
    intro g n k s x hslot hset hreached
    refine ⟨fun hkind => ?uplink, fun hkind hfetched hcore => ?downlink⟩
    case uplink =>
      refine (execRxClose.eq_1 g n k s).trans ?_
      simp only [hslot, hkind, hreached, any_waitingSet hset, ne_eq, not_false_eq_true, and_self, if_true]
    case downlink =>
      refine (execDlSetStart.eq_1 g n k s).trans ?_
      simp only [hslot, hcore, hkind, hfetched, hreached, any_waitingSet hset, and_self, if_true]
  case layers =>
    intro g n s x hslot hkind hfetched hread
    refine (execLayerFetchDone.eq_1 g n s).trans ?_
    simp only [hslot, hkind, hfetched, hread, ne_eq, not_true_eq_false, Bool.false_eq_true, or_self, if_false]
  case window =>
    intro g n k s x y u hslot hkind hsent hskipped hreached hu hy
    have hgo : ¬ (x.entry.kind ≠ 1 ∨ k.val ∈ x.txSent ∨ k.val ∈ x.txSkipped ∨ (!reached s (txOpensAt s x k.val)) = true) := by
      rw [hkind, hreached]
      simp only [hsent, hskipped, ne_eq, not_true_eq_false, Bool.not_true, Bool.false_eq_true, or_self, not_false_eq_true]
    subst hu hy
    refine ⟨fun hmore => ?more, fun hlast => ?last⟩
    case more => simp only [exec_txWindowOpen, execTxWindowOpen, hslot, if_neg hgo, if_neg hmore]
    case last => simp only [exec_txWindowOpen, execTxWindowOpen, hslot, if_neg hgo, if_pos hlast]
  case symbol =>
    intro x k i s p ms hport hup hms
    exact ⟨fun ready h => sendSymbol_dropped hport hup hms h, fun h => sendSymbol_sent hport hup hms h⟩
  case cplane =>
    intro g n s x hslot hsent hreached
    refine (execCplaneTx.eq_1 g n s).trans ?_
    simp only [hslot, hsent, hreached, Bool.not_true, Bool.false_eq_true, or_self, if_false]
  case missing => exact fun g s h => if_pos h
  case deadline =>
    intro g n s hrole hen hstreams hslot
    refine (execSlotDescriptorDeadline.eq_1 g n s).trans (if_pos ⟨hrole, hen, hstreams, ?_⟩)
    rw [hslot]
    rfl
  case ports =>
    intro p s hfitted
    refine ⟨fun hsignal => ?loss, ?insert, ?refuse, fun hpowered => ?aligned, fun hpowered => ?fault⟩
    case loss =>
      refine (execPortSignalLoss.eq_1 p s).trans (if_pos ?_)
      rw [hfitted, hsignal]
      rfl
    case insert =>
      refine (execQsfpModuleInsert.eq_1 p true s).trans ?_
      simp only [hfitted, Bool.not_true, Bool.false_eq_true, if_false, if_true]
    case refuse =>
      refine (execQsfpModuleInsert.eq_1 p false s).trans ?_
      simp only [hfitted, Bool.not_true, Bool.false_eq_true, if_false]
    case aligned =>
      refine (execPcsAligned.eq_1 p s).trans (if_pos ?_)
      rw [hfitted, hpowered]
      rfl
    case fault =>
      refine (execModuleFault.eq_1 p s).trans (if_pos ?_)
      rw [hfitted, hpowered]
      rfl

end Sys2Proof.Proofs
end

/-! Scheduled events: EVENT_SET, GAP_DECLARE, EVENT_CANCEL and what a comparator fires. -/
section
namespace Sys2Proof.Proofs
open Sys2Proof Sys2Proof.Machine

/-- The group that an EVENT_SET with its arguments in range swaps: 0 for a radio swap. -/
theorem eventSetArgs_radio {f : Fetched} {u : State} (hargs : allPass (eventSetArgs f u)) (hact : f.desc.u8 8 = 0) :
    f.desc.u8 9 = 0 := by
  obtain ⟨hchecks, -⟩ := allPass_append.1 hargs
  obtain ⟨-, hgroup, -⟩ : _ ∧ _ ∧ _ := by
    simpa only [allPass_cons, allPass_nil, and_true] using hchecks
  by_contra hne
  simp [hact, hne] at hgroup

section EventSet
variable {n : RingIx} {f : Fetched} {i : CmdInfo} {s u : State} {c : Fin 64} {rest : List (Fin 64)}
  (h : Accepted opEventSet n f i s) (hu : u = dispatch n f s) (hargs : allPass (eventSetArgs f u))
  (htuple : tupleRefused f.desc u = false) (hfree : freeComparators u = c :: rest)
include h hu hargs htuple hfree

theorem exec_eventSet_notify (hact : f.desc.u8 8 = 4) : exec (.eventSet n) s = .next (setComparator c (some
    { time := eventTimeOf f.desc, action := .notify, ring := n, id := f.id, tag := f.desc.tag }) u) := by
  subst hu
  refine (execEventSet.eq_1 n s).trans (serve_running h hargs ?body)
  case body =>
    simp only [eventSetBody, htuple, hfree, hact, ne_eq, not_true_eq_false, decide_false, Bool.false_and, Bool.or_self,
      Bool.false_eq_true, OfNat.ofNat_ne_zero, OfNat.ofNat_ne_one, if_false]

theorem exec_eventSet_radio (hact : f.desc.u8 8 = 0) (hstaged : u.sets.groups[(0 : GroupIx)].shadow = .staged)
    (hidle : committing u 0 = false) {e : ArmedEvent}
    (he : e = { time := eventTimeOf f.desc, action := .radioSwap false, ring := n, id := f.id, tag := f.desc.tag }) :
    exec (.eventSet n) s = .next (mirror (some 0) f.desc.bytes (eventBytes u n e)
      (settleShadow 0 (setComparator c (some e) u))) := by
  have hgroup : f.desc.u8 9 % 16 = 0 := by rw [eventSetArgs_radio hargs hact]
  subst hu he
  refine (execEventSet.eq_1 n s).trans (serve_running h hargs ?body)
  case body =>
    simp only [eventSetBody, htuple, hfree, hact, hgroup, Fin.zero_eta, hstaged, hidle, ne_eq, not_true_eq_false, decide_false,
      Bool.and_false, Bool.or_self, Bool.false_eq_true, if_false, if_true, OfNat.zero_ne_ofNat, not_false_eq_true, decide_true]

theorem exec_eventSet_tile {g : GroupIx} (hact : f.desc.u8 8 = 1) (hgroup : f.desc.u8 9 = g.val)
    (hstaged : u.sets.groups[g].shadow = .staged) (hidle : committing u g = false) {e : ArmedEvent}
    (he : e = { time := eventTimeOf f.desc, action := .tileSwap g, ring := n, id := f.id, tag := f.desc.tag }) :
    exec (.eventSet n) s = .next (mirror (some g.val) f.desc.bytes (eventBytes u n e)
      (settleShadow g (setComparator c (some e) u))) := by
  have hix : f.desc.u8 9 % 16 = g.val := by
    rw [hgroup]
    exact Nat.mod_eq_of_lt g.isLt
  subst hu he
  refine (execEventSet.eq_1 n s).trans (serve_running h hargs ?body)
  case body =>
    simp only [eventSetBody, htuple, hfree, hact, hix, Fin.eta, hstaged, hidle, ne_eq, not_true_eq_false, decide_false,
      Bool.and_false, Bool.or_self, Bool.false_eq_true, if_false, if_true, one_ne_zero, OfNat.one_ne_ofNat, not_false_eq_true, decide_true]

end EventSet

section Fires
variable {c : Fin 64} {e : ArmedEvent} {s : State} (harmed : s.time.comparators[c] = some e)
include harmed

theorem cancelOne_notify (hact : e.action = .notify) :
    cancelOne s c = completeId e.ring e.id (Reply.of codeDropped) (setComparator c none s) := by
  simp only [cancelOne, harmed, hact]

theorem exec_eventNotify_armed (hact : e.action = .notify) :
    exec (.eventNotify c) s = .next (completeId e.ring e.id (Reply.ok c.val) (setComparator c none s)) := by
  refine (execEventNotify.eq_1 c s).trans ?_
  simp only [harmed, hact]

theorem exec_eventTileSwap_armed {g : GroupIx} (hact : e.action = .tileSwap g) (hempty : s.sets.groups[g].shadow ≠ .empty)
    (hopen : s.sets.groups[g].shadow ≠ .opened) : exec (.eventTileSwap c) s = .next
      (if groupHeld (setComparator c none s) g then
        markHeld g (settleShadow g (waitSwap g e.ring e.id c.val (setComparator c none s)))
       else completeId e.ring e.id (Reply.ok c.val) (doSwap g (setComparator c none s))) := by
  refine (execEventTileSwap.eq_1 c s).trans ?_
  simp only [harmed, hact, hempty, hopen, or_self, if_false]
  split <;> rfl

end Fires

/-- A comparator set holds what it was set to. -/
theorem setComparator_self (c : Fin 64) (e : Option ArmedEvent) (s : State) : (setComparator c e s).time.comparators[c] = e :=
  put_self _ _ _

/-- The state in which the declared gap of some tiles has ended. -/
def gapsEnded (ts : BitVec 10) (s : State) : State :=
  { s with tiles := Vector.ofFn (fun t => if ts.getLsbD t.val then endGap s.tiles[t] else s.tiles[t]) }

/-- Steps and overruns of the declared gap of some tiles, as the gap's command answers them. -/
def gapReply (ts : BitVec 10) (s : State) : Reply :=
  Reply.okDetail (((tilesOf ts).map (fun t => (gapCounts s.tiles[t]).1)).foldl (· + ·) 0)
    (((tilesOf ts).map (fun t => (gapCounts s.tiles[t]).2)).foldl (· + ·) 0)

theorem endDeclared_eq (code : W16) (e : ArmedEvent) (ts : BitVec 10) (s : State) : endDeclared code e ts s =
    completeId e.ring e.id { gapReply ts s with code := code } (gapsEnded ts s) := by
  simp only [endDeclared, List.map_map, Function.comp_def, gapReply, gapsEnded]

/-- The comparators that an EVENT_CANCEL cancels. -/
def cancelHits (f : Fetched) (s : State) : List (Fin 64) :=
  (List.finRange 64).filter (fun i => match s.time.comparators[i] with
    | some e => cancels (f.desc.u8 8) (BitVec.ofNat 32 (f.desc.u32 0x0C)) e
    | none => false)

/-- Whether a comparator is armed for a swap. -/
def armedSwap (s : State) (i : Fin 64) : Bool :=
  match s.time.comparators[i] with
  | some e => (match e.action with
    | .radioSwap _ => true
    | .tileSwap _ => true
    | _ => false)
  | none => false

theorem eventCancelBody_eq (f : Fetched) (s : State) : eventCancelBody f s =
    .done (if (cancelHits f s).any (armedSwap s) then mirror (some 0) f.desc.bytes [] ((cancelHits f s).foldl cancelOne s)
      else (cancelHits f s).foldl cancelOne s) (Reply.ok (cancelHits f s).length) := rfl

theorem armedSwap_eq_false {s : State} {i : Fin 64} (h : ∀ e, s.time.comparators[i] = some e → e.action = .notify) :
    armedSwap s i = false := by
  unfold armedSwap
  cases harmed : s.time.comparators[i] with
  | none => rfl
  | some e => simp only [h e harmed]

/-- Settles O25: the bodies of the three commands, and the action of a comparator that fires. -/
theorem scheduledEventsArmFireAndCancel : Obligations.ScheduledEventsArmFireAndCancel := by
  unfold Obligations.ScheduledEventsArmFireAndCancel
  refine ⟨?eventSet, ?gapDeclare, ?cancel, ?notify, ?radioSwap, ?tileSwap, ?gapStart, ?gapEnd⟩
  case eventSet =>
    intro n f i s u h hu hargs htuple c rest hfree
    exact ⟨exec_eventSet_notify h hu hargs htuple hfree,
      fun hact hstaged hidle => ⟨_, rfl, exec_eventSet_radio h hu hargs htuple hfree hact hstaged hidle rfl⟩,
      fun g hact hgroup hstaged hidle => ⟨_, rfl, exec_eventSet_tile h hu hargs htuple hfree hact hgroup hstaged hidle rfl⟩⟩
  case gapDeclare =>
    intro n f i s u h hu hmask hlow hhigh htime htuple c d rest hfree
    subst hu
    refine ⟨_, rfl, (execGapDeclare.eq_1 n s).trans (serve_running h ?args ?body)⟩
    case args =>
      exact allPass_append.2 ⟨allPass_two (decide_eq_false (by omega)) (decide_eq_false (by omega)), htime⟩
    case body => simp only [gapDeclareBody, htuple, hfree, Bool.false_eq_true, if_false]
  case cancel =>
    intro n f i s u h hu hring hits hhits hnotify
    have hcancels : hits = cancelHits f u := hhits
    have hnone : hits.any (armedSwap u) = false :=
      List.any_eq_false.2 fun k hk => Bool.eq_false_iff.1 (armedSwap_eq_false (hnotify k hk))
    subst hu
    refine (execEventCancel.eq_1 n s).trans (serve_done h (allPass_one (decide_eq_false (by omega))) ?body)
    case body =>
      rw [eventCancelBody_eq, ← hcancels]
      exact congrArg (fun t => Body.done t (Reply.ok hits.length)) (if_neg (Bool.eq_false_iff.1 hnone))
  case notify => exact fun c e s harmed hact => ⟨cancelOne_notify harmed hact, exec_eventNotify_armed harmed hact⟩
  case radioSwap =>
    intro c e b s harmed hact hempty hopen hallowed
    refine (execEventRadioSwap.eq_1 c s).trans ?_
    simp only [harmed, hact, hempty, hopen, hallowed, or_self, Bool.false_eq_true, if_false]
  case tileSwap =>
    intro c e g s harmed hact hempty hopen
    have hfires := exec_eventTileSwap_armed harmed hact hempty hopen
    exact ⟨fun hready => by rw [hfires, hready]; rfl, fun hheld => by rw [hfires, hheld]; rfl⟩
  case gapStart =>
    intro c d e ts dur s harmed hact
    refine (execEventGapStart.eq_1 c s).trans ?_
    simp only [harmed, hact]
  case gapEnd =>
    intro c e ts s harmed hact
    refine ⟨gapsEnded ts (setComparator c none s), gapReply ts s, ?fires, ?cancelled, rfl, setComparator_self c none s,
      fun x => Vector.getElem_ofFn _⟩
    case fires =>
      refine (execEventGapEnd.eq_1 c s).trans ?_
      simp only [harmed, hact, endDeclared_eq]
      rfl
    case cancelled =>
      simp only [cancelOne, harmed, hact, endDeclared_eq]
      rfl

end Sys2Proof.Proofs
end

/-! Clocks and timing input: the root PLL, Woad's counts, PTP messages and the sync states. -/
section
namespace Sys2Proof.Proofs
open Sys2Proof Sys2Proof.Machine

/-- A raised alarm stands on its contact. -/
theorem raiseAlarm_mem (major : Bool) (code source : W16) (s : State) :
    ({ major := major, code := code, source := source } : Alarm) ∈ (raiseAlarm major code source s).tray.alarms := by
  by_cases hset : ({ major := major, code := code, source := source } : Alarm) ∈ s.tray.alarms
  · simp only [raiseAlarm, if_pos hset]
    exact hset
  · simp only [raiseAlarm, if_neg hset]
    exact List.mem_cons_self

/-- A raised alarm changes nothing but the tray's alarms. -/
theorem raiseAlarm_frame (major : Bool) (code source : W16) (s : State) :
    ∃ l, raiseAlarm major code source s = { s with tray := { s.tray with alarms := l } } := by
  by_cases hset : ({ major := major, code := code, source := source } : Alarm) ∈ s.tray.alarms
  · exact ⟨s.tray.alarms, if_pos hset⟩
  · exact ⟨_, if_neg hset⟩

section TrimCount
variable {c : BitVec 17} {s u : State} (hlock : s.time.rootLock = true) (hpowered : s.woad.powered = true)
  (hu : u = { s with woad := { s.woad with hclkCount := c } })
include hlock hpowered hu

/-- A count of an untrimmed oscillator trims it within 15 %, and stops the trim beyond. -/
theorem exec_woadTrimCount_untrimmed (huntrimmed : s.woad.trimmed = false) : exec (.woadTrimCount c) s = .next
    (if 15 * 122880 < countError c.toNat * 1000 then
      raiseAlarm false alWoadOsc 0 { u with woad := { u.woad with hclkSampling := true } }
     else { u with woad := { u.woad with trimmed := decide (countError c.toNat * 10000 ≤ 5 * 122880), badCounts := 0 } }) := by
  subst hu
  refine (execWoadTrimCount.eq_1 c s).trans ?_
  simp only [hlock, hpowered, huntrimmed, Bool.not_true, Bool.false_eq_true, or_self, if_false]
  split <;> rfl

/-- A count of a trimmed oscillator: good, or the first or the second bad one in a row. -/
theorem exec_woadTrimCount_trimmed (htrimmed : s.woad.trimmed = true) : exec (.woadTrimCount c) s = .next
    (if 1228800 < countError c.toNat * 1000 then
      if 2 ≤ s.woad.badCounts + 1 then clockFaultEffect { u with woad := { u.woad with badCounts := s.woad.badCounts + 1 } }
      else { u with woad := { u.woad with badCounts := s.woad.badCounts + 1 } }
     else { u with woad := { u.woad with badCounts := 0 } }) := by
  subst hu
  refine (execWoadTrimCount.eq_1 c s).trans ?_
  simp only [hlock, hpowered, htrimmed, Bool.not_true, Bool.false_eq_true, or_self, if_false, if_true]
  split <;> rfl

end TrimCount

section Ptp
variable {p : PortIx} {s : State} (hfirmware : firmwareRuns s = true) (hport : p.val < portsFitted s.tray.variant)
include hfirmware hport

theorem exec_ptpMessageRx_taken {m : PtpMessage} (h : coreRuns s 1 = true ∨ m = .other) :
    exec (.ptpMessageRx p m) s = .next (ptpEffect p m s) :=
  if_pos ⟨hfirmware, hport, h⟩

end Ptp

section Servo
variable {p : PortIx} {m off : Int} {s : State} (hport : s.time.ptpPort = some p) (hlocked : s.time.syncState = .locked)
  (hoff : off = m - s.time.asym[p]) (hlarge : 1000 < off.natAbs)
include hport hlocked hoff hlarge

/-- An offset beyond 1 us of a locked servo is rejected, or after the sixteenth in a row slewed. -/
theorem servoOffset_rejected : servoOffset p m s =
    if s.time.rejects + 1 < 16 then { s with time := { s.time with ptpOffset := off, rejects := s.time.rejects + 1 } }
    else event evTimeStep (BitVec.ofNat 16 p.val) 0
      (startSlew off { s with time := { s.time with ptpOffset := off, rejects := 0 } }) := by
  subst hoff
  simp only [servoOffset, hport, hlocked, Nat.not_le.2 hlarge, ne_eq, not_true_eq_false, if_false]

end Servo

section TimeConfig
variable {n : RingIx} {f : Fetched} {i : CmdInfo} {s u : State} (h : Accepted opTimeConfig n f i s) (hu : u = dispatch n f s)
  (hargs : allPass (timeConfigArgs f u))
include h hu hargs

/-- TIME_CONFIG puts its fields in force unless an open stream or an armed tuple forbids the change. -/
theorem exec_timeConfig_accepted
    (hstream : ((decide (BitVec.ofNat 3 (f.desc.u8 0x08) ≠ u.time.numerology) ||
      decide (f.desc.i32 0x0C ≠ u.time.frameOffset)) && streamOpen u) = false)
    (htuple : (decide (BitVec.ofNat 3 (f.desc.u8 0x08) ≠ u.time.numerology) && tupleArmed u) = false) :
    exec (.timeConfig n) s = .next (complete n f (Reply.of codeOk) (mirror none f.desc.bytes [] (applyTimeConfig f.desc u))) := by
  subst hu
  refine (execTimeConfig.eq_1 n s).trans (serve_done h hargs ?body)
  case body => simp only [timeConfigBody, hstream, htuple, Bool.false_eq_true, if_false]

end TimeConfig

/-- Settles O26: the branches of the clock events, of a PTP message, of a sync state's changes and of TIME_CONFIG. -/
theorem clocksAndTimingInput : Obligations.ClocksAndTimingInput := by
  unfold Obligations.ClocksAndTimingInput
  refine ⟨?lock, ?unlock, ?fault, ?count, ?ptp, ?servo, ?lost, ?settled, ?limit, ?synce, ?tuning, fun s => rfl, ?esmc,
    ?sameNumerology, ?noStream⟩
  case lock => exact fun s h => if_neg (Bool.eq_false_iff.1 h)
  case unlock => exact fun s h => if_pos h
  case fault =>
    intro s hpowered hcause
    have hgo : s.woad.powered = true ∧ ((!s.time.rootLock) = true ∧ 10 ≤ s.time.lockFails ∨ 2 ≤ s.woad.badCounts) := by
      rw [Bool.not_eq_true']
      exact ⟨hpowered, hcause⟩
    obtain ⟨l, hframe⟩ := raiseAlarm_frame true alClockFault 0 s
    have hmem : ({ major := true, code := alClockFault, source := 0 } : Alarm) ∈ l := by
      have := raiseAlarm_mem true alClockFault 0 s
      rwa [hframe] at this
    refine ⟨clockFaultEffect s, if_pos hgo, ?_⟩
    rw [clockFaultEffect, hframe]
    exact ⟨rfl, rfl, rfl, rfl, ⟨_, hmem, rfl, rfl⟩, rfl, rfl, rfl⟩
  case count =>
    intro c s u hlock hpowered hu
    refine ⟨fun huntrimmed hnear => ?near, fun huntrimmed hfar => ?far, fun htrimmed hgood => ?good,
      fun htrimmed hbad hfirst => ?first, fun htrimmed hbad hsecond => ?second⟩
    case near => rw [exec_woadTrimCount_untrimmed hlock hpowered hu huntrimmed, if_neg (Nat.not_lt.2 hnear)]
    case far => rw [exec_woadTrimCount_untrimmed hlock hpowered hu huntrimmed, if_pos hfar]
    case good => rw [exec_woadTrimCount_trimmed hlock hpowered hu htrimmed, if_neg (Nat.not_lt.2 hgood)]
    case first => rw [exec_woadTrimCount_trimmed hlock hpowered hu htrimmed, if_pos hbad, hfirst, if_neg (by decide)]
    case second => rw [exec_woadTrimCount_trimmed hlock hpowered hu htrimmed, if_pos hbad, hsecond, if_pos (by decide)]
  case ptp =>
    intro p s hfirmware hport
    refine ⟨exec_ptpMessageRx_taken hfirmware hport (.inr rfl), fun hen hcore => ?enabled⟩
    have htakes (m : PtpMessage) : exec (.ptpMessageRx p m) s = .next (ptpEffect p m s) :=
      exec_ptpMessageRx_taken hfirmware hport (.inl hcore)
    case enabled =>
      refine ⟨fun off => ?offsets, fun id rank hnone => ?announce⟩
      case offsets =>
        simp only [htakes, ptpEffect, hen, ne_eq, not_true_eq_false, Bool.not_true, Bool.false_eq_true, or_self, if_false,
          and_self]
      case announce =>
        simp only [htakes, ptpEffect, hen, hnone, ne_eq, not_true_eq_false, Bool.not_true, Bool.false_eq_true, or_self, if_false]
  case servo =>
    intro p m off s hport hlocked hoff
    exact ⟨fun hlarge hfew => (servoOffset_rejected hport hlocked hoff hlarge).trans (if_pos hfew),
      fun hlarge hmany => (servoOffset_rejected hport hlocked hoff hlarge).trans (if_neg (Nat.not_lt.2 hmany))⟩
  case lost => exact fun m s hfirmware hmaster => if_pos ⟨hfirmware, Option.isSome_iff_exists.2 ⟨m, hmaster⟩⟩
  case settled =>
    intro m s hfirmware hacquiring hmaster
    have hgo : firmwareRuns s = true ∧ s.time.syncState = .acquiring ∧ s.time.master.isSome = true :=
      ⟨hfirmware, hacquiring, Option.isSome_iff_exists.2 ⟨m, hmaster⟩⟩
    refine ⟨fun hopen hheld => ?slews, fun hclosed => ?steps⟩
    case slews =>
      refine (execServoLocked.eq_1 s).trans ((if_pos hgo).trans ?_)
      simp only [hopen, hheld, Bool.not_true, Bool.false_eq_true, ne_eq, not_true_eq_false, or_self, if_false]
    case steps =>
      refine (execServoLocked.eq_1 s).trans ((if_pos hgo).trans ?_)
      simp only [hclosed, Bool.not_false, true_or, if_true]
  case limit => exact fun s h => if_pos h
  case synce => exact fun s => ⟨rfl, fun h => if_pos (Option.isSome_iff_ne_none.2 h)⟩
  case tuning => exact fun s hfirmware hlocked => if_pos ⟨hfirmware, hlocked⟩
  case esmc => exact fun p s h => if_pos h
  case sameNumerology =>
    intro n f i s u h hu hargs hsame hoffset
    refine exec_timeConfig_accepted h hu hargs ?stream ?tuple
    case stream =>
      rcases hoffset with hoffset | hclosed
      · simp only [hsame, hoffset, ne_eq, not_true_eq_false, decide_false, Bool.or_self, Bool.false_and]
      · rw [hclosed, Bool.and_false]
    case tuple => simp only [hsame, ne_eq, not_true_eq_false, decide_false, Bool.false_and]
  case noStream =>
    intro n f i s u h hu hargs hclosed harmed
    refine exec_timeConfig_accepted h hu hargs ?stream ?tuple
    case stream => rw [hclosed, Bool.and_false]
    case tuple => rw [harmed, Bool.and_false]

end Sys2Proof.Proofs
end

/-! Tiles, lasers and latches. -/
section
namespace Sys2Proof.Proofs
open Sys2Proof Sys2Proof.Machine

section TileControl
variable {n : RingIx} {f : Fetched} {i : CmdInfo} {s u : State} {t : TileIx} (h : Accepted opTileControl n f i s)
  (hu : u = dispatch n f s) (hrange : f.desc.u8 8 ≤ 9) (ht : t.val = f.desc.u8 8) (hmoving : u.tiles[t].moving = none)
  (hcontrol : u.tiles[t].control = none)
include h hu hrange ht hmoving hcontrol

/-- An accepted TILE_CONTROL of a tile with no transition in progress: its action decides. -/
theorem exec_tileControl_accepted {t1 : State} (haction : f.desc.u8 9 ≤ 3)
    (hbody : (if f.desc.u8 9 = 0 then
        (if u.tiles[t].state = .off then Body.running (setTile t (fun x => { x with moving := some .dark })
          (setTile t (fun x => { x with control := some (n, f.id, .dark) }) u)) else .done u (Reply.of codeStateIllegal))
      else if f.desc.u8 9 = 1 then
        (if u.tiles[t].state = .dark then .running (lightTile t (setTile t (fun x => { x with control := some (n, f.id, .ready) }) u))
         else .done u (Reply.of codeStateIllegal))
      else if f.desc.u8 9 = 2 then
        (if inService u.tiles[t] && !soleRadioTile u t then
          .running (settleTile t (setTile t (fun x => { x with resting := true, control := some (n, f.id, .dark) }) u))
         else .done u (Reply.of codeStateIllegal))
      else if u.tiles[t].state = .dark then .running (setTile t (fun x => { x with moving := some .off })
        (setTile t (fun x => { x with control := some (n, f.id, .off) }) u))
      else .done u (Reply.of codeStateIllegal)) = .running t1) :
    exec (.tileControl n) s = .next t1 := by
  have hix : (⟨f.desc.u8 8 % 10, by omega⟩ : TileIx) = t := Fin.ext (by simp only; omega)
  subst hu
  refine (execTileControl.eq_1 n s).trans (serve_running h ?args ?body)
  case args => exact allPass_two (decide_eq_false (by omega)) (decide_eq_false (by omega))
  case body =>
    simp only [tileControlBody, hix, hmoving, hcontrol, Option.isSome_none, Bool.false_eq_true, or_self, if_false]
    exact hbody

end TileControl

section Lock
variable {t : TileIx} {o : Int} {s u : State} (hunlocked : s.tiles[t].laser.locked = false)
  (hstate : inService s.tiles[t] = true ∨ s.tiles[t].state = .warm ∨ s.tiles[t].state = .maint)
  (hu : u = changeLocked t (setTile t (fun x => { x with
    laser := { x.laser with locked := true, timedOut := false, offsetPm := o } }) s))
include hunlocked hstate hu

/-- A stripe of a tile that may lock: more than 20 pm off it has not, else it has, and a settled WARM tile is READY. -/
theorem exec_stripeLockAcquired_unlocked : exec (.stripeLockAcquired ⟨t, o⟩) s = .next
    (if 20 < o.natAbs then setTile t (fun x => { x with laser := { x.laser with offsetPm := o } }) s
     else if s.tiles[t].state = .warm ∧ (s.tray.phase = .done ∨ s.tray.lateTiles.getLsbD t.val = true) then
       tryPower (finishControl t (enterTile t .ready (reloadResident t u)))
     else u) := by
  have hmay : ¬ (s.tiles[t].laser.locked = true ∨
      (!(inService s.tiles[t] || decide (s.tiles[t].state = .warm) || decide (s.tiles[t].state = .maint))) = true) := by
    rw [hunlocked]
    rcases hstate with h | h | h <;>
      simp only [h, decide_true, Bool.true_or, Bool.or_true, Bool.not_true, Bool.false_eq_true, or_self, not_false_eq_true]
  subst hu
  refine (execStripeLockAcquired.eq_1 ⟨t, o⟩ s).trans ?_
  simp only [if_neg hmay]
  split
  · rfl
  · split <;> rfl

end Lock

/-- A stripe change to stripe `k` leaves it lit as `litStripe` gives. -/
theorem lightStripe_stripe {k : Fin 4} {x : Tile} (old : StripeState) (hk : k ≠ x.laser.lit) :
    (lightStripe k old x).laser.stripes[k] = litStripe x.laser.stripes[k] := by
  simp only [lightStripe, upd_self, upd_other _ _ _ _ hk]

/-- The lit stripe of a tile has failed. -/
def stripeFailed (t : TileIx) (s : State) : State :=
  setTile t (fun x => { x with laser := { x.laser with
    stripes := upd x.laser.stripes x.laser.lit (fun p => { p with state := .failed, bias := 0 }) } }) s

section Transition
variable {t : TileIx} {s u : State} (hu : u = setTile t (fun x => { x with moving := none }) s)
include hu

theorem exec_tileTransitionDone_moving {goal : TileState} (hmoving : s.tiles[t].moving = some goal) :
    exec (.tileTransitionDone t) s = .next (tryPower (finishControl t
      (if goal = .dark ∧ s.tiles[t].state = .off then powerDark t u
       else if goal = .dark ∧ s.tiles[t].state = .ready then enterTile t .dark (setTile t darkenTile u)
       else if goal = .off ∧ s.tiles[t].state = .dark then enterTile t .off u
       else u))) := by
  subst hu
  refine (execTileTransitionDone.eq_1 t s).trans ?_
  simp only [hmoving]

end Transition

/-- A latch set that has lost a bit keeps its image, loaded again or not. -/
theorem checkLatch_image (t : TileIx) (x : Tile) (k : Nat) (l : Latch) : (checkLatch t x k l).image = l.image := by
  cases hparity : (Latch.flip k l).parityOk
  case false => simp only [checkLatch, hparity, Bool.false_eq_true, if_false, loadedLatch]
  case true =>
    have hkept : checkLatch t x k l = Latch.flip k l := if_pos hparity
    rw [hkept, Latch.flip]

/-- A latch set whose parity check fails is loaded again from the mirror. -/
theorem checkLatch_of_bad {t : TileIx} {x : Tile} {k : Nat} {l : Latch} (hbad : (Latch.flip k l).parityOk = false) :
    checkLatch t x k l = { loadedLatch t x l.image with complete := l.complete } := by
  simp only [checkLatch, hbad, Bool.false_eq_true, if_false]

/-- A parity error in the active latches of a tile. -/
def activeError (t : TileIx) (k : Nat) (s : State) : State :=
  setTile t (fun x => { x with mesh := { x.mesh with
    parityErrs := x.mesh.parityErrs + 1, active := checkLatch t x k x.mesh.active } }) s

/-- A parity error in the shadow latches of a tile. -/
def shadowError (t : TileIx) (k : Nat) (s : State) : State :=
  setTile t (fun x => { x with mesh := { x.mesh with
    parityErrs := x.mesh.parityErrs + 1, shadow := checkLatch t x k x.mesh.shadow,
    parityRetries := x.mesh.parityRetries + 1 } }) s

theorem activeError_mesh (t : TileIx) (k : Nat) (s : State) : (activeError t k s).tiles[t].mesh = { s.tiles[t].mesh with
    parityErrs := s.tiles[t].mesh.parityErrs + 1, active := checkLatch t s.tiles[t] k s.tiles[t].mesh.active } :=
  congrArg Tile.mesh (setTile_self t _ s)

theorem shadowError_mesh (t : TileIx) (k : Nat) (s : State) : (shadowError t k s).tiles[t].mesh = { s.tiles[t].mesh with
    parityErrs := s.tiles[t].mesh.parityErrs + 1, shadow := checkLatch t s.tiles[t] k s.tiles[t].mesh.shadow,
    parityRetries := s.tiles[t].mesh.parityRetries + 1 } :=
  congrArg Tile.mesh (setTile_self t _ s)

section Parity
variable {t : TileIx} {k : Nat} {s : State} (hholds : holdsImage s.tiles[t] = true)
include hholds

theorem exec_latchParityError_active_idle (hk : k < s.tiles[t].mesh.active.sel.length) (hidle : s.tiles[t].job = none) :
    exec (.latchParityError t ⟨true, k⟩) s = .next (activeError t k s) := by
  refine (execLatchParityError.eq_1 t ⟨true, k⟩ s).trans ?_
  simp only [hholds, hidle, Nat.not_le.2 hk, Bool.not_true, Bool.false_eq_true, or_self, if_false, if_true, activeError]

theorem exec_latchParityError_active_job (hk : k < s.tiles[t].mesh.active.sel.length) {id : Nat}
    (hjob : s.tiles[t].job = some id) : exec (.latchParityError t ⟨true, k⟩) s =
      .next (setJob id (fun j => { j with stale := true, epoch := (outputPort s.tiles[t]).epoch }) (activeError t k s)) := by
  refine (execLatchParityError.eq_1 t ⟨true, k⟩ s).trans ?_
  simp only [hholds, hjob, Nat.not_le.2 hk, Bool.not_true, Bool.false_eq_true, or_self, if_false, if_true, activeError]

theorem exec_latchParityError_shadow_kept (hk : k < s.tiles[t].mesh.shadow.sel.length)
    (hkeeps : (decide (1 ≤ s.tiles[t].mesh.parityRetries) && holdsStaged s t) = false) :
    exec (.latchParityError t ⟨false, k⟩) s = .next (shadowError t k s) := by
  refine (execLatchParityError.eq_1 t ⟨false, k⟩ s).trans ?_
  simp only [hholds, hkeeps, Nat.not_le.2 hk, Bool.not_true, Bool.false_eq_true, or_self, if_false, shadowError]

theorem exec_latchParityError_shadow_faults (hk : k < s.tiles[t].mesh.shadow.sel.length)
    (hfaults : (decide (1 ≤ s.tiles[t].mesh.parityRetries) && holdsStaged s t) = true) :
    exec (.latchParityError t ⟨false, k⟩) s = .next (faultTile t (shadowError t k s)) := by
  refine (execLatchParityError.eq_1 t ⟨false, k⟩ s).trans ?_
  simp only [hholds, hfaults, Nat.not_le.2 hk, Bool.not_true, Bool.false_eq_true, or_self, if_false, if_true, shadowError]

end Parity

section Restore
variable {t : TileIx} {s : State} (hmaint : s.tiles[t].state = .maint) (hstep : s.tiles[t].cal.step = none)
  (hcurrent : s.tiles[t].heat.overcurrent = false)
include hmaint hstep hcurrent

/-- Nothing but the lock and a repair keeps a tile in MAINT that runs no step and has no shorted heater. -/
theorem maintRestore_goes : ¬ (s.tiles[t].state ≠ .maint ∨ s.tiles[t].cal.step.isSome = true ∨
    s.tiles[t].heat.overcurrent = true) := by
  rw [hmaint, hstep, hcurrent]
  simp only [ne_eq, not_true_eq_false, Option.isSome_none, Bool.false_eq_true, or_self, not_false_eq_true]

end Restore

/-- Settles O27: the actions of TILE_CONTROL, and the branches of the laser, transition, latch and restore events. -/
theorem tilesLasersAndLatches : Obligations.TilesLasersAndLatches := by
  unfold Obligations.TilesLasersAndLatches
  refine ⟨?control, ?acquired, ?lost, ?timeout, ?light, ?noStripe, ?stripe, ?transition, ?active, ?shadow, ?reload, ?restore⟩
  case control =>
    intro n f i s u h hu hrange t ht hmoving hcontrol
    refine ⟨fun hact hoff => ?powerUp, fun hact hdark => ?lightUp, fun hact hserves hsole => ?rest, fun hact hdark => ?powerOff⟩
    case powerUp =>
      refine exec_tileControl_accepted h hu hrange ht hmoving hcontrol (by omega) ?_
      simp only [hact, hoff, if_true, setTile_setTile]
    case lightUp =>
      refine exec_tileControl_accepted h hu hrange ht hmoving hcontrol (by omega) ?_
      simp only [hact, hdark, one_ne_zero, if_false, if_true]
    case rest =>
      refine exec_tileControl_accepted h hu hrange ht hmoving hcontrol (by omega) ?_
      simp only [hact, hserves, hsole, OfNat.ofNat_ne_zero, OfNat.ofNat_ne_one, Bool.not_false, Bool.and_self, if_false, if_true]
    case powerOff =>
      refine exec_tileControl_accepted h hu hrange ht hmoving hcontrol (by omega) ?_
      simp only [hact, hdark, OfNat.ofNat_ne_zero, OfNat.ofNat_ne_one, Nat.reduceEqDiff, if_false, if_true, setTile_setTile]
  case acquired =>
    intro t o s u hunlocked hstate hu
    have hlock := exec_stripeLockAcquired_unlocked hunlocked hstate hu
    refine ⟨fun hnear hwarm hsettled => ?ready, fun hnear hwarm => ?locked, fun hfar => ?far⟩
    case ready => rw [hlock, if_neg (Nat.not_lt.2 hnear), if_pos ⟨hwarm, hsettled⟩]
    case locked =>
      rw [hlock, if_neg (Nat.not_lt.2 hnear), if_neg]
      exact fun hboth => hwarm hboth.1
    case far => rw [hlock, if_pos hfar]
  case lost =>
    intro t o s hlocked
    refine ⟨fun hnear => ?near, fun hfar => ?far⟩
    case near =>
      refine (execStripeLockLost.eq_1 ⟨t, o⟩ s).trans ?_
      simp only [hlocked, hnear, Bool.not_true, Bool.false_eq_true, if_false, if_true]
    case far =>
      refine (execStripeLockLost.eq_1 ⟨t, o⟩ s).trans ?_
      simp only [hlocked, Nat.not_le.2 hfar, Bool.not_true, Bool.false_eq_true, if_false, setTile_setTile]
  case timeout =>
    intro t s hunlocked
    refine ⟨fun hstate => ?fails, fun hserves => ?waits⟩
    case fails =>
      refine (execStripeLockTimeout.eq_1 t s).trans ?_
      simp only [hunlocked, hstate, Bool.false_eq_true, if_false, if_true]
    case waits =>
      have hnot : ¬ (s.tiles[t].state = .warm ∨ s.tiles[t].state = .maint) := by
        rintro (h | h) <;> rw [inService, h] at hserves <;> exact absurd hserves (by decide)
      refine (execStripeLockTimeout.eq_1 t s).trans ?_
      simp only [hunlocked, hnot, hserves, Bool.false_eq_true, if_false, if_true]
  case light =>
    intro t s hstate
    refine (execLightLossTrip.eq_1 t s).trans (if_neg ?_)
    rcases hstate with h | h <;>
      simp only [h, decide_true, Bool.not_true, Bool.and_false, Bool.false_and, Bool.false_eq_true, not_false_eq_true]
  case noStripe =>
    intro t s hnone
    refine ⟨stripeFailed t s, ?faults, ?marked⟩
    case faults => simp only [failStripe, hnone, stripeFailed]
    case marked => simp only [stripeFailed, setTile_self, upd_self]
  case stripe =>
    intro t k s hnext
    refine ⟨?fails, rfl, fun hk => lightStripe_stripe .failed hk, rfl⟩
    case fails => simp only [failStripe, hnext]
  case transition =>
    intro t s u hu
    refine ⟨fun hmoving hoff => ?on, fun hmoving hready => ?dark, fun hmoving hdark => ?off⟩
    case on => rw [exec_tileTransitionDone_moving hu hmoving, if_pos ⟨rfl, hoff⟩]
    case dark =>
      rw [exec_tileTransitionDone_moving hu hmoving, hready, if_neg (by decide), if_pos (by decide)]
    case off =>
      rw [exec_tileTransitionDone_moving hu hmoving, hdark, if_neg (by decide), if_neg (by decide), if_pos (by decide)]
  case active =>
    intro t k s hholds hk
    refine ⟨activeError t k s, ?_, ?_, ?_, rfl, fun hbad => ?_, fun hnone => ?_, fun id hjob => ?_⟩
    · rw [activeError_mesh]
    · rw [activeError_mesh]
    · rw [activeError_mesh]
      exact checkLatch_image t _ k _
    · rw [activeError_mesh]
      exact checkLatch_of_bad hbad
    · exact exec_latchParityError_active_idle hholds hk hnone
    · exact exec_latchParityError_active_job hholds hk hjob
  case shadow =>
    intro t k s hholds hk
    refine ⟨shadowError t k s, ?_, ?_, ?_, ?_, rfl, fun hbad => ?_, fun hkeeps => ?_, fun hsecond hstaged => ?_⟩
    · rw [shadowError_mesh]
    · rw [shadowError_mesh]
    · rw [shadowError_mesh]
    · rw [shadowError_mesh]
      exact checkLatch_image t _ k _
    · rw [shadowError_mesh]
      exact checkLatch_of_bad hbad
    · refine exec_latchParityError_shadow_kept hholds hk ?_
      rcases hkeeps with h | h
      · rw [h]
        rfl
      · rw [h, Bool.and_false]
    · exact exec_latchParityError_shadow_faults hholds hk (by rw [hstaged, decide_eq_true hsecond]; rfl)
  case reload =>
    intro t s hserves hfree hrev
    refine (execSegmapReloadTimer.eq_1 t s).trans (if_pos ?_)
    rw [hserves, hfree, decide_eq_true hrev]
    rfl
  case restore =>
    intro t s hmaint hstep hcurrent
    have hgo := maintRestore_goes hmaint hstep hcurrent
    refine ⟨fun hlocked hrepair => ?ready, fun hlocked hrepair => ?repairs, fun hlocked htimedOut => ?fails⟩
    case ready =>
      refine (execMaintRestoreDone.eq_1 t s).trans ?_
      simp only [if_neg hgo, hlocked, hrepair, Bool.not_true, Bool.false_eq_true, if_false]
    case repairs =>
      refine (execMaintRestoreDone.eq_1 t s).trans ?_
      simp only [if_neg hgo, hlocked, hrepair, Bool.not_true, Bool.false_eq_true, if_false, if_true]
    case fails =>
      refine (execMaintRestoreDone.eq_1 t s).trans ?_
      simp only [if_neg hgo, hlocked, htimedOut, Bool.not_false, if_true]

end Sys2Proof.Proofs
end

/-! Calibration windows, monitor rounds, heater frames and faults, and characterisation units. -/
section
namespace Sys2Proof.Proofs
open Sys2Proof Sys2Proof.Machine

theorem event_tiles (code source data : W16) (s : State) : (event code source data s).tiles = s.tiles := by
  obtain ⟨_, _, _, _, _, _, h⟩ := event_frame code source data s
  rw [h]

theorem raiseAlarm_tiles (major : Bool) (code source : W16) (s : State) : (raiseAlarm major code source s).tiles = s.tiles := by
  obtain ⟨l, h⟩ := raiseAlarm_frame major code source s
  rw [h]

/-! A drift window opens by the residual and the state of its tile, which the correction of the zones leaves. -/

theorem freshWindow_driftZone (t : TileIx) (fit : List (Int × Int)) (s : State) (z : Fin 128) :
    freshWindow (driftZone t fit s z).tiles[t] = freshWindow s.tiles[t] := by
  unfold driftZone
  dsimp only
  split
  · rfl
  · split <;> simp only [event_tiles, setTile_self] <;> rfl

theorem freshWindow_driftZones (t : TileIx) (fit : List (Int × Int)) (zs : List (Fin 128)) (s : State) :
    freshWindow (zs.foldl (driftZone t fit) s).tiles[t] = freshWindow s.tiles[t] := by
  induction zs generalizing s with
  | nil => rfl
  | cons z zs ih => exact (ih _).trans (freshWindow_driftZone t fit s z)

theorem freshWindow_setTile (t : TileIx) {f : Tile → Tile} (hf : ∀ x, freshWindow (f x) = freshWindow x) (s : State) :
    freshWindow (setTile t f s).tiles[t] = freshWindow s.tiles[t] :=
  (congrArg freshWindow (setTile_self t f s)).trans (hf _)

theorem freshWindow_event (t : TileIx) (code source data : W16) (s : State) :
    freshWindow (event code source data s).tiles[t] = freshWindow s.tiles[t] := by
  simp only [event_tiles]

theorem freshWindow_moveZones (t : TileIx) (fit : List (Int × Int)) (s : State) :
    freshWindow (moveZones t fit s).tiles[t] = freshWindow s.tiles[t] := by
  have hmoved := freshWindow_driftZones t fit (List.finRange 128) s
  by_cases hsame : ((List.finRange 128).foldl (driftZone t fit) s).tiles[t].heat.zones = s.tiles[t].heat.zones
  · simp only [moveZones, if_pos hsame]
    exact hmoved
  · simp only [moveZones, if_neg hsame]
    exact (freshWindow_setTile t (by intro _; rfl) _).trans hmoved

theorem freshWindow_driftFitted (t : TileIx) (s : State) : freshWindow (driftFitted t s).tiles[t] = freshWindow s.tiles[t] := by
  by_cases hheld : 10 ≤ s.tiles[t].cal.driftBad ∧ charWaits s.tiles[t].cal = true
  · simp only [driftFitted, if_pos hheld]
  by_cases hfit : (Config.driftFit s.tiles[t].mesh.active.image s.tiles[t].cal.drift.xx s.tiles[t].cal.drift.yy
      s.tiles[t].cal.drift.yy1).1 = true
  · simp only [driftFitted, if_neg hheld, if_pos hfit]
    exact (freshWindow_moveZones t _ _).trans (freshWindow_setTile t (by intro _; rfl) s)
  by_cases htenth : s.tiles[t].cal.driftBad + 1 = 10
  · simp only [driftFitted, if_neg hheld, if_neg hfit, if_pos htenth]
    exact (freshWindow_event t _ _ _ _).trans (freshWindow_setTile t (by intro _; rfl) s)
  · simp only [driftFitted, if_neg hheld, if_neg hfit, if_neg htenth]
    exact (freshWindow_moveZones t _ _).trans (freshWindow_setTile t (by intro _; rfl) s)

/-- Forced heaters are at code 0 with nothing queued. -/
theorem zeroHeaters_chan (x : Tile) (c : Fin 136) : (zeroHeaters x).heat.chans[c].code = 0 ∧ (zeroHeaters x).heat.chans[c].queue = [] := by
  have hchan : (zeroHeaters x).heat.chans[c] = { x.heat.chans[c] with queue := [], code := 0 } := Vector.getElem_map _ _
  rw [hchan]
  exact ⟨rfl, rfl⟩

theorem exec_collectorWindowClose (t : TileIx) (w : WindowRest) (s : State) :
    exec (.collectorWindowClose t w) s = execCollectorWindowClose t w s := rfl

theorem exec_monitorRoundEnd (t : TileIx) (r : RoundConvs) (es : List (Fin 16 × Int)) (m : Nat) (s : State) :
    exec (.monitorRoundEnd t r es m) s = execMonitorRoundEnd t r es m s := rfl

theorem exec_heaterControlFault (t : TileIx) (cause : HeaterFault) (s : State) :
    exec (.heaterControlFault t cause) s = execHeaterControlFault t cause s := rfl

theorem exec_heaterOvercurrent (t : TileIx) (s : State) : exec (.heaterOvercurrent t) s = execHeaterOvercurrent t s := rfl

theorem exec_driftWindowClose (t : TileIx) (s : State) : exec (.driftWindowClose t) s = execDriftWindowClose t s := rfl

theorem exec_idleGapOpen (t : TileIx) (s : State) : exec (.idleGapOpen t) s = execIdleGapOpen t s := rfl

theorem exec_charUnitEnd (t : TileIx) (d : CharData) (late : Nat) (s : State) :
    exec (.charUnitEnd t d late) s = execCharUnitEnd t d late s := rfl

/-- The tile of a monitor round that ends. -/
def roundTile (cs : List (Fin 64 × Conversions)) (tia : List (Fin 128 × Conversions × Conversions)) (es : List (Fin 16 × Int))
    (m : Nat) (x : Tile) : Tile :=
  let conv := roundEnd cs tia x.conv
  let heat := loopRound es m x.conv.scanMask conv.scanMask x.heat
  { x with conv := { conv with monBad := if monitorBad conv x.conv.scanMask then x.conv.monBad + 1 else 0 }, heat := heat,
           cal := { x.cal with changed := x.cal.changed || decide (heat.c ≠ x.heat.c),
                               drift := { x.cal.drift with residBad := x.cal.drift.residBad || residHigh heat } } }

section Round
variable {t : TileIx} {cs : List (Fin 64 × Conversions)} {tia : List (Fin 128 × Conversions × Conversions)}
  {es : List (Fin 16 × Int)} {m : Nat} {s : State} (hon : s.tiles[t].state ≠ .off) (hscans : s.tiles[t].conv.scanIdle = false)
include hon hscans

/-- A round of a scanning tile: the second bad one in a row sends the tile to FAULTED. -/
theorem exec_monitorRoundEnd_scanning : exec (.monitorRoundEnd t ⟨cs, tia⟩ es m) s = .next
    (if 2 ≤ (if monitorBad (roundEnd cs tia s.tiles[t].conv) s.tiles[t].conv.scanMask then s.tiles[t].conv.monBad + 1 else 0) then
      faultTile t (finishTunes (setTile t (fun _ => roundTile cs tia es m s.tiles[t]) s))
     else finishTunes (setTile t (fun _ => roundTile cs tia es m s.tiles[t]) s)) := by
  simp only [exec_monitorRoundEnd, execMonitorRoundEnd, hon, hscans, Bool.false_eq_true, or_self, if_false, roundTile]

end Round

/-- The state of a tile whose heater supply has met an overcurrent. -/
def overcurrentState (t : TileIx) (s : State) : State :=
  raiseAlarm false alHeater (BitVec.ofNat 16 t.val) (event evHeaterFault (BitVec.ofNat 16 t.val) 0 (setTile t (fun x =>
    { zeroHeaters x with
      heat := { (zeroHeaters x).heat with overcurrent := true, overAt := some s.time.symbolCount },
      maintDue := decide (x.state ≠ .maint) && decide (x.state ≠ .faulted) }) s))

theorem overcurrentState_chan (t : TileIx) (s : State) (c : Fin 136) :
    (overcurrentState t s).tiles[t].heat.chans[c].code = 0 ∧ (overcurrentState t s).tiles[t].heat.chans[c].queue = [] := by
  rw [overcurrentState, raiseAlarm_tiles, event_tiles, setTile_self]
  exact zeroHeaters_chan s.tiles[t] c

section Unit
variable {t : TileIx} {k : StepKind} {n : Nat} (d : CharData) (late : Nat) {s : State}
  (hstep : s.tiles[t].cal.step = some (k, n))
include hstep

theorem exec_charUnitEnd_goesOn (hmore : 2 ≤ n) (hgap : gapOver s t = false) : exec (.charUnitEnd t d late) s =
    .next (noteStill t d (setTile t (fun x => { x with cal := { x.cal with
      step := some (k, n - 1), stepResults := s.tiles[t].cal.stepResults ++ unitResults t k d s.tiles[t],
      stepPoints := s.tiles[t].cal.stepPoints ++ unitPoints d } }) s)) := by
  have hnotLast : ¬ n ≤ 1 := by omega
  simp only [exec_charUnitEnd, execCharUnitEnd, hstep, hgap, if_neg hnotLast, Bool.false_eq_true, if_false]

theorem exec_charUnitEnd_overrun (hmore : 2 ≤ n) (hgap : gapOver s t = true) : exec (.charUnitEnd t d late) s =
    .next (setTile t (fun x => { abandonStep x with cal := overrun late (abandonStep x).cal }) s) := by
  have hnotLast : ¬ n ≤ 1 := by omega
  simp only [exec_charUnitEnd, execCharUnitEnd, hstep, hgap, if_neg hnotLast, if_true]

theorem exec_charUnitEnd_last {got : List (Nat × Nat × Byte)}
    (hgot : got = s.tiles[t].cal.stepResults ++ unitResults t k d s.tiles[t]) (hlast : n ≤ 1) (hgap : gapOver s t = false) :
    exec (.charUnitEnd t d late) s = .next (beginStep t (stepDone t k d (s.tiles[t].cal.stepPoints ++ unitPoints d)
      (withResults t [] s.tiles[t]) (withResults t got s.tiles[t]) (noteStill t d (setTile t (keepStep none got) s)))) := by
  subst hgot
  simp only [exec_charUnitEnd, execCharUnitEnd, hstep, hgap, if_pos hlast, Bool.false_eq_true, if_false]

end Unit

/-- Settles O28: the branches of each window, round, frame, fault, gap and unit. -/
theorem calibrationAndHeaters : Obligations.CalibrationAndHeaters := by
  unfold Obligations.CalibrationAndHeaters
  refine ⟨?window, ?round, ?frame, ?fault, ?overcurrent, ?drift, ?pass, ?gap, ?unit, ?starved, ?sealed⟩
  case window =>
    intro t rest ss s n c b y hn hc hb hy
    subst hn hb hy
    refine ⟨fun hserves hmaint hclips => ⟨_, rfl, fun hsound => ?usable, fun hsuspect => ?suspect⟩, fun hunusable => ?unusable⟩
    case usable =>
      subst hc
      simp only [exec_collectorWindowClose, execCollectorWindowClose, hserves, hmaint, hclips, hsound, Bool.true_or, Bool.not_false,
        decide_true, Bool.and_self, Bool.not_true, Bool.false_eq_true, if_false, Option.isNone_iff_eq_none]
    case suspect =>
      subst hc
      simp only [exec_collectorWindowClose, execCollectorWindowClose, hserves, hmaint, hclips, hsuspect, Bool.true_or,
        Bool.not_false, decide_true, Bool.and_self, Bool.not_true, Bool.false_eq_true, if_false, if_true,
        Option.isNone_iff_eq_none]
    case unusable =>
      subst hc
      refine ⟨?_, rfl, rfl, rfl⟩
      rcases hunusable with h | h
      · simp only [exec_collectorWindowClose, execCollectorWindowClose, Nat.not_lt.2 h, decide_false, Bool.and_false, Bool.not_false,
          if_true]
      · simp only [exec_collectorWindowClose, execCollectorWindowClose, h, Bool.not_true, Bool.and_false, Bool.false_and,
          Bool.not_false, if_true]
  case round =>
    intro t cs tia es m s c hon hscans hc
    subst hc
    have hround := exec_monitorRoundEnd_scanning (t := t) (cs := cs) (tia := tia) (es := es) (m := m) hon hscans
    refine ⟨roundTile cs tia es m s.tiles[t], rfl, rfl, rfl, rfl, fun hgood => ⟨if_neg (Bool.eq_false_iff.1 hgood), ?good⟩,
      fun hbad hfirst => ?first, fun hbad hagain => ?again⟩
    case good => rw [hround, if_neg (Bool.eq_false_iff.1 hgood), if_neg (by decide)]
    case first => rw [hround, if_pos hbad, hfirst, if_neg (by decide)]
    case again => rw [hround, if_pos hbad, if_pos (by omega)]
  case frame => exact fun t act ws s hon => ⟨_, rfl, if_neg hon⟩
  case fault =>
    intro t s hon
    refine ⟨?network, fun hstarved => ?underrun, fun hfaulted => ?faulted⟩
    case network => simp only [exec_heaterControlFault, execHeaterControlFault, if_neg hon]
    case underrun => simp only [exec_heaterControlFault, execHeaterControlFault, if_neg hon, if_pos hstarved]
    case faulted => simp only [exec_heaterControlFault, execHeaterControlFault, if_neg hon, if_pos hfaulted]
  case overcurrent =>
    intro t s u hon hu
    have hover : u = overcurrentState t s := hu
    subst hover
    refine ⟨fun c => overcurrentState_chan t s c, fun hnone => ?first, fun x hsome hsoon => ?again, fun x hsome hlate => ?late⟩
    case first =>
      simp only [exec_heaterOvercurrent, execHeaterOvercurrent, if_neg hon, hnone, Bool.false_eq_true, if_false, overcurrentState]
    case again =>
      simp only [exec_heaterOvercurrent, execHeaterOvercurrent, if_neg hon, hsome, hsoon, decide_true, if_true, overcurrentState]
    case late =>
      simp only [exec_heaterOvercurrent, execHeaterOvercurrent, if_neg hon, hsome, Nat.not_le.2 hlate, decide_false,
        Bool.false_eq_true, if_false, overcurrentState]
  case drift =>
    intro t s w hw hfull
    subst hw
    refine ⟨fun hserves hmixed hmaint hresid => ?usable, fun hunusable => ?unusable, fun vs hbad hfit => ?fitted⟩
    case usable =>
      simp only [exec_driftWindowClose, execDriftWindowClose, if_neg (Nat.not_lt.2 hfull), hserves, hmixed, hmaint, hresid,
        Bool.not_false, Bool.and_self, if_true]
      rw [setTile_congr (t := t) (s := driftFitted t s)]
      exact congrArg (fun w => { (driftFitted t s).tiles[t] with cal := { (driftFitted t s).tiles[t].cal with drift := w } })
        (freshWindow_driftFitted t s)
    case unusable =>
      have hnot : (inService s.tiles[t] && !s.tiles[t].cal.drift.mixed && !s.tiles[t].cal.drift.maint &&
          !s.tiles[t].cal.drift.residBad) = false := by
        rcases hunusable with h | h | h | h <;> simp only [h, Bool.not_true, Bool.and_false, Bool.false_and]
      simp only [exec_driftWindowClose, execDriftWindowClose, if_neg (Nat.not_lt.2 hfull), hnot, Bool.false_eq_true, if_false]
      rw [setTile_congr (t := t) (s := s)]
      rfl
    case fitted =>
      have hgo : ¬ (10 ≤ s.tiles[t].cal.driftBad ∧ charWaits s.tiles[t].cal = true) := fun h => Nat.not_le.2 hbad h.1
      simp only [driftFitted, if_neg hgo, hfit, if_true]
  case pass => exact fun t s hclosed => if_neg (Bool.eq_false_iff.1 hclosed)
  case gap =>
    intro t s hready hjob hnext hmoving hgap hplanned
    have hgo : ¬ (s.tiles[t].state ≠ .ready ∨ s.tiles[t].job.isSome = true ∨ s.tiles[t].next.isSome = true ∨
        s.tiles[t].moving.isSome = true ∨ s.tiles[t].cal.gap.isSome = true ∨ planned s t 5 = true) := by
      rw [hready, hjob, hnext, hmoving, hgap, hplanned]
      simp only [ne_eq, not_true_eq_false, Option.isSome_none, Bool.false_eq_true, or_self, not_false_eq_true]
    refine ⟨fun k hchange => ?change, fun u hchange husable hu hstep => ?step⟩
    case change => simp only [exec_idleGapOpen, execIdleGapOpen, if_neg hgo, hchange]
    case step =>
      have hsome : u.tiles[t].cal.step.isSome = true := Option.isSome_iff_ne_none.2 hstep
      subst hu
      simp only [exec_idleGapOpen, execIdleGapOpen, if_neg hgo, hchange, husable, hsome, Bool.not_true, Bool.false_eq_true,
        if_false, if_true]
  case unit =>
    intro t k n d late s got ps hstep hgot hps
    subst hps
    refine ⟨fun hmore hgap => ?goesOn, exec_charUnitEnd_overrun d late hstep, exec_charUnitEnd_last d late hstep hgot, rfl⟩
    case goesOn =>
      subst hgot
      exact exec_charUnitEnd_goesOn d late hstep hmore hgap
  case starved => exact fun t s hopen => if_pos hopen
  case sealed => exact fun t s hchanged => if_pos hchanged

end Sys2Proof.Proofs
end

/-! Power states, Woad's rules, liveness and thermal trip, and the service button. -/
section
namespace Sys2Proof.Proofs
open Sys2Proof Sys2Proof.Machine

/-- Settles O30: the branches of the two commands and of each event of Woad. -/
theorem woadSentinelAndPowerStates : Obligations.WoadSentinelAndPowerStates := by
  unfold Obligations.WoadSentinelAndPowerStates
  refine ⟨?powerState, ?deep, ?rule, ?ruleSet, ?ruleClear, ?parity, ?liveness, ?trip, ?loss, ?up, ?button, fun s => rfl⟩
  case powerState =>
    intro n f i s u h hu hle hdone hfree hnotDeep
    subst hu
    have hargs : allPass [chk 8 (decide (2 < f.desc.u8 8))] := allPass_one (decide_eq_false (by omega))
    have hready : ∀ {b : Bool}, b = false → ¬ ((dispatch n f s).tray.phase ≠ .done ∨
        (dispatch n f s).tray.powerCmd.isSome = true ∨ (dispatch n f s).tray.deepReq = true ∨
        (f.desc.u8 8 ≠ 0 ∧ b = true)) := by
      intro b hb
      simp only [hdone, hfree, hnotDeep, hb, ne_eq, not_true_eq_false, Option.isSome_none, Bool.false_eq_true, and_false, or_self,
        not_false_eq_true]
    have hready' (hzero : f.desc.u8 8 = 0) : ¬ ((dispatch n f s).tray.phase ≠ .done ∨
        (dispatch n f s).tray.powerCmd.isSome = true ∨ (dispatch n f s).tray.deepReq = true ∨
        (f.desc.u8 8 ≠ 0 ∧ streamOpen (dispatch n f s) = true)) := by
      simp only [hdone, hfree, hnotDeep, hzero, ne_eq, not_true_eq_false, Option.isSome_none, Bool.false_eq_true, false_and,
        or_self, not_false_eq_true]
    refine ⟨fun hzero hrun => ?already, fun hzero hnotRun => ?toRun, fun hone hclosed hnotIdle => ?toIdle,
      fun htwo hclosed => ?toDeep⟩
    case already =>
      refine (execPowerState.eq_1 n s).trans (serve_done h hargs ?_)
      simp only [powerStateBody, if_neg (hready' hzero), if_pos hzero, if_pos hrun]
    case toRun =>
      refine (execPowerState.eq_1 n s).trans (serve_running h hargs ?_)
      simp only [powerStateBody, if_neg (hready' hzero), if_pos hzero, if_neg hnotRun]
    case toIdle =>
      have hnotZero : ¬ f.desc.u8 8 = 0 := by omega
      refine (execPowerState.eq_1 n s).trans (serve_running h hargs ?_)
      simp only [powerStateBody, if_neg (hready hclosed), if_neg hnotZero, if_pos hone, if_neg hnotIdle]
    case toDeep =>
      have hnotZero : ¬ f.desc.u8 8 = 0 := by omega
      have hnotOne : ¬ f.desc.u8 8 = 1 := by omega
      refine (execPowerState.eq_1 n s).trans (serve_running h hargs ?_)
      simp only [powerStateBody, if_neg (hready hclosed), if_neg hnotZero, if_neg hnotOne]
  case deep =>
    intro s f hruns hreq hfree hhandover hcmd
    refine (execDeepEntry.eq_1 s).trans ?_
    simp only [hruns, hreq, hfree, hhandover, hcmd, Bool.not_true, Bool.or_self, Option.isSome_none, Bool.false_eq_true, if_false]
  case rule =>
    intro n f i s u h hu hle haddr k hk hread hgood
    have hrule : (⟨f.desc.u8 8 % 16, by omega⟩ : Fin 16) = k := Fin.ext (by simp only; omega)
    subst hu
    refine (execSentinelRule.eq_1 n s).trans (serve_done h (allPass_two (decide_eq_false (by omega)) haddr) ?_)
    simp only [sentinelRuleBody, hread, hgood, hrule, Bool.false_eq_true, if_false]
  case ruleSet =>
    intro k s hpowered hclear hactive
    refine (execWoadRuleSet.eq_1 k s).trans ?_
    simp only [hpowered, hclear, hactive, Bool.not_true, Bool.or_self, Bool.false_eq_true, if_false]
  case ruleClear =>
    intro k s hpowered hset hreleases
    refine (execWoadRuleClear.eq_1 k s).trans ?_
    simp only [hpowered, hset, hreleases, Bool.not_true, Bool.or_self, Bool.false_eq_true, if_false]
  case parity =>
    intro s hpowered
    have hgo : ¬ (!s.woad.powered) = true := by rw [hpowered]; exact Bool.false_ne_true
    refine ⟨_, if_neg hgo, ?factory, ?stored⟩
    case factory =>
      intro h
      cases hstored : storedRules s with
      | none => rfl
      | some q =>
        have hidle : firmwareRuns s = false := h.resolve_left (by rw [hstored]; exact Option.some_ne_none q)
        simp only [hidle, Bool.false_eq_true, if_false]
    case stored =>
      intro q hstored hruns
      simp only [hstored, hruns, if_true]
  case liveness => exact fun s hup => ⟨_, _, if_pos hup, rfl, rfl⟩
  case trip =>
    intro s hpowered hrounds hclear
    exact if_pos ⟨hpowered, hrounds, by rw [hclear]; rfl⟩
  case loss => exact fun s hoff => ⟨_, if_neg (not_not_intro hoff), rfl, rfl, rfl, rfl, rfl, rfl, rfl, rfl⟩
  case up => exact fun s hdown => if_neg (Bool.eq_false_iff.1 hdown)
  case button => exact fun s hoff hdeep => if_neg (not_or_intro hoff hdeep)

end Sys2Proof.Proofs
end

/-! Debug mode: the challenge and the unlock, accumulators, and raw vectors. -/
section
namespace Sys2Proof.Proofs
open Sys2Proof Sys2Proof.Machine

section Unlock
variable {n : RingIx} {f : Fetched} {i : CmdInfo} {s u : State} (h : Accepted opDebugUnlock n f i s) (hu : u = dispatch n f s)
  (haddr : badDaddr u.tray.variant (f.desc.u64 0x10) 1 = false) (hclosed : streamOpen u = false)
  (hread : readFails u (f.desc.u64 0x10) 96 = none)
include h hu haddr hclosed hread

theorem exec_debugUnlock_verified {c : List Byte} (hc : u.tray.challenge = some c)
    (hsig : Config.signatureOk Config.debugKey c (daddrRead u (f.desc.u64 0x10) 96) = true) :
    exec (.debugUnlock n) s = .next (complete n f (Reply.of codeOk)
      { u with tray := { u.tray with debugOn := true, challenge := none } }) := by
  subst hu
  refine (execDebugUnlock.eq_1 n s).trans (serve_done h (allPass_one haddr) ?_)
  simp only [debugUnlockBody, hclosed, hread, hc, hsig, Bool.false_eq_true, if_false, if_true]

/-- Without a challenge, or with a signature that does not hold for it, the try is counted. -/
theorem exec_debugUnlock_refused (hbad : ∀ c, u.tray.challenge = some c →
      Config.signatureOk Config.debugKey c (daddrRead u (f.desc.u64 0x10) 96) = false) :
    exec (.debugUnlock n) s = .next (complete n f (Reply.of codeDebugLocked)
      { u with tray := { u.tray with failedUnlocks := satInc8 u.tray.failedUnlocks } }) := by
  subst hu
  refine (execDebugUnlock.eq_1 n s).trans (serve_done h (allPass_one haddr) ?_)
  cases hc : (dispatch n f s).tray.challenge with
  | none => simp only [debugUnlockBody, hclosed, hread, hc, Bool.false_eq_true, if_false]
  | some c => simp only [debugUnlockBody, hclosed, hread, hc, hbad c hc, Bool.false_eq_true, if_false]

end Unlock

/-- The job of a VEC_RAW. -/
def rawJob (n : RingIx) (f : Fetched) (t : TileIx) : Job :=
  newJob n f (.vecRaw t) 4 { JobParams.none with
    inBase := BitVec.ofNat 64 (f.desc.u64 0x10), outBase := BitVec.ofNat 64 (f.desc.u64 0x18), nvec := f.desc.u32 0x0C }

/-- Settles O31: the bodies of the six commands. -/
theorem debugModeTakesEffect : Obligations.DebugModeTakesEffect := by
  unfold Obligations.DebugModeTakesEffect
  refine ⟨?challenge, fun s => rfl, ?unlock, ?lock, ?read, ?write, ?raw⟩
  case challenge =>
    intro n f i s u h hu haddr hwrite
    subst hu
    exact (execDebugChallenge.eq_1 n s).trans (serve_done h (allPass_one haddr) (writeThen_ok _ hwrite))
  case unlock =>
    intro n f i s u h hu haddr hclosed hread
    refine ⟨fun c hc => exec_debugUnlock_verified h hu haddr hclosed hread hc,
      fun c hc hsig => exec_debugUnlock_refused h hu haddr hclosed hread fun d hd => ?other,
      fun hnone => exec_debugUnlock_refused h hu haddr hclosed hread fun d hd => ?none⟩
    case other =>
      cases hc.symm.trans hd
      exact hsig
    case none => cases hnone.symm.trans hd
  case lock =>
    intro n f i s u h hu
    subst hu
    exact (execDebugLock.eq_1 n s).trans (serve_done h (allPass_nil.2 trivial) rfl)
  case read =>
    intro n f i s u h hu hargs j bs hjob hbs hwrite
    subst hu
    refine (execAccRead.eq_1 n s).trans (serve_done h hargs ?_)
    simp only [accReadBody, hjob]
    rw [← hbs]
    exact writeThen_ok _ hwrite
  case write =>
    intro n f i s u h hu hargs j bs hjob hread hbs
    subst hu hbs
    refine (execAccWrite.eq_1 n s).trans (serve_done h hargs ?_)
    simp only [accWriteBody, hjob, hread]
  case raw =>
    intro n f i s u h hu hle hin hout t ht hgroup hsound
    subst hu
    have htile : (⟨f.desc.u8 8 % 10, by omega⟩ : TileIx) = t := Fin.ext (by simp only; omega)
    have hgo : ¬ ((dispatch n f s).tiles[t].group.isNone = true ∨ (dispatch n f s).tiles[t].state = .faulted) :=
      not_or_intro (fun hnone => hgroup (Option.isNone_iff_eq_none.1 hnone)) hsound
    refine ⟨rawJob n f t, (execVecRaw.eq_1 n s).trans (serve_running h (allPass_three (decide_eq_false (by omega)) hin hout) ?body),
      rfl, rfl, rfl, rfl⟩
    case body => simp only [vecRawBody, htile, if_neg hgo, rawJob]

end Sys2Proof.Proofs
end

/-! The power cap and budget, the conditions of the feeds, the hold-up bank and the feed relays. -/
section
namespace Sys2Proof.Proofs
open Sys2Proof Sys2Proof.Machine

theorem raiseAlarm_power (major : Bool) (code source : W16) (s : State) : (raiseAlarm major code source s).power = s.power := by
  obtain ⟨l, h⟩ := raiseAlarm_frame major code source s
  rw [h]

theorem setMag_mag (k : Fin 2) (m : W16) (s : State) : (setMag k m s).power.feeds[k].mag = m :=
  congrArg Feed.mag (upd_self s.power.feeds k _)

theorem setMags_mag_left (a b : W16) (s : State) : (setMags a b s).power.feeds[(0 : Fin 2)].mag = a :=
  (congrArg Feed.mag (upd_other (setMag 0 a s).power.feeds 1 0 _ (by decide))).trans (setMag_mag 0 a s)

theorem setMags_mag_right (a b : W16) (s : State) : (setMags a b s).power.feeds[(1 : Fin 2)].mag = b :=
  setMag_mag 1 b (setMag 0 a s)

/-- An alarm that stands or is cleared by the measured power leaves the power supplies as they are. -/
theorem alarmFollows_power (p q : Prop) [Decidable p] [Decidable q] (code source : W16) (s : State) :
    (if p then raiseAlarm false code source s else if q then clearAlarm code source s else s).power = s.power := by
  split
  · exact raiseAlarm_power false code source s
  · split <;> rfl

theorem measurePower_pkgPower (m : Nat) (s : State) : (measurePower m s).power.pkgPower = BitVec.ofNat 16 m :=
  congrArg Power.pkgPower (alarmFollows_power _ _ alOverCap 0 _)

/-- The budget after the withdrawal: 100 ms above the cap withdraw all excess and P4 time. -/
def overCapCut (s : State) : State :=
  if 100 ≤ s.sched.overMs then { s with sched := { s.sched with excessCut := true, p4Cut := levelReserves s true } } else s

theorem overCapCut_power (s : State) : (overCapCut s).power = s.power := by
  unfold overCapCut
  split <;> rfl

theorem execFeedTransient_served {k : Fin 2} {m : W16} {s : State} (hhigh : 5700 < m.toNat) (hle : m.toNat ≤ 6000)
    (hserved : feedsServed s = true) :
    ∃ t, exec (.feedTransient k m) s = .next t ∧ t.power.transients = satInc s.power.transients ∧ t.power.feeds[k].mag = m ∧
      t.power.feeds[k].cond ≠ .normal := by
  refine ⟨_, if_pos ⟨hhigh, hle, hserved⟩, rfl, ?mag, ?cond⟩
  case mag =>
    simp only [upd_self]
    split <;> exact setMag_mag k m s
  case cond =>
    simp only [upd_self]
    split
    · exact FeedCond.noConfusion
    · assumption

/-- Settles O32: the two commands, the budget, and the branches of each condition of a feed, the bank and the relays. -/
theorem feedsCapAndBudget : Obligations.FeedsCapAndBudget := by
  unfold Obligations.FeedsCapAndBudget
  refine ⟨?cap, ?relayCycle, ?budget, ?low, ?lowRestore, ?capHost, ?lost, ?normal, ?high, ?reversed, ?measure, ?charger, ?full,
    fun s => rfl, ?pulse⟩
  case cap =>
    intro n f i s u h hu hlow hhigh hfloor
    subst hu
    refine (execPowerCap.eq_1 n s).trans (serve_done h (allPass_one (decide_eq_false (by omega))) ?_)
    simp only [powerCapBody, if_neg (Nat.not_lt.2 hfloor)]
  case relayCycle =>
    intro n f i s u h hu hkey hslot hstage
    subst hu
    refine (execRelayCycle.eq_1 n s).trans (serve_done h (allPass_one (decide_eq_false (not_not_intro hkey))) ?_)
    exact if_neg (not_or_intro (fun hnone => hslot (Option.isNone_iff_eq_none.1 hnone)) (not_not_intro hstage))
  case budget =>
    intro busy sep m s hruns
    refine ⟨_, _, rfl, rfl, ?_⟩
    generalize hu : measurePower m { s with sched := { s.sched with powerModel := modelPower busy sep } } = u
    generalize hv : withdraw (min (accountUnits u - skipUnits u - movedUnits u) (budgetUnits u sep))
      (decide (10 * u.power.capInForce.toNat < modelPower busy sep + u.sched.capExcess)) u = v
    have hpkg : v.power.pkgPower = BitVec.ofNat 16 m := by
      rw [← hv, ← measurePower_pkgPower m { s with sched := { s.sched with powerModel := modelPower busy sep } }, hu]
      rfl
    refine ⟨{ (draw (overCapCut v)).2 with
      power := { (overCapCut v).power with trayPower := (draw (overCapCut v)).1.setWidth 16 } }, ?next, ?pkg, ?kept, ?cut⟩
    case next =>
      refine (execPowerBudgetUpdate.eq_1 busy sep m s).trans ?_
      simp only [hruns, Bool.not_true, Bool.false_eq_true, if_false, hu, hv, overCapCut]
    case pkg =>
      change (overCapCut v).power.pkgPower = _
      rw [overCapCut_power, hpkg]
    case kept =>
      intro hle
      have hkept : overCapCut v = v := if_neg (Nat.not_le.2 hle)
      rw [hkept]
      rfl
    case cut =>
      intro hle
      have hcut : overCapCut v = _ := if_pos hle
      rw [hcut]
      exact ⟨rfl, rfl⟩
  case low =>
    intro a b s hserved ha1 ha2 hb1 hb2
    refine ⟨_, rfl, ?_⟩
    refine (execFeedLow.eq_1 a b s).trans ?_
    simp only [hserved, ha1, ha2, hb1, hb2, decide_true, Bool.and_self, Bool.not_true, Bool.or_self, Bool.false_eq_true, if_false]
  case lowRestore =>
    intro a b s hlow hgood
    refine ⟨_, _, _, rfl, rfl, rfl, ?_⟩
    have hback : (decide (4150 ≤ a.toNat) || decide (4150 ≤ b.toNat)) = true := by
      rwa [Bool.or_eq_true, decide_eq_true_iff, decide_eq_true_iff]
    refine (execFeedLowRestore.eq_1 a b s).trans ?_
    simp only [hlow, hback, Bool.not_true, Bool.or_self, Bool.false_eq_true, if_false]
  case capHost =>
    intro x hlow hshed
    simp only [applyCap, hlow, hshed, Bool.or_self, Bool.false_eq_true, if_false]
  case lost => exact fun k m s hserved hlow hother hconn => if_pos ⟨hserved, hlow, hother, hconn⟩
  case normal =>
    intro k m s hlow hhigh
    refine ⟨fun hcond => if_pos ⟨hlow, hhigh, hcond⟩, fun hcond hconn => ⟨_, rfl, if_pos ⟨hlow, hhigh, ?_, hcond⟩⟩⟩
    rw [hconn]
    rfl
  case high =>
    exact fun k m s hhigh => ⟨fun hpowered => ⟨_, rfl, if_pos ⟨hhigh, hpowered⟩⟩, execFeedTransient_served hhigh⟩
  case reversed => exact fun k s hserved => if_pos hserved
  case measure =>
    intro c s u hruns hu
    subst hu
    refine ⟨fun hweak => ?weak, fun hgood => ?good⟩
    case weak =>
      refine (execBankMeasure.eq_1 c s).trans ?_
      simp only [hruns, Bool.not_true, Bool.false_eq_true, if_false, if_pos hweak]
    case good =>
      refine (execBankMeasure.eq_1 c s).trans ?_
      simp only [hruns, Bool.not_true, Bool.false_eq_true, if_false, if_neg (Nat.not_lt.2 hgood)]
  case charger =>
    intro b s hlow hruns hstage hnot
    have hgo : b.toNat < 7000 ∧ firmwareRuns s = true ∧ s.power.stage = .none ∧ (!s.power.bankFail) = true :=
      ⟨hlow, hruns, hstage, by rw [hnot]; rfl⟩
    refine ⟨_, rfl, fun hstands => ?standing, fun hnone => ?alone⟩
    case standing =>
      refine (execChargerFail.eq_1 b s).trans ?_
      simp only [if_pos hgo, hstands, if_true]
    case alone =>
      refine (execChargerFail.eq_1 b s).trans ?_
      simp only [if_pos hgo, hnone, Bool.false_eq_true, if_false]
  case full => exact fun s hcharging => if_pos hcharging
  case pulse => exact fun s => ⟨_, rfl, rfl, setMags_mag_left 0 0 s, setMags_mag_right 0 0 s⟩

end Sys2Proof.Proofs
end

/-! The stages of a shutdown, the return to service and the restart. -/
section
namespace Sys2Proof.Proofs
open Sys2Proof Sys2Proof.Machine

/-! A suspended erase changes the flash alone, a program of the flash too. -/

theorem setPhase_frame (code : Bool) (p : FlashPhase) (s : State) : ∃ fl, setPhase code p s = { s with flash := fl } := by
  unfold setPhase
  split <;> exact ⟨_, rfl⟩

theorem setWorks_frame (code : Bool) (ws : List FlashWork) (s : State) : ∃ fl, setWorks code ws s = { s with flash := fl } := by
  unfold setWorks
  split <;> exact ⟨_, rfl⟩

theorem suspendErase_frame (code : Bool) (s : State) : ∃ fl, suspendErase code s = { s with flash := fl } := by
  by_cases herasing : phaseOf s code ≠ .erasing
  · exact ⟨s.flash, if_pos herasing⟩
  cases hworks : worksOf s code with
  | nil =>
    refine ⟨s.flash, ?_⟩
    simp only [suspendErase, if_neg herasing, hworks]
  | cons w ws =>
    simp only [suspendErase, if_neg herasing, hworks]
    generalize FlashWork.mk _ _ _ _ :: ws = vs
    obtain ⟨fl, hset⟩ := setWorks_frame code vs s
    rw [hset]
    exact setPhase_frame code .idle _

theorem flashPut_frame (arr : FlashArray) (a : Nat) (bs : List Byte) (s : State) :
    ∃ fl, flashPut arr a bs s = { s with flash := fl } := by
  unfold flashPut
  split
  · exact ⟨_, rfl⟩
  · split <;> exact ⟨_, rfl⟩
  · split <;> exact ⟨_, rfl⟩

theorem touchMain_frame (arr : FlashArray) (a : Nat) (s : State) : ∃ fl, touchMain arr a s = { s with flash := fl } := by
  unfold touchMain
  split
  · exact ⟨s.flash, rfl⟩
  · split <;> exact ⟨_, rfl⟩

theorem flashProgram_frame (arr : FlashArray) (a : Nat) (bs : List Byte) (s : State) :
    ∃ fl, flashProgram arr a bs s = { s with flash := fl } := by
  obtain ⟨fl, h⟩ := flashPut_frame arr a (List.zipWith (· &&& ·) (flashRead s arr a bs.length) bs) s
  rw [flashProgram, h]
  exact touchMain_frame arr a _

/-- Both controllers' erases suspended change the flash alone. -/
theorem suspendBoth_frame (s : State) : ∃ fl, suspendErase true (suspendErase false s) = { s with flash := fl } := by
  obtain ⟨fl, h⟩ := suspendErase_frame false s
  rw [h]
  exact suspendErase_frame true _

theorem withdrawTakeover_power (cause : W16) (s : State) : (withdrawTakeover cause s).power = s.power := by
  unfold withdrawTakeover
  dsimp only
  split <;> rfl

theorem withdrawTakeover_alarms (cause : W16) (s : State) : (withdrawTakeover cause s).tray.alarms = s.tray.alarms := by
  unfold withdrawTakeover
  dsimp only
  split <;> rfl

/-- The state in which S2 is entered, before the park actions of core 3. -/
def s2Entered (reason : Reason) (magA magB bank : W16) (s : State) : State :=
  let s1 := dropHold (suspendErase true (suspendErase false (setMags magA magB s)))
  let p := if s.power.stage = .none then
      { s1.power with stageSC := Vector.replicate 5 0, feedAt := Vector.replicate 4 0 } else s1.power
  { s1 with power := { p with
    stage := .s2, stageSC := put p.stageSC 2 s1.time.symbolCount, reason := reason, bank := bank, charging := false,
    feedAt := put (put p.feedAt 2 magA) 3 magB, bankAt := put p.bankAt 0 bank, s2done := false, s3done := false } }

theorem s2Entered_cores (reason : Reason) (magA magB bank : W16) (s : State) :
    (s2Entered reason magA magB bank s).cores = s.cores := by
  obtain ⟨fl, h⟩ := suspendBoth_frame (setMags magA magB s)
  simp only [s2Entered, h]
  rfl

/-- With core 3 not running nothing is parked. -/
theorem enterS2_unparked {reason : Reason} {magA magB bank : W16} {s : State} (hcore : s.cores[(3 : CoreIx)].state ≠ .running) :
    enterS2 reason magA magB bank s = s2Entered reason magA magB bank s := by
  have hstopped : coreRuns (s2Entered reason magA magB bank s) 3 = false := by
    simp only [coreRuns, s2Entered_cores, hcore, decide_false]
  refine if_neg ?_
  rw [Bool.and_eq_true]
  exact fun h => Bool.false_ne_true (hstopped.symm.trans h.1)

/-- The state in which S3 begins: completions not yet written are lost. -/
def s3Begun (s : State) : State :=
  { s with
    power := { s.power with stage := .s3, stageSC := put s.power.stageSC 3 s.time.symbolCount },
    rings := s.rings.map (fun r => { r with waiting := [] }) }

/-- The state after the shutdown record, where it may be programmed. -/
def s3Recorded (s : State) : State :=
  if writeTempOk s false 0 && !s.flash.archDead && coreRuns s 3 then
    let t := flashProgram .archive (shutdownPage s) (shutdownRecord (s3Begun s)) (s3Begun s)
    { t with free := t.free + 3, flash := { t.flash with shutPtr := (s.flash.shutPtr + 1) % 256 },
             power := { t.power with shutdownSeq := t.power.shutdownSeq + 1 } }
  else s3Begun s

theorem s3Recorded_written {s : State} (hwrites : (writeTempOk s false 0 && !s.flash.archDead && coreRuns s 3) = true) :
    ∃ fl, s3Recorded s = { s3Begun s with
      flash := fl, free := s.free + 3, power := { (s3Begun s).power with shutdownSeq := s.power.shutdownSeq + 1 } } := by
  obtain ⟨fl, h⟩ := flashProgram_frame .archive (shutdownPage s) (shutdownRecord (s3Begun s)) (s3Begun s)
  simp only [s3Recorded, if_pos hwrites, h]
  exact ⟨_, rfl⟩

theorem s3Recorded_keeps (s : State) : (s3Recorded s).rings = (s3Begun s).rings ∧ (s3Recorded s).power.stage = .s3 := by
  by_cases hwrites : (writeTempOk s false 0 && !s.flash.archDead && coreRuns s 3) = true
  · obtain ⟨fl, h⟩ := s3Recorded_written hwrites
    rw [h]
    exact ⟨rfl, rfl⟩
  · have hbegun : s3Recorded s = s3Begun s := if_neg hwrites
    rw [hbegun]
    exact ⟨rfl, rfl⟩

theorem exec_stageS3Commit_due {s : State} (hstage : s.power.stage = .s2) (hdone : s.power.s2done = true) :
    exec .stageS3Commit s = .next { s3Recorded s with power := { (s3Recorded s).power with s3done := coreRuns s 3 } } :=
  if_neg (not_or_intro (not_not_intro hstage) (by rw [hdone]; exact Bool.false_ne_true))

/-- Settles O33: the branches of each stage, return and restart. -/
theorem shutdownStagesAndRestarts : Obligations.ShutdownStagesAndRestarts := by
  unfold Obligations.ShutdownStagesAndRestarts
  refine ⟨?warn, ?shed, ?service, ?park, ?enter, ?commit, ?off, ?forced, ?rails, ?restart, ?fault⟩
  case warn =>
    intro a b s hstage hpowered hdeep ha hb
    exact ⟨_, if_pos ⟨hstage, hpowered, hdeep, ha, hb⟩, rfl, put_self _ (0 : Fin 5) _,
      (put_other _ (1 : Fin 4) 0 b (by decide)).trans (put_self _ (0 : Fin 4) a), put_self _ (1 : Fin 4) b, rfl⟩
  case shed =>
    intro s hstage
    have hgo : ¬ s.power.stage ≠ .s0 := not_not_intro hstage
    refine ⟨_, rfl, fun hstands hpowered => ?standing, fun hnone => ?alone⟩
    case standing =>
      refine (execStageS1Shed.eq_1 s).trans ?_
      simp only [if_neg hgo, hstands, hpowered, Bool.and_self, if_true]
    case alone =>
      refine (execStageS1Shed.eq_1 s).trans ?_
      simp only [if_neg hgo, hnone, Bool.false_and, Bool.false_eq_true, if_false]
  case service =>
    intro k m s hstage hgood
    refine ⟨_, _, if_pos ⟨hstage, hgood⟩, rfl, ?stage, ?alarms⟩
    case stage => rw [withdrawTakeover_power]; rfl
    case alarms =>
      intro x hx hcode
      rw [withdrawTakeover_alarms] at hx
      exact (clearAlarm_gone alStage 0 _ x hx).resolve_left (not_not_intro hcode)
  case park =>
    intro a b v s hpowered hdeep
    have hstages (h : s.power.stage = .none ∨ s.power.stage = .s0 ∨ s.power.stage = .s1) :
        (!poweredOn s || decide (s.tray.powerState = .deep) || !(decide (s.power.stage = .none) || decide (s.power.stage = .s0) ||
          decide (s.power.stage = .s1))) = false := by
      rcases h with h | h | h <;> simp [hpowered, hdeep, h]
    refine ⟨fun hstage ha hb hv => ?bank, fun hstage hv => ?loss⟩
    case bank =>
      refine (execStageS2Park.eq_1 a b v s).trans ?_
      simp only [hstages hstage, ha, hb, hv, decide_true, Bool.and_self, Bool.false_eq_true, if_false, if_true]
    case loss =>
      refine (execStageS2Park.eq_1 a b v s).trans ?_
      rw [if_neg (Bool.eq_false_iff.1 (hstages (.inr (.inr hstage)))), if_neg, if_pos hstage]
      rw [decide_eq_false (Nat.not_lt.2 hv), Bool.and_false]
      exact Bool.false_ne_true
  case enter =>
    intro r a b v s hcore
    refine ⟨_, rfl, ?_⟩
    rw [enterS2_unparked hcore]
    exact ⟨rfl, rfl, rfl, rfl⟩
  case commit =>
    intro s hstage hdone
    obtain ⟨hrings, hs3⟩ := s3Recorded_keeps s
    refine ⟨_, exec_stageS3Commit_due hstage hdone, hs3, rfl, fun n => ?waiting, fun htemp hlive hcore => ?counted⟩
    case waiting =>
      change (s3Recorded s).rings[n].waiting = []
      rw [hrings]
      exact congrArg Ring.waiting (Vector.getElem_map _ _)
    case counted =>
      obtain ⟨fl, h⟩ := s3Recorded_written (s := s) (by rw [htemp, hlive, hcore]; rfl)
      rw [h]
  case off => exact fun a b v s hstage hdone => if_pos ⟨hstage, hdone⟩
  case forced =>
    intro a b v s hreport
    refine if_pos (hreport.imp (fun h => ⟨h.1, ?_⟩) (fun h => ⟨h.1, ?_⟩)) <;> (rw [h.2]; rfl)
  case rails =>
    intro a b v s
    refine ⟨rfl, rfl, rfl, rfl, rfl, rfl, rfl, fun hpresent => ?kept, fun habsent => ?lost⟩
    case kept => simp only [enterS4, hpresent, railsDown, if_true]; rfl
    case lost => simp only [enterS4, habsent, railsDown, Bool.false_eq_true, if_false]
  case restart =>
    intro k m s x hoff hgood hlatch hwait
    have hgo : ¬ (s.tray.powerState ≠ .off ∨ m.toNat < 4000 ∨ (s.woad.tripLatch = true ∧ s.woad.powered = true)) := by
      rintro (h | h | ⟨h, -⟩)
      · exact h hoff
      · omega
      · exact Bool.false_ne_true (hlatch.symm.trans h)
    refine (execRestartQualify.eq_1 k m s).trans ?_
    simp only [if_neg hgo, hwait]
  case fault =>
    intro s hpowered
    exact ⟨_, if_neg (by rw [hpowered]; exact Bool.false_ne_true), rfl, rfl, rfl, rfl, rfl, rfl⟩

end Sys2Proof.Proofs
end

/-! The flash controllers' events and the storage commands. -/
section
namespace Sys2Proof.Proofs
open Sys2Proof Sys2Proof.Machine

theorem exec_flashProgramDone (c same : Bool) (s : State) : exec (.flashProgramDone c same) s = execFlashProgramDone c same s := rfl

theorem exec_flashEraseDone (c : Bool) (s : State) : exec (.flashEraseDone c) s = execFlashEraseDone c s := rfl

theorem exec_flashMarginReadDone (c pass : Bool) (s : State) :
    exec (.flashMarginReadDone c pass) s = execFlashMarginReadDone c pass s := rfl

section Accepted
variable {n : RingIx} {f : Fetched} {i : CmdInfo} {s u : State} (hu : u = dispatch n f s)
  (haddr : badDaddr u.tray.variant (f.desc.u64 0x10) 1 = false)
include hu haddr

/-- An image for the bank not in use that verifies and is no older than the counter is taken. -/
theorem exec_fwUpdate_verified (h : Accepted opFwUpdate n f i s) (hbank : f.desc.u8 8 ≤ 1) (hsome : 0 < f.desc.u32 0x18)
    (hfits : f.desc.u32 0x18 ≤ 4194304) {bank : Bool} {b : List Byte} (hb : bank = decide (f.desc.u8 8 = 1))
    (hfree : bankFetched u bank = false) (hread : readFails u (f.desc.u64 0x10) (f.desc.u32 0x18) = none)
    (hbytes : b = daddrRead u (f.desc.u64 0x10) (f.desc.u32 0x18)) (hok : imageOk 0x57465A51 Config.firmwareKey b = true)
    (hnew : fwCounter u ≤ field b 8 2) {w : State}
    (hw : w = if u.flash.selectedBank = bank then selectBank u.flash.runningBank u else u) :
    exec (.fwUpdate n) s = .next (enqueue true (.hostCommand n f.id)
      (erasesFrom (mainArray bank) 0 b.length ++ pagesFrom (mainArray bank) 0 b)
      { w with flash := { w.flash with fwUpdate := some { bank := bank, length := b.length, ring := n, id := f.id } } }) := by
  subst hu hb hbytes hw
  have hsize : ¬ (f.desc.u32 0x18 = 0 ∨ 4194304 < f.desc.u32 0x18) := by omega
  refine (execFwUpdate.eq_1 n s).trans
    (serve_running h (allPass_three (decide_eq_false (by omega)) haddr (decide_eq_false hsize)) ?_)
  simp only [fwUpdateBody, hfree, hread, hok, decide_eq_false (Nat.not_lt.2 hnew), Bool.not_true, Bool.or_self, Bool.false_eq_true,
    if_false]

theorem exec_archiveRead_readable (h : Accepted opArchiveRead n f i s) (hstart : f.desc.u32 8 < 0x4000000)
    (hlen : f.desc.u32 0x0C ≤ 0x1000000) (hend : f.desc.u32 8 + f.desc.u32 0x0C ≤ 0x4000000) (hlive : u.flash.archDead = false)
    (hwhole : halfErasedIn u .archive (f.desc.u32 8) (f.desc.u32 0x0C) = false) {bs : List Byte}
    (hbs : bs = flashRead u .archive (f.desc.u32 8) (f.desc.u32 0x0C)) (hwrite : writeFails u (f.desc.u64 0x10) bs.length = none) :
    exec (.archiveRead n) s = .next (complete n f (Reply.of codeOk) (daddrWrite (f.desc.u64 0x10) bs u)) := by
  subst hu hbs
  have hrange : ¬ (0x1000000 < f.desc.u32 0x0C ∨ 0x4000000 < f.desc.u32 8 + f.desc.u32 0x0C) := by omega
  refine (execArchiveRead.eq_1 n s).trans
    (serve_done h (allPass_three (decide_eq_false (by omega)) (decide_eq_false hrange) haddr) ?_)
  simp only [archiveReadBody, hlive, hwhole, Bool.false_eq_true, if_false]
  exact writeThen_ok _ hwrite

theorem exec_extEnroll_unenrolled (h : Accepted opExtEnroll n f i s) (hnone : keyEnrolled u = false)
    (hread : readFails u (f.desc.u64 0x10) 97 = none) {k : List Byte} (hk : k = daddrRead u (f.desc.u64 0x10) 97) :
    exec (.extEnroll n) s = .next (enqueue true (.hostCommand n f.id)
      [.page .code0 (infoBase + 0x4040) k, .page .code0 (infoBase + 0x40A4) (leBytes 4 (crc32c k).toNat)] u) := by
  subst hu hk
  refine (execExtEnroll.eq_1 n s).trans (serve_running h (allPass_one haddr) ?_)
  simp only [extEnrollBody, hnone, hread, Bool.false_eq_true, if_false]

end Accepted

/-- Settles O34: the phases of a controller's work, the queues, and the bodies of the four commands. -/
theorem flashControllersAndStorageCommands : Obligations.FlashControllersAndStorageCommands := by
  unfold Obligations.FlashControllersAndStorageCommands
  refine ⟨?program, ?erase, fun s => rfl, fun s => rfl, fun s hlocked => if_pos hlocked, fun s => ⟨_, _, rfl, rfl⟩, ?update,
    ?activate, ?read, ?enroll⟩
  case program =>
    intro c s w ws arr bs a r hworks hphase hsteps
    simp only [exec_flashProgramDone, execFlashProgramDone, hworks, hphase, hsteps, if_true]
  case erase =>
    intro c s u w ws arr o unit a k q r hworks hsteps ho hu
    subst ho hu
    refine ⟨fun hphase => ?intent, fun hphase => ?ends, fun hphase horigin => ?passes, fun hphase hfirst => ?fails⟩
    case intent => simp only [exec_flashProgramDone, execFlashProgramDone, hworks, hphase, hsteps, if_true]
    case ends => simp only [exec_flashEraseDone, execFlashEraseDone, hworks, hphase, hsteps]
    case passes =>
      simp only [exec_flashMarginReadDone, execFlashMarginReadDone, hworks, hphase, hsteps, if_neg horigin, if_true]
    case fails =>
      simp only [exec_flashMarginReadDone, execFlashMarginReadDone, hworks, hphase, hsteps, hfirst, Bool.false_eq_true, if_false,
        if_true]
  case update =>
    intro n f i s u h hu hbank haddr hsome hfits bank b hb hfree hread hbytes hok hnew
    exact ⟨_, rfl, exec_fwUpdate_verified hu haddr h hbank hsome hfits hb hfree hread hbytes hok hnew rfl⟩
  case activate =>
    intro n f i s u h hu hbank
    subst hu
    have hargs (hwhen : f.desc.u8 9 ≤ 1) : allPass [chk 8 (decide (1 < f.desc.u8 8)), chk 9 (decide (1 < f.desc.u8 9))] :=
      allPass_two (decide_eq_false (by omega)) (decide_eq_false (by omega))
    refine ⟨fun hlater => (execFwActivate.eq_1 n s).trans (serve_done h (hargs (by omega)) ?_),
      fun hnow => ⟨_, _, (execFwActivate.eq_1 n s).trans (serve_done h (hargs (by omega)) ?_), rfl, rfl⟩⟩
    · simp only [fwActivateBody, hlater, zero_ne_one, if_false]
    · simp only [fwActivateBody, hnow, if_true]
  case read =>
    intro n f i s u h hu hstart hlen hend haddr hlive hwhole bs hbs hwrite
    exact exec_archiveRead_readable hu haddr h hstart hlen hend hlive hwhole hbs hwrite
  case enroll =>
    intro n f i s u h hu haddr hnone hread k hk
    exact exec_extEnroll_unenrolled hu haddr h hnone hread hk

end Sys2Proof.Proofs
end

/-! The housekeeping round, its thresholds and fans, and the bias of the lit stripes. -/
section
namespace Sys2Proof.Proofs
open Sys2Proof Sys2Proof.Machine

/-! Completions, storage events and works of the flash controllers leave the tiles' lasers as they are. -/

theorem PostFrame.tiles {s t : State} (h : PostFrame s t) : t.tiles = s.tiles := by
  obtain ⟨_, _, _, _, rfl⟩ := h
  rfl

theorem postWhere_tiles (c : Prop) [Decidable c] (n : RingIx) (e : Entry) (g : Ring → Ring) (s : State) :
    (if c then postEntry n e (setRing n g s) else s).tiles = s.tiles := by
  split
  · exact (postEntry_frame n e _).tiles
  · rfl

theorem finish_tiles (n : RingIx) (f : Fetched) (r : Reply) (s : State) : (finish n f r s).tiles = s.tiles := by
  unfold finish
  split
  · rfl
  · exact postWhere_tiles _ n _ _ _

theorem complete_tiles (n : RingIx) (f : Fetched) (r : Reply) (s : State) : (complete n f r s).tiles = s.tiles := by
  unfold complete
  split
  · exact finish_tiles n f r s
  · rfl

theorem reportHost_tiles (n : RingIx) (id : Nat) (code : W16) (s : State) : (reportHost n id code s).tiles = s.tiles := by
  unfold reportHost
  split
  · exact complete_tiles n _ _ s
  · exact event_tiles _ _ _ _

theorem setPhase_tiles (code : Bool) (p : FlashPhase) (s : State) : (setPhase code p s).tiles = s.tiles := by
  obtain ⟨fl, h⟩ := setPhase_frame code p s
  rw [h]

theorem setWorks_tiles (code : Bool) (ws : List FlashWork) (s : State) : (setWorks code ws s).tiles = s.tiles := by
  obtain ⟨fl, h⟩ := setWorks_frame code ws s
  rw [h]

theorem refuseTemp_tiles (w : FlashWork) (s : State) : (refuseTemp w s).tiles = s.tiles := by
  unfold refuseTemp
  dsimp only
  split
  · rfl
  · rfl
  · split
    · exact reportHost_tiles _ _ _ _
    · rfl
  · rfl

theorem verifyBank_tiles (u : FwUpdate) (s : State) : (verifyBank u s).tiles = s.tiles := by
  unfold verifyBank
  dsimp only
  split <;> exact reportHost_tiles _ _ _ _

/-- Every tile's laser in `t` is that in `s`. -/
def KeepsLasers (s t : State) : Prop := ∀ k : TileIx, t.tiles[k].laser = s.tiles[k].laser

theorem KeepsLasers.of_tiles {s t : State} (h : t.tiles = s.tiles) : KeepsLasers s t := fun k => by rw [h]

theorem KeepsLasers.trans {s t u : State} (h : KeepsLasers s t) (h' : KeepsLasers t u) : KeepsLasers s u :=
  fun k => (h' k).trans (h k)

theorem setTile_lasers (t : TileIx) (f : Tile → Tile) (s : State) (hf : ∀ x, (f x).laser = x.laser) :
    KeepsLasers s (setTile t f s) := by
  intro k
  by_cases hk : k = t
  · subst hk
    rw [setTile_self, hf]
  · rw [setTile_other t k f s hk]

theorem endWork_lasers (w : FlashWork) (s : State) : KeepsLasers s (endWork w s) := by
  unfold endWork
  split
  · split
    · split
      · exact .of_tiles (verifyBank_tiles _ _)
      · exact .of_tiles (reportHost_tiles _ _ _ _)
    · exact .of_tiles (reportHost_tiles _ _ _ _)
  · exact .of_tiles rfl
  · exact setTile_lasers _ _ _ fun _ => rfl
  · exact setTile_lasers _ _ _ fun _ => rfl
  · exact .of_tiles rfl

theorem pump_lasers (code : Bool) (fuel : Nat) (s : State) : KeepsLasers s (pump code fuel s) := by
  induction fuel generalizing s with
  | zero => exact .of_tiles rfl
  | succ fuel ih =>
    have hset (ws : List FlashWork) : KeepsLasers s (setWorks code ws s) := .of_tiles (setWorks_tiles code ws s)
    have hphase (p : FlashPhase) (t : State) : KeepsLasers t (setPhase code p t) := .of_tiles (setPhase_tiles code p t)
    have hgo (ws : List FlashWork) : KeepsLasers s (pump code fuel (setWorks code ws s)) := (hset ws).trans (ih _)
    have hrefuse (w : FlashWork) (ws : List FlashWork) :
        KeepsLasers s (pump code fuel (refuseTemp w (setWorks code ws s))) :=
      ((hset ws).trans (.of_tiles (refuseTemp_tiles w _))).trans (ih _)
    rw [pump]
    by_cases hbusy : phaseOf s code ≠ .idle
    · rw [if_pos hbusy]
      exact .of_tiles rfl
    rw [if_neg hbusy]
    cases worksOf s code with
    | nil => exact .of_tiles rfl
    | cons w0 ws =>
      dsimp only
      split
      · exact hgo _
      split
      case h_1 => exact ((hset _).trans (endWork_lasers _ _)).trans (ih _)
      case h_2 =>
        split
        · exact .of_tiles rfl
        split
        · exact hrefuse _ _
        split
        · exact hgo _
        · exact (hset _).trans (hphase _ _)
      case h_3 =>
        split
        · exact .of_tiles rfl
        split
        · exact (hset _).trans (hphase _ _)
        split
        · exact hrefuse _ _
        split
        · exact hgo _
        · exact (hset _).trans (hphase _ _)
      case h_4 =>
        split
        · exact .of_tiles rfl
        · exact hphase _ _
      case h_5 => exact hphase _ _

theorem enqueue_lasers (code : Bool) (origin : WriteOrigin) (steps : List FlashStep) (s : State) :
    KeepsLasers s (enqueue code origin steps s) := by
  unfold enqueue
  split
  · exact .of_tiles rfl
  · exact (KeepsLasers.of_tiles (setWorks_tiles _ _ _)).trans (pump_lasers _ _ _)

theorem sealRecord_lasers (kind : Nat) (t : TileIx) (s : State) : KeepsLasers s (sealRecord kind t s) := by
  unfold sealRecord
  refine KeepsLasers.trans ?_ (enqueue_lasers _ _ _ _)
  exact setTile_lasers t _ s (by intro _; rfl)

/-! The bias of a lit stripe. -/

/-- The stripe and the state of the laser that a round of the bias leaves. -/
theorem biasRound_laser {t : TileIx} {s : State} (hserves : inService s.tiles[t] = true) (hlocked : s.tiles[t].laser.locked = true)
    {l : Fin 4} {need : Nat} (hl : l = s.tiles[t].laser.lit)
    (hneed : need = Config.laserBias t s.tiles[t].laser.t0Set.toNat (monCode s.tiles[t] 0) s.tiles[t].laser.stripes[l].bias.toNat) :
    (biasRound s t).tiles[t].laser = { s.tiles[t].laser with
      stripes := upd s.tiles[t].laser.stripes l (fun p => { p with
        bias := BitVec.ofNat 16 (min 4000 (max 640 need)),
        state := if (decide (3680 < need) && decide (s.tiles[t].laser.stripes[l].state = .lit)) = true then .worn else p.state }),
      changeDue := s.tiles[t].laser.changeDue ||
        (decide (3680 < need) && decide (s.tiles[t].laser.stripes[l].state = .lit)) } := by
  subst hl hneed
  have hgo : ¬ ((!inService s.tiles[t]) = true ∨ (!s.tiles[t].laser.locked) = true) := by
    rw [hserves, hlocked]
    exact not_or_intro Bool.false_ne_true Bool.false_ne_true
  simp only [biasRound, if_neg hgo]
  split
  · rw [sealRecord_lasers, event_tiles, setTile_self]
  · rw [setTile_self]

/-- Settles O35: the round's order, the bias of the lit stripe, the losses, the thresholds and the fans. -/
theorem housekeepingRoundsAndFans : Obligations.HousekeepingRoundsAndFans := by
  unfold Obligations.HousekeepingRoundsAndFans
  refine ⟨?round, ?bias, ?loss, fun rs s => ⟨rfl, rfl, rfl, rfl, rfl⟩, ?threshold, ?fan, fun t s hskip hhot => if_pos ⟨hskip, hhot⟩⟩
  case round =>
    intro rs ok s u hup hrails hu
    subst hu
    refine ⟨fun hidle => ?idle, fun hruns => ⟨_, _, _, rfl, rfl, rfl, fun hstopped => ?stopped, fun hcore => ?core⟩⟩
    case idle =>
      refine (execHousekeepingRoundEnd.eq_1 rs ok s).trans ?_
      simp only [hup, hrails, hidle, Bool.not_true, Bool.not_false, Bool.or_self, Bool.false_eq_true, if_false, if_true]
    case stopped =>
      refine (execHousekeepingRoundEnd.eq_1 rs ok s).trans ?_
      simp only [hup, hrails, hruns, hstopped, Bool.not_true, Bool.or_self, Bool.false_eq_true, if_false]
    case core =>
      refine (execHousekeepingRoundEnd.eq_1 rs ok s).trans ?_
      simp only [hup, hrails, hruns, hcore, Bool.not_true, Bool.or_self, Bool.false_eq_true, if_false, if_true]
  case bias =>
    intro t s hserves hlocked
    refine ⟨_, _, rfl, rfl, ?_⟩
    rw [biasRound_laser hserves hlocked rfl rfl]
    generalize Config.laserBias t _ _ _ = need
    refine ⟨?bias, fun hworn hlit => ?worn⟩
    case bias =>
      simp only [upd_self, BitVec.toNat_ofNat]
      exact Nat.mod_eq_of_lt (by omega)
    case worn => simp only [upd_self, hworn, hlit, decide_true, Bool.and_self, if_true, Bool.or_true, and_self]
  case loss =>
    intro t g s
    have hfatal (row : Nat) (hrow : row ≠ 1) (hfault : row = 2 ∨ row = 3 ∨ (row = 8 ∧ s.tiles[t].conv.testDacBad = true)) :
        lossLocated t row g s = faultTile t (event evLossLocated (BitVec.ofNat 16 t.val) (BitVec.ofNat 16 row) s) :=
      (if_neg hrow).trans (if_pos hfault)
    refine ⟨?change, hfatal 2 (by decide) (.inl rfl), hfatal 3 (by decide) (.inr (.inl rfl)),
      fun hbad => hfatal 8 (by decide) (.inr (.inr ⟨rfl, hbad⟩))⟩
    case change =>
      have hplanned (row : Nat) (hrow : row = 1) : lossLocated t row g s = setTile t (fun x => { x with laser := { x.laser with changeDue := true } })
          (event evLossLocated (BitVec.ofNat 16 t.val) (BitVec.ofNat 16 row) s) :=
        if_pos hrow
      rw [hplanned 1 rfl, setTile_self]
  case threshold =>
    intro hi lo v w hlt
    refine ⟨fun hv hw => ?asserts, fun hv hw => ?clears, fun hw => ?holdsOff, fun hw => ?holdsOn⟩
    case asserts => simp [stepThreshold, hv, hw]
    case clears => simp [stepThreshold, hv, hw]
    case holdsOff =>
      by_cases hv : hi ≤ v <;> simp [stepThreshold, hv, Int.not_le.2 hw]
    case holdsOn =>
      by_cases hv : v ≤ lo <;> simp [stepThreshold, hv, Int.not_le.2 hw]
  case fan =>
    intro k s u hruns hgood hu
    subst hu
    refine ⟨fun hone => ?one, fun htwo => ?two⟩
    case one =>
      refine (execFanFailure.eq_1 k s).trans ?_
      simp only [hruns, hgood, Bool.not_true, Bool.or_self, Bool.false_eq_true, if_false, if_neg (Nat.not_le.2 hone)]
    case two =>
      refine (execFanFailure.eq_1 k s).trans ?_
      simp only [hruns, hgood, Bool.not_true, Bool.or_self, Bool.false_eq_true, if_false, if_pos htwo]

end Sys2Proof.Proofs
end

/-! Cold and warm starts, and the phases of a start. -/
section
namespace Sys2Proof.Proofs
open Sys2Proof Sys2Proof.Machine

/-- A phase of a start is in force only while the tray has power and is not in DEEP. -/
theorem inPhase_iff {p : Phase} {s : State} :
    inPhase p s = true ↔ s.tray.phase = p ∧ s.tray.powerState ≠ .off ∧ s.tray.powerState ≠ .deep := by
  simp only [inPhase, Bool.and_eq_true, decide_eq_true_iff, and_assoc]

theorem waitsFor'_eq_false {s : State} {ok : Tile → Bool}
    (h : ∀ t : TileIx, s.tiles[t].state = .warm → s.tray.lateTiles.getLsbD t.val = false → ok s.tiles[t] = true) :
    waitsFor' s ok = false := by
  refine List.any_eq_false.2 fun t _ hwaits => ?_
  simp only [Bool.and_eq_true, decide_eq_true_iff, Bool.not_eq_true'] at hwaits
  obtain ⟨⟨hwarm, htimely⟩, hnot⟩ := hwaits
  exact Bool.false_ne_true (hnot.symm.trans (h t hwarm htimely))

/-- Settles O36: the branches of each start and phase. -/
theorem startsAndTheirPhases : Obligations.StartsAndTheirPhases := by
  unfold Obligations.StartsAndTheirPhases
  refine ⟨?cold, fun s hdue hoff hdeep => if_pos ⟨hdue, hoff, hdeep⟩, ?supply, ?rom, ?verify, ?failed, fun s h => if_pos h,
    ?training, fun s h => ⟨if_pos h, rfl⟩, ?lock, ?selfcheck, fun s => rfl, ?settle, ?late, ?held⟩
  case cold =>
    intro s
    refine ⟨fun hdeep => if_pos hdeep, fun x hoff hlatch hwait hfeed => ?feed⟩
    case feed =>
      have hnotDeep : s.tray.powerState ≠ .deep := by rw [hoff]; exact PowerState.noConfusion
      refine (if_neg hnotDeep).trans (if_pos ⟨hoff, ?_, ?_, ?_, hfeed⟩)
      · rw [hlatch]; rfl
      · rw [hwait]; exact OffWait.noConfusion
      · rw [hwait]; exact OffWait.noConfusion
  case supply => exact fun s hdeep => ⟨_, if_neg (not_not_intro hdeep), rfl, rfl, rfl, rfl, rfl, rfl⟩
  case rom =>
    intro s hphase hlock hclock
    refine if_pos ?_
    rwa [hphase, hlock, Bool.and_self, Bool.true_and, Bool.or_eq_true]
  case verify =>
    intro s hphase
    refine ⟨if_pos hphase, fun hnone => ⟨if_pos ?_, ?_⟩, fun hselected => ?_⟩
    · rw [hphase, hnone]; rfl
    · simp only [verifyEffect, hnone]
    · simp only [verifyEffect, hselected, ne_eq, not_true_eq_false, decide_false, Bool.false_eq_true, if_false]
  case failed =>
    intro s
    have hmem := raiseAlarm_mem true alStartFailed 0 { s with
      host := { s.host with cfgValid := true }, tray := { s.tray with phase := .failed }, rings := ringsInit,
      twin := { s.twin with hbRunning := false } }
    obtain ⟨l, hframe⟩ := raiseAlarm_frame true alStartFailed 0 { s with
      host := { s.host with cfgValid := true }, tray := { s.tray with phase := .failed }, rings := ringsInit,
      twin := { s.twin with hbRunning := false } }
    refine ⟨?_, ?_, ?_, _, hmem, rfl, rfl⟩ <;> rw [failStart, hframe]
  case training =>
    intro s h
    refine if_pos ?_
    simpa only [Bool.or_eq_true, or_assoc] using h
  case lock =>
    intro s hphase
    refine ⟨fun hlocked => if_pos ?_, fun t hwarm hunlocked => if_pos ?_⟩
    · rw [hphase, waitsFor'_eq_false hlocked]; rfl
    · rw [hphase, hwarm, hunlocked]; rfl
  case selfcheck =>
    intro fs s hphase hready
    refine if_pos ?_
    rw [hphase, hready]; rfl
  case settle =>
    intro s hphase
    refine ⟨if_pos hphase, fun t hsettles => if_pos ?_, fun hlate => if_pos ?_⟩
    · rw [hphase, hsettles]; rfl
    · have hnone : waitsFor' s (fun _ => false) = false :=
        waitsFor'_eq_false fun t hwarm htimely => absurd (htimely.symm.trans (hlate t hwarm)) Bool.false_ne_true
      rw [hphase, hnone]; rfl
  case late =>
    intro s hdone hfailed hoff hdeep
    exact if_neg (not_or_intro hdone (not_or_intro hfailed (not_or_intro hoff hdeep)))
  case held =>
    exact fun s hheld => ⟨fun hruns hlocked => if_pos ⟨hruns, hheld, hlocked⟩, fun hdone => if_pos ⟨hdone, hheld⟩⟩

end Sys2Proof.Proofs
end

/-! Roles of the pair, heartbeats, custody and the relay cycle. -/
section
namespace Sys2Proof.Proofs
open Sys2Proof Sys2Proof.Machine

section Role
variable {n : RingIx} {f : Fetched} {i : CmdInfo} {s u t : State} (hcode : f.desc.u8 8 ≤ 3)
  (htimeout : f.desc.u8 8 = 0 ∨ badHbTimeout u = false)
include hcode htimeout

theorem twinRole_args : allPass [chk 8 (decide (3 < f.desc.u8 8)), chk 8 (decide (1 ≤ f.desc.u8 8) && badHbTimeout u)] := by
  refine allPass_two (decide_eq_false (by omega)) ?_
  rcases htimeout with hzero | hgood
  · rw [hzero]; rfl
  · rw [hgood, Bool.and_false]

variable (h : Accepted opTwinRole n f i s) (hu : u = dispatch n f s)
include h hu

theorem exec_twinRole_done {r : Reply} (hbody : twinRoleBody f u = .done t r) :
    exec (.twinRole n) s = .next (complete n f r t) := by
  have hargs := twinRole_args hcode htimeout
  subst hu
  exact (execTwinRole.eq_1 n s).trans (serve_done h hargs hbody)

theorem exec_twinRole_running (hbody : twinRoleBody f u = .running t) : exec (.twinRole n) s = .next t := by
  have hargs := twinRole_args hcode htimeout
  subst hu
  exact (execTwinRole.eq_1 n s).trans (serve_running h hargs hbody)

end Role

/-- Settles O37: the two commands, and the branches of heartbeats, custody and the relay cycle. -/
theorem pairRolesHeartbeatsAndCustody : Obligations.PairRolesHeartbeatsAndCustody := by
  unfold Obligations.PairRolesHeartbeatsAndCustody
  refine ⟨?role, ?handover, ?send, fun s => rfl, ?receive, ?timeout, ?none, fun q s => rfl, ?holder, ?grant, ?alone, ?fault,
    ?transfer, ?repeated, ?hold, ?relay⟩
  case role =>
    intro n f i s u h hu hcode htimeout hdone hfree hmatch hslot
    have hstarted : ¬ (u.tray.phase ≠ .done ∨ twinCmdRuns u = true) :=
      not_or_intro (not_not_intro hdone) (Bool.eq_false_iff.1 hfree)
    refine ⟨fun hzero hpaired => ?leave, fun hsame => ?same, fun halone hheard => ⟨_, rfl, fun hone htwin hgrant => ?active,
      fun htwo htwin hgrant hrun hidle => ⟨_, rfl, ?standby⟩, fun hthree => ⟨_, rfl, ?share⟩⟩⟩
    case leave =>
      have hr : Role.ofCode (f.desc.u8 8) = .alone := by rw [hzero]; rfl
      refine exec_twinRole_done hcode htimeout h hu ?_
      simp only [twinRoleBody, hr, if_neg hstarted, if_neg (Ne.symm hpaired), ne_eq, not_true_eq_false, false_and, if_false,
        if_true]
    case same =>
      refine exec_twinRole_done hcode htimeout h hu ?_
      simp only [twinRoleBody, hsame, hmatch, hslot, if_neg hstarted, Bool.or_self, Bool.false_eq_true, and_false, if_false,
        if_true]
    case active =>
      have hr : Role.ofCode (f.desc.u8 8) = .active := by rw [hone]; rfl
      have hfits : ¬ (¬ 0 = hbByte u 0 ∧ ¬ 2 = hbByte u 0) := by omega
      refine exec_twinRole_done hcode htimeout h hu ?_
      simp only [twinRoleBody, hr, hmatch, hslot, if_neg hstarted, if_neg hfits, halone, hheard, hgrant, reduceCtorEq, ne_eq,
        not_true_eq_false, Bool.or_self, Bool.not_true, Bool.false_eq_true, or_self, and_false, if_false]
    case standby =>
      have hr : Role.ofCode (f.desc.u8 8) = .standby := by rw [htwo]; rfl
      refine exec_twinRole_running hcode htimeout h hu ?_
      simp only [twinRoleBody, hr, hmatch, hslot, if_neg hstarted, halone, hheard, htwin, hgrant, hrun, hidle, reduceCtorEq, ne_eq,
        not_true_eq_false, Bool.or_self, Bool.not_true, Bool.false_eq_true, or_self, and_false, if_false]
    case share =>
      have hr : Role.ofCode (f.desc.u8 8) = .share := by rw [hthree]; rfl
      refine exec_twinRole_running hcode htimeout h hu ?_
      simp only [twinRoleBody, hr, hmatch, hslot, if_neg hstarted, halone, hheard, reduceCtorEq, ne_eq, not_true_eq_false,
        Bool.or_self, Bool.not_true, Bool.false_eq_true, or_self, and_false, if_false]
  case handover =>
    intro n f i s u h hu hfree hnone hactive hsynced hlink hgrant
    subst hu
    refine (execHandover.eq_1 n s).trans (serve_running h (allPass_nil.2 trivial) ?_)
    simp only [handoverBody, hfree, hnone, hactive, hsynced, hlink, hgrant, Option.isSome_none, ne_eq, not_true_eq_false,
      Bool.not_true, Bool.false_eq_true, or_self, if_false]
  case send =>
    intro s hup hruns
    have hgo : ¬ (!madderUp s || !s.twin.hbRunning) = true := by
      rw [hup, hruns]
      exact Bool.false_ne_true
    have hsent (hcore : coreRuns s 3 = true) : ¬ (!coreRuns s 3) = true := by
      rw [hcore]
      exact Bool.false_ne_true
    refine ⟨fun hstopped => (if_neg hgo).trans (if_pos ?_), fun hcore => ⟨_, rfl,
      fun hmay => (if_neg hgo).trans ((if_neg (hsent hcore)).trans (congrArg Host.Outcome.next (if_pos hmay))),
      fun hmay => (if_neg hgo).trans ((if_neg (hsent hcore)).trans (congrArg Host.Outcome.next (if_neg ?_)))⟩⟩
    · rw [hstopped]; rfl
    · exact Bool.eq_false_iff.1 hmay
  case receive =>
    intro bs s u hup hlink hlen hu
    subst hu
    refine ⟨fun hruns hcore hslot => ?works, fun hidle => ?kept⟩
    case works =>
      have hshelf : s.tray.shelfSlot.isNone = false := by
        rw [Bool.eq_false_iff, ne_eq, Option.isNone_iff_eq_none]
        exact hslot
      have hruns' : (firmwareRuns s && coreRuns s 3) = true := by rw [hruns, hcore]; rfl
      refine (execHeartbeatRx.eq_1 bs s).trans ?_
      simp only [hup, hlink, hlen, hruns', hshelf, ne_eq, not_true_eq_false, decide_false, Bool.not_true, Bool.or_self,
        Bool.false_eq_true, if_false]
    case kept =>
      refine (execHeartbeatRx.eq_1 bs s).trans ?_
      simp only [hup, hlink, hlen, hidle, ne_eq, not_true_eq_false, decide_false, Bool.not_true, Bool.or_self,
        Bool.false_eq_true, if_false, Bool.false_and, Bool.not_false, if_true]
  case timeout =>
    intro s hup htimer hnone
    have hgo : ¬ (!madderUp s || !s.twin.timerOn || s.twin.handover.isSome) = true := by
      rw [hup, htimer, hnone]
      exact Bool.false_ne_true
    refine ⟨fun hreplay hfirst => (if_neg hgo).trans (if_pos ⟨hreplay, by rw [hfirst]; rfl⟩),
      fun hquiet => ⟨_, (if_neg hgo).trans (if_neg fun h => ?_), rfl, rfl, fun hstandby hgrant => ?_, fun hactive => ?_⟩⟩
    · exact Bool.false_ne_true (hquiet.symm.trans h.1)
    · simp only [hstandby, hgrant, decide_true, Bool.true_or, Bool.not_false, Bool.and_self, Bool.or_true]
    · simp only [hactive, reduceCtorEq, decide_false, Bool.or_self, Bool.false_and, Bool.or_false]
  case none =>
    intro s hruns hpaired
    refine ⟨_, if_neg ?_, rfl, rfl⟩
    rw [hruns, decide_eq_false hpaired]
    exact Bool.false_ne_true
  case holder =>
    intro q b s hslot
    refine ⟨fun hours => ?ours, fun htwins => ?twins⟩
    case ours => simp only [nextHolder, hslot, hours, Bool.not_eq_true']
    case twins => simp only [nextHolder, hslot, htwins, Bool.not_eq_true']
  case grant =>
    exact fun s => ⟨rfl, fun hours => congrArg (fun h => Host.Outcome.next (custodyTo h s)) (if_pos hours)⟩
  case alone =>
    intro s hruns hrole hopen hgrant hfault hheard
    refine if_pos ⟨hruns, hrole, hopen, ?_, ?_, ?_⟩
    · rw [hgrant]; rfl
    · rw [hfault]; rfl
    · rw [hheard]; rfl
  case fault =>
    intro s hruns hbad
    refine ⟨_, _, if_neg ?_, rfl, rfl⟩
    rw [hruns, hbad]
    exact Bool.false_ne_true
  case transfer =>
    intro h s hsome
    by_cases hreleases : h.releasing = true
    · refine ⟨dropHold { s with twin := { s.twin with handover := some { h with passed := true } } }, ?_, rfl, fun _ => rfl,
        fun hnot => absurd hreleases (Bool.eq_false_iff.1 hnot), rfl, rfl⟩
      refine (execTransferPoint.eq_1 s).trans ?_
      simp only [hsome, if_pos hreleases]
    · refine ⟨{ s with twin := { s.twin with handover := some { h with passed := true }, req := true } }, ?_, rfl,
        fun hyes => absurd hyes hreleases, fun _ => rfl, rfl, rfl⟩
      refine (execTransferPoint.eq_1 s).trans ?_
      simp only [hsome, if_neg hreleases]
  case repeated => exact fun s hrefused hcauses hrole => if_pos ⟨hrefused, hcauses, hrole⟩
  case hold =>
    refine fun b s => ⟨_, rfl, rfl, fun hhigh => ?high, fun hlow hseized hdown => ?low⟩
    case high => simp only [hhigh, Bool.not_true, Bool.false_and]
    case low => simp only [hlow, hseized, hdown, decide_true, Bool.or_true, Bool.not_false, Bool.and_self]
  case relay =>
    intro s hruns hdelay hnonzero hstage hslot
    have hshelf : s.tray.shelfSlot.isNone = false := by
      rw [Bool.eq_false_iff, ne_eq, Option.isNone_iff_eq_none]
      exact hslot
    have hgo : ¬ (!firmwareRuns s || !s.twin.delayRunning || decide (s.twin.relayDelay = 0) ||
        decide (s.power.stage ≠ .none) || s.tray.shelfSlot.isNone) = true := by
      rw [hruns, hdelay, decide_eq_false hnonzero, hstage, hshelf]
      exact Bool.false_ne_true
    exact ⟨fun hfew => (if_neg hgo).trans (if_neg (Nat.not_le.2 hfew)), fun hmany => (if_neg hgo).trans (if_pos hmany)⟩

end Sys2Proof.Proofs
end

/-! The Seliviuk link: acknowledgement, replay, training, and its frames. -/
section
namespace Sys2Proof.Proofs
open Sys2Proof Sys2Proof.Machine

section Frame
variable {h : RxHead} {s : State} (f : State → State)

/-- A frame that passes its check and is of a used type has its effect. -/
theorem takeLinkFrame_taken (hlink : linkCarries s = true) (hok : h.checkOk = true) (hlow : h.type ≠ 0)
    (hhigh : h.type.toNat ≤ 7) : takeLinkFrame h f s = f s := by
  have htype : ¬ (h.type = 0 ∨ 7 < h.type.toNat) := not_or_intro hlow (Nat.not_lt.2 hhigh)
  simp only [takeLinkFrame, hlink, hok, if_neg htype, Bool.not_true, Bool.false_eq_true, if_false]

theorem takeLinkFrame_badCheck (hlink : linkCarries s = true) (hbad : h.checkOk = false) :
    takeLinkFrame h f s = sendFrame 0x02#8 2#8 [] s := by
  simp only [takeLinkFrame, hlink, hbad, Bool.not_true, Bool.not_false, Bool.false_eq_true, if_false, if_true]

theorem takeLinkFrame_reserved (hlink : linkCarries s = true) (hok : h.checkOk = true) (htype : h.type = 0 ∨ 7 < h.type.toNat) :
    takeLinkFrame h f s = { s with twin := { s.twin with badFrames := satAdd s.twin.badFrames 1 } } := by
  simp only [takeLinkFrame, hlink, hok, if_pos htype, Bool.not_true, Bool.false_eq_true, if_false]

end Frame

/-- The last four bytes of a frame are its CHECK, the bytes before them its body. -/
theorem frameBytes_split (f : Frame) :
    (frameBytes f).take ((frameBytes f).length - 4) = frameBody f.type f.flags f.seq f.ackSeq f.payload ∧
    (frameBytes f).drop ((frameBytes f).length - 4) = leBytes 4 f.check.toNat := by
  have hlen : (frameBytes f).length - 4 = (frameBody f.type f.flags f.seq f.ackSeq f.payload).length := by
    rw [frameBytes, List.length_append, leBytes_length, Nat.add_sub_cancel]
  rw [hlen]
  exact ⟨List.take_left, List.drop_left⟩

theorem exec_linkTrainingEnd (l : Fin 3) (s : State) : exec (.linkTrainingEnd l) s = execLinkTrainingEnd l s := rfl

/-- Settles O38: the branches of each frame, of training and of what the sink applies. -/
theorem theLinkAndItsFrames : Obligations.TheLinkAndItsFrames := by
  unfold Obligations.TheLinkAndItsFrames
  refine ⟨?ack, ?refused, fun s hlink => if_pos hlink, ?training, fun s hdown => if_neg (not_not_intro hdown), ?timeout, ?frames,
    ?receive, ?check, ?sink⟩
  case ack =>
    exact fun h s hlink hok hlow hhigh => ⟨releaseAcked h.ackSeq s, rfl,
      congrArg Host.Outcome.next (takeLinkFrame_taken _ hlink hok hlow hhigh),
      congrArg Host.Outcome.next (takeLinkFrame_taken _ hlink hok hlow hhigh)⟩
  case refused =>
    exact fun h s hlink => ⟨fun hbad => congrArg Host.Outcome.next (takeLinkFrame_badCheck _ hlink hbad),
      fun hok htype => congrArg Host.Outcome.next (takeLinkFrame_reserved _ hlink hok htype)⟩
  case training =>
    intro s htraining
    have hgo : ¬ s.twin.linkState ≠ .training := not_not_intro htraining
    refine ⟨_, rfl, ?one, ?two, fun hthird => ?down, fun hfew => ?again⟩
    case one => exact (if_neg hgo).trans (if_neg (by decide))
    case two => exact (if_neg hgo).trans (if_neg (by decide))
    case down =>
      exact (if_neg hgo).trans ((if_pos rfl).trans (congrArg Host.Outcome.next (if_pos (Nat.succ_le_succ hthird))))
    case again =>
      exact (if_neg hgo).trans ((if_pos rfl).trans (congrArg Host.Outcome.next (if_neg (by simp only; omega))))
  case timeout =>
    intro s hwaits hpaired
    refine ⟨_, rfl, (execMirrorAckTimeout.eq_1 s).trans ?_⟩
    simp only [if_neg hwaits, if_neg hpaired]
  case frames =>
    exact fun q s htakes => ⟨fun m => if_pos htakes, fun a bs => if_pos htakes, fun x => if_pos htakes, fun x => if_pos htakes,
      fun x => if_pos htakes⟩
  case receive =>
    intro h f s u hlink hok hlow hhigh hu
    subst hu
    have htaken : receive h f s = takeSequenced h f (releaseAcked h.ackSeq s) := takeLinkFrame_taken _ hlink hok hlow hhigh
    rw [htaken]
    exact ⟨fun hnext => if_pos hnext, fun hother hseen => (if_neg hother).trans (if_pos hseen),
      fun hother hgap => (if_neg hother).trans (if_neg (Bool.eq_false_iff.1 hgap))⟩
  case check =>
    intro ty fl q a bs f hf
    obtain ⟨hbody, hcheck⟩ := frameBytes_split f
    rw [hbody, hcheck, hf]
    rfl
  case sink =>
    intro s hsink
    have hgo : ¬ (!isSink s) = true := by
      rw [hsink]
      exact Bool.false_ne_true
    refine ⟨fun d es => ⟨_, rfl, if_neg hgo⟩, fun a bs hsome hanswers => if_pos ?copy, fun x hnone => ?handover,
      fun q => if_neg hgo⟩
    case copy => rw [hsink, hanswers, decide_eq_true hsome]; rfl
    case handover =>
      have htaken : applyHandover x s = { s with twin := { s.twin with
          handover := some { at_ := x, releasing := false, passed := false, cmd := none }, timerOn := false } } :=
        if_pos (by rw [hsink, hnone]; rfl)
      rw [htaken]
      exact ⟨_, rfl, rfl, rfl, rfl⟩

end Sys2Proof.Proofs
end
